-- ==== Sys2Proof/Word.lean ====
section
/-! DEFINITION. The word types of the fabric's boundary, registers and storage (R9, R30, R35, R42, R115). -/

namespace Sys2Proof

/-- One byte. -/
abbrev Byte := BitVec 8
/-- A register, 32 bits (R9). -/
abbrev Reg := BitVec 32
/-- A 64-bit word of a packet, a bank entry or a Hayloft word. -/
abbrev Word := BitVec 64
/-- A port beat of 256 bytes (R115). -/
abbrev Beat := BitVec 2048
/-- The check bits of a beat, 8 for each 64-bit word (R35). -/
abbrev BeatChk := BitVec 256
/-- A memory line or flit payload of 128 bytes (R42). -/
abbrev Line := BitVec 1024
/-- A command tag, 0-511 (R13). -/
abbrev Tag := BitVec 9
/-- A transaction identifier (R44). -/
abbrev Txid := BitVec 12

/-- A command packet: eight little-endian 64-bit words, word 0 the header (R305). -/
structure Packet where
  w0 : Word
  w1 : Word
  w2 : Word
  w3 : Word
  w4 : Word
  w5 : Word
  w6 : Word
  w7 : Word
  deriving DecidableEq, Repr, Inhabited

/-- A finite map from numbers, sparse: what is not listed holds the map's default. -/
abbrev Tbl (α : Type) := List (Nat × α)

end Sys2Proof
end

