-- ==== Sys2Proof/Config.lean ====
section
/-! DEFINITION. The values the spec leaves open, as constants with no body: nothing in Lean can prove what they are.
Each is applied to `State.freeCtr`, a counter that a step reads and advances, so that two uses are unrelated. -/

namespace Sys2Proof.Config

/-- A byte the spec gives no value: the contents of a bank group that wakes from OFF (R110). Log 1. -/
opaque freeByte : Nat → BitVec 8

/-- A choice the spec leaves unspecified among the outcomes it lists: a victim row (R287), which row's bytes remain
(R227, R230), the order in which sums combine (R188). The model takes the choice modulo the number of outcomes. Log 1. -/
opaque freePick : Nat → Nat

end Sys2Proof.Config
end

