-- ==== Sys2Proof/Syntax.lean ====
section
/-! DEFINITION. The commands of the block: one constructor per row of the opcode table, with the row's operands.
A row that is an opcode of a packet names the tag of the command in flight; its fields are in the packet (R316-R323).
A row that is a boundary input carries what the partner drives; a row that is one of the block's own steps carries only
what picks the unit. -/

namespace Sys2Proof

/-- One of the two channels of each direction of the network endpoint (R42). -/
inductive Chan where
  | c0 | c1
  deriving DecidableEq, Repr, Inhabited

/-- The stations outside the fabric: V0, V1 and SF, stations 3 to 5 (R35). -/
inductive ExtStn where
  | v0 | v1 | sf
  deriving DecidableEq, Repr, Inhabited

/-- The three sources of register accesses (R51). -/
inductive RegSrc where
  | cmd | noc | svc
  deriving DecidableEq, Repr, Inhabited

/-- The channels on which a partner returns credits to the fabric (R27, R35, R42). -/
inductive CreditChan where
  | stnRead (n : ExtStn)
  | stnOp (n : ExtStn)
  | noc (c : Chan)
  deriving DecidableEq, Repr, Inhabited

/-- An input the fabric cannot use (R29): a `cmd_` transfer of kind 3, or a flit whose kind its channel does not carry. -/
inductive BadInput where
  | cmdKind3 (data : BitVec 512)
  | flit (c : Chan) (hdr : Word)
  deriving DecidableEq, Repr, Inhabited

/-- An event of R52: an assertion of `sec_tamper_n`, or a rising edge of `sec_lc_change` with the state sampled. -/
inductive SecEvent where
  | tamper
  | lifeCycle (st : BitVec 2)
  deriving DecidableEq, Repr, Inhabited

/-- What the check of the control-store entry that a scrub step reads shows (R363). -/
inductive CtlCheck where
  | good | corrected | uncorr
  deriving DecidableEq, Repr, Inhabited

/-- What a droop detector of an island senses (R350): the detector, and, in millivolts, the supply's average over the last microsecond and the
supply now. -/
structure DroopReading where
  det : BitVec 2
  avg : BitVec 16
  sensed : BitVec 16
  deriving DecidableEq, Repr, Inhabited

/-- The commands, in the order of the table. -/
inductive Instr where
  -- configuration opcodes
  | tcfg (tag : Tag)
  | trel (tag : Tag)
  | tqry (tag : Tag)
  -- transfers
  | tld (tag : Tag)
  | tst (tag : Tag)
  | tgat (tag : Tag)
  | tsct (tag : Tag)
  | tscta (tag : Tag)
  | tperm (tag : Tag)
  | dcre (tag : Tag)
  | dfree (tag : Tag)
  -- array
  | twf (tag : Tag)
  | tmma (tag : Tag)
  | tmmas (tag : Tag)
  -- bank arithmetic
  | tacc (tag : Tag)
  | tred (tag : Tag)
  | tqnt (tag : Tag)
  | tscl (tag : Tag)
  | taccc (tag : Tag)
  | tdq (tag : Tag)
  | tzero (tag : Tag)
  -- station dispatch
  | tvop (tag : Tag)
  | tsfu (tag : Tag)
  -- egress
  | bkopen (tag : Tag)
  | bkadd (tag : Tag)
  | bkclose (tag : Tag)
  | bkqry (tag : Tag)
  -- contexts and rings
  | ctxset (tag : Tag)
  | ctxget (tag : Tag)
  | ctxpin (tag : Tag)
  | ctxevict (tag : Tag)
  | ringset (tag : Tag)
  | ringget (tag : Tag)
  -- control
  | fence (tag : Tag)
  | preempt (tag : Tag)
  | resume (tag : Tag)
  | audit (tag : Tag)
  | nop (tag : Tag)
  -- diagnostics
  | drdent (tag : Tag)
  | dwrent (tag : Tag)
  | drdhay (tag : Tag)
  | dwrhay (tag : Tag)
  | dscrub (tag : Tag)
  | dretire (tag : Tag)
  | drepair (tag : Tag)
  | dtrace (tag : Tag)
  -- command and status interfaces
  | commandPacket (p : Packet)
  | heldPacketAccept
  | packetDecode
  | registerReadCmd (off : BitVec 16)
  | registerWrite (off : BitVec 16) (v : Reg)
  | cmdKindReserved (b : BadInput)
  | replyDelivered
  | notifyDelivered
  | commandStart (tag : Tag)
  -- network endpoint
  | nocCmd (txid : Txid) (p : Packet)
  | ingwr (hdr : Word) (data : Line) (be : BitVec 128)
  | regrd (hdr : Word)
  | regwr (hdr : Word) (v : Reg)
  | rdrsp (c : Chan) (txid : Txid) (status : Byte) (data : Line)
  | wrack (c : Chan) (txid : Txid) (status : Byte)
  | raccack (txid : Txid) (status : Byte) (added : BitVec 16)
  | creditReturn (c : CreditChan)
  -- stations
  | stationWriteBeat (n : ExtStn) (wd : Beat) (wchk : BeatChk) (wtag : Tag) (wlast : Bool)
  | stationDone (n : ExtStn) (dtag : Tag) (dsts : Byte)
  | stationErr (n : ExtStn) (etag : Tag)
  -- array lanes
  | drainBeat (adv : BitVec 33) (add : BitVec 1056) (adpt : BitVec 132)
  | drainWatchdogExpire
  | drainRowRelease
  | rowLaunch
  | frontBeat
  -- ports, banks and the Hayloft
  | portSlotGrant
  | wheelCommit
  | bankCycleGrant (bank : Nat) (mRead mWrite : Bool)
  | spillPathGrant
  | hayloftAccessGrant (bank : Nat) (bFirst : Bool)
  -- egress, rings, translation
  | raccSend
  | raccResendDue (slot : BitVec 3)
  | ringSchedulerVisit
  | trnResponse (sid : BitVec 4) (spa : BitVec 48) (ssize : BitVec 2) (sflt : Bool) (scode : BitVec 4)
  | xlateTimeout (sid : BitVec 4)
  -- reset and boot
  | pwrRstAssert
  | pwrRstRelease
  | generatorLockCheck (locked0 locked1 : BitVec 11)
  | islandResetExit
  | registerServiceStart
  | arrRstRelease
  | stationCreditWindowClose
  | bistDone (fails : List (Nat × Nat))
  | arrMapv (rowbyp : BitVec 34) (colbyp : BitVec 33)
  | arrayMapChange (mapv : Bool) (rowbyp : BitVec 34) (colbyp : BitVec 33)
  | skewSelfTest (lane : Nat) (scale : Bool)
  -- unplug and security
  | unplugWarn
  | unplugQuiesced
  | unplugPowerDown
  | secureEvent (e : SecEvent)
  | secureEventClear
  | zeroisationDone
  -- fuses and service
  | fuseReady
  | fuseAck (data : Reg)
  | serviceAccess (wr : Bool) (addr : BitVec 16) (wdata : Reg)
  | svcPresentChange (v : Bool)
  -- clocks and power
  | droopTrip (isl : Nat) (x : DroopReading)
  | stretchStepBack (isl : Nat)
  | thermalSample (temps : BitVec 88) (volts : BitVec 176)
  | frequencyChangeDone (isl : Nat)
  | generatorLockLoss (isl : Nat)
  | groupIdleExpire (g : BitVec 3)
  | groupStateChangeDone (g : BitVec 3)
  | hayloftBankIdleExpire (b : BitVec 4)
  | hayloftBankStateDone (b : BitVec 4)
  -- reliability
  | scrubStep (ctl : CtlCheck)
  | ceWindowReset
  | retirementCopy
  | retirementSwitch
  -- register accesses that act
  | pairLowRead (src : RegSrc) (off : BitVec 16)
  | crtWhlcommitWrite (src : RegSrc) (v : Reg)
  | asyWselWrite (src : RegSrc) (v : Reg)
  | asyWcommitWrite (src : RegSrc) (v : Reg)
  | milSeedWrite (src : RegSrc) (v : Reg)
  | chnDbellWrite (src : RegSrc) (v : Reg)
  | tlyResdropWrite (src : RegSrc) (v : Reg)
  | tnkRmdataWrite (src : RegSrc) (v : Reg)
  | tnkFuseaddrWrite (src : RegSrc) (v : Reg)
  | skewgoWrite (src : RegSrc) (v : Reg)
  | tnkLogpopWrite (src : RegSrc) (v : Reg)
  | tnkLogcntWrite (src : RegSrc) (v : Reg)
  | tnkTrcmarkWrite (src : RegSrc) (v : Reg)
  | shadowValidClear (src : RegSrc) (g : BitVec 3) (v : Reg)
  | ringerrValidClear (src : RegSrc) (v : Reg)
  | cmdenWrite (src : RegSrc) (v : Reg)
  | lockWrite (src : RegSrc) (v : Reg)
  | lmpFsetWrite (src : RegSrc) (isl : Nat) (v : Reg)
  | shfGpolWrite (src : RegSrc) (v : Reg)
  | hayBsetWrite (src : RegSrc) (v : Reg)
  -- late rows of the table
  | outboundFlitSend
  | trnQueryAck
  | registerDataDelivered
  | lmpEnvWrite (src : RegSrc) (isl : Nat) (v : Reg)
  | powerLost
  | fabricFirstPowered
  deriving DecidableEq, Repr, Inhabited

end Sys2Proof
end

