-- ==== Sys2Proof/Machine/Command.lean ====
section
/-! DEFINITION. Command packets after decode: the opcodes of R307 with the fields of R316-R322, element types (R90), statuses (R314),
tracked objects and touch classes (R61, R65). -/

namespace Sys2Proof.Machine

/-- Element types, codes 0-14 of R90. -/
inductive EType where
  | fp32 | bf16 | fp16 | e4m3 | e5m2 | int32 | int8 | int4
  | mxE4m3 | mxE5m2 | mxE3m2 | mxE2m3 | mxE2m1 | mxInt8 | e8m0
  deriving DecidableEq, Repr, Inhabited

/-- The opcodes of body format 0x02 (R307). -/
inductive Opcode where
  | tcfg | trel | tqry
  | tld | tst | tgat | tsct | tscta | tperm | dcre | dfree
  | twf | tmma | tmmas
  | tacc | tred | tqnt | tscl | taccc | tdq | tzero
  | tvop | tsfu
  | bkopen | bkadd | bkclose | bkqry
  | ctxset | ctxget | ctxpin | ctxevict | ringset | ringget
  | fence | preempt | resume | audit | nop
  | drdent | dwrent | drdhay | dwrhay | dscrub | dretire | drepair | dtrace
  deriving DecidableEq, Repr, Inhabited

/-- A tile entry of a TCFG (R99, R316). -/
structure TileEnt where
  tile : Nat
  rel : Bool
  spill : Bool
  group : Nat
  base : Nat
  rows : Nat
  rowBytes : Nat
  ty : EType
  pair : Nat
  deriving DecidableEq, Repr, Inhabited

/-- The fields of a segment entry that the stream's table keeps (R74). -/
structure Seg where
  first : Nat
  count : Nat
  ctx : Nat
  tile : Nat
  hint : Bool
  deriving DecidableEq, Repr, Inhabited

/-- An entry slot of a TCFG by its KIND (R99). -/
inductive CfgEnt where
  | unused
  | tile (e : TileEnt)
  | seg (idx : Nat) (e : Seg)
  deriving DecidableEq, Repr, Inhabited

/-- TLD and TST with FORM 0 (R204, R317). -/
structure Inline where
  tile : Nat
  eng : Nat
  hay : Bool
  ctxRel : Bool
  win : Nat
  nr : Nat
  first : Nat
  noWait : Bool
  base : Nat
  stride : Nat
  bl1 : Bool
  deriving DecidableEq, Repr, Inhabited

/-- TLD and TST with FORM 1 (R218, R317). -/
structure DescXfer where
  tile : Nat
  eng : Nat
  handle : Nat
  start : List Int
  e0 : Nat
  ext : List Nat
  step : List Nat
  bc0 : Bool
  zpad : Bool
  trans : Bool
  first : Nat
  noWait : Bool
  deriving DecidableEq, Repr, Inhabited

/-- TGAT, TSCT and TSCTA (R225, R317). -/
structure Gather where
  tile : Nat
  first : Nat
  eng : Nat
  handle : Nat
  ihandle : Nat
  ifirst : Nat
  nidx : Nat
  gdim : Nat
  start : List Int
  e0 : Nat
  zpad : Bool
  noWait : Bool
  deriving DecidableEq, Repr, Inhabited

/-- TPERM (R231, R317). -/
structure Perm where
  tensor : Bool
  eng : Nat
  bounce : Bool
  perm : Nat
  noWait : Bool
  stile : Nat
  dtile : Nat
  shandle : Nat
  dhandle : Nat
  deriving DecidableEq, Repr, Inhabited

/-- TMMA (R158, R318). -/
structure Mma where
  stile : Nat
  wtile : Nat
  atile : Nat
  first : Nat
  count : Nat
  arow : Nat
  acol : Nat
  flay : Bool
  res : Bool
  flabel : Nat
  noWait : Bool
  deriving DecidableEq, Repr, Inhabited

/-- TMMAS (R161, R318). -/
structure Mmas where
  masked : Bool
  stile : Nat
  otile : Nat
  atile : Nat
  arow : Nat
  acol : Nat
  flay : Bool
  noWait : Bool
  deriving DecidableEq, Repr, Inhabited

/-- The shared body of the bank-arithmetic opcodes (R179). -/
structure BankOp where
  dtile : Nat
  stile : Nat
  s2tile : Nat
  etile : Nat
  first : Nat
  count : Nat
  noWait : Bool
  op : Nat
  axis : Nat
  doff : Nat
  alpha : BitVec 32
  add : BitVec 32
  stoch : Bool
  sexp : Int
  deriving DecidableEq, Repr, Inhabited

/-- TVOP and TSFU (R319); `body` is packet bytes 8-63, passed unchanged. -/
structure StnOp where
  stn : Nat
  first : Nat
  count : Nat
  srcs : List Nat
  dsts : List Nat
  noWait : Bool
  body : BitVec 448
  deriving DecidableEq, Repr, Inhabited

/-- BKOPEN (R264). -/
structure BkOpen where
  bucket : Nat
  hbase : Nat
  hsize : Nat
  nelem : Nat
  rbase : Nat
  fromCtx : Bool
  scaddr : Nat
  step : Nat
  deriving DecidableEq, Repr, Inhabited

/-- One source entry of a BKADD (R267). -/
structure BkEnt where
  tile : Nat
  first : Nat
  count : Nat
  eblk : Nat
  deriving DecidableEq, Repr, Inhabited

/-- RINGSET (R302). -/
structure RingSet where
  ring : Nat
  full : Bool
  en : Bool
  clrErr : Bool
  weight : Nat
  szlog : Nat
  ptr : Nat
  owner : Nat
  base : Nat
  deriving DecidableEq, Repr, Inhabited

/-- A decoded command: one constructor per body layout of R316-R322. -/
inductive Command where
  | tcfg (es : List CfgEnt)
  | trel (mask : Word)
  | tqry (tile : Nat)
  | inline (store : Bool) (x : Inline)
  | desc (store : Bool) (x : DescXfer)
  | gather (op : Opcode) (x : Gather)
  | tperm (x : Perm)
  | dcre (handle : Nat) (hay : Bool) (addr : Nat)
  | dfree (handle : Nat)
  | twf (wtile : Nat) (flay : Bool) (flabel : Nat) (noWait : Bool)
  | tmma (x : Mma)
  | tmmas (x : Mmas)
  | bank (op : Opcode) (x : BankOp)
  | station (op : Opcode) (x : StnOp)
  | bkopen (x : BkOpen)
  | bkadd (bucket : Nat) (noWait : Bool) (es : List BkEnt)
  | bkclose (bucket : Nat) (force : Bool)
  | bkqry (bucket : Nat)
  | ctxset (ctx : Nat) (image : BitVec 128)
  | ctxget (ctx : Nat) (hay : Bool) (addr : Nat)
  | ctxpin (ctx : Nat) (pin : Bool)
  | ctxevict (ctx : Nat)
  | ringset (x : RingSet)
  | ringget (ring : Nat)
  | fence (all : Bool)
  | preempt (scope : Nat) (ttag : Nat)
  | resume (ref : Nat)
  | audit (mask : Nat) (dump hay : Bool) (addr : Nat)
  | nop
  | drdent (bank entry : Nat) (hay : Bool) (addr : Nat)
  | dwrent (bank entry : Nat) (hay : Bool) (addr : Nat)
  | drdhay (bank word : Nat) (hay : Bool) (addr : Nat)
  | dwrhay (bank word : Nat) (hay : Bool) (addr : Nat)
  | dscrub (hayBank : Bool) (bank : Nat)
  | dretire (bank : Nat)
  | drepair (kind logical phys : Nat)
  | dtrace (action : Nat) (hay : Bool) (addr : Nat)
  deriving DecidableEq, Repr, Inhabited

/-- The opcode of a decoded command. -/
def Command.opcode : Command → Opcode
  | .tcfg _ => .tcfg | .trel _ => .trel | .tqry _ => .tqry
  | .inline false _ => .tld | .inline true _ => .tst
  | .desc false _ => .tld | .desc true _ => .tst
  | .gather op _ => op | .tperm _ => .tperm | .dcre .. => .dcre | .dfree _ => .dfree
  | .twf .. => .twf | .tmma _ => .tmma | .tmmas _ => .tmmas
  | .bank op _ => op | .station op _ => op
  | .bkopen _ => .bkopen | .bkadd .. => .bkadd | .bkclose .. => .bkclose | .bkqry _ => .bkqry
  | .ctxset .. => .ctxset | .ctxget .. => .ctxget | .ctxpin .. => .ctxpin | .ctxevict _ => .ctxevict
  | .ringset _ => .ringset | .ringget _ => .ringget
  | .fence _ => .fence | .preempt .. => .preempt | .resume _ => .resume | .audit .. => .audit | .nop => .nop
  | .drdent .. => .drdent | .dwrent .. => .dwrent | .drdhay .. => .drdhay | .dwrhay .. => .dwrhay
  | .dscrub .. => .dscrub | .dretire _ => .dretire | .drepair .. => .drepair | .dtrace .. => .dtrace

/-- Status codes (R314). -/
inductive Status where
  | ok | okInfo | cfgInconsistent | capacity | tileEmpty | tilePartial | typeMismatch | shapeMismatch
  | length | descInvalid | descRange | overlap | xlateFault | ctxFetchFail | ctxInvalid | ringState
  | bucketState | bucketFull | preempted | aborted | abortedPower | eccUncorr | bootLocked | unsupported
  | reservedField | auditMismatch
  deriving DecidableEq, Repr, Inhabited

/-- Classes of a touch (R61). -/
inductive TClass where
  | r | a | w | c | q
  deriving DecidableEq, Repr, Inhabited

/-- Tracked objects (R65); `anyCtx` is the touch of every context of R395. -/
inductive Obj where
  | tile (t : Nat)
  | handle (h : Nat)
  | ctx (c : Nat)
  | anyCtx
  | bucket (b : Nat)
  | ring (n : Nat)
  | segs (stream : Nat)
  deriving DecidableEq, Repr, Inhabited

/-- One touch of a command: its object and class, whether it is taken for ordering only (R164, R395), and whether it
has not ended yet (R63). -/
structure Touch where
  obj : Obj
  cls : TClass
  orderOnly : Bool
  live : Bool
  deriving DecidableEq, Repr, Inhabited

/-- A refusal or an outcome: status, detail and count of a reply (R311). -/
structure Outc where
  status : Status
  detail : BitVec 16
  count : BitVec 32
  deriving DecidableEq, Repr, Inhabited

end Sys2Proof.Machine
end

