-- ==== Sys2Proof/Machine/State.lean ====
section
/-! DEFINITION. The state of one fabric instance (R1, R18): plain data, one structure for each subsystem, and the state at reset. -/

namespace Sys2Proof.Machine

/-- Why a step stops. -/
inductive Fault where
  /-- Raised by a meaning whose command names a physical bank, island, or list entry the fabric does not have (R13, R18, R359).
  Safe: no partner can send such a command, since no signal or row of the spec names such a unit. -/
  | noSuchUnit
  deriving DecidableEq, Repr, Inhabited

/-- Why a step has no meaning. -/
inductive Refusal where
  /-- Raised by an arm of `exec` whose command has no meaning yet. Safe: nothing is claimed of it. -/
  | notModelled (mnemonic : String)
  deriving DecidableEq, Repr, Inhabited

/-- Byte-addressed storage: address and byte, addresses strictly rising, no zero byte listed (log 3). -/
abbrev Memory := List Host.Cell

/-! ### Sheaf, Millers -/

/-- Tile states (R96). -/
inductive TileSt where
  | unconfigured | empty | valid | partialTo (k : Nat)
  deriving DecidableEq, Repr, Inhabited

/-- A tile's configuration and state (R89, R96); `hayAddr` is the Hayloft byte address of a spill tile (R112). -/
structure Tile where
  st : TileSt
  spill : Bool
  group : Nat
  base : Nat
  hayAddr : Nat
  rows : Nat
  rowBytes : Nat
  ty : EType
  pair : Nat
  deriving DecidableEq, Repr

/-- An unconfigured tile: every field zero (R98). -/
def Tile.none : Tile := ⟨.unconfigured, false, 0, 0, 0, 0, 0, .fp32, 0⟩

/-- Power states of a bank group or a Hayloft bank (R109, R255). -/
inductive PState where
  | off | retention | on
  deriving DecidableEq, Repr, Inhabited

/-- A unit that changes power state (R353, R354): its state, the state it is entering, and the state it enters after that. -/
structure PwrUnit where
  st : PState
  entering : Option PState
  after : Option PState
  deriving DecidableEq, Repr

/-- ON and not changing. -/
def PwrUnit.on : PwrUnit := ⟨.on, none, none⟩

/-- Sheaf storage, tiles, segment tables and the groups' power (04, 03). Storage is physical: byte
`8192 * bank + 128 * entry + b`, check byte `1024 * bank + 16 * entry + w`. -/
structure Sheaf where
  mem : Memory
  chk : Memory
  tiles : Tbl Tile
  segs : Tbl Seg
  groups : Tbl PwrUnit
  deriving DecidableEq, Repr

/-- Whom a Tinker request serves: a scrub, with the DSCRUB that asked; a retirement's copy; a raw read or write of DRDENT or DWRENT. -/
inductive TinkUse where
  | scrub (by_ : Option Tag)
  | copy
  | raw (tag : Tag)
  deriving DecidableEq, Repr, Inhabited

/-- A Tinker request waiting at a physical bank (R176, R362, R366): a read or write of one entry, and the b-cycles it has waited. A
copy's write waits at the spare. -/
structure TinkReq where
  bank : Nat
  entry : Nat
  write : Bool
  use : TinkUse
  wait : Nat
  deriving DecidableEq, Repr

/-- A Miller request of a command waiting at a logical bank (R176): a read, a write that completes an update of its own entry (`upd`), or
another write. -/
structure MilReq where
  tag : Tag
  lbank : Nat
  write : Bool
  upd : Bool
  deriving DecidableEq, Repr

/-- Millers (07): generator states keyed `32 * bank + lane` where they differ from the last reseed, the seed of that reseed for each
group, groups whose copy of MIL_SEED waits for the group to be ON (R387), the last eight contended b-cycles of the MSHARE patterns, oldest
first, true where the Miller was granted, keyed `2 * bank + direction` (R177), the commands' requests in the order made, and the Tinker's. -/
structure Millers where
  gens : Tbl (BitVec 32)
  seeds : Tbl (BitVec 32)
  reseed : Tbl Bool
  pattern : Tbl (List Bool)
  reqs : List MilReq
  tinker : List TinkReq
  deriving DecidableEq, Repr

/-! ### Carters -/

/-- A read beat a station still has to send (R116): the command, the tile, the beat index, whether it is the last of the command. -/
structure RdDemand where
  tag : Tag
  tile : Nat
  j : Nat
  last : Bool
  deriving DecidableEq, Repr, Inhabited

/-- A write beat in a station's write buffer (R117): only the 64-bit words of `mask` are written. -/
structure WrItem where
  tag : Tag
  tile : Nat
  j : Nat
  mask : BitVec 32
  data : Beat
  chk : BeatChk
  deriving DecidableEq, Repr

/-- A read beat on its way to a station: `left` has a bit for each 64-byte quarter still to come from its bank or from the Hayloft. The
beats of a station arrive in the order they were granted (R118). -/
structure FlyBeat where
  d : RdDemand
  latch : Bool
  left : BitVec 4
  data : Beat
  chk : BeatChk
  deriving DecidableEq, Repr

/-- One station's side of the Carters: credits held by the sender and spent but not returned (R130-R132), read demand, the beats on
their way to it, and its write buffer. -/
structure Station where
  rTotal : Nat
  rHeld : Nat
  rFly : Nat
  wTotal : Nat
  wHeld : Nat
  oTotal : Nat
  oHeld : Nat
  oFly : Nat
  rdQ : List RdDemand
  fly : List FlyBeat
  wrQ : List WrItem
  deriving DecidableEq, Repr

/-- Read-direction total of a station (R130); that of V0, V1 and SF is not known before the window of R131 closes. -/
def readTotal (n : Nat) : Nat := if n = 2 ∨ n = 3 ∨ n = 4 ∨ n = 5 then 0 else if n = 15 then 2 else 8

/-- Write-direction total of a station (R130). -/
def writeTotal (n : Nat) : Nat := if n = 15 then 2 else if 3 ≤ n ∧ n ≤ 9 then 8 else 0

/-- A station before any credit has been granted (R132). -/
def Station.init (n : Nat) : Station := ⟨readTotal n, 0, 0, writeTotal n, 0, 0, 0, 0, [], [], []⟩

/-- What a port request does at its bank: a read of one half of a beat, or a masked write of one half (R116, R120). -/
inductive PortAct where
  | read (stn : Nat) (d : RdDemand) (half : Bool)
  | write (w : WrItem) (half : Bool)
  deriving DecidableEq, Repr

/-- A granted port request waiting at a bank (R128); `lbank` is the logical bank `8 * group + position`. -/
structure PortReq where
  port : Nat
  reserved : Bool
  age : Nat
  lbank : Nat
  entry : Nat
  act : PortAct
  deriving DecidableEq, Repr

/-- A reuse latch (R138). -/
structure Latch where
  tile : Nat
  j : Nat
  data : Beat
  chk : BeatChk
  deriving DecidableEq, Repr

/-- The b-cycle of a group that is under way (R128): the banks that have had theirs, the requests (port, age) already counted as waiting
in it, whether the Millers' wait is counted, and the port that starts the order of equals. -/
structure BCycle where
  banks : List Nat
  counted : List (Nat × Nat)
  milled : Bool
  start : Nat
  deriving DecidableEq, Repr

/-- Before any b-cycle. -/
def BCycle.init : BCycle := ⟨[], [], false, 0⟩

/-- Ports, wheels, requests and latches (05). Working wheels are keyed `4 * wheel + q` and hold four slot bytes. `spilled` lists the
stations the spill path has served since the last a-cycle of the ports; `cross` counts the entries of each crossing whose receiver has
stopped (R20, R348). -/
structure Carters where
  wheels : Tbl Reg
  slot : Nat
  rot : Tbl Nat
  stns : Tbl Station
  reqs : List PortReq
  age : Nat
  bcyc : Tbl BCycle
  latches : Tbl (Option Latch)
  spillRot : Nat
  spilled : List Nat
  cross : Tbl Nat
  deriving DecidableEq, Repr

/-! ### Tillers and Gleaners -/

/-- One front and, unless it is a TWF's, the pass that follows it (R151). `mask` replaces K positions outside the segment by zero
(R163); `uid` tells passes apart; `test` is the step of the skew self-test that the pass belongs to (R172), 0-31 for a logical row, 32
and 33 for a scale lane. -/
structure Pass where
  uid : Nat
  test : Option Nat
  tag : Tag
  drives : Bool
  isTwf : Bool
  wtile : Nat
  flay : Bool
  mask : Option (Nat × Nat)
  ptag : Option (BitVec 4)
  lf : Nat
  beats : Nat
  stile : Nat
  first : Nat
  count : Nat
  launched : Nat
  atile : Nat
  arow : Nat
  acol : Nat
  ncols : Nat
  flabel : Nat
  deriving DecidableEq, Repr

/-- A resident front (R159, R160). -/
structure Resident where
  label : Nat
  ptag : BitVec 4
  ty : EType
  ncols : Nat
  deriving DecidableEq, Repr

/-- A routing record (R153), of the pass `uid`. -/
structure RouteRec where
  uid : Nat
  test : Option Nat
  ptag : BitVec 4
  tag : Tag
  total : Nat
  launched : Nat
  released : Nat
  written : Nat
  tile : Nat
  first : Nat
  arow : Nat
  acol : Nat
  ncols : Nat
  deriving DecidableEq, Repr

/-- A drained row on the drain bus, waiting at its bank (R154, R184). -/
structure DrainRow where
  uid : Nat
  tag : Tag
  lbank : Nat
  entry : Nat
  tile : Nat
  seg : Nat
  ncols : Nat
  vals : Line
  deriving DecidableEq, Repr

/-- Row feed, fronts, records and deskew buffer (06). A delay line holds (a-cycles left, physical lane, data). `mapv`, `rowbyp` and
`colbyp` are the array maps as sampled (R41); `nowMapv`, `nowRow` and `nowCol` what the inputs last carried. -/
structure ArrayUnit where
  passes : List Pass
  nextUid : Nat
  frontTag : Option (BitVec 4)
  nextTag : BitVec 4
  resident : Option Resident
  records : List RouteRec
  fifos : Tbl (List (BitVec 32))
  q : Nat
  hold : Nat
  afPipe : List (Nat × Nat × BitVec 32)
  wfPipe : List (Nat × Nat × BitVec 32 × BitVec 4)
  drainQ : List DrainRow
  mapSampled : Bool
  mapv : Bool
  rowbyp : BitVec 34
  colbyp : BitVec 33
  nowMapv : Bool
  nowRow : BitVec 34
  nowCol : BitVec 33
  deriving DecidableEq, Repr

/-! ### Hayloft -/

/-- Whom a Hayloft access serves: the data a command waits for, an image, the slot of a handle, a context fetch, the codes of a packet, a
quarter of a spill beat, a write of a command, one word of an INGWR, or the Tinker's scrub (with the DSCRUB that asked) or raw access. -/
inductive HayUse where
  | unitFor (tag : Tag) (row : Nat) (addr : Nat)
  | image (tag : Tag)
  | slot (tag : Tag) (handle : Nat)
  | fetch (ctx : Nat)
  | racc (slot : Nat) (pkt : Nat)
  | spillRead (stn : Nat) (d : RdDemand) (quarter : Nat)
  | spillWrite (stn : Nat) (tag : Tag)
  | store (tag : Tag)
  | ctxWrite (tag : Tag)
  | dump (tag : Tag)
  | ingress (id : Nat)
  | scrub (by_ : Option Tag)
  | raw (tag : Tag)
  deriving DecidableEq, Repr

/-- A waiting access to one 64-byte word (R243, R251): at logical byte address `addr`, or at the physical bank and word of `phys`. A write
stores the check bytes of `chk` where it gives them. -/
structure HayAcc where
  master : Nat
  addr : Nat
  phys : Option (Nat × Nat)
  write : Bool
  be : BitVec 64
  data : BitVec 512
  chk : Option (BitVec 64)
  retry : Bool
  use : HayUse
  deriving DecidableEq, Repr

/-- An INGWR of which some access still waits (R47, R254): the accesses left, and whether one has been performed. -/
structure Ingress where
  id : Nat
  txid : Txid
  left : Nat
  wrote : Bool
  deriving DecidableEq, Repr

/-- A port that an access occupies for further h-cycles (R252, R362): how many are left, and its word. -/
structure HayLock where
  left : Nat
  word : Nat
  deriving DecidableEq, Repr

/-- A port that is free. -/
def HayLock.free : HayLock := ⟨0, 0⟩

/-- Hayloft storage (physical: byte `262144 * bank + 64 * word + b`, check byte `32768 * bank + 8 * word + w`), waiting accesses,
arbiter pointers and occupied ports keyed `2 * bank + port`, conflict counters keyed `16 * (2 * bank + port) + master`, bank power and
zeroisation (09). -/
structure Hayloft where
  mem : Memory
  chk : Memory
  waiting : List HayAcc
  locks : Tbl HayLock
  ingress : List Ingress
  ingId : Nat
  rot : Tbl Nat
  conf : Tbl Nat
  banks : Tbl PwrUnit
  zeroing : Bool
  zcount : Nat
  deriving DecidableEq, Repr

/-! ### Assayer, network and translation -/

/-- An allocation window (R210). -/
structure Window where
  valid : Bool
  hay : Bool
  xl : Bool
  base : Nat
  size : Nat
  deriving DecidableEq, Repr

/-- A window at reset. -/
def Window.invalid : Window := ⟨false, false, false, 0, 0⟩

/-- A translation query (R48, R49): for a Cooper's command or for a bucket's page. -/
inductive XlUse where
  | job (tag : Tag)
  | bucket (slot : Nat)
  deriving DecidableEq, Repr, Inhabited

/-- A query waiting to be sent, or outstanding under an identifier; `timedOut` after XLATE_TIMEOUT. -/
structure Query where
  use : XlUse
  va : Nat
  unit : Nat
  wr : Bool
  acked : Bool
  timedOut : Bool
  deriving DecidableEq, Repr

/-- Windows, live handles with the CRC-32 of their images, and translation queries (08). -/
structure Assayer where
  windows : Tbl Window
  live : Tbl (Option (BitVec 32))
  queries : Tbl (Option Query)
  waiting : List Query
  sending : Option Nat
  deriving DecidableEq, Repr

/-- A flit (R42). -/
structure Flit where
  hdr : Word
  data : Line
  be : BitVec 128
  deriving DecidableEq, Repr, Inhabited

/-- Whom a memory request serves. -/
inductive TxUse where
  | unitFor (tag : Tag) (row : Nat) (addr : Nat)
  | image (tag : Tag)
  | fetch (ctx : Nat)
  | ring (ring : Nat) (slot : Nat)
  | store (tag : Tag) (row : Nat)
  | ctxWrite (tag : Tag)
  | dump (tag : Tag)
  | racc (slot : Nat) (pkt : Nat) (elems : Nat)
  deriving DecidableEq, Repr

/-- An outstanding request: its channel and its use (R46). -/
structure TxOwner where
  ch : Chan
  use : TxUse
  addr : Nat
  deriving DecidableEq, Repr

/-- A read or write of memory waiting for a channel (R43). -/
structure OutReq where
  write : Bool
  addr : Nat
  data : Line
  be : BitVec 128
  use : TxUse
  deriving DecidableEq, Repr

/-- An access to a register that a row of the table names for its effect there (R393): a write, or the read of a pair's low half (log 57). -/
structure RegAct where
  off : BitVec 16
  v : Option Reg
  deriving DecidableEq, Repr

/-- An outbound channel (R43): credits held, flits sent whose credit has not returned, the total, whether it is fixed. -/
structure OutChan where
  held : Nat
  fly : Nat
  total : Nat
  fixed : Bool
  deriving DecidableEq, Repr

/-- The network endpoint (02). `turn` is the channel the next RD or WR takes when both hold a credit; `share` the kind that channel 1
serves first, 0 RACC, 1 RD, 2 WR (R43); `i0Out` and `i1Out` the credits of the inbound channels that the partner holds (R27, R338); `in0`
and `in1` what their buffers hold, register accesses of the network's order included (R385). -/
structure Noc where
  o0 : OutChan
  o1 : OutChan
  turn : Bool
  share : Nat
  i0Out : Nat
  i1Out : Nat
  tx : Tbl (Option TxOwner)
  outQ : List OutReq
  answers : List Flit
  in0 : List Flit
  in1 : List (Flit ⊕ RegAct)
  deriving DecidableEq, Repr

/-! ### Haberdasher, rings -/

/-- A resident row (R284). -/
structure CtxRow where
  ctx : Nat
  entry : BitVec 128
  pin : Bool
  deriving DecidableEq, Repr

/-- A context fetch outstanding (R287), with the entry that a CTXSET has put into the table since (R293). -/
structure Fetch where
  ctx : Nat
  row : Nat
  fresh : Option (BitVec 128)
  deriving DecidableEq, Repr

/-- Resident rows by logical row, and fetches (11). -/
structure Haberdasher where
  rows : Tbl (Option CtxRow)
  fetches : List Fetch
  deriving DecidableEq, Repr

/-- A ring entry (R294). -/
structure Ring where
  en : Bool
  err : Bool
  szlog : Nat
  head : Nat
  tail : Nat
  base : Nat
  deriving DecidableEq, Repr

/-- A ring entry at reset. -/
def Ring.zero : Ring := ⟨false, false, 0, 0, 0, 0⟩

/-- A line read ahead (R300): its number among the lines read, its ring, the index of the first posted packet in it, how many packets
from there it gives, and its data once arrived. -/
structure RingLine where
  seq : Nat
  ring : Nat
  idx : Nat
  n : Nat
  data : Option Line
  deriving DecidableEq, Repr

/-- Rings, doorbells, pairs, scheduler (11). `waitPairs` lists the rings whose pair waits for its owner's fetch (R298); `visit` is the ring
being served and the packets taken from it in this visit. -/
structure Rings where
  ents : Tbl Ring
  bells : Tbl Bool
  owners : Tbl Nat
  weights : Tbl Nat
  ptr : Nat
  lines : List RingLine
  seq : Nat
  waitPairs : List Nat
  visit : Option (Nat × Nat)
  deriving DecidableEq, Repr

/-! ### Thresher -/

/-- Bucket states (R260). -/
inductive BkSt where
  | closed | opened | draining
  deriving DecidableEq, Repr, Inhabited

/-- A translated or faulted page of a draining bucket (R274): its virtual address, size, and physical base or fault code. -/
structure BkPage where
  va : Nat
  size : Nat
  res : Option Nat
  code : Nat
  deriving DecidableEq, Repr

/-- A bucket slot (R260-R278). `placed` has a bit per block (R263). -/
structure Bucket where
  st : BkSt
  base : Nat
  size : Nat
  nelem : Nat
  rbase : Nat
  step : Nat
  placed : Nat
  written : Nat
  cPlaced : Nat
  cSent : Nat
  cAcked : Nat
  cFailed : Nat
  cOut : Nat
  cNonf : Nat
  cSat : Nat
  raccs : Nat
  next : Nat
  retried : List Nat
  due : List Nat
  pages : List BkPage
  fault : Bool
  ecc : Bool
  stopped : Bool
  deriving DecidableEq, Repr

/-- A slot at reset with placement `base` (64 KiB units) and `size` (256 KiB units). -/
def Bucket.init (base size : Nat) : Bucket :=
  ⟨.closed, base, size, 0, 0, 0, 0, 0, 0, 0, 0, 0, 0, 0, 0, 0, 0, [], [], [], false, false, false⟩

/-- The codes of the packet to be sent next, as read from the Hayloft (R272): whether a word was uncorrectable. -/
structure RaccData where
  slot : Nat
  pkt : Nat
  codes : BitVec 512
  unc : Bool
  deriving DecidableEq, Repr

/-- The Thresher (10). -/
structure Thresher where
  slots : Tbl Bucket
  rot : Nat
  fetched : Option RaccData
  deriving DecidableEq, Repr

/-! ### Tallyman -/

/-- Where a packet came from (R60); a ring with its pair's OWNER at the acceptance (R299). -/
inductive Origin where
  | cmd | noc | ring (n owner : Nat)
  deriving DecidableEq, Repr, Inhabited

/-- Tag states (R325). -/
inductive TagSt where
  | free | waiting | started | replying | notifying
  deriving DecidableEq, Repr, Inhabited

/-- A read beat that has reached an internal station. -/
structure RxBeat where
  tile : Nat
  j : Nat
  data : Beat
  deriving DecidableEq, Repr

/-- A unit of storage (a line, a Hayloft word, or 16 bytes of one) that has reached a command: the step it was asked for, its address
as the command forms addresses, its bytes, and the 64-bit words of it that are uncorrectable. -/
structure RxUnit where
  row : Nat
  addr : Nat
  data : Line
  bad : Nat
  deriving DecidableEq, Repr

/-- A unit of storage that a command is to write: the enabled bytes, and the first step that wrote one (R203, R240). -/
structure WrUnit where
  addr : Nat
  data : Line
  be : Nat
  row : Nat
  deriving DecidableEq, Repr

/-- A page translation of a command (R217). -/
structure Xl where
  va : Nat
  size : Nat
  pa : Nat
  deriving DecidableEq, Repr

/-- Why a command is to stop (R326): PREEMPT, unplug, a translation fault with its code, a read ERROR, a WRACK of ERROR. -/
inductive Stop where
  | preempt | unplug | xlate (code : Nat) | rdErr | wrErr
  deriving DecidableEq, Repr, Inhabited

/-- Progress of a started command. `stn` is its station and `stage` its phase; `row` counts its rows, windows or passes done. For the
Carters: beats received (`rx`), read and write beats outstanding, words formed and not yet sent (`staged`, and `staged2` for a second
destination) with the next beat of each. For storage: steps asked for, the units asked for last, waited for and received, units to
write, bytes written, descriptor images, base, indices, pages, the step whose page is asked for, and the
step before which it is to stop (`lim`); `bounced` once the bounce area holds the whole source,
and of a transposition in place that was stopped. For stations: the
operation sent, its status, and its write beats. `landed` counts passes or writes; `acted` the commands a PREEMPT waits for; `slots` the
images of a transfer's handles while it waits to start, in the order of its body, and `asking` that they have been asked for; `raw` the
bytes of a raw read or write; `wLeft` the write beats of each destination of a station's operation that are not in their banks. -/
structure Job where
  stn : Option Nat := none
  stage : Nat := 0
  row : Nat := 0
  rx : List RxBeat := []
  rdOut : Nat := 0
  wrOut : Nat := 0
  staged : List Word := []
  wIdx : Nat := 0
  staged2 : List Word := []
  wIdx2 : Nat := 0
  reqRow : Nat := 0
  asked : List Nat := []
  want : List (Nat × Nat) := []
  units : List RxUnit := []
  pend : List WrUnit := []
  wrote : Tbl Nat := []
  imgs : List (BitVec 512) := []
  base : Nat := 0
  idx : List Int := []
  xl : List Xl := []
  xlWait : Bool := false
  xlRow : Nat := 0
  lim : Option (Nat × Stop) := none
  wErr : Option Nat := none
  issued : Bool := false
  bounced : Bool := false
  opSent : Bool := false
  dn : Option Byte := none
  wLast : Bool := false
  wBad : Bool := false
  bad : Option (BitVec 16) := none
  landed : Nat := 0
  acted : Nat := 0
  snap : Tbl Tile := []
  asking : Bool := false
  slots : List (Nat × BitVec 512 × Bool) := []
  raw : List Byte := []
  wLeft : Tbl Nat := []
  deriving DecidableEq, Repr

/-- No progress. -/
def Job.init : Job := { }

/-- A Tallyman entry (R325). `ctxWait` lists the contexts whose fetch it waits on and `ctxBad` those that failed (R288); `own` is the header as received, `hdr` the header of the command executed (that of the stopped command
for a RESUME, R331); `place` its place in the acceptance order for tracked objects, `acc` its own acceptance (R69, R83). -/
structure TagEntry where
  st : TagSt
  own : Word
  hdr : Word
  pkt : Packet
  cmd : Option Command
  src : Origin
  place : Nat
  acc : Nat
  touches : List Touch
  segs : List (Nat × Seg)
  hints : List (Nat × Nat)
  hintsLate : Bool
  bslot : Option Nat
  refs : List Nat
  ctxWait : List Nat
  ctxBad : List (Nat × Outc)
  job : Job
  recSlot : Option Nat
  stop : Option Stop
  actedBy : List Tag
  bits : BitVec 16
  ecc : Option (BitVec 16)
  w0 : Word
  w1 : Word
  deriving DecidableEq, Repr

/-- A packet of zeros. -/
def Packet.zero : Packet := ⟨0, 0, 0, 0, 0, 0, 0, 0⟩

/-- A FREE tag. -/
def TagEntry.free : TagEntry :=
  ⟨.free, 0, 0, Packet.zero, none, .cmd, 0, 0, [], [], [], false, none, [], [], [], Job.init, none, none, [], 0, none, 0, 0⟩

/-- Resume-record states (R330); CANCELLED remembers the reply of its first cancelling event. -/
inductive RecSt where
  | free | held | claimed | cancelled (by_ : Outc)
  deriving DecidableEq, Repr

/-- A resume record (R328): state, generation, and the stopped command. -/
structure Rec where
  st : RecSt
  gen : Nat
  cmd : TagEntry
  deriving DecidableEq, Repr

/-- A record at reset: FREE, generation 15 (R328). -/
def Rec.init : Rec := ⟨.free, 15, TagEntry.free⟩

/-- A transfer on `sts_` (R33, R34). -/
inductive StsXfer where
  | reply (tag : Tag)
  | regData (v : Reg)
  deriving DecidableEq, Repr

/-- A transfer on `cmd_` that waits (R31, R32). -/
inductive CmdXfer where
  | packet (p : Packet)
  | regRead (off : BitVec 16)
  | regWrite (off : BitVec 16) (v : Reg)
  | kind3
  | act (a : RegAct)
  deriving DecidableEq, Repr

/-- Tags, records, packets accepted and replies delivered (R338), the input queue, the source that the Chandler accepts from first (0 `cmd_`, 1 the
network, 2 the scheduler: R301), `cmd_` and `sts_` (03, 13). -/
structure Tallyman where
  tags : Tbl TagEntry
  recs : Tbl Rec
  accNext : Nat
  delivered : Nat
  inq : List Tag
  turn : Nat
  cmdHeld : List CmdXfer
  svcHeld : List ((Bool × BitVec 16 × Reg) ⊕ RegAct)
  stsCur : Option StsXfer
  stsQ : List StsXfer
  ntfCur : Option Tag
  ntfQ : List Tag
  bounceHeld : Option Tag
  bounceRec : Option Nat
  deriving DecidableEq, Repr

/-! ### Lamplighter, Tinker, boundary -/

/-- One island's clock (14): its cycle counter (R312), frequency in force and its target in 25 MHz units, stretch level, throttled, locked
generators, its sensors, and by how many millivolts each droop detector finds its supply below the average (R350). -/
structure Island where
  up : Bool
  cyc : BitVec 64
  freq : Nat
  target : Option Nat
  stretch : Nat
  throt : Bool
  lock : Bool
  temp : BitVec 8
  volt : BitVec 16
  drops : Tbl Nat
  deriving DecidableEq, Repr

/-- An error-log or trace entry (R377, R378). -/
structure LogEnt where
  cycle : BitVec 32
  isl : Nat
  kind : Nat
  unit : Nat
  loc : Nat
  info : Nat
  deriving DecidableEq, Repr

/-- A retirement: the bank retired, its logical bank, the spare, the entry being copied with its words as read and corrected, the DRETIRE
that began it (R366, R367). -/
structure Retire where
  bank : Nat
  lbank : Nat
  spare : Nat
  entry : Nat
  buf : Option (List (Word × Byte))
  by_ : Option Tag
  deriving DecidableEq, Repr

/-- The skew self-test under way (R172): its step, 0-31 for a logical row, 32 and 33 for a scale lane; the rows drained in it; the logical
columns found wrong; whether a scale lane failed. -/
structure Skew where
  step : Nat
  rows : Nat
  wrong : BitVec 32
  scaleBad : Bool
  deriving DecidableEq, Repr

/-- The Tinker (15). The repair map is keyed `65536 * kind + logical` and lists only units not served as at reset. -/
structure Tinker where
  map : Tbl Nat
  retired : List Nat
  copying : Option Retire
  trigs : List (Nat × Option Tag)
  noSpare : List Nat
  used : Nat
  lastBank : Nat
  shadow : Tbl Reg
  scrubS : Nat
  scrubH : Nat
  scrubC : Nat
  ceWin : Tbl Nat
  ceTot : Tbl Nat
  log : List LogEnt
  lost : Nat
  firstBad : Option LogEnt
  trace : List LogEnt
  traceOld : Nat
  fuseBusy : Bool
  fuseReady : Bool
  fails : List (Nat × Nat)
  failCount : Nat
  bistDone : Bool
  fatal : Bool
  dead : Nat
  skewGo : Bool
  skew : Option Skew
  deriving DecidableEq, Repr

/-- Power, reset and security conditions (R28, R52, R54, R55). `unplug` is LMP_UNPLUG.STEP; `halted` is step 1 of R55 or FATAL; `unplugWarn`,
`tamper`, `lcChange` and `lcDriven` are what the inputs carry; `secLatch` is an event of R52 that came before island C was up. -/
structure Control where
  powered : Bool
  inReset : Bool
  service : Bool
  arrRstN : Bool
  winClosed : Bool
  unplugWarn : Bool
  unplug : Nat
  halted : Bool
  tamper : Bool
  lcChange : Bool
  lcValid : Bool
  lcState : BitVec 2
  lcChanges : Nat
  secLatch : Bool
  lcDriven : BitVec 2
  svcPresent : Bool
  capture : Tbl (Option (Nat × Reg))
  deriving DecidableEq, Repr

/-- The last value driven on the outputs of one station channel (R35). -/
structure StnPins where
  rv : Bool
  rd : Beat
  rchk : BeatChk
  rtag : Tag
  rlast : Bool
  wcrd : Bool
  ov : Bool
  op : BitVec 448
  otag : Tag
  deriving DecidableEq, Repr

/-- Reset values of a station channel. -/
def StnPins.zero : StnPins := ⟨false, 0, 0, 0, false, false, false, 0, 0⟩

/-- The last value driven on each output of R30, R38, R42, R48 and R50. -/
structure Pins where
  cmdAck : Bool
  stsReq : Bool
  stsKind : Bool
  stsData : BitVec 128
  ntfReq : Bool
  ntfTag : Tag
  stn : Tbl StnPins
  afv : BitVec 34
  afd : BitVec 1088
  wfv : BitVec 33
  wfd : BitVec 1056
  wfpt : BitVec 132
  o0 : Option Flit
  o1 : Option Flit
  i0crd : Bool
  i1crd : Bool
  qreq : Bool
  qva : BitVec 64
  qid : BitVec 4
  qunit : BitVec 4
  qwr : Bool
  sack : Bool
  quiesced : Bool
  zeroDone : Bool
  fuseReq : Bool
  fuseAddr : BitVec 8
  svcAck : Bool
  svcRdata : Reg
  deriving DecidableEq, Repr

/-- The state of the fabric. `regs` holds every register of R392 that stores what is written or counts, by offset, where it differs
from its reset value; `freeCtr` is the model's own counter for open values; `pending` the commands not yet taken. -/
structure State where
  pending : List Instr
  regs : Tbl Reg
  shf : Sheaf
  mil : Millers
  crt : Carters
  arr : ArrayUnit
  hay : Hayloft
  asy : Assayer
  noc : Noc
  hab : Haberdasher
  rng : Rings
  thr : Thresher
  tly : Tallyman
  isl : Tbl Island
  tnk : Tinker
  ctl : Control
  pin : Pins
  freeCtr : Nat
  deriving DecidableEq, Repr

/-! ### Reset -/

/-- The value of an island at reset: LMP_FCURi of R392. -/
def Island.init (i : Nat) : Island :=
  ⟨false, 0, if i = 0 then 0xA0 else if i = 9 then 0x40 else 0x50, none, 0, false, true, 0, 0, []⟩

/-- Working wheels at reset (R127): even slots of port 0 RESERVED AF and odd OWNED V0; even slots of port 1 OWNED V1, odd OWNED WF. -/
def wheelReset : Tbl Reg :=
  (List.range 4).map (fun q => (q, 0x43804380)) ++ (List.range 4).map (fun q => (4 + q, 0x41444144))

/-- Every output at its reset value (R28). -/
def Pins.reset : Pins :=
  ⟨false, false, false, 0, false, 0, [], 0, 0, 0, 0, 0, none, none, false, false, false, 0, 0, 0, false, false, false, false,
    false, 0, false, 0⟩

/-- An outbound channel at reset: no credit (R27). -/
def OutChan.init : OutChan := ⟨0, 0, 0, false⟩

/-- The state while `pwr_rst_n` is asserted in a fabric that has just been powered (R28, R336, R389, R392). -/
def State.reset : State where
  pending := []
  regs := []
  shf := ⟨[], [], [], [], []⟩
  mil := ⟨[], [], [], [], [], []⟩
  crt := ⟨wheelReset, 0, [], [], [], 0, [], [], 0, [], []⟩
  arr := ⟨[], 0, none, 0, none, [], [], 0, 0, [], [], [], false, false, 0, 0, false, 0, 0⟩
  hay := ⟨[], [], [], [], [], 0, [], [], [], false, 0⟩
  asy := ⟨[], [], [], [], none⟩
  noc := ⟨OutChan.init, OutChan.init, false, 0, 0, 0, [], [], [], [], []⟩
  hab := ⟨[], []⟩
  rng := ⟨[], [], [], [], 0, [], 0, [], none⟩
  thr := ⟨[], 0, none⟩
  tly := ⟨[], [], 0, 0, [], 0, [], [], none, [], none, [], none, none⟩
  isl := []
  tnk := ⟨[], [], none, [], [], 0, 0, [], 0, 0, 0, [], [], [], 0, none, [], 0, false, false, [], 0, false, false, 0, false, none⟩
  ctl := ⟨true, true, false, false, false, false, 0, false, false, false, false, 0, 0, false, 0, false, []⟩
  pin := Pins.reset
  freeCtr := 0

end Sys2Proof.Machine
end

