-- ==== Sys2Proof/Machine/Bits.lean ====
section
/-! DEFINITION. Bit fields, bytes and sparse tables: the helpers every later file uses. All values are little-endian. -/

namespace Sys2Proof.Machine

/-- The field [hi:lo] of a vector, as a number. -/
def fld {n : Nat} (x : BitVec n) (hi lo : Nat) : Nat := (x.toNat >>> lo) % 2 ^ (hi - lo + 1)

/-- Bit `i` of a vector. -/
def bit {n : Nat} (x : BitVec n) (i : Nat) : Bool := x.getLsbD i

/-- A number placed with its bit 0 at `lo`. -/
def put {n : Nat} (v lo : Nat) : BitVec n := BitVec.ofNat n (v <<< lo)

/-- 1 or 0. -/
def b2n (b : Bool) : Nat := if b then 1 else 0

/-- The field read as two's complement of `w` bits. -/
def signed (w v : Nat) : Int := if v < 2 ^ (w - 1) then (v : Int) else (v : Int) - (2 ^ w : Nat)

/-- Byte `i` of a vector. -/
def byteAt {n : Nat} (x : BitVec n) (i : Nat) : Byte := x.extractLsb' (8 * i) 8

/-- 64-bit word `i` of a vector. -/
def wordAt {n : Nat} (x : BitVec n) (i : Nat) : Word := x.extractLsb' (64 * i) 64

/-- The number whose little-endian bytes are listed. -/
def ofBytes : List Byte → Nat
  | [] => 0
  | b :: r => b.toNat + 256 * ofBytes r

/-- The number whose little-endian 64-bit words are listed. -/
def ofWords : List Word → Nat
  | [] => 0
  | w :: r => w.toNat + 2 ^ 64 * ofWords r

/-- The first `k` bytes of a vector. -/
def bytes {n : Nat} (k : Nat) (x : BitVec n) : List Byte := (List.range k).map (byteAt x)

/-- ⌈a / b⌉. -/
def ceilDiv (a b : Nat) : Nat := (a + b - 1) / b

/-- What the table holds at `k`, `d` where it lists nothing. -/
def tget {α : Type} (d : α) : Tbl α → Nat → α
  | [], _ => d
  | (a, v) :: r, k => if a = k then v else tget d r k

/-- List `k` with value `v`, in order. -/
def tput {α : Type} (k : Nat) (v : α) : Tbl α → Tbl α
  | [] => [(k, v)]
  | (a, w) :: r =>
    if k < a then (k, v) :: (a, w) :: r
    else if a = k then (k, v) :: r
    else (a, w) :: tput k v r

/-- List `k` no more. -/
def tdel {α : Type} (k : Nat) : Tbl α → Tbl α
  | [] => []
  | (a, w) :: r => if a = k then tdel k r else (a, w) :: tdel k r

/-- Give `k` the value `v`; a table lists no default. -/
def tset {α : Type} [DecidableEq α] (d : α) (t : Tbl α) (k : Nat) (v : α) : Tbl α :=
  if v = d then tdel k t else tput k v t

/-- The canonical form of a table: keys strictly rising and no default listed. -/
def twf {α : Type} [DecidableEq α] (d : α) : Tbl α → Bool
  | [] => true
  | [(_, v)] => decide (v ≠ d)
  | (a, v) :: (b, w) :: r => decide (a < b) && decide (v ≠ d) && twf d ((b, w) :: r)

/-- Read a byte of storage; a byte not listed is zero (log 3). -/
def Memory.read (m : Memory) (a : Nat) : Byte := tget 0 m a

/-- Write a byte of storage. -/
def Memory.write (m : Memory) (a : Nat) (b : Byte) : Memory := tset 0 m a b

/-- The canonical form of storage (log 3). -/
def Memory.wf (m : Memory) : Bool := twf (0 : Byte) m

/-- The 64-bit word at byte address `a`. -/
def Memory.read64 (m : Memory) (a : Nat) : Word :=
  BitVec.ofNat 64 (ofBytes ((List.range 8).map fun i => Memory.read m (a + i)))

/-- Write a list of bytes from address `a` upwards. -/
def Memory.writeList (m : Memory) (a : Nat) : List Byte → Memory
  | [] => m
  | b :: r => Memory.writeList (Memory.write m a b) (a + 1) r

/-- Write a 64-bit word at byte address `a`. -/
def Memory.write64 (m : Memory) (a : Nat) (w : Word) : Memory := Memory.writeList m a (bytes 8 w)

/-- Every byte of a range zero. -/
def Memory.clear (m : Memory) (a n : Nat) : Memory := m.filter fun c => !(decide (a ≤ c.1) && decide (c.1 < a + n))

/-- The list with its `i`-th element removed. -/
def dropAt {α : Type} (i : Nat) (l : List α) : List α := l.take i ++ l.drop (i + 1)

/-- The position of the first element that satisfies `p`. -/
def findPos {α : Type} (p : α → Bool) : List α → Option Nat
  | [] => none
  | a :: r => if p a then some 0 else (findPos p r).map (· + 1)

/-- The first number below `n` at or after `start`, with wrap-around, that satisfies `p`. -/
def rotFind (n start : Nat) (p : Nat → Bool) : Option Nat :=
  ((List.range n).map fun i => (start + i) % n).find? p

/-- Every number of a list, in order, without repeats. -/
def dedup : List Nat → List Nat
  | [] => []
  | a :: r => a :: (dedup r).filter (fun b => b ≠ a)

end Sys2Proof.Machine
end

