-- ==== Sys2Proof/Machine/Numeric.lean ====
section
/-! DEFINITION. The number formats of R90 and exact arithmetic on them: decoding, addition, multiplication, and the one rounding of R183,
R193 and R194. A finite number is a sign, a magnitude and a power of two, so every intermediate result is exact. -/

namespace Sys2Proof.Machine

/-- A number as the Millers see it; `fin n m e` is m × 2^e with sign `n`, so that −0 is `fin true 0 0`. -/
inductive Num where
  | nan
  | inf (neg : Bool)
  | fin (neg : Bool) (m : Nat) (e : Int)
  deriving DecidableEq, Repr, Inhabited

/-- Which codes of a format are no finite number: all-ones exponents as in IEEE 754, one NaN code as in E4M3, or none (R191). -/
inductive Special where
  | ieee | oneNan | none
  deriving DecidableEq, Repr, Inhabited

/-- A binary floating-point format: exponent bits, fraction bits, special codes. -/
structure Fmt where
  ex : Nat
  fr : Nat
  sp : Special
  deriving DecidableEq, Repr, Inhabited

def fmtFp32 : Fmt := ⟨8, 23, .ieee⟩
def fmtBf16 : Fmt := ⟨8, 7, .ieee⟩
def fmtFp16 : Fmt := ⟨5, 10, .ieee⟩
def fmtE4m3 : Fmt := ⟨4, 3, .oneNan⟩
def fmtE5m2 : Fmt := ⟨5, 2, .ieee⟩
def fmtE3m2 : Fmt := ⟨3, 2, .none⟩
def fmtE2m3 : Fmt := ⟨2, 3, .none⟩
def fmtE2m1 : Fmt := ⟨2, 1, .none⟩

/-- Exponent bias. -/
def Fmt.bias (f : Fmt) : Int := (2 ^ (f.ex - 1) : Nat) - 1

/-- The weight of the last place of a subnormal, as a power of two. -/
def Fmt.emin (f : Fmt) : Int := 1 - f.bias - f.fr

/-- Decode a code of a format. -/
def Fmt.decode (f : Fmt) (c : Nat) : Num :=
  let neg := c.testBit (f.ex + f.fr)
  let e := c / 2 ^ f.fr % 2 ^ f.ex
  let m := c % 2 ^ f.fr
  let ones := decide (e = 2 ^ f.ex - 1)
  if f.sp = .ieee ∧ ones then (if m = 0 then .inf neg else .nan)
  else if f.sp = .oneNan ∧ ones ∧ m = 2 ^ f.fr - 1 then .nan
  else if e = 0 then .fin neg m f.emin
  else .fin neg (m + 2 ^ f.fr) (f.emin + e - 1)

/-- The number of bits of a magnitude. -/
def bitLen (m : Nat) : Nat := if m = 0 then 0 else m.log2 + 1

/-- How a rounding chooses between the two neighbours: nearest with ties to even, or by a 16-bit draw (R194). -/
inductive RMode where
  | nearest
  | draw (r : Nat)
  deriving DecidableEq, Repr

/-- m / 2^k rounded to an integer. -/
def roundShift (mode : RMode) (m k : Nat) : Nat :=
  let q := m / 2 ^ k
  let r := m % 2 ^ k
  match mode with
  | .nearest => if 2 * r > 2 ^ k ∨ (2 * r = 2 ^ k ∧ q % 2 = 1) then q + 1 else q
  | .draw d => if r * 65536 / 2 ^ k + d ≥ 65536 then q + 1 else q

/-- m × 2^e in units of 2^q, rounded. -/
def roundAt (mode : RMode) (m : Nat) (e q : Int) : Nat :=
  if q ≤ e then m * 2 ^ (e - q).toNat else roundShift mode m (q - e).toNat

/-- The magnitude code of m × 2^e in a format whose exponents have no upper bound (R183, R193). Codes beyond the format's own stand for
larger magnitudes, in order. -/
def Fmt.roundMag (f : Fmt) (mode : RMode) (m : Nat) (e : Int) : Nat :=
  if m = 0 then 0
  else
    let q := max (e + bitLen m - (f.fr + 1)) f.emin
    (q - f.emin).toNat * 2 ^ f.fr + roundAt mode m e q

/-- The quiet NaN of R183. -/
def fpNan : BitVec 32 := 0x7FC00000#32

/-- Round to FP32 (R183). -/
def Num.toFp32 : Num → BitVec 32
  | .nan => fpNan
  | .inf n => BitVec.ofNat 32 (0x7F800000 + b2n n * 2 ^ 31)
  | .fin n m e => BitVec.ofNat 32 (min (fmtFp32.roundMag .nearest m e) 0x7F800000 + b2n n * 2 ^ 31)

/-- Decode an FP32 element. -/
def fp32 (c : BitVec 32) : Num := fmtFp32.decode c.toNat

/-- The number is NaN or infinite. -/
def Num.nonfinite : Num → Bool
  | .fin .. => false
  | _ => true

/-- Negate. -/
def Num.neg : Num → Num
  | .nan => .nan | .inf n => .inf (!n) | .fin n m e => .fin (!n) m e

/-- Exact sum; an exact zero is +0 unless both addends are −0 (R183). -/
def Num.add : Num → Num → Num
  | .nan, _ => .nan
  | _, .nan => .nan
  | .inf a, .inf b => if a = b then .inf a else .nan
  | .inf a, .fin .. => .inf a
  | .fin .., .inf b => .inf b
  | .fin n m e, .fin n' m' e' =>
    let q := min e e'
    let a : Int := (m * 2 ^ (e - q).toNat : Nat)
    let b : Int := (m' * 2 ^ (e' - q).toNat : Nat)
    let t := (if n then -a else a) + (if n' then -b else b)
    if t = 0 then .fin (decide (m = 0 ∧ m' = 0) && n && n') 0 q
    else .fin (decide (t < 0)) t.natAbs q

/-- Exact product. -/
def Num.mul : Num → Num → Num
  | .nan, _ => .nan
  | _, .nan => .nan
  | .inf a, .inf b => .inf (a != b)
  | .inf a, .fin n m _ => if m = 0 then .nan else .inf (a != n)
  | .fin n m _, .inf b => if m = 0 then .nan else .inf (n != b)
  | .fin n m e, .fin n' m' e' => .fin (n != n') (m * m') (e + e')

/-- Scale by 2^k. -/
def Num.scale (k : Int) : Num → Num
  | .fin n m e => .fin n m (e + k)
  | x => x

/-- FP32 sum with one rounding. -/
def fadd (a b : BitVec 32) : BitVec 32 := ((fp32 a).add (fp32 b)).toFp32

/-- FP32 difference with one rounding. -/
def fsub (a b : BitVec 32) : BitVec 32 := ((fp32 a).add (fp32 b).neg).toFp32

/-- a + b × c with one rounding (R185, R187). -/
def fma (a b c : BitVec 32) : BitVec 32 := ((fp32 a).add ((fp32 b).mul (fp32 c))).toFp32

/-- An FP32 element is NaN. -/
def isNan (a : BitVec 32) : Bool := decide (fp32 a = .nan)

/-- An FP32 element is NaN or infinite. -/
def isNonfin (a : BitVec 32) : Bool := (fp32 a).nonfinite

/-- The order of FP32 patterns that are not NaN, −0 below +0 (R188). -/
def fpKey (a : BitVec 32) : Int :=
  if bit a 31 then -((a.toNat % 2 ^ 31 : Nat) : Int) - 1 else (a.toNat : Int)

/-- max of R188. -/
def fmax (a b : BitVec 32) : BitVec 32 :=
  if isNan a || isNan b then fpNan else if fpKey a < fpKey b then b else a

/-- min of R188. -/
def fmin (a b : BitVec 32) : BitVec 32 :=
  if isNan a || isNan b then fpNan else if fpKey b < fpKey a then b else a

/-- |a|. -/
def fabs (a : BitVec 32) : BitVec 32 := a &&& 0x7FFFFFFF#32

end Sys2Proof.Machine
end

