-- ==== Sys2Proof/Machine/Secded.lean ====
section
/-! DEFINITION. The one check code of the fabric, (72,64) SEC-DED (R394), and the CRC-32 of a descriptor image (R212). -/

namespace Sys2Proof.Machine

/-- Position of each data bit: the positions 1 to 71 that are no power of two, ascending (R394). -/
def dataPos : List Nat :=
  (List.range 72).filter fun p => p ≠ 0 && !([1, 2, 4, 8, 16, 32, 64].contains p)

/-- The exclusive OR of the positions of the data bits that are 1: check bits c[6:0] (R394). -/
def checkLow (d : Word) : Nat :=
  (dataPos.zipIdx).foldl (fun s pi => if bit d pi.2 then s ^^^ pi.1 else s) 0

/-- The parity of a number of at most `n` bits. -/
def parity (n v : Nat) : Bool := (List.range n).foldl (fun s i => s != v.testBit i) false

/-- The check byte of a 64-bit word (R394). -/
def checkByte (d : Word) : Byte :=
  let c := checkLow d
  BitVec.ofNat 8 (c + (if parity 64 d.toNat != parity 7 c then 128 else 0))

/-- The outcome of testing a word against its check byte (R394). -/
inductive EccRes where
  | good | corrected | uncorr
  deriving DecidableEq, Repr, Inhabited

/-- Test and correct a word: the word to use and the outcome. A single-bit error in a check bit leaves the data as they are. -/
def eccTest (d : Word) (c : Byte) : Word × EccRes :=
  let s := checkLow d ^^^ (c.toNat % 128)
  let p := parity 64 d.toNat != parity 8 c.toNat
  if s = 0 then (if p then (d, .corrected) else (d, .good))
  else if p then
    (if s ≤ 71 then
      match findPos (fun q => q == s) dataPos with
      | some i => (d ^^^ (1#64 <<< i), .corrected)
      | none => (d, .corrected)
    else (d, .uncorr))
  else (d, .uncorr)

/-- Check bits that leave a word uncorrectable: two check bits differ from the good ones, so the syndrome is not zero and the
parity is even (R137, R252). -/
def badCheck (d : Word) : Byte := checkByte d ^^^ 3#8

/-- The check bits of a beat of good words (R133). -/
def beatChk (b : Beat) : BeatChk :=
  BitVec.ofNat 256 (ofBytes ((List.range 32).map fun i => checkByte (wordAt b i)))

/-- One bit of the IEEE 802.3 CRC-32, reflected. -/
def crcBit (c : BitVec 32) : BitVec 32 :=
  if bit c 0 then (c >>> 1) ^^^ 0xEDB88320#32 else c >>> 1

/-- One byte of the CRC-32. -/
def crcByte (c : BitVec 32) (b : Byte) : BitVec 32 :=
  (List.range 8).foldl (fun c _ => crcBit c) (c ^^^ b.zeroExtend 32)

/-- The CRC-32 of IEEE 802.3 over a list of bytes (R212). -/
def crc32 (l : List Byte) : BitVec 32 := ~~~ (l.foldl crcByte 0xFFFFFFFF#32)

end Sys2Proof.Machine
end

