-- ==== Sys2Proof/Machine/RegMap.lean ====
section
/-! DEFINITION. The register map (17): every offset of R392 with its reset value and the bits a write may change, the islands that hold
the pages (R384), and the stored value of a register. -/

namespace Sys2Proof.Machine

/-- What R392 and the register tables say of one register: its reset value, its RW bits and its RWB bits. -/
structure RegSpec where
  reset : Reg
  rw : Reg
  rwb : Reg
  deriving DecidableEq, Repr

/-- `n` offsets from `base`, `step` apart. -/
def series (base step n : Nat) : List Nat := (List.range n).map fun i => base + step * i

/-- Offsets of the registers that count under R141: 32 bits, RW, reset 0. -/
def counterOffs : List Nat :=
  [0x1040, 0x1044, 0x1048, 0x104C, 0x1050] ++ series 0x1060 4 8
  ++ series 0x2080 0x10 6 ++ series 0x2084 0x10 6 ++ series 0x2088 0x10 6 ++ series 0x208C 0x10 6
  ++ series 0x2100 4 16 ++ [0x21A0, 0x21A4, 0x21B0, 0x21C0]
  ++ series 0x3040 4 6 ++ [0x4010, 0x4014, 0x4018]
  ++ series 0x5040 0x10 8 ++ series 0x5044 0x10 8 ++ series 0x5048 0x10 8 ++ series 0x504C 0x10 8 ++ series 0x50C0 4 5
  ++ series 0x6040 4 5 ++ series 0x7030 4 4 ++ series 0x8040 4 5 ++ series 0x9040 4 6 ++ series 0xA040 4 5
  ++ series 0xB040 4 7 ++ series 0xC140 4 11 ++ [0xC180]

/-- Offsets of the registers with no bit a plain write stores: read-only, write-only and derived ones (R392). -/
def derivedOffs : List Nat :=
  [0x0008, 0x1008, 0x2060, 0x2064] ++ series 0x2140 4 16 ++ series 0x2180 4 3 ++ series 0x3010 4 3 ++ [0x3030, 0x3034]
  ++ [0x4000, 0x4004, 0x4008, 0x5004, 0x6004, 0x6008, 0x6028, 0x6030, 0x700C, 0x7024] ++ series 0x7140 4 13
  ++ [0x8000, 0x800C, 0x8010, 0x8014, 0x8018, 0x9000, 0x9004, 0x9008, 0x9010, 0x9014, 0x9018, 0xA00C, 0xA010, 0xB004]
  ++ series 0xB100 4 64 ++ series 0xC040 4 11 ++ series 0xC0C0 4 11 ++ [0xC108, 0xC10C]
  ++ [0xD00C, 0xD014, 0xD01C, 0xD020, 0xD024, 0xD02C, 0xD030, 0xD038] ++ series 0xD040 4 8 ++ [0xD060]
  ++ series 0xD064 4 5 ++ series 0xD088 4 5 ++ series 0xD0A0 4 4 ++ [0xE000, 0xE004, 0xE008, 0xE00C]

/-- The reset value of a stored register that is not a counter, with its RW and RWB masks (register tables of each chapter). -/
def plainSpec (off : Nat) : Option RegSpec :=
  if off = 0x0000 then some ⟨0, 0x0000FFFF, 0⟩
  else if off = 0x0004 then some ⟨0x1000, 0x0000FFFF, 0⟩
  else if off = 0x1000 then some ⟨4, 0xF, 0⟩
  else if off = 0x1004 then some ⟨1, 0xFFFFFFFF, 0⟩
  else if (series 0x2000 4 4).contains off then some ⟨0x43804380, 0xCFCFCFCF, 0⟩
  else if (series 0x2010 4 4).contains off then some ⟨0x41444144, 0xCFCFCFCF, 0⟩
  else if (series 0x2020 4 16).contains off then some ⟨0, 0xCFCFCFCF, 0⟩
  else if (series 0x3000 4 2).contains off then some ⟨0, 0, 0xFFFFFFFF⟩
  else if off = 0x3008 then some ⟨0, 0, 0xF⟩
  else if (series 0x3020 4 2).contains off then some ⟨0, 0, 0xFFFFFFFF⟩
  else if off = 0x3028 then some ⟨0, 0, 0x3⟩
  else if off = 0x400C then some ⟨0x400, 0xFFFF, 0⟩
  else if off = 0x5000 then some ⟨0, 0x1F3F, 0⟩
  else if off = 0x6000 then some ⟨0x4000, 0, 0x3FC0⟩
  else if off = 0x6010 then some ⟨0, 0xFF, 0⟩
  else if off = 0x6014 then some ⟨0, 0xF, 0⟩
  else if off = 0x6018 then some ⟨0, 0xFFFFF000, 0⟩
  else if off = 0x601C then some ⟨0, 0xFFFFFFFF, 0⟩
  else if off = 0x6020 then some ⟨0, 0xFFFFF000, 0⟩
  else if off = 0x6024 then some ⟨0, 0xFFFFFFFF, 0⟩
  else if off = 0x7000 then some ⟨0xD, 0xF, 0⟩
  else if off = 0x7004 then some ⟨0, 0x007F03FF, 0⟩
  else if off = 0x7008 then some ⟨0x00080038, 0, 0x001F003F⟩
  else if off = 0x7020 then some ⟨0, 0xFFFFFFFF, 0⟩
  else if off = 0x7028 then some ⟨0x1000, 0xFFFF, 0⟩
  else if off = 0x7100 then some ⟨0, 0x3F, 0⟩
  else if off = 0x8004 then some ⟨1, 1, 0⟩
  else if off = 0x8008 then some ⟨0, 0x7FFF, 0⟩
  else if off = 0x900C then some ⟨0, 0x1FF, 0⟩
  else if off = 0xA000 then some ⟨0, 0xFFFFF000, 0⟩
  else if off = 0xA004 then some ⟨0, 0xFFFFFFFF, 0⟩
  else if off = 0xA008 then some ⟨0, 3, 0⟩
  else if off = 0xB000 then some ⟨0x200, 0x3FF, 0⟩
  else if off = 0xC000 then some ⟨0xA0, 0xFF, 0⟩
  else if off = 0xC024 then some ⟨0x40, 0xFF, 0⟩
  else if (series 0xC004 4 10).contains off then some ⟨0x50, 0xFF, 0⟩
  else if off = 0xC080 then some ⟨0xB028, 0, 0xFFFF⟩
  else if off = 0xC0A4 then some ⟨0x4810, 0, 0xFFFF⟩
  else if (series 0xC084 4 10).contains off then some ⟨0x5814, 0, 0xFFFF⟩
  else if off = 0xC100 then some ⟨0, 0, 0x7FF⟩
  else if off = 0xC104 then some ⟨0x4628, 0xFFFF, 0⟩
  else if off = 0xD000 then some ⟨0x100, 0xFFFF, 0⟩
  else if off = 0xD008 then some ⟨0x0001001F, 0, 0xFFFFF03F⟩
  else if off = 0xD010 then some ⟨0, 0xFF00FFFF, 0⟩
  else if off = 0xD018 then some ⟨0, 0xFF, 0⟩
  else if off = 0xD028 then some ⟨0, 0x3F, 0⟩
  else if off = 0xD034 then some ⟨0, 0x7F, 0⟩
  else if off = 0xD080 then some ⟨0, 0xFFFE0003, 0⟩
  else if off = 0xD084 then some ⟨0, 0x3FF, 0⟩
  else none

/-- The stored reset value of a register that plain writes do not change but the fabric does (R173, R392). -/
def derivedReset (off : Nat) : Reg :=
  if off = 0x4000 then 0x20 else if off = 0x4004 then 0x2120 else 0

/-- The register at an offset, none where R392 lists none (R11). -/
def regSpec (off : Nat) : Option RegSpec :=
  if counterOffs.contains off then some ⟨0, 0xFFFFFFFF, 0⟩
  else if derivedOffs.contains off then some ⟨derivedReset off, 0, 0⟩
  else plainSpec off

/-- The stored value at an offset, its reset value where `regs` lists none. -/
def rget (s : State) (off : Nat) : Reg :=
  tget (match regSpec off with | some r => r.reset | none => 0) s.regs off

/-- Store a value at an offset. -/
def rset (off : Nat) (v : Reg) (s : State) : State :=
  { s with regs := tset (match regSpec off with | some r => r.reset | none => 0) s.regs off v }

/-- Add to a counter, which stops at 0xFFFF_FFFF (R141). -/
def cnt (off n : Nat) (s : State) : State :=
  rset off (BitVec.ofNat 32 (min 0xFFFFFFFF ((rget s off).toNat + n))) s

/-- The island that holds a register: the island codes of R342, by page (R384). -/
def regIsland (off : Nat) : Nat :=
  let page := off / 0x1000
  if page = 2 ∨ page = 3 ∨ page = 4 then 0
  else if page = 5 ∨ page = 6 ∨ page = 7 ∨ page = 0xB then 9
  else if 0x1060 ≤ off ∧ off < 0x1080 then 1 + (off - 0x1060) / 4
  else 10

end Sys2Proof.Machine
end

