-- ==== Sys2Proof/Machine/Ops.lean ====
section
/-! DEFINITION. The named operations every subsystem shares: the error log and trace buffer (R377, R378), tags and replies (R325, R34, R311),
hazards and fences (R62, R71, R72), stopping with a resume record (R329), and waking banks and groups (R110, R255). -/

namespace Sys2Proof.Machine

/-- Islands by the codes of R342. -/
def islA : Nat := 0
def islH : Nat := 9
def islC : Nat := 10

/-! ### Log and trace -/

/-- An island's clock (R345). -/
def islOf (s : State) (i : Nat) : Island := tget (Island.init i) s.isl i

/-- Set an island. -/
def setIsl (i : Nat) (x : Island) (s : State) : State := { s with isl := tset (Island.init i) s.isl i x }

/-- Change an island. -/
def updIsl (i : Nat) (f : Island → Island) (s : State) : State := setIsl i (f (islOf s i)) s

/-- An island has left reset, is not switched off, and has a clock: nothing proceeds in it otherwise (R347, R355, R372). -/
def running (s : State) (i : Nat) : Bool := (islOf s i).up && (islOf s i).lock

/-- The low half of an island's cycle counter, with which it stamps its entries (R312, R377; log 5). -/
def stamp (s : State) (isl : Nat) : BitVec 32 := (islOf s isl).cyc.extractLsb' 0 32

/-- Record a trace event (R378): only while RUN is 1 and its MASK bit is set; a full buffer wraps (MODE 0) or clears RUN (MODE 1). -/
def traceEv (ev isl unit loc info : Nat) (s : State) : State :=
  let c := rget s 0xD080
  if bit c 0 && bit c (17 + ev) then
    let e : LogEnt := ⟨stamp s isl, isl, ev, unit, loc, info⟩
    if s.tnk.trace.length < 1024 then { s with tnk := { s.tnk with trace := s.tnk.trace ++ [e] } }
    else if bit c 1 then rset 0xD080 (c &&& 0xFFFFFFFE) s
    else { s with tnk := { s.tnk with trace := s.tnk.trace.set s.tnk.traceOld e, traceOld := (s.tnk.traceOld + 1) % 1024 } }
  else s

/-- Kinds of R377 that TNK_LOGFIRST holds: uncorrectable words, UNCORR from memory, FATAL. -/
def isBadKind (k : Nat) : Bool := k == 2 || k == 4 || k == 5 || k == 0x0A

/-- Add an entry to the error log (R377): dropped and counted when the FIFO holds 64; the first bad entry is also held. -/
def logErr (kind isl unit loc info : Nat) (s : State) : State :=
  let e : LogEnt := ⟨stamp s isl, isl, kind, unit, loc, info⟩
  let t := s.tnk
  let t := if t.log.length < 64 then { t with log := t.log ++ [e] } else { t with lost := min 0xFFFF (t.lost + 1) }
  let t := if isBadKind kind && t.firstBad.isNone then { t with firstBad := some e } else t
  traceEv 9 isl unit loc info { s with tnk := t }

/-- An input the fabric cannot use (R29): it changes no other state and is logged. -/
def unusable (isl unit loc info : Nat) (s : State) : State := logErr 0x07 isl unit loc info s

/-- The first run of credit returns of an outbound channel has ended: its total is fixed (R43). -/
def OutChan.close (c : OutChan) : OutChan := if c.total = 0 then c else { c with fixed := true }

/-- The island that takes what crosses (R348). -/
def crossRx (c : Nat) : Nat :=
  if c < 56 then (match c % 7 with | 1 => islA | 3 => islA | 5 => islC | _ => 1 + c / 7)
  else match c with | 56 => islH | 58 => islH | 60 => islH | 57 => islA | 62 => islA | _ => islC

/-- Entries of a crossing's FIFO (R348). -/
def crossDepth (c : Nat) : Nat :=
  if c < 56 then (match c % 7 with | 1 => 8 | 2 => 8 | 6 => 8 | _ => 4) else if c < 60 then 8 else 4

/-- The entries that lie in a crossing: none while its receiver runs (R20, R348; log 50). -/
def crossOcc (s : State) (c : Nat) : Nat := if running s (crossRx c) then 0 else tget 0 s.crt.cross c

/-- A crossing has a free entry; a sender without one holds what it has (R20). -/
def canCross (s : State) (c : Nat) : Bool := decide (crossOcc s c < crossDepth c)

/-- Send an entry into a crossing. -/
def crossIn (c : Nat) (s : State) : State :=
  if running s (crossRx c) then s else { s with crt := { s.crt with cross := tset 0 s.crt.cross c (tget 0 s.crt.cross c + 1) } }

/-- A bank group's power (R109). -/
def groupOf (s : State) (g : Nat) : PwrUnit := tget PwrUnit.on s.shf.groups g

/-- ON and serving (R109, R353). -/
def PwrUnit.ready (u : PwrUnit) : Bool := decide (u.st = .on) && u.entering.isNone

/-- The group of a bank island. -/
def islGroup (i : Nat) : Option Nat := if 1 ≤ i ∧ i ≤ 8 then some (i - 1) else none

/-- An island is powered and clocked: it has left reset, and a bank island's group is ON (R350, R353). -/
def islActive (s : State) (i : Nat) : Bool :=
  running s i && match islGroup i with | some g => (groupOf s g).ready | none => true

/-- Whole cycles that island `i` makes in one c-cycle at the frequencies and stretches in force (R346, R351). -/
def cyclesPer (s : State) (i : Nat) : Nat :=
  (islOf s i).freq * (4 + (islOf s islC).stretch) / ((islOf s islC).freq * (4 + (islOf s i).stretch))

/-- One c-cycle on an island's cycle counter (R312): one for island C; for another as many as it makes, and one more or not as the phases
of the clocks have it (log 5). -/
def countIsl (s : State) (i : Nat) : State :=
  if !islActive s i then s
  else if i = islC then updIsl i (fun x => { x with cyc := x.cyc + 1 }) s
  else
    let n := cyclesPer s i + Config.freePick s.freeCtr % 2
    { updIsl i (fun x => { x with cyc := x.cyc + BitVec.ofNat 64 n }) s with freeCtr := s.freeCtr + 1 }

/-- A c-cycle in which nothing is commanded (log 6): the islands' cycle counters go on (R312), HAB_MISSWAIT counts when a command waits on a
context fetch (R304), and a run of credit returns ends (R43). -/
def tick (s : State) : State :=
  if s.ctl.powered && !s.ctl.inReset && running s islC then
    let s := if s.tly.tags.any fun p => !p.2.ctxWait.isEmpty then cnt 0xA050 1 s else s
    (List.range 11).foldl countIsl { s with noc := { s.noc with o0 := s.noc.o0.close, o1 := s.noc.o1.close } }
  else s

/-! ### Tags -/

/-- The entry of a tag. -/
def tagOf (s : State) (t : Tag) : TagEntry := tget TagEntry.free s.tly.tags t.toNat

/-- Set the entry of a tag. -/
def setTag (t : Tag) (e : TagEntry) (s : State) : State :=
  { s with tly := { s.tly with tags := tset TagEntry.free s.tly.tags t.toNat e } }

/-- Change the entry of a tag. -/
def updTag (t : Tag) (f : TagEntry → TagEntry) (s : State) : State := setTag t (f (tagOf s t)) s

/-- Change the progress of a tag's command. -/
def updJob (t : Tag) (f : Job → Job) (s : State) : State := updTag t (fun e => { e with job := f e.job }) s

/-- Header fields (R306). -/
def hdrStream (h : Word) : Nat := fld h 49 42
def hdrCtx (h : Word) : Nat := fld h 41 26
def hdrTag (h : Word) : Tag := h.extractLsb' 16 9
def hdrPrio (h : Word) : Nat := fld h 15 12
def hdrReuse (h : Word) : Bool := bit h 11
def hdrNotify (h : Word) : Bool := bit h 10
def hdrFAfter (h : Word) : Bool := bit h 9
def hdrFBefore (h : Word) : Bool := bit h 8
def hdrOp (h : Word) : Nat := fld h 7 0
def hdrFmt (h : Word) : Nat := fld h 63 56

/-- A tag is allocated. -/
def TagEntry.alloc (e : TagEntry) : Bool := decide (e.st ≠ .free)

/-- A command in flight: accepted and not completed (R325). -/
def TagEntry.inFlight (e : TagEntry) : Bool := decide (e.st = .waiting) || decide (e.st = .started)

/-- Allocated entries with their tags. -/
def allocTags (s : State) : List (Tag × TagEntry) :=
  s.tly.tags.map fun p => (BitVec.ofNat 9 p.1, p.2)

/-- Insert in ascending acceptance order. -/
def insertAcc (p : Tag × TagEntry) : List (Tag × TagEntry) → List (Tag × TagEntry)
  | [] => [p]
  | q :: r => if p.2.acc < q.2.acc then p :: q :: r else q :: insertAcc p r

/-- Number of tags in FREE (R325). -/
def freeTags (s : State) : Nat := 512 - (s.tly.tags.filter fun p => p.2.alloc).length

/-- Codes of R314. -/
def Status.code : Status → Nat
  | .ok => 0x00 | .okInfo => 0x01 | .cfgInconsistent => 0x10 | .capacity => 0x11 | .tileEmpty => 0x12 | .tilePartial => 0x13
  | .typeMismatch => 0x14 | .shapeMismatch => 0x15 | .length => 0x20 | .descInvalid => 0x21 | .descRange => 0x22
  | .overlap => 0x23 | .xlateFault => 0x24 | .ctxFetchFail => 0x30 | .ctxInvalid => 0x31 | .ringState => 0x32
  | .bucketState => 0x40 | .bucketFull => 0x41 | .preempted => 0x50 | .aborted => 0x51 | .abortedPower => 0x52
  | .eccUncorr => 0x60 | .bootLocked => 0x70 | .unsupported => 0x71 | .reservedField => 0x72 | .auditMismatch => 0x7F

/-- Reply word 0 (R311). -/
def replyW0 (ctx op : Nat) (tag : Tag) (o : Outc) : Word :=
  put ctx 48 ||| put o.detail.toNat 32 ||| put op 24 ||| put o.status.code 16 ||| put tag.toNat 0

/-- Reply word 1 (R311, R312). -/
def replyW1 (s : State) (o : Outc) : Word := put (stamp s islC).toNat 32 ||| put o.count.toNat 0

/-- Present the next transfer on `sts_` when none is outstanding (R26, R33, R34), while island C runs (R347). -/
def pumpSts (s : State) : State :=
  match s.tly.stsCur, s.tly.stsQ with
  | none, x :: r =>
    if !running s islC then s
    else
    let d : BitVec 128 := (match x with
      | .reply t => put (tagOf s t).w1.toNat 64 ||| put (tagOf s t).w0.toNat 0
      | .regData v => put v.toNat 0)
    let k := (match x with | .reply _ => false | .regData _ => true)
    { s with tly := { s.tly with stsCur := some x, stsQ := r },
             pin := { s.pin with stsReq := !s.pin.stsReq, stsKind := k, stsData := d } }
  | _, _ => s

/-- Present the next notify when none is outstanding (R34). -/
def pumpNtf (s : State) : State :=
  match s.tly.ntfCur, s.tly.ntfQ with
  | none, t :: r =>
    if !running s islC then s
    else { s with tly := { s.tly with ntfCur := some t, ntfQ := r }, pin := { s.pin with ntfReq := !s.pin.ntfReq, ntfTag := t } }
  | _, _ => s

/-- Queue a transfer on `sts_`. -/
def sendSts (x : StsXfer) (s : State) : State :=
  pumpSts { s with tly := { s.tly with stsQ := s.tly.stsQ ++ [x] } }

/-! ### Completion -/

/-- A PREEMPT that acts on a command learns that it has completed, and counts it when it was the one that stopped it (R334). -/
def noteActed (st : Status) (ps : List Tag) (s : State) : State :=
  match ps with
  | [] => s
  | p :: r =>
    let s := updJob p (fun j => { j with acted := j.acted - 1, landed := j.landed + b2n (decide (st = .preempted)) }) s
    r.foldl (fun s q => updJob q (fun j => { j with acted := j.acted - 1 }) s) s

/-- A resume record. -/
def recOf (s : State) (i : Nat) : Rec := tget Rec.init s.tly.recs i

/-- Set a resume record. -/
def setRec (i : Nat) (r : Rec) (s : State) : State :=
  { s with tly := { s.tly with recs := tset Rec.init s.tly.recs i r } }

/-- Free a resume record (R330, R332), and with it the bounce area it held (R235). -/
def freeRec (i : Nat) (s : State) : State :=
  let s := setRec i { recOf s i with st := .free, cmd := TagEntry.free } s
  { s with tly := { s.tly with bounceRec := if s.tly.bounceRec = some i then none else s.tly.bounceRec } }

/-- What a completing command holds besides its tag: the record it claimed (R331) and the bounce area (R235). -/
def dropHeld (t : Tag) (s : State) : State :=
  let s := match (tagOf s t).recSlot with | some i => freeRec i s | none => s
  { s with tly := { s.tly with bounceHeld := if s.tly.bounceHeld = some t then none else s.tly.bounceHeld } }

/-- The entry of a completed command: its touches and references have ended, and it holds its reply (R311, R325). -/
def endEntry (t : Tag) (o : Outc) (s : State) : TagEntry :=
  let e := tagOf s t
  { e with st := .replying, touches := [], refs := [], ctxWait := [], ctxBad := [], job := Job.init, recSlot := none, stop := none,
           actedBy := [], w0 := replyW0 (hdrCtx e.hdr) (hdrOp e.own) t o, w1 := replyW1 s o }

/-- Complete a command (R70, R325): its touches and references end, its reply takes its place on `sts_` (R83). -/
def finish (t : Tag) (o : Outc) (s : State) : State :=
  let u := noteActed o.status (tagOf s t).actedBy (setTag t (endEntry t o s) (dropHeld t s))
  sendSts (.reply t) (traceEv 2 islC 0 t.toNat (o.status.code + 65536 * o.count.toNat) u)

/-- An outcome from its parts. -/
def outc (st : Status) (detail count : Nat) : Outc := ⟨st, BitVec.ofNat 16 detail, BitVec.ofNat 32 count⟩

/-- Detail bits of OK_INFO (R313). -/
def bSat : BitVec 16 := 1
def bNonfin : BitVec 16 := 2
def bOob : BitVec 16 := 4
def bEcc : BitVec 16 := 8
def bCoal : BitVec 16 := 16
def bSpill : BitVec 16 := 32

/-- Note detail bits against a command. -/
def addBits (t : Tag) (b : BitVec 16) (s : State) : State := updTag t (fun e => { e with bits := e.bits ||| b }) s

/-- Note the first uncorrectable word of a command: tile, whether written, segment (rank 1 of R135, R198, R237). -/
def addUncorr (t : Tag) (tile : Nat) (wr : Bool) (seg : Nat) (s : State) : State :=
  updTag t (fun e => { e with ecc := match e.ecc with
    | some d => some d
    | none => some (BitVec.ofNat 16 (tile + 64 * b2n wr + 128 * (seg % 512))) }) s

/-! ### Resume records -/

/-- Stop a command with a resume reference (R329): the lowest free slot, its generation advanced; 0 when none is free. The record takes over
the bounce area that the command, or the record it continues, holds (R235). -/
def takeRec (t : Tag) (row : Nat) (s : State) : Nat × State :=
  match (List.range 256).find? (fun i => decide ((recOf s i).st = .free)) with
  | some i =>
    let g := (recOf s i).gen % 15 + 1
    let e := tagOf s t
    let keep := { e with st := .free, job := { Job.init with row := row, staged := e.job.staged, landed := row, bounced := e.job.bounced },
                         refs := [], ctxWait := [], ctxBad := [], recSlot := none, stop := none, actedBy := [],
                         touches := e.touches.map fun x => { x with live := true } }
    let holds := decide (s.tly.bounceHeld = some t) || (e.recSlot.isSome && decide (s.tly.bounceRec = e.recSlot))
    let br := if holds then some i else s.tly.bounceRec
    (256 * g + i, cnt 0x9048 1 { s with tly := { s.tly with recs := tset Rec.init s.tly.recs i ⟨.held, g, keep⟩, bounceRec := br } })
  | none => (0, logErr 0x0F islC 0 t.toNat 0 (cnt 0x904C 1 s))

/-- End a command stopped at point `row` with a reference in its reply (R239, R326): `hi` fills detail bits [15:12]. -/
def stopWithRef (t : Tag) (st : Status) (hi row : Nat) (s : State) : State :=
  let (ref, s) := takeRec t row s
  finish t (outc st (4096 * hi + ref) row) (traceEv 4 islC 0 t.toNat ref s)

/-- Cancel the HELD records that satisfy `p`, remembering the reply (R108, R215, R330). -/
def cancelRecs (p : TagEntry → Bool) (o : Outc) (s : State) : State :=
  { s with tly := { s.tly with
      recs := s.tly.recs.map fun r => if decide (r.2.st = .held) && p r.2.cmd then (r.1, { r.2 with st := .cancelled o }) else r,
      bounceRec := match s.tly.bounceRec with
        | some i => if decide ((recOf s i).st = .held) && p (recOf s i).cmd then none else some i
        | none => none } }

/-- A stored command touches an object other than for ordering only. -/
def TagEntry.uses (e : TagEntry) (o : Obj) : Bool := e.touches.any fun t => decide (t.obj = o) && !t.orderOnly

/-! ### Hazards and fences -/

/-- Whether a later touch waits for an earlier one (R62). -/
def waits : TClass → TClass → Bool
  | .r, .r => false | .r, .q => false | .r, _ => true
  | .a, .a => false | .a, .q => false | .a, _ => true
  | .w, .q => false | .w, _ => true
  | .c, _ => true
  | .q, _ => false

/-- Two touches are of one object; `anyCtx` is every context (R395). -/
def sameObj (a b : Obj) : Bool :=
  match a, b with
  | .anyCtx, .ctx _ => true
  | .ctx _, .anyCtx => true
  | a, b => decide (a = b)

/-- A CTXGET waits for the earlier users of its context, and the later ones for it, though its class is Q (R289, R293; log 87). -/
def ctxOrder (x y : Touch) : Bool :=
  match y.obj with
  | .ctx _ | .anyCtx => x.cls == .q || y.cls == .q
  | _ => false

/-- A later command's touches wait for an earlier command's (R62, R63). -/
def hazard (earlier later : TagEntry) : Bool :=
  earlier.touches.any fun x => x.live && later.touches.any fun y => sameObj x.obj y.obj && (waits x.cls y.cls || ctxOrder x y)

/-- A FENCE of scope SCOPE stands before a command of stream `st` (R72). -/
def fencesStream (e : TagEntry) (st : Nat) : Bool :=
  match e.cmd with
  | some (.fence all) => all || hdrStream e.hdr == st
  | _ => false

/-- An earlier command in flight that holds back a command by a fence (R71, R72) or a DREPAIR (R375). -/
def fenceHolds (x y : TagEntry) : Bool :=
  let same := hdrStream x.hdr == hdrStream y.hdr
  let isFence := match y.cmd with | some (.fence _) => true | _ => false
  (same && ((hdrFBefore y.hdr && !isFence) || (hdrFAfter x.hdr && (match x.cmd with | some (.fence _) => false | _ => true))))
  || fencesStream x (hdrStream y.hdr)
  || (match y.cmd with | some (.fence all) => all || same | some (.drepair ..) => true | _ => false)
  || (match x.cmd with | some (.drepair ..) => true | _ => false)

/-- A PREEMPT. -/
def TagEntry.isPreempt (e : TagEntry) : Bool := match e.cmd with | some (.preempt ..) => true | _ => false

/-- An earlier command that was stopped and is to be continued holds a command back by a fence (R72): it has not completed until its RESUME
has. A PREEMPT's own fence looks at commands in flight only (R334; log 72). -/
def recordHolds (s : State) (y : TagEntry) : Bool :=
  !y.isPreempt && s.tly.recs.any fun r => decide (r.2.st = .held) && decide (r.2.cmd.place < y.place) && fenceHolds r.2.cmd y

/-- Some earlier command holds this one back (R62, R64, R71, R72). -/
def heldBack (s : State) (t : Tag) : Bool :=
  let y := tagOf s t
  ((allocTags s).any fun p =>
    p.1 ≠ t && p.2.inFlight && decide (p.2.place < y.place) && (hazard p.2 y || fenceHolds p.2 y))
  || recordHolds s y

/-- End a command's touches of an object (R63). -/
def endTouch (t : Tag) (o : Obj) (s : State) : State :=
  updTag t (fun e => { e with touches := e.touches.map fun x => if x.obj = o then { x with live := false } else x }) s

/-! ### Tiles and power -/

/-- A tile register. -/
def tileOf (s : State) (t : Nat) : Tile := tget Tile.none s.shf.tiles t

/-- Set a tile register. -/
def setTile (t : Nat) (x : Tile) (s : State) : State :=
  { s with shf := { s.shf with tiles := tset Tile.none s.shf.tiles t x } }

/-- Set a bank group's power. -/
def setGroup (g : Nat) (u : PwrUnit) (s : State) : State :=
  { s with shf := { s.shf with groups := tset PwrUnit.on s.shf.groups g u } }

/-- Ask a unit to be in a state: at once when it rests in another, after the entry when it is entering another (R354). -/
def PwrUnit.goTo (u : PwrUnit) (p : PState) : PwrUnit :=
  match u.entering with
  | some x => if x = p then { u with after := none } else { u with after := some p }
  | none => if u.st = p then u else { u with entering := some p, after := none }

/-- Ask a unit to be ON (R110, R255). -/
def PwrUnit.wakeUp (u : PwrUnit) : PwrUnit := u.goTo .on

/-- The fields of SHF_GSTATE and HAY_BSTATE: 0 OFF, 1 RETENTION, 2 ON, 3 changing. -/
def PwrUnit.code (u : PwrUnit) : Nat :=
  if u.entering.isSome then 3 else match u.st with | .off => 0 | .retention => 1 | .on => 2

/-- Wake a group (R110). -/
def wakeGroup (g : Nat) (s : State) : State := setGroup g (groupOf s g).wakeUp s

/-- A logical Hayloft bank's power (R255). -/
def hbankOf (s : State) (b : Nat) : PwrUnit := tget PwrUnit.on s.hay.banks b

/-- Set a logical Hayloft bank's power. -/
def setHbank (b : Nat) (u : PwrUnit) (s : State) : State :=
  { s with hay := { s.hay with banks := tset PwrUnit.on s.hay.banks b u } }

/-- Queue a read or a write of a memory line at the endpoint (R43). -/
def askMem (r : OutReq) (s : State) : State := { s with noc := { s.noc with outQ := s.noc.outQ ++ [r] } }

/-- The logical Hayloft bank of a byte address (R244). -/
def hayBank (a : Nat) : Nat := 4 * (a / 2 ^ 20 % 4) + a / 64 % 4

/-- A read of a word at a logical address, and a write of its enabled bytes. -/
def hayRd (master addr : Nat) (be : BitVec 64) (use : HayUse) : HayAcc := ⟨master, addr, none, false, be, 0, none, false, use⟩
def hayWr (master addr : Nat) (be : BitVec 64) (data : BitVec 512) (use : HayUse) : HayAcc :=
  ⟨master, addr, none, true, be, data, none, false, use⟩

/-- Take the next open choice (log 1). -/
def pick (s : State) : Nat × State := (Config.freePick s.freeCtr, { s with freeCtr := s.freeCtr + 1 })

/-- The island in which a command is carried out: A for the array and the stations, H for the Coopers, the Assayer and the Thresher, C for
the rest. Bank arithmetic runs in the island of its group. -/
def Opcode.island : Opcode → Nat
  | .twf | .tmma | .tmmas | .tvop | .tsfu => islA
  | .tld | .tst | .tgat | .tsct | .tscta | .tperm | .dcre | .dfree | .bkopen | .bkadd | .bkclose | .bkqry => islH
  | _ => islC

/-- The command of a started tag of the given opcode, and its entry, while its island runs. -/
def started (s : State) (t : Tag) (op : Opcode) : Option TagEntry :=
  let e := tagOf s t
  match e.cmd with
  | some c => if e.st = .started && c.opcode == op && running s op.island then some e else none
  | none => none

end Sys2Proof.Machine
end

