-- ==== Sys2Proof/Machine/Storage.lean ====
section
/-! DEFINITION. The repair map (R359), the storage behind it with its check bits (R86, R243, R394), the reports of a tested word
(R252, R362, R377), retirement triggers (R364, R365), and where the bytes of a tile lie (R94, R112). -/

namespace Sys2Proof.Machine

/-! ### Repair map -/

/-- The physical unit that serves a logical unit at reset (R14, R359). -/
def defaultPhys (kind l : Nat) : Nat :=
  if kind = 0 then 9 * (l / 8) + l % 8 else if kind = 3 then l % 32 else if kind = 7 then 0 else l

/-- Number of logical units of a kind (R359). -/
def kindSize (kind : Nat) : Nat :=
  match kind with
  | 0 => 64 | 1 => 4 | 2 => 2 | 3 => 256 | 4 => 16 | 5 => 512 | 6 => 16384 | 7 => 11 | _ => 0

/-- The physical unit that serves a logical unit (R359). Kind 7 is the bit of LMP_GENSEL. -/
def physOf (s : State) (kind l : Nat) : Nat :=
  if kind = 7 then b2n (bit (rget s 0xC100) l) else tget (defaultPhys kind l) s.tnk.map (65536 * kind + l)

/-- Record the physical unit of a logical unit; kind 7 writes LMP_GENSEL's bit (R359). -/
def setPhys (kind l p : Nat) (s : State) : State :=
  if kind = 7 then
    rset 0xC100 (BitVec.ofNat 32 ((rget s 0xC100).toNat % 2048 - b2n (bit (rget s 0xC100) l) * 2 ^ l + (p % 2) * 2 ^ l)) s
  else { s with tnk := { s.tnk with map := tset (defaultPhys kind l) s.tnk.map (65536 * kind + l) p } }

/-- PHYS satisfies the constraint of R359 for LOGICAL. -/
def physOk (kind l p : Nat) : Bool :=
  match kind with
  | 0 => decide (9 * (l / 8) ≤ p) && decide (p ≤ 9 * (l / 8) + 8)
  | 1 => decide (p < 5) | 2 => decide (p < 3) | 3 => decide (p < 33) | 4 => decide (p < 17)
  | 5 => decide (p < 528) | 6 => decide (p < 16896) | 7 => decide (p < 2) | _ => false

/-- Two logical units of a kind compete for the same physical units: of one group, of one path, of one kind (R359). -/
def sameBlock (kind l l' : Nat) : Bool :=
  match kind with
  | 0 => l / 8 == l' / 8 | 3 => l / 32 == l' / 32 | 7 => l == l' | _ => true

/-- The logical unit, competing with `l`, that a physical unit serves. -/
def servedBy (s : State) (kind l p : Nat) : Option Nat :=
  (List.range (kindSize kind)).find? fun l' => sameBlock kind l l' && physOf s kind l' == p

/-- The logical bank position that a physical Sheaf bank serves. -/
def servedBank (s : State) (p : Nat) : Option Nat := servedBy s 0 (8 * (p / 9)) p

/-- The logical bank that a physical Hayloft bank serves. -/
def servedHay (s : State) (p : Nat) : Option Nat := servedBy s 4 0 p

/-- A retirement copy runs in the group of a logical bank. -/
def copyingIn (s : State) (g : Nat) : Bool := match s.tnk.copying with | some r => r.lbank / 8 == g | none => false

/-- Make an assignment as a swap (R360); none where it breaks the constraint of R359, names a retired Sheaf bank, or comes while a copy to
the group's spare runs (log 71). -/
def assignMap (kind l p : Nat) (s : State) : Option State :=
  if decide (kindSize kind ≤ l) || !physOk kind l p || (kind == 0 && (s.tnk.retired.contains p || copyingIn s (l / 8))) then none
  else
    let old := physOf s kind l
    some (setPhys kind l p (match servedBy s kind l p with
      | some l' => if l' = l then s else setPhys kind l' old s
      | none => s))

/-! ### Retirement triggers -/

/-- A retirement may begin in group `g` (R364). -/
def mayRetire (s : State) (g : Nat) : Bool :=
  let r := rget s 0xD008
  decide (s.tnk.used < fld r 31 28) && bit r (20 + g) && (servedBank s (9 * g + 8)).isNone
  && !s.tnk.retired.contains (9 * g + 8) && s.tnk.copying.isNone

/-- A trigger that cannot begin (R365): a DRETIRE replies CAPACITY, another is logged once per window. -/
def dropTrigger (b : Nat) (by_ : Option Tag) (s : State) : State :=
  match by_ with
  | some t => finish t (outc .capacity (0xA000 + b) 0) s
  | none =>
    if s.tnk.noSpare.contains b then s
    else logErr 0x0E (1 + b / 9) b 0 (9 * (b / 9) + 8) { s with tnk := { s.tnk with noSpare := b :: s.tnk.noSpare } }

/-- A trigger arrives (R365): it waits while a retirement runs, is dropped when it cannot begin, and else waits for its copy. -/
def trigger (b : Nat) (by_ : Option Tag) (s : State) : State :=
  if s.tnk.copying.isSome || mayRetire s (b / 9) then { s with tnk := { s.tnk with trigs := s.tnk.trigs ++ [(b, by_)] } }
  else dropTrigger b by_ s

/-- Count a corrected word of a physical Sheaf bank, and trigger its retirement when the count reaches THRESH (R362, R365). -/
def noteCorrected (b : Nat) (s : State) : State :=
  let w := min 0xFFFF (tget 0 s.tnk.ceWin b + 1)
  let old := tget 0 s.tnk.ceWin b
  let s := { s with tnk := { s.tnk with ceWin := tset 0 s.tnk.ceWin b w, ceTot := tset 0 s.tnk.ceTot b (min 0xFFFF (tget 0 s.tnk.ceTot b + 1)) } }
  let th := fld (rget s 0xD008) 19 12
  if th ≠ 0 ∧ w = th ∧ old ≠ th ∧ (servedBank s b).isSome then trigger b none s else s

/-! ### Sheaf -/

/-- Address of a byte in Sheaf storage. -/
def shfAddr (bank entry b : Nat) : Nat := 8192 * bank + 128 * entry + b

/-- A 64-bit word and its check byte as a physical bank stores them (R86). -/
def shfRaw (s : State) (bank entry w : Nat) : Word × Byte :=
  (Memory.read64 s.shf.mem (shfAddr bank entry (8 * w)), Memory.read s.shf.chk (1024 * bank + 16 * entry + w))

/-- Store a word and its check byte in one bank. -/
def shfPut1 (bank entry w : Nat) (d : Word) (c : Byte) (s : State) : State :=
  { s with shf := { s.shf with mem := Memory.write64 s.shf.mem (shfAddr bank entry (8 * w)) d,
                               chk := Memory.write s.shf.chk (1024 * bank + 16 * entry + w) c } }

/-- A word written while its entry lies between the read and the write of its copy goes into what the copy will write (R366). -/
def Retire.put (r : Retire) (w : Nat) (d : Word) (c : Byte) : Retire := { r with buf := r.buf.map fun ws => ws.set w (d, c) }

/-- Store a word and its check byte: while a copy of the bank runs, in the spare as well, after the copy of the entry if that is under way
(R366; log 73). -/
def shfPut (bank entry w : Nat) (d : Word) (c : Byte) (s : State) : State :=
  let s := shfPut1 bank entry w d c s
  match s.tnk.copying with
  | some r =>
    if r.bank ≠ bank then s
    else if r.entry = entry ∧ r.buf.isSome = true then { s with tnk := { s.tnk with copying := some (r.put w d c) } }
    else shfPut1 r.spare entry w d c s
  | none => s

/-- The syndrome with the parity at bit 7: INFO of the log entries of a tested word. -/
def syndrome (d : Word) (c : Byte) : Nat :=
  (checkLow d ^^^ (c.toNat % 128)) + 128 * b2n (parity 64 d.toNat != parity 8 c.toNat)

/-- Test a word that left a physical Sheaf bank, and report a mismatch (R362, R377): the word to use, the outcome. -/
def shfTest (bank entry : Nat) (d : Word) (c : Byte) (s : State) : Word × EccRes × State :=
  match eccTest d c with
  | (d', .good) => (d', .good, s)
  | (d', .corrected) => (d', .corrected, noteCorrected bank (logErr 0x01 (1 + bank / 9) bank entry (syndrome d c) s))
  | (d', .uncorr) => (d', .uncorr, logErr 0x02 (1 + bank / 9) bank entry (syndrome d c) s)

/-- Read, test and report word `w` of an entry. -/
def shfRead (bank entry w : Nat) (s : State) : Word × EccRes × State :=
  shfTest bank entry (shfRaw s bank entry w).1 (shfRaw s bank entry w).2 s

/-- The worse of two outcomes. -/
def EccRes.worse : EccRes → EccRes → EccRes
  | .uncorr, _ => .uncorr
  | _, .uncorr => .uncorr
  | .corrected, _ => .corrected
  | _, r => r

/-! ### Tiles in the Sheaf and the spill window -/

/-- Size of a tile in bytes (R89). -/
def Tile.size (x : Tile) : Nat := x.rows * x.rowBytes

/-- Stripes of a tile (R89). -/
def Tile.stripes (x : Tile) : Nat := ceilDiv x.size 1024

/-- Logical bank `8 * group + position` of segment `k` of tile `t` (R94). -/
def segBank (t : Nat) (x : Tile) (k : Nat) : Nat := 8 * x.group + (k + t % 8) % 8

/-- Entry of segment `k` (R94). -/
def segEntry (x : Tile) (k : Nat) : Nat := (x.base + k / 8) % 64

/-- Physical bank and entry of segment `k` of a Sheaf tile (R14, R94). -/
def segPlace (s : State) (t : Nat) (x : Tile) (k : Nat) : Nat × Nat := (physOf s 0 (segBank t x k), segEntry x k)

/-! ### Hayloft -/

/-- Word within its bank (R244). -/
def hayWord (a : Nat) : Nat := a / 256 % 4096

/-- The Hayloft byte address of a word of a logical bank (R244). -/
def hayAddrOf (bank word : Nat) : Nat := 2 ^ 20 * (bank / 4) + 256 * word + 64 * (bank % 4)

/-- Address of a byte in Hayloft storage. -/
def hayCell (pbank word b : Nat) : Nat := 262144 * pbank + 64 * word + b

/-- A 64-bit word and its check byte as a physical Hayloft bank stores them (R243). -/
def hayRaw (s : State) (pbank word w : Nat) : Word × Byte :=
  (Memory.read64 s.hay.mem (hayCell pbank word (8 * w)), Memory.read s.hay.chk (32768 * pbank + 8 * word + w))

/-- Store a 64-bit word and its check byte. -/
def hayPut (pbank word w : Nat) (d : Word) (c : Byte) (s : State) : State :=
  { s with hay := { s.hay with mem := Memory.write64 s.hay.mem (hayCell pbank word (8 * w)) d,
                               chk := Memory.write s.hay.chk (32768 * pbank + 8 * word + w) c } }

/-- Test a word that left a Hayloft bank, and report a mismatch (R252, R377). -/
def hayTest (pbank word : Nat) (d : Word) (c : Byte) (s : State) : Word × EccRes × State :=
  match eccTest d c with
  | (d', .good) => (d', .good, s)
  | (d', .corrected) => (d', .corrected, cnt 0x703C 1 (logErr 0x03 islH pbank word (syndrome d c) s))
  | (d', .uncorr) => (d', .uncorr, logErr 0x04 islH pbank word (syndrome d c) s)

/-- Read and test the 64-bit words of a bank word that hold a byte enabled by `be`; the others read as stored (R252). -/
def hayWordRead (pbank word : Nat) (be : BitVec 64) (s : State) : BitVec 512 × EccRes × State :=
  let step := fun (acc : Nat × EccRes × State) (w : Nat) =>
    let (d, c) := hayRaw acc.2.2 pbank word w
    if byteAt be w = 0 then (acc.1 + d.toNat * 2 ^ (64 * w), acc.2.1, acc.2.2)
    else
      let (d', r, s') := hayTest pbank word d c acc.2.2
      (acc.1 + d'.toNat * 2 ^ (64 * w), EccRes.worse acc.2.1 r, s')
  let (v, r, s') := (List.range 8).foldl step (0, .good, s)
  (BitVec.ofNat 512 v, r, s')

/-- Write the enabled bytes of one 64-bit word (R252): a whole word with new check bits, or with those supplied; a part is merged with the
tested word, and an uncorrectable word stays uncorrectable. -/
def hayWrite1 (pbank word : Nat) (be : BitVec 64) (data : BitVec 512) (chk : Option (BitVec 64)) (s : State) (w : Nat) : State :=
  let e := byteAt be w
  let n := wordAt data w
  if e = 0 then s
  else if e = 0xFF then hayPut pbank word w n (match chk with | some c => byteAt c w | none => checkByte n) s
  else
    let (d, c) := hayRaw s pbank word w
    let (d', r, s) := hayTest pbank word d c s
    let m := BitVec.ofNat 64 (ofBytes ((List.range 8).map fun i => if bit e i then byteAt n i else byteAt d' i))
    hayPut pbank word w m (if r = .uncorr then badCheck m else checkByte m) s

/-- Write the enabled bytes of a bank word (R252). -/
def hayWordWrite (pbank word : Nat) (be : BitVec 64) (data : BitVec 512) (chk : Option (BitVec 64)) (s : State) : State :=
  (List.range 8).foldl (hayWrite1 pbank word be data chk) s

/-- A write that covers part of a 64-bit word (R252). -/
def partWrite (be : BitVec 64) : Bool := (List.range 8).any fun w => byteAt be w != 0 && byteAt be w != 0xFF

/-- Byte enables of the bytes `lo` to `lo + n - 1` of a bank word. -/
def beRange (lo n : Nat) : BitVec 64 := BitVec.ofNat 64 ((2 ^ n - 1) * 2 ^ lo)

/-- The parts of a byte range that lie in one 64-byte word each: address of the word, first byte, number of bytes (R251). -/
def haySplit (a n : Nat) : List (Nat × Nat × Nat) :=
  ((List.range (n / 64 + 2)).map fun i =>
    let w := a / 64 + i
    let lo := if i = 0 then a % 64 else 0
    let hi := min 64 (a + n - 64 * w)
    (64 * w, lo, if 64 * w < a + n then hi - lo else 0)).filter fun p => p.2.2 ≠ 0

/-! ### Hayloft regions and power -/

/-- Base and size in bytes of the descriptor region (R212, R245). -/
def descBase (s : State) : Nat := fld (rget s 0x7000) 3 0 * 262144

/-- Base and size in bytes of the secure partition (R257). -/
def secRange (s : State) : Nat × Nat := (fld (rget s 0x7008) 5 0 * 65536, fld (rget s 0x7008) 20 16 * 65536)

/-- Base and size in bytes of the spill window (R245). -/
def spillRange (s : State) : Nat × Nat := (fld (rget s 0x7004) 9 0 * 4096, fld (rget s 0x7004) 22 16 * 4096)

/-- Whether a logical bank holds a byte of a range: every word of the range rotates through the four banks of its quad (R244). -/
def bankInRange (h base size : Nat) : Bool :=
  let lo := 2 ^ 20 * (h / 4)
  decide (size ≠ 0) && decide (base < lo + 2 ^ 20) && decide (lo < base + size)

/-- The logical banks a zeroisation holds (R258). -/
def zeroHeld (s : State) (h : Nat) : Bool := s.hay.zeroing && bankInRange h (secRange s).1 (secRange s).2

/-- A logical bank grants accesses: ON and not zeroising (R255, R258). -/
def hayOpen (s : State) (h : Nat) : Bool := (hbankOf s h).ready && !zeroHeld s h

/-- The physical bank and word of an access (R14, R244). -/
def accPlace (s : State) (a : HayAcc) : Nat × Nat := a.phys.getD (physOf s 4 (hayBank a.addr), hayWord a.addr)

/-- The logical bank of an access; none where it names a physical bank that serves none. -/
def accBank (s : State) (a : HayAcc) : Option Nat :=
  match a.phys with
  | some p => servedHay s p.1
  | none => some (hayBank a.addr)

/-- A physical bank grants accesses (R255, R258): the logical bank it serves is open; a spare follows no set state. -/
def physOpen (s : State) (p : Nat) : Bool := match servedHay s p with | some h => hayOpen s h | none => true

/-- Wake the bank of an access that is not ON, and count the access held (R255). -/
def holdAcc (s : State) (a : HayAcc) : State :=
  match accBank s a with
  | some h => if (hbankOf s h).ready then s else cnt 0x7038 1 (setHbank h (hbankOf s h).wakeUp s)
  | none => s

/-- Queue an access to a Hayloft word (R248, R255). -/
def askHay (a : HayAcc) (s : State) : State :=
  let s := holdAcc s a
  { s with hay := { s.hay with waiting := s.hay.waiting ++ [a] } }

/-- Queue accesses in order. -/
def askHays (as : List HayAcc) (s : State) : State := as.foldl (fun s a => askHay a s) s

/-- The accesses that read a byte range of the Hayloft for a command, each with its first byte's address (R251). -/
def askBytes (master a n : Nat) (use : Nat → HayUse) (s : State) : State :=
  askHays ((haySplit a n).map fun p => hayRd master p.1 (beRange p.2.1 p.2.2) (use p.1)) s

/-- The accesses that write bytes from an address up (R251). -/
def writeAccs (master a : Nat) (bs : List Byte) (use : HayUse) : List HayAcc :=
  (haySplit a bs.length).map fun p =>
    let part := (bs.drop (p.1 + p.2.1 - a)).take p.2.2
    hayWr master p.1 (beRange p.2.1 p.2.2) (BitVec.ofNat 512 (ofBytes part * 2 ^ (8 * p.2.1))) use

/-- Queue the accesses that write bytes from an address up for a command, each counted until it is performed. -/
def askWriteBytes (tag : Tag) (master a : Nat) (bs : List Byte) (use : HayUse) (s : State) : State :=
  let as := writeAccs master a bs use
  askHays as (updJob tag (fun j => { j with wrOut := j.wrOut + as.length }) s)

end Sys2Proof.Machine
end

