-- ==== Sys2Proof/Machine/Elements.lean ====
section
/-! DEFINITION. Element types (R90, R91): their widths, where an element lies in a row, what its code means (R196), which codes are not
finite, and what a number becomes in a type (R191-R194). -/

namespace Sys2Proof.Machine

/-- Type codes of R90. -/
def EType.code : EType → Nat
  | .fp32 => 0 | .bf16 => 1 | .fp16 => 2 | .e4m3 => 3 | .e5m2 => 4 | .int32 => 5 | .int8 => 6 | .int4 => 7
  | .mxE4m3 => 8 | .mxE5m2 => 9 | .mxE3m2 => 10 | .mxE2m3 => 11 | .mxE2m1 => 12 | .mxInt8 => 13 | .e8m0 => 14

/-- The type of a code; 15 is reserved. -/
def EType.ofCode : Nat → Option EType
  | 0 => some .fp32 | 1 => some .bf16 | 2 => some .fp16 | 3 => some .e4m3 | 4 => some .e5m2 | 5 => some .int32
  | 6 => some .int8 | 7 => some .int4 | 8 => some .mxE4m3 | 9 => some .mxE5m2 | 10 => some .mxE3m2
  | 11 => some .mxE2m3 | 12 => some .mxE2m1 | 13 => some .mxInt8 | 14 => some .e8m0 | _ => none

/-- Bits per element (R90). -/
def EType.bits : EType → Nat
  | .fp32 | .int32 => 32
  | .bf16 | .fp16 => 16
  | .int4 | .mxE2m1 => 4
  | .mxE3m2 | .mxE2m3 => 6
  | _ => 8

/-- An MX value type (R92). -/
def EType.isMx : EType → Bool
  | .mxE4m3 | .mxE5m2 | .mxE3m2 | .mxE2m3 | .mxE2m1 | .mxInt8 => true
  | _ => false

/-- What ROWBYTES must be a multiple of (R90). -/
def EType.align : EType → Nat
  | .mxE4m3 | .mxE5m2 | .mxInt8 => 32
  | .mxE3m2 | .mxE2m3 => 48
  | _ => 16

/-- Bytes of an MX block of 32 elements (R90). -/
def EType.blockBytes (t : EType) : Nat := 4 * t.bits

/-- Elements of a row (R91). -/
def Tile.elems (x : Tile) : Nat := x.rowBytes * 8 / x.ty.bits

/-- Blocks of a row of an MX value tile (R92). -/
def Tile.blocks (x : Tile) : Nat := x.rowBytes / x.ty.blockBytes

/-- Element `i` of `w` bits of a row read as one little-endian number (R91). -/
def elemOf (w row i : Nat) : Nat := row / 2 ^ (w * i) % 2 ^ w

/-- A row of elements of `w` bits. -/
def packElems (w : Nat) : List Nat → Nat
  | [] => 0
  | e :: r => e % 2 ^ w + 2 ^ w * packElems w r

/-- The floating-point format of a type, none for integer types and scales. -/
def EType.fmt : EType → Option Fmt
  | .fp32 => some fmtFp32 | .bf16 => some fmtBf16 | .fp16 => some fmtFp16
  | .e4m3 | .mxE4m3 => some fmtE4m3
  | .e5m2 | .mxE5m2 => some fmtE5m2
  | .mxE3m2 => some fmtE3m2 | .mxE2m3 => some fmtE2m3 | .mxE2m1 => some fmtE2m1
  | _ => none

/-- A signed integer as a number. -/
def Num.ofInt (v : Int) : Num := .fin (decide (v < 0)) v.natAbs 0

/-- What an element's code means before any block scale; MXINT8 is v / 64 (R196). E8M0 bytes are no numbers of an operation: they
convert nowhere. -/
def EType.decode (t : EType) (c : Nat) : Num :=
  match t.fmt with
  | some f => f.decode c
  | none =>
    match t with
    | .int32 => .ofInt (signed 32 c)
    | .int8 => .ofInt (signed 8 c)
    | .int4 => .ofInt (signed 4 c)
    | .mxInt8 => (Num.ofInt (signed 8 c)).scale (-6)
    | _ => .fin false c 0

/-- A number of a block with scale byte `c` (R196). -/
def Num.withScale (c : Nat) (x : Num) : Num := if c = 0xFF then .nan else x.scale ((c : Int) - 127)

/-- The code of an element is NaN or infinite in its own type (R196); an E8M0 byte of 0xFF counts in the same way. -/
def EType.nonfinCode (t : EType) (c : Nat) : Bool :=
  match t.fmt with
  | some f => (f.decode c).nonfinite
  | none => t == .e8m0 && c == 0xFF

/-- Largest finite code, NaN code and infinity code (positive) of a destination of TQNT; an infinity is written as the largest finite
where the last is none (R191). -/
def EType.limits : EType → Nat × Nat × Option Nat
  | .bf16 => (0x7F7F, 0x7FC0, some 0x7F80)
  | .fp16 => (0x7BFF, 0x7E00, some 0x7C00)
  | .e4m3 | .mxE4m3 => (0x7E, 0x7F, none)
  | .e5m2 | .mxE5m2 => (0x7B, 0x7E, some 0x7C)
  | .mxE3m2 | .mxE2m3 => (0x1F, 0x00, none)
  | .mxE2m1 => (0x7, 0x0, none)
  | .mxInt8 => (0x7F, 0x00, none)
  | _ => (0, 0, none)

/-- emax of R191. -/
def EType.emax : EType → Int
  | .mxE4m3 => 8 | .mxE5m2 => 15 | .mxE3m2 => 4 | .mxE2m3 => 2 | .mxE2m1 => 2 | _ => 0

/-- A sign and a magnitude code as an element of a type; MXINT8 is two's complement. -/
def EType.withSign (t : EType) (neg : Bool) (mag : Nat) : Nat :=
  match t.fmt with
  | some f => mag + b2n neg * 2 ^ (f.ex + f.fr)
  | none => if neg then (256 - mag) % 256 else mag

/-- The code a number takes in a type, and whether it is saturated (R193). -/
def EType.quant (t : EType) (mode : RMode) (x : Num) : Nat × Bool :=
  let (big, nan, inf) := t.limits
  match x with
  | .nan => (nan, false)
  | .inf n => match inf with
    | some c => (t.withSign n c, false)
    | none => (t.withSign n big, true)
  | .fin n m e =>
    let mag := match t.fmt with
      | some f => f.roundMag mode m e
      | none => roundAt mode m e (-6)
    if mag > big then (t.withSign n big, true) else (t.withSign n mag, false)

/-- floor(log₂ |x|) of a finite number that is not zero. -/
def Num.log2 : Num → Option Int
  | .fin _ m e => if m = 0 then none else some (e + bitLen m - 1)
  | _ => none

/-- The scale exponent of a block (R192). -/
def blockExp (t : EType) (xs : List Num) : Int :=
  match (xs.filterMap Num.log2).foldl (fun (a : Option Int) l => match a with | none => some l | some b => some (max b l)) none with
  | none => 0
  | some l => max (-127) (min 127 (l - t.emax))

end Sys2Proof.Machine
end

