-- ==== Sys2Proof/Machine/Operands.lean ====
section
/-! DEFINITION. Decoding a packet (R305-R310, R316-R323): every operand form of every body layout, the reserved bits and values of each,
and the lowest offence that RESERVED_FIELD names. -/

namespace Sys2Proof

/-- Word `i` of a packet. -/
def Packet.word (p : Packet) : Nat → Word
  | 0 => p.w0 | 1 => p.w1 | 2 => p.w2 | 3 => p.w3 | 4 => p.w4 | 5 => p.w5 | 6 => p.w6 | _ => p.w7

/-- The field [hi:lo] of word `i`. -/
def Packet.f (p : Packet) (i hi lo : Nat) : Nat := Machine.fld (p.word i) hi lo

/-- The 64 bytes of a packet as one vector, byte i of the packet at byte i (R305). -/
def Packet.bits (p : Packet) : BitVec 512 :=
  BitVec.ofNat 512 (Machine.ofWords [p.w0, p.w1, p.w2, p.w3, p.w4, p.w5, p.w6, p.w7])

/-- A packet from 64 bytes, taken from the low half (or whole) of a vector (R305). -/
def Packet.ofBits {n : Nat} (d : BitVec n) : Packet :=
  ⟨Machine.wordAt d 0, Machine.wordAt d 1, Machine.wordAt d 2, Machine.wordAt d 3, Machine.wordAt d 4, Machine.wordAt d 5, Machine.wordAt d 6, Machine.wordAt d 7⟩

end Sys2Proof

namespace Sys2Proof.Machine

/-- One field of a body layout: its word and place, and whether the value it carries is one the layout lists (R310). -/
structure FieldSpec where
  word : Nat
  hi : Nat
  lo : Nat
  ok : Bool
  deriving DecidableEq, Repr

/-- A field that takes every value. -/
def anyF (w hi lo : Nat) : FieldSpec := ⟨w, hi, lo, true⟩

/-- The opcodes of format 0x02 (R307). -/
def Opcode.ofCode : Nat → Option Opcode
  | 0x01 => some .tcfg | 0x02 => some .trel | 0x03 => some .tqry
  | 0x10 => some .tld | 0x11 => some .tst | 0x12 => some .tgat | 0x13 => some .tsct | 0x14 => some .tscta
  | 0x15 => some .tperm | 0x18 => some .dcre | 0x19 => some .dfree
  | 0x20 => some .twf | 0x21 => some .tmma | 0x22 => some .tmmas
  | 0x30 => some .tacc | 0x31 => some .tred | 0x32 => some .tqnt | 0x33 => some .tscl | 0x34 => some .taccc
  | 0x35 => some .tdq | 0x36 => some .tzero
  | 0x40 => some .tvop | 0x41 => some .tsfu
  | 0x50 => some .bkopen | 0x51 => some .bkadd | 0x52 => some .bkclose | 0x53 => some .bkqry
  | 0x60 => some .ctxset | 0x61 => some .ctxget | 0x62 => some .ctxpin | 0x63 => some .ctxevict
  | 0x64 => some .ringset | 0x65 => some .ringget
  | 0x70 => some .fence | 0x71 => some .preempt | 0x72 => some .resume | 0x73 => some .audit | 0x7F => some .nop
  | 0xE0 => some .drdent | 0xE1 => some .dwrent | 0xE2 => some .drdhay | 0xE3 => some .dwrhay | 0xE4 => some .dscrub
  | 0xE5 => some .dretire | 0xE6 => some .drepair | 0xE7 => some .dtrace
  | _ => none

/-- The opcodes that format 0x01 defines (R323). -/
def Opcode.inBl1 : Opcode → Bool
  | .tcfg | .trel | .tqry | .tld | .tst | .twf | .tmma | .tacc | .tred | .tscl | .tzero | .tvop | .tsfu | .fence | .nop => true
  | _ => false

/-! ### Layouts: fields with the values they list -/

/-- A tile entry in word `n` (R99, R316). -/
def tileEntFields (p : Packet) (n : Nat) : List FieldSpec :=
  let rel := p.f n 8 8 = 1
  let z := fun hi lo => !decide rel || p.f n hi lo == 0
  [anyF n 1 0, anyF n 7 2, anyF n 8 8, ⟨n, 9, 9, z 9 9⟩,
   ⟨n, 12, 10, z 12 10 && (p.f n 9 9 == 0 || p.f n 12 10 == 0)⟩,
   ⟨n, 23, 16, z 23 16 && (p.f n 9 9 == 1 || decide (p.f n 23 16 < 64))⟩,
   ⟨n, 31, 24, z 31 24⟩, ⟨n, 38, 32, z 38 32⟩, ⟨n, 43, 40, z 43 40 && p.f n 43 40 != 15⟩,
   ⟨n, 53, 48, z 53 48 && (p.f n 53 48 == 0 || (decide (8 ≤ p.f n 43 40) && decide (p.f n 43 40 ≤ 13)))⟩]

/-- A segment entry in word `n` (R74, R316). -/
def segEntFields (n : Nat) : List FieldSpec :=
  [anyF n 1 0, anyF n 7 2, anyF n 15 8, anyF n 24 16, anyF n 47 32, anyF n 53 48, anyF n 54 54]

/-- A BL1 tile entry in word `n` (R323). -/
def bl1EntFields (p : Packet) (n : Nat) : List FieldSpec :=
  let z := fun hi lo => p.f n 6 6 == 0 || p.f n hi lo == 0
  [anyF n 5 0, anyF n 6 6, ⟨n, 9, 7, z 9 7⟩, ⟨n, 15, 10, z 15 10⟩, ⟨n, 23, 16, z 23 16⟩, ⟨n, 30, 24, z 30 24⟩,
   ⟨n, 35, 32, z 35 32 && decide (p.f n 35 32 < 8)⟩, anyF n 63 63]

/-- TCFG: one entry in each body word (R316, R323). -/
def tcfgFields (bl1 : Bool) (p : Packet) : List FieldSpec :=
  ((List.range 7).map fun i =>
    let n := i + 1
    if bl1 then (if p.f n 63 63 = 0 then [anyF n 63 0] else bl1EntFields p n)
    else match p.f n 1 0 with
      | 0 => [anyF n 63 0]
      | 1 => tileEntFields p n
      | 2 => segEntFields n
      | _ => [⟨n, 1, 0, false⟩, anyF n 63 2]).flatten

/-- An address that must be a multiple of `al` and lie below the range of its location (R317). -/
def addrOk (v al : Nat) (hay : Bool) : Bool := v % al == 0 && decide (v < if hay then 2 ^ 22 else 2 ^ 48)

/-- TLD and TST (R317); a BL1 body has FORM, CTXREL and LOC zero (R323). -/
def tldFields (store bl1 : Bool) (p : Packet) : List FieldSpec :=
  let st := fun hi lo => store || p.f 1 hi lo == 0
  let ld := fun hi lo => !store || p.f 1 hi lo == 0
  let eng : FieldSpec := ⟨1, 8, 6, decide (p.f 1 8 6 ≤ 4)⟩
  if p.f 1 9 9 = 1 && !bl1 then
    [anyF 1 48 36, ⟨1, 35, 28, st 35 28⟩, anyF 1 27 16, anyF 1 13 13, ⟨1, 12, 12, st 12 12⟩, ⟨1, 11, 11, ld 11 11⟩,
     ⟨1, 10, 10, ld 10 10⟩, anyF 1 9 9, eng, anyF 1 5 0, anyF 2 63 0, anyF 3 63 0, anyF 4 56 0]
  else
    let hay := p.f 1 10 10 = 1
    [⟨1, 40, 33, st 40 33⟩, anyF 1 32 24, anyF 1 23 16, ⟨1, 12, 12, st 12 12⟩,
     ⟨1, 11, 11, p.f 1 11 11 == 0 || (!decide hay && !bl1)⟩, ⟨1, 10, 10, p.f 1 10 10 == 0 || !bl1⟩,
     ⟨1, 9, 9, p.f 1 9 9 == 0⟩, eng, anyF 1 5 0,
     ⟨2, 47, 0, decide (p.f 2 47 0 < if hay then 2 ^ 22 else 2 ^ 48)⟩, anyF 3 31 0]

/-- TGAT, TSCT and TSCTA (R225, R317). -/
def gatherFields (store : Bool) (p : Packet) : List FieldSpec :=
  let st := fun hi lo => store || p.f 1 hi lo == 0
  let g := p.f 1 50 49
  [⟨1, 50, 49, g != 0⟩, anyF 1 48 36, ⟨1, 35, 28, st 35 28⟩, anyF 1 27 16, ⟨1, 12, 12, st 12 12⟩,
   ⟨1, 11, 11, !store || p.f 1 11 11 == 0⟩, ⟨1, 8, 6, decide (p.f 1 8 6 ≤ 4)⟩, anyF 1 5 0,
   anyF 2 31 0, ⟨2, 63, 32, g != 1 || p.f 2 63 32 == 0⟩, ⟨3, 31, 0, g != 2 || p.f 3 31 0 == 0⟩,
   ⟨3, 63, 32, g != 3 || p.f 3 63 32 == 0⟩, anyF 4 48 40, anyF 4 39 16, anyF 4 11 0]

/-- TPERM (R231, R317). -/
def tpermFields (p : Packet) : List FieldSpec :=
  let tt := p.f 1 0 0 = 1
  let k1 := fun hi lo => decide tt || p.f 1 hi lo == 0
  let k0 := fun hi lo => !decide tt || p.f 1 hi lo == 0
  [⟨1, 55, 44, k1 55 44⟩, ⟨1, 43, 32, k1 43 32⟩, ⟨1, 27, 22, k0 27 22⟩, ⟨1, 21, 16, k0 21 16⟩, ⟨1, 15, 8, k1 15 8⟩,
   anyF 1 6 6, ⟨1, 5, 4, decide (p.f 1 5 4 < 2)⟩, ⟨1, 3, 1, decide (p.f 1 3 1 ≤ 4)⟩, anyF 1 0 0]

/-- TMMA (R318); a BL1 body has RES and FLABEL zero (R323). -/
def tmmaFields (bl1 : Bool) (p : Packet) : List FieldSpec :=
  [anyF 1 59 56, anyF 1 55 48, anyF 1 40 32, anyF 1 31 24, anyF 1 20 20, ⟨1, 19, 19, !bl1 || p.f 1 19 19 == 0⟩, anyF 1 18 18,
   anyF 1 17 12, anyF 1 11 6, anyF 1 5 0, ⟨2, 7, 0, (p.f 1 19 19 == 1 && !bl1) || p.f 2 7 0 == 0⟩]

/-- TMMAS (R318). -/
def tmmasFields (p : Packet) : List FieldSpec :=
  let m := p.f 1 0 0 = 1
  [anyF 1 43 40, anyF 1 39 32, ⟨1, 25, 20, !decide m || p.f 1 25 20 == 0⟩, ⟨1, 19, 14, decide m || p.f 1 19 14 == 0⟩,
   anyF 1 13 8, anyF 1 2 2, ⟨1, 1, 1, !decide m || p.f 1 1 1 == 1⟩, anyF 1 0 0]

/-- The bank-arithmetic opcodes: a field that R179 does not give the opcode must be zero. -/
def bankFields (op : Opcode) (bl1 : Bool) (p : Packet) : List FieldSpec :=
  let z := fun (used : Bool) w hi lo => used || p.f w hi lo == 0
  let red := decide (op = .tred)
  let ax := p.f 1 46 45
  let o := p.f 1 44 42
  [⟨1, 55, 48, (decide (op = .tqnt) && p.f 1 55 48 != 128) || p.f 1 55 48 == 0⟩, ⟨1, 47, 47, z (decide (op = .tqnt)) 1 47 47⟩,
   ⟨1, 46, 45, z red 1 46 45 && !(red && bl1 && ax == 3)⟩,
   ⟨1, 44, 42, z red 1 44 42 && (!red || (decide (o ≤ 4) && !(bl1 && decide (3 ≤ o)) && !(ax == 3 && decide (3 ≤ o))))⟩,
   anyF 1 41 41, anyF 1 40 32, anyF 1 31 24, ⟨1, 23, 18, z (decide (op = .taccc)) 1 23 18⟩,
   ⟨1, 17, 12, z (red && ax == 3) 1 17 12⟩,
   ⟨1, 11, 6, z (decide (op ≠ .tscl) && decide (op ≠ .tzero)) 1 11 6⟩, anyF 1 5 0,
   ⟨2, 13, 0, z (red && ax != 3) 2 13 0⟩, ⟨3, 63, 32, z (decide (op = .tscl)) 3 63 32⟩,
   ⟨3, 31, 0, z (decide (op = .tscl) || decide (op = .tacc)) 3 31 0⟩]

/-- TVOP and TSFU (R319); words 2-7 are the station's. -/
def stnFields (sfu : Bool) (p : Packet) : List FieldSpec :=
  let ns := p.f 1 3 2
  let nd := p.f 1 5 4
  [anyF 1 56 48, anyF 1 47 40, ⟨1, 37, 32, nd == 2 || p.f 1 37 32 == 0⟩, ⟨1, 31, 26, nd != 0 || p.f 1 31 26 == 0⟩,
   ⟨1, 25, 20, ns == 3 || p.f 1 25 20 == 0⟩, ⟨1, 19, 14, decide (2 ≤ ns) || p.f 1 19 14 == 0⟩,
   ⟨1, 13, 8, ns != 0 || p.f 1 13 8 == 0⟩, anyF 1 6 6, ⟨1, 5, 4, nd != 3⟩, anyF 1 3 2,
   ⟨1, 1, 0, if sfu then p.f 1 1 0 == 0 else p.f 1 1 0 != 3⟩,
   anyF 2 63 0, anyF 3 63 0, anyF 4 63 0, anyF 5 63 0, anyF 6 63 0, anyF 7 63 0]

/-- RINGSET (R302). -/
def ringsetFields (p : Packet) : List FieldSpec :=
  let full := p.f 1 15 15 = 1
  let z := fun w hi lo => decide full || p.f w hi lo == 0
  [⟨1, 63, 48, z 1 63 48⟩, ⟨1, 36, 26, z 1 36 26⟩, ⟨1, 25, 22, z 1 25 22 && decide (p.f 1 25 22 ≤ 10)⟩, anyF 1 21 18, anyF 1 17 17,
   anyF 1 16 16, anyF 1 15 15, anyF 1 14 0, ⟨2, 35, 0, z 2 35 0⟩]

/-- Every field of an opcode's body, by its layout (R316-R323). -/
def bodyFields (op : Opcode) (bl1 : Bool) (p : Packet) : List FieldSpec :=
  match op with
  | .tcfg => tcfgFields bl1 p
  | .trel => [anyF 1 63 0]
  | .tqry => [anyF 1 5 0]
  | .tld => tldFields false bl1 p
  | .tst => tldFields true bl1 p
  | .tgat => gatherFields false p
  | .tsct | .tscta => gatherFields true p
  | .tperm => tpermFields p
  | .dcre => [anyF 1 12 12, anyF 1 11 0, ⟨2, 63, 0, addrOk (p.f 2 63 0) 64 (p.f 1 12 12 == 1)⟩]
  | .dfree => [anyF 1 11 0]
  | .twf => [anyF 1 15 8, anyF 1 7 7, anyF 1 6 6, anyF 1 5 0]
  | .tmma => tmmaFields bl1 p
  | .tmmas => tmmasFields p
  | .tacc | .tred | .tqnt | .tscl | .taccc | .tdq | .tzero => bankFields op bl1 p
  | .tvop => stnFields false p
  | .tsfu => stnFields true p
  | .bkopen =>
    [anyF 1 63 48, ⟨1, 47, 32, p.f 1 3 3 == 0 || p.f 1 47 32 == 0⟩, anyF 1 30 16, ⟨1, 13, 10, decide (p.f 1 13 10 ≤ 8)⟩, anyF 1 9 4,
     anyF 1 3 3, anyF 1 2 0, anyF 2 47 0]
  | .bkadd =>
    [anyF 1 4 4, ⟨1, 3, 0, decide (p.f 1 3 0 ≤ 8)⟩]
    ++ ((List.range 4).map fun i => [anyF (i + 2) 47 32, anyF (i + 2) 24 16, anyF (i + 2) 15 8, anyF (i + 2) 5 0]).flatten
  | .bkclose => [anyF 1 3 3, anyF 1 2 0]
  | .bkqry => [anyF 1 2 0]
  | .ctxset =>
    [anyF 1 15 0, ⟨2, 47, 0, p.f 2 3 0 == 0⟩, anyF 2 63 48, anyF 3 33 0, anyF 3 49 48, anyF 3 63 56]
  | .ctxget => [anyF 1 16 16, anyF 1 15 0, ⟨2, 63, 0, addrOk (p.f 2 63 0) 16 (p.f 1 16 16 == 1)⟩]
  | .ctxpin => [anyF 1 16 16, anyF 1 15 0]
  | .ctxevict => [anyF 1 15 0]
  | .ringset => ringsetFields p
  | .ringget => [anyF 1 14 0]
  | .fence => [⟨1, 1, 0, decide (p.f 1 1 0 < 2)⟩]
  | .preempt => [⟨1, 24, 16, p.f 1 1 0 == 2 || p.f 1 24 16 == 0⟩, ⟨1, 1, 0, p.f 1 1 0 != 3⟩]
  | .resume => [anyF 1 11 0]
  | .audit =>
    let d := p.f 1 4 4 == 1
    [⟨1, 5, 5, d || p.f 1 5 5 == 0⟩, anyF 1 4 4, anyF 1 3 0, ⟨2, 63, 0, if d then p.f 2 5 0 == 0 else p.f 2 63 0 == 0⟩]
  | .nop => []
  | .drdent | .dwrent => [anyF 1 13 13, anyF 1 12 7, ⟨1, 6, 0, decide (p.f 1 6 0 < 72)⟩, ⟨2, 63, 0, p.f 2 5 0 == 0⟩]
  | .drdhay | .dwrhay => [anyF 1 17 17, anyF 1 16 5, ⟨1, 4, 0, decide (p.f 1 4 0 < 17)⟩, anyF 2 63 0]
  | .dscrub => [⟨1, 7, 1, decide (p.f 1 7 1 < if p.f 1 0 0 = 1 then 17 else 72)⟩, anyF 1 0 0]
  | .dretire => [⟨1, 6, 0, decide (p.f 1 6 0 < 72)⟩]
  | .drepair => [anyF 1 39 24, anyF 1 23 8, ⟨1, 7, 0, decide (p.f 1 7 0 < 8)⟩]
  | .dtrace => [anyF 1 2 2, anyF 1 1 0, ⟨2, 63, 0, if p.f 1 1 0 = 2 then p.f 2 5 0 == 0 else p.f 2 63 0 == 0⟩]

/-- The header fields (R306). -/
def hdrFields : List FieldSpec := [anyF 0 63 56, anyF 0 49 42, anyF 0 41 26, anyF 0 24 16, anyF 0 15 0]

/-- The bits of word `w` that no field covers. -/
def reservedMask (fs : List FieldSpec) (w : Nat) : Nat :=
  (fs.filter fun f => f.word == w).foldl (fun m f => m - ((2 ^ (f.hi + 1) - 2 ^ f.lo) &&& m)) (2 ^ 64 - 1)

/-- The lowest offending bit of word `w` (R309). -/
def offence (p : Packet) (fs : List FieldSpec) (w : Nat) : Option Nat :=
  let r := (p.word w).toNat &&& reservedMask fs w
  (List.range 64).find? fun b => r.testBit b || fs.any fun f => f.word == w && f.lo == b && !f.ok

/-- The lowest offending word and bit of a packet (R309). -/
def firstOffence (p : Packet) (fs : List FieldSpec) : Option (Nat × Nat) :=
  (List.range 8).findSome? fun w => (offence p fs w).map fun b => (w, b)

/-! ### The command a packet carries -/

/-- The entry of word `n` of a TCFG. -/
def tcfgEnt (bl1 : Bool) (p : Packet) (n : Nat) : CfgEnt :=
  if bl1 then
    if p.f n 63 63 = 0 then .unused
    else .tile ⟨p.f n 5 0, p.f n 6 6 == 1, false, p.f n 9 7, p.f n 15 10, p.f n 23 16 + 1, 16 * (p.f n 30 24 + 1),
      (EType.ofCode (p.f n 35 32)).getD .fp32, 0⟩
  else match p.f n 1 0 with
    | 1 => .tile ⟨p.f n 7 2, p.f n 8 8 == 1, p.f n 9 9 == 1, p.f n 12 10, p.f n 23 16, p.f n 31 24 + 1, 16 * (p.f n 38 32 + 1),
        (EType.ofCode (p.f n 43 40)).getD .fp32, p.f n 53 48⟩
    | 2 => .seg (p.f n 7 2) ⟨p.f n 15 8, p.f n 24 16, p.f n 47 32, p.f n 53 48, p.f n 54 54 == 1⟩
    | _ => .unused

/-- The START fields (R218). -/
def starts (p : Packet) : List Int := [signed 32 (p.f 2 31 0), signed 32 (p.f 2 63 32), signed 32 (p.f 3 31 0), signed 32 (p.f 3 63 32)]

/-- TLD and TST; a BL1 transfer names window 255 (R323). -/
def xferCmd (store bl1 : Bool) (p : Packet) : Command :=
  if p.f 1 9 9 = 1 && !bl1 then
    .desc store ⟨p.f 1 5 0, p.f 1 8 6, p.f 1 27 16, starts p, p.f 1 48 36, [p.f 4 8 0, p.f 4 17 9, p.f 4 26 18],
      [p.f 4 36 27, p.f 4 46 37, p.f 4 56 47], p.f 1 10 10 == 1, p.f 1 11 11 == 1, p.f 1 13 13 == 1, p.f 1 35 28, p.f 1 12 12 == 1⟩
  else
    .inline store ⟨p.f 1 5 0, p.f 1 8 6, p.f 1 10 10 == 1, p.f 1 11 11 == 1, if bl1 then 255 else p.f 1 23 16, p.f 1 32 24,
      p.f 1 40 33, p.f 1 12 12 == 1, p.f 2 47 0, p.f 3 31 0, bl1⟩

/-- TVOP and TSFU: the tiles that NSRC and NDST say are used (R319). -/
def stnCmd (op : Opcode) (p : Packet) : Command :=
  .station op ⟨p.f 1 1 0, p.f 1 47 40, p.f 1 56 48, [p.f 1 13 8, p.f 1 19 14, p.f 1 25 20].take (p.f 1 3 2),
    [p.f 1 31 26, p.f 1 37 32].take (p.f 1 5 4), p.f 1 6 6 == 1, p.bits.extractLsb' 64 448⟩

/-- The command of a packet that passed the checks of R309. -/
def bodyCmd (op : Opcode) (bl1 : Bool) (p : Packet) : Command :=
  match op with
  | .tcfg => .tcfg ((List.range 7).map fun i => tcfgEnt bl1 p (i + 1))
  | .trel => .trel p.w1
  | .tqry => .tqry (p.f 1 5 0)
  | .tld => xferCmd false bl1 p
  | .tst => xferCmd true bl1 p
  | .tgat | .tsct | .tscta =>
    .gather op ⟨p.f 1 5 0, p.f 1 35 28, p.f 1 8 6, p.f 1 27 16, p.f 4 11 0, p.f 4 39 16, p.f 4 48 40, p.f 1 50 49, starts p,
      p.f 1 48 36, p.f 1 11 11 == 1, p.f 1 12 12 == 1⟩
  | .tperm =>
    .tperm ⟨p.f 1 0 0 == 1, p.f 1 3 1, p.f 1 5 4 == 1, p.f 1 15 8, p.f 1 6 6 == 1, p.f 1 21 16, p.f 1 27 22, p.f 1 43 32, p.f 1 55 44⟩
  | .dcre => .dcre (p.f 1 11 0) (p.f 1 12 12 == 1) (p.f 2 63 0)
  | .dfree => .dfree (p.f 1 11 0)
  | .twf => .twf (p.f 1 5 0) (p.f 1 6 6 == 1) (p.f 1 15 8) (p.f 1 7 7 == 1)
  | .tmma =>
    .tmma ⟨p.f 1 5 0, p.f 1 11 6, p.f 1 17 12, p.f 1 31 24, p.f 1 40 32, p.f 1 55 48, p.f 1 59 56, p.f 1 18 18 == 1,
      p.f 1 19 19 == 1, p.f 2 7 0, p.f 1 20 20 == 1⟩
  | .tmmas =>
    .tmmas ⟨p.f 1 0 0 == 1, p.f 1 13 8, p.f 1 19 14, p.f 1 25 20, p.f 1 39 32, p.f 1 43 40, p.f 1 1 1 == 1, p.f 1 2 2 == 1⟩
  | .tacc | .tred | .tqnt | .tscl | .taccc | .tdq | .tzero =>
    .bank op ⟨p.f 1 5 0, p.f 1 11 6, p.f 1 17 12, p.f 1 23 18, p.f 1 31 24, p.f 1 40 32, p.f 1 41 41 == 1, p.f 1 44 42, p.f 1 46 45,
      p.f 2 13 0, BitVec.ofNat 32 (p.f 3 31 0), BitVec.ofNat 32 (p.f 3 63 32), p.f 1 47 47 == 1, signed 8 (p.f 1 55 48)⟩
  | .tvop | .tsfu => stnCmd op p
  | .bkopen =>
    .bkopen ⟨p.f 1 2 0, p.f 1 9 4, p.f 1 13 10, p.f 1 30 16, p.f 2 47 0, p.f 1 3 3 == 1, p.f 1 47 32, p.f 1 63 48⟩
  | .bkadd =>
    .bkadd (p.f 1 3 0) (p.f 1 4 4 == 1)
      (((List.range 4).map fun i => (⟨p.f (i + 2) 5 0, p.f (i + 2) 15 8, p.f (i + 2) 24 16, p.f (i + 2) 47 32⟩ : BkEnt)).filter
        fun e => e.count ≠ 0)
  | .bkclose => .bkclose (p.f 1 2 0) (p.f 1 3 3 == 1)
  | .bkqry => .bkqry (p.f 1 2 0)
  | .ctxset => .ctxset (p.f 1 15 0) (BitVec.ofNat 128 (p.w2.toNat + 2 ^ 64 * p.w3.toNat))
  | .ctxget => .ctxget (p.f 1 15 0) (p.f 1 16 16 == 1) (p.f 2 63 0)
  | .ctxpin => .ctxpin (p.f 1 15 0) (p.f 1 16 16 == 1)
  | .ctxevict => .ctxevict (p.f 1 15 0)
  | .ringset =>
    .ringset ⟨p.f 1 14 0, p.f 1 15 15 == 1, p.f 1 16 16 == 1, p.f 1 17 17 == 1, p.f 1 21 18, p.f 1 25 22, p.f 1 36 26, p.f 1 63 48,
      p.f 2 35 0⟩
  | .ringget => .ringget (p.f 1 14 0)
  | .fence => .fence (p.f 1 1 0 == 1)
  | .preempt => .preempt (p.f 1 1 0) (p.f 1 24 16)
  | .resume => .resume (p.f 1 11 0)
  | .audit => .audit (p.f 1 3 0) (p.f 1 4 4 == 1) (p.f 1 5 5 == 1) (p.f 2 63 0)
  | .nop => .nop
  | .drdent => .drdent (p.f 1 6 0) (p.f 1 12 7) (p.f 1 13 13 == 1) (p.f 2 63 0)
  | .dwrent => .dwrent (p.f 1 6 0) (p.f 1 12 7) (p.f 1 13 13 == 1) (p.f 2 63 0)
  | .drdhay => .drdhay (p.f 1 4 0) (p.f 1 16 5) (p.f 1 17 17 == 1) (p.f 2 63 0)
  | .dwrhay => .dwrhay (p.f 1 4 0) (p.f 1 16 5) (p.f 1 17 17 == 1) (p.f 2 63 0)
  | .dscrub => .dscrub (p.f 1 0 0 == 1) (p.f 1 7 1)
  | .dretire => .dretire (p.f 1 6 0)
  | .drepair => .drepair (p.f 1 7 0) (p.f 1 23 8) (p.f 1 39 24)
  | .dtrace => .dtrace (p.f 1 1 0) (p.f 1 2 2 == 1) (p.f 2 63 0)

/-- Decode a packet (R309): the command, or the reply that ends it. `owner` is the OWNER of the pair of the ring it came from. -/
def decodePacket (owner : Option Nat) (p : Packet) : Outc ⊕ Command :=
  let fmt := hdrFmt p.w0
  if fmt ≠ 1 ∧ fmt ≠ 2 then .inl (outc .unsupported (0x1000 + fmt) 0)
  else
    let bl1 := fmt == 1
    match (Opcode.ofCode (hdrOp p.w0)).filter (fun o => !bl1 || o.inBl1) with
    | none => .inl (outc .unsupported 0x2000 0)
    | some op =>
      if owner.isSome && owner != some (hdrCtx p.w0) then .inl (outc .ctxInvalid 0x3000 0)
      else match firstOffence p (hdrFields ++ bodyFields op bl1 p) with
        | some (w, b) => .inl (outc .reservedField (w + 8 * b) 0)
        | none => .inr (bodyCmd op bl1 p)

end Sys2Proof.Machine
end

