-- ==== Sys2Proof/Machine/Flags.lean ====
section
/-! DEFINITION. The status and detail of a reply that completes a command (R96, R135, R182, R313), and the tile states a completed or
stopped command leaves (R96). -/

namespace Sys2Proof.Machine

/-- The status a command's own effects give it, in the order of R135: an uncorrectable word, wrong write beats, the station's own status,
detail bits, none. -/
def formStatus (e : TagEntry) (count : Nat) : Outc :=
  match e.ecc with
  | some d => ⟨.eccUncorr, d, BitVec.ofNat 32 count⟩
  | none =>
    if e.job.wBad then outc .aborted 0x4000 count
    else match e.job.dn with
      | some d =>
        if bit d 7 then outc .aborted (0x8000 + d.toNat) count
        else if e.bits = 0 then outc .ok 0 count else ⟨.okInfo, e.bits, BitVec.ofNat 32 count⟩
      | none => if e.bits = 0 then outc .ok 0 count else ⟨.okInfo, e.bits, BitVec.ofNat 32 count⟩

/-- The detail bits that a station's own status gives (R135): corrected, nonfinite, saturated. -/
def dstsBits (d : Byte) : BitVec 16 :=
  if bit d 7 then 0
  else (if bit d 0 then bEcc else 0) ||| (if bit d 1 then bNonfin else 0) ||| (if bit d 2 then bSat else 0)

/-- A tile that a W-class touch has written: VALID unless it is UNCONFIGURED (R96). -/
def markValid (t : Nat) (s : State) : State :=
  let x := tileOf s t
  if x.st = .unconfigured then s else setTile t { x with st := .valid } s

/-- Every tile that a command touches in class W other than for ordering becomes VALID (R96). -/
def markWritten (tag : Tag) (s : State) : State :=
  (tagOf s tag).touches.foldl (fun s x =>
    match x.obj with
    | .tile t => if x.cls = .w && !x.orderOnly then markValid t s else s
    | _ => s) s

/-- Complete a command that has written all it was to write (R96, R135). -/
def finishWritten (tag : Tag) (count : Nat) (s : State) : State :=
  let s := markWritten tag s
  finish tag (formStatus (tagOf s tag) count) s

/-- A row-restartable transfer that stops after rows 0 to k − 1 of its destination tile (R96). -/
def markPartial (t k : Nat) (s : State) : State :=
  let x := tileOf s t
  if x.st = .unconfigured then s else setTile t { x with st := .partialTo k } s

/-- Judge one touched tile of a command that starts (R67): 0 proceed, 1 TILE_EMPTY, 2 PARTIAL. -/
def judge1 (cls : TClass) (x : Tile) : Nat :=
  match cls, x.st with
  | .r, .unconfigured => 1 | .a, .unconfigured => 1 | .w, .unconfigured => 1
  | .r, .empty => 1 | .a, .empty => 1
  | .r, .partialTo _ => 2 | .a, .partialTo _ => 2
  | _, _ => 0

/-- How the tiles a command uses let it go on (R67): proceed, a reply, or a wait on PARTIAL tiles. -/
inductive Verdict where
  | go
  | reply (o : Outc)
  | wait
  deriving DecidableEq, Repr

/-- Judge the tiles of a command (R67). -/
def judge (s : State) (touches : List (Nat × TClass)) (noWait : Bool) : Verdict :=
  let low := fun (v : Nat) => (List.range 64).find? fun t =>
    touches.any fun p => p.1 == t && judge1 p.2 (tileOf s t) == v
  match low 1 with
  | some t => .reply (outc .tileEmpty (t + if (tileOf s t).st = .unconfigured then 256 else 0) 0)
  | none => match low 2 with
    | some t => if noWait then .reply (outc .tilePartial t 0) else .wait
    | none => .go

end Sys2Proof.Machine
end

