-- ==== Sys2Proof/Machine/TileConfig.lean ====
section
/-! DEFINITION. The configuration opcodes TCFG, TREL and TQRY (R92, R98-R108, R112). -/

namespace Sys2Proof.Machine

/-! ### Validation -/

/-- The tile register that a tile entry of a TCFG gives (R99, R102, R112): EMPTY, or UNCONFIGURED for a release. -/
def entTile (s : State) (e : TileEnt) : Tile :=
  if e.rel then Tile.none
  else ⟨.empty, e.spill, if e.spill then 0 else e.group, e.base, if e.spill then (spillRange s).1 + 1024 * e.base else 0,
        e.rows, e.rowBytes, e.ty, e.pair⟩

/-- Tile entries with their index in the packet. -/
def tileEnts (es : List CfgEnt) : List (Nat × TileEnt) :=
  (es.zipIdx.filterMap fun p => match p.1 with | .tile e => some (p.2, e) | _ => none)

/-- The index of the last entry that names a tile. -/
def namedAt (es : List CfgEnt) (t : Nat) : Option Nat :=
  ((tileEnts es).filter fun p => p.2.tile == t).getLast?.map (·.1)

/-- The configuration once the entries are applied (R100). -/
def cfgAfter (s : State) (es : List CfgEnt) (t : Nat) : Tile :=
  match ((tileEnts es).filter fun p => p.2.tile == t).getLast? with
  | some p => entTile s p.2
  | none => tileOf s t

/-- Configured, in whatever state. -/
def Tile.configured (x : Tile) : Bool := decide (x.st ≠ .unconfigured)

/-- Two tiles hold a common stripe, or a common Hayloft byte (reason OVERLAP of R100). -/
def tilesOverlap (x y : Tile) : Bool :=
  if !x.configured || !y.configured || x.spill != y.spill then false
  else if x.spill then decide (x.hayAddr < y.hayAddr + y.size) && decide (y.hayAddr < x.hayAddr + x.size)
  else x.group == y.group && decide (x.base < y.base + y.stripes) && decide (y.base < x.base + x.stripes)

/-- Conditions 1-4 of R92 on a value tile `t` with the scale tile it names. -/
def pairOk (t : Nat) (v sc : Tile) : Bool :=
  sc.configured && sc.ty == .e8m0 && v.pair != t && v.rows == sc.rows && decide (v.blocks ≤ sc.rowBytes)
  && v.spill == sc.spill && v.group == sc.group

/-- R92 holds of value tile `t` in configuration `cfg`, condition 5 included. -/
def valueOk (cfg : Nat → Tile) (t : Nat) : Bool :=
  pairOk t (cfg t) (cfg (cfg t).pair)
  && (List.range 64).all fun u => u == t || !((cfg u).configured && (cfg u).ty.isMx && (cfg u).pair == (cfg t).pair)

/-- The lowest reason for which the tile entry of index `i` fails (R100, R101). -/
def tileReason (s : State) (es : List CfgEnt) (i : Nat) (e : TileEnt) : Option Nat :=
  let x := entTile s e
  let cfg := cfgAfter s es
  let clash := (List.range 64).any fun u =>
    u != e.tile && (match namedAt es u with | some j => decide (j < i) | none => true) && tilesOverlap x (cfg u)
  let orphan := (List.range 64).any fun u =>
    (namedAt es u).isNone && (tileOf s u).configured && (tileOf s u).ty.isMx && (tileOf s u).pair == e.tile
    && !pairOk u (tileOf s u) (cfg e.tile)
  let repeated := (tileEnts es).any fun p => decide (p.1 < i) && p.2.tile == e.tile
  ([(0x1, !e.rel && decide (x.size > 65536)),
    (0x2, !e.rel && e.rowBytes % e.ty.align != 0),
    (0x3, !e.rel && !e.spill && decide (e.base + x.stripes > 64)),
    (0x4, clash),
    (0x5, repeated),
    (0x6, !e.rel && e.ty.isMx && !valueOk (fun u => if u = e.tile then x else cfg u) e.tile),
    (0x7, orphan),
    (0x9, !e.rel && e.spill && decide (1024 * e.base + x.size > (spillRange s).2))].find? (·.2)).map (·.1)

/-- The lowest failing entry of a TCFG with its lowest reason (R75, R100, R101). -/
def tcfgFail (s : State) (es : List CfgEnt) : Option (Nat × Nat) :=
  es.zipIdx.findSome? fun p =>
    match p.1 with
    | .unused => none
    | .tile e => (tileReason s es p.2 e).map fun r => (p.2, r)
    | .seg _ e => if e.first + e.count > 256 ∨ e.count > 256 then some (p.2, 0x8) else none

/-! ### Application -/

/-- Cancel the references of stopped commands that use a tile (R108, R330). -/
def cancelTile (t : Nat) (s : State) : State := cancelRecs (fun e => e.uses (.tile t)) (outc .tileEmpty t 0) s

/-- Write zero, with its check bits, into every entry of a stripe of a group (R102, R103). -/
def zeroStripe (g entry : Nat) (s : State) : State :=
  (List.range 8).foldl (fun s j =>
    (List.range 16).foldl (fun s w => shfPut (physOf s 0 (8 * g + j)) entry w 0 0 s) s) s

/-- Zero every stripe of a Sheaf tile (R102). -/
def zeroTile (s : State) (x : Tile) : State :=
  if x.spill then s else (List.range x.stripes).foldl (fun s i => zeroStripe x.group (x.base + i) s) s

/-- Put requests of a command at the banks of its group (R176). -/
def askMil (rs : List MilReq) (s : State) : State := { s with mil := { s.mil with reqs := s.mil.reqs ++ rs } }

/-- A command has a request waiting at a bank. -/
def milBusy (s : State) (tag : Tag) : Bool := s.mil.reqs.any fun r => r.tag == tag

/-- The bank writes that zero a Sheaf tile: one for each bank and stripe (R103). -/
def zeroReqs (tag : Tag) (x : Tile) : List MilReq :=
  if x.spill then [] else (List.range (8 * x.stripes)).map fun i => ⟨tag, 8 * x.group + i % 8, true, false⟩

/-- Zero every stripe of a spill tile through the spill path (R102, R112, R113). -/
def zeroSpill (tag : Tag) (s : State) (x : Tile) : State :=
  if x.spill then askWriteBytes tag 12 x.hayAddr (List.replicate (1024 * x.stripes) 0) (.store tag) s else s

/-- An unused segment entry (R74). -/
def Seg.unused : Seg := ⟨0, 0, 0, 0, false⟩

/-- The copy of its stream's segment table that a TMMAS accepted after this TCFG keeps takes the entry (R76). -/
def segFor (stream place i : Nat) (v : Seg) (e : TagEntry) : TagEntry :=
  match e.cmd with
  | some (.tmmas _) =>
    if hdrStream e.hdr = stream ∧ place < e.place then { e with segs := tset Seg.unused e.segs i v } else e
  | _ => e

/-- Apply a segment entry to the stream's table, and to the tables kept by later TMMAS (R74, R76). -/
def applySeg (stream place i : Nat) (v : Seg) (s : State) : State :=
  { s with
    shf := { s.shf with segs := tset Seg.unused s.shf.segs (64 * stream + i) v }
    tly := { s.tly with
      tags := s.tly.tags.map fun p => (p.1, segFor stream place i v p.2)
      recs := s.tly.recs.map fun p => (p.1, { p.2 with cmd := segFor stream place i v p.2.cmd }) } }

/-- Apply one entry (R102, R112). -/
def applyEnt (stream place : Nat) (s : State) (e : CfgEnt) : State :=
  match e with
  | .unused => s
  | .seg i v => applySeg stream place i v s
  | .tile e =>
    cancelTile e.tile (setTile e.tile (entTile s e) s)

/-- The tiles that an applied TCFG has configured. -/
def tcfgTiles (s : State) (es : List CfgEnt) : List Tile := ((tileEnts es).map fun p => tileOf s p.2.tile).filter (·.configured)

/-- The groups whose stripes an applied TCFG zeroes. -/
def tcfgGroups (s : State) (es : List CfgEnt) : List Nat := dedup (((tcfgTiles s es).filter fun x => !x.spill).map (·.group))

/-- Wake every group of a list that is not ON (R110). -/
def wakeGroups (gs : List Nat) (s : State) : State :=
  gs.foldl (fun s g => if (groupOf s g).ready then s else wakeGroup g s) s

/-- Apply the entries of a TCFG in one step, wake the groups it zeroes, and ask for the writes of zeros (R102, R103, R110, R112). -/
def tcfgApply (tag : Tag) (e : TagEntry) (es : List CfgEnt) (s : State) : State :=
  let s := updJob tag (fun j => { j with stage := 1 }) (es.foldl (applyEnt (hdrStream e.hdr) e.place) s)
  let s := askMil ((tcfgTiles s es).flatMap (zeroReqs tag)) (wakeGroups (tcfgGroups s es) s)
  (tcfgTiles s es).foldl (zeroSpill tag) s

/-- End a TCFG once its last write of zeros is done (R102, R104). -/
def tcfgEnd (tag : Tag) (e : TagEntry) (es : List CfgEnt) (s : State) : State :=
  if milBusy s tag || e.job.wrOut != 0 then s
  else if (tcfgGroups s es).all (fun g => (groupOf s g).ready) then
    finish tag (outc .ok 0 (es.filter fun x => x ≠ .unused).length) ((tcfgTiles s es).foldl zeroTile s)
  else wakeGroups (tcfgGroups s es) s

/-- TCFG of a started tag (R100-R104): refused as a whole, or applied as a whole and, once its tiles are zeroed, ended. -/
def execTcfg (tag : Tag) (s : State) : Host.Outcome State Fault Refusal :=
  match started s tag .tcfg with
  | some e =>
    match e.cmd with
    | some (.tcfg es) =>
      if e.job.stage = 0 then
        match tcfgFail s es with
        | some (i, r) => .next (finish tag (outc (if r = 9 then .capacity else .cfgInconsistent) (256 * r + i) 0) s)
        | none => .next (tcfgApply tag e es s)
      else .next (tcfgEnd tag e es s)
    | _ => .next s
  | none => .next s

/-- Tiles of a mask, in ascending order. -/
def maskTiles (m : Word) : List Nat := (List.range 64).filter fun t => bit m t

/-- TREL of a started tag (R107, R108). -/
def execTrel (tag : Tag) (s : State) : Host.Outcome State Fault Refusal :=
  match started s tag .trel with
  | some e =>
    match e.cmd with
    | some (.trel m) =>
      let ts := maskTiles m
      let orphan := ts.find? fun t => (tileOf s t).configured && (List.range 64).any fun u =>
        !bit m u && (tileOf s u).configured && (tileOf s u).ty.isMx && (tileOf s u).pair == t
      match orphan with
      | some t => .next (finish tag (outc .cfgInconsistent (0x700 + t) 0) s)
      | none =>
        let n := (ts.filter fun t => (tileOf s t).configured).length
        .next (finish tag (outc .ok 0 n) (ts.foldl (fun s t => cancelTile t (setTile t Tile.none s)) s))
    | _ => .next s
  | none => .next s

/-- The state code of a tile in a TQRY reply (R98). -/
def TileSt.code : TileSt → Nat
  | .unconfigured => 0 | .empty => 1 | .valid => 2 | .partialTo _ => 3

/-- The detail and count of a TQRY (R98). -/
def tqryReply (x : Tile) : Outc :=
  if !x.configured then outc .ok 0 0
  else
    let k := match x.st with | .partialTo k => k | _ => 0
    outc .ok (x.st.code + 4 * b2n x.spill + 8 * b2n x.ty.isMx + 16 * (k % 256) + 4096 * x.ty.code)
      ((x.rows - 1) % 256 + 256 * ((x.rowBytes / 16 - 1) % 128) + 2 ^ 15 * (if x.spill then 0 else x.group % 8) + 2 ^ 18 * (x.base % 256)
        + 2 ^ 26 * x.pair)

/-- TQRY of a started tag (R98). -/
def execTqry (tag : Tag) (s : State) : Host.Outcome State Fault Refusal :=
  match started s tag .tqry with
  | some e =>
    match e.cmd with
    | some (.tqry t) => .next (finish tag (tqryReply (tileOf s t)) s)
    | _ => .next s
  | none => .next s

end Sys2Proof.Machine
end

