-- ==== Sys2Proof/Machine/BankArith.lean ====
section
/-! DEFINITION. Bank arithmetic: the opcodes 0x30-0x36, executed by the Millers of one group (R174-R198). A command asks for a bank cycle for
each of its reads and writes (R176, R182); what they do is one step, once all are granted (log 8): its segments are read and tested once
each (R198), and every word written gets matching check bits. -/

namespace Sys2Proof.Machine

/-! ### Operands and checks -/

/-- The tiles a bank-arithmetic command names, with the class of their touch (R65), D first. -/
def bankTiles (op : Opcode) (x : BankOp) : List (Nat × TClass) :=
  match op with
  | .tacc => [(x.dtile, .a), (x.stile, .r)]
  | .tscl | .tzero => [(x.dtile, .w)]
  | .taccc => [(x.dtile, .w), (x.stile, .r), (x.etile, .w)]
  | .tred => if x.axis = 3 then [(x.dtile, .w), (x.stile, .r), (x.s2tile, .r)] else [(x.dtile, .w), (x.stile, .r)]
  | _ => [(x.dtile, .w), (x.stile, .r)]

/-- Tiles with the scale tiles that MX value tiles name, in the same class (R178, R221). -/
def withScales (s : State) (ts : List (Nat × TClass)) : List (Nat × TClass) :=
  (ts.map fun p =>
    let x := tileOf s p.1
    if x.configured && x.ty.isMx then [p, (x.pair, p.2)] else [p]).flatten

/-- The lowest-numbered tile of a list that satisfies `p`. -/
def lowestTile (ts : List Nat) (p : Nat → Bool) : Option Nat := (List.range 64).find? fun t => ts.contains t && p t

/-- TRED with AXIS 0-2 indexes only the source's rows. -/
def isReduction (op : Opcode) (x : BankOp) : Bool := op == .tred && x.axis != 3

/-- DOFF lies beyond the destination of a reduction (R188). -/
def doffBad (d : Tile) (x : BankOp) : Bool :=
  match x.axis with
  | 0 => decide (x.doff + x.count > d.size / 4)
  | 1 => decide (d.rows ≤ x.doff)
  | _ => decide (d.size / 4 ≤ x.doff)

/-- A type that TQNT writes (R190). -/
def EType.isQuantDest (t : EType) : Bool :=
  match t with
  | .bf16 | .fp16 | .e4m3 | .e5m2 => true
  | t => t.isMx

/-- The tile that check 5 of R180 names, if any. -/
def typeBad (s : State) (op : Opcode) (x : BankOp) (ts : List Nat) : Option Nat :=
  let d := tileOf s x.dtile
  let src := tileOf s x.stile
  match op with
  | .tqnt => lowestTile ts fun t =>
      (t == x.stile && src.ty != .fp32) || (t == x.dtile && (!d.ty.isQuantDest || (d.ty.isMx && x.sexp != 0)))
  | .tdq => if d.ty == src.ty || (d.ty == .fp32 && src.ty != .e8m0) then none else some x.dtile
  | .tzero => none
  | _ => lowestTile ts fun t => (tileOf s t).ty != .fp32

/-- The source that check 6 of R180 names, if any (R185, R186, R188, R190, R196). -/
def shapeBad (s : State) (op : Opcode) (x : BankOp) : Option Nat :=
  let d := tileOf s x.dtile
  let src := tileOf s x.stile
  let bad := match op with
    | .tacc | .taccc => d.rowBytes != src.rowBytes
    | .tred => if x.axis = 1 then decide (d.rowBytes < src.rowBytes) else x.axis == 3 && d.rowBytes != src.rowBytes
    | .tqnt => d.elems != src.elems
    | .tdq => if d.ty = src.ty then d.rowBytes != src.rowBytes else d.elems != src.elems
    | _ => false
  if bad then some x.stile
  else if op == .taccc && (tileOf s x.etile).rowBytes != src.rowBytes then some x.stile
  else if op == .tred && x.axis == 3 && (tileOf s x.s2tile).rowBytes != d.rowBytes then some x.s2tile
  else none

/-- The tile that check 7 of R180 names, if any (R186, R188). -/
def roleBad (op : Opcode) (x : BankOp) : Option Nat :=
  if op == .taccc && (x.etile == x.dtile || x.etile == x.stile) then some x.etile
  else if isReduction op x && x.dtile == x.stile then some x.dtile
  else none

/-- Checks 2 to 7 of R180. -/
def bankChecks (s : State) (op : Opcode) (x : BankOp) : Option Outc :=
  let ts := (bankTiles op x).map (·.1)
  let d := tileOf s x.dtile
  match lowestTile ts (fun t => (tileOf s t).spill) with
  | some t => some (outc .capacity (0x200 + t) 0)
  | none =>
  match lowestTile ((withScales s (bankTiles op x)).map (·.1)) (fun t => (tileOf s t).group != d.group) with
  | some t => some (outc .shapeMismatch (0x5000 + t) 0)
  | none =>
  let long := fun t => decide (x.first + x.count > (tileOf s t).rows)
  match lowestTile ts (fun t =>
      if isReduction op x then (t == x.stile && long t) || (t == x.dtile && doffBad d x) else long t) with
  | some t => some (outc .length t 0)
  | none =>
  match typeBad s op x ts with
  | some t => some (outc .typeMismatch t 0)
  | none =>
  match shapeBad s op x with
  | some t => some (outc .shapeMismatch (0x6000 + t) 0)
  | none => (roleBad op x).map fun t => outc .shapeMismatch (0x7000 + t) 0

/-! ### Reads and writes of a tile by the Millers -/

/-- A Miller reads segment `k` of a tile for a command: every word tested (R198). The segment as a number. -/
def segRead (tag : Tag) (t k : Nat) (s : State) : Nat × State :=
  let (bank, entry) := segPlace s t (tileOf s t) k
  (List.range 16).foldl (fun acc w =>
    let (d, r, s) := shfRead bank entry w acc.2
    let s := match r with
      | .good => s
      | .corrected => addBits tag bEcc (cnt 0x1050 1 s)
      | .uncorr => addUncorr tag t false k s
    (acc.1 + d.toNat * 2 ^ (64 * w), s)) (0, s)

/-- Read the bytes `lo` to `hi - 1` of a tile, each segment once (R182). The bytes as one little-endian number. -/
def rangeRead (tag : Tag) (t lo hi : Nat) (s : State) : Nat × State :=
  let k0 := lo / 128
  let n := ceilDiv hi 128 - k0
  let (v, s) := (List.range n).foldl (fun acc i =>
    let (d, s) := segRead tag t (k0 + i) acc.2
    (acc.1 + d * 2 ^ (1024 * i), s)) (0, s)
  (v / 2 ^ (8 * (lo - 128 * k0)) % 2 ^ (8 * (hi - lo)), cnt 0x104C n s)

/-- Write the bytes of 64-bit word `w` of a tile that lie in `lo` to `hi - 1`; a part of a word is merged with the word read (R181). -/
def wordMerge (tag : Tag) (t lo hi v : Nat) (s : State) (w : Nat) : State :=
  let k := w / 16
  let (bank, entry) := segPlace s t (tileOf s t) k
  if lo ≤ 8 * w ∧ 8 * w + 8 ≤ hi then
    let d := BitVec.ofNat 64 (v / 2 ^ (8 * (8 * w - lo)))
    shfPut bank entry (w % 16) d (checkByte d) s
  else
    let (old, r, s) := shfRead bank entry (w % 16) s
    let s := match r with
      | .good => s
      | .corrected => addBits tag bEcc (cnt 0x1050 1 s)
      | .uncorr => addUncorr tag t false k s
    let d := BitVec.ofNat 64 (ofBytes ((List.range 8).map fun i =>
      let o := 8 * w + i
      if lo ≤ o ∧ o < hi then BitVec.ofNat 8 (v / 2 ^ (8 * (o - lo))) else byteAt old i))
    shfPut bank entry (w % 16) d (checkByte d) (cnt 0x104C 1 s)

/-- Write the bytes `lo` to `hi - 1` of a tile; nothing at or beyond its size (R95, R181, R198). -/
def rangeWrite (tag : Tag) (t lo hi v : Nat) (s : State) : State :=
  let hi := min hi (tileOf s t).size
  let w0 := lo / 8
  let s := (List.range (ceilDiv hi 8 - w0)).foldl (fun s i => wordMerge tag t lo hi v s (w0 + i)) s
  cnt 0x104C (ceilDiv hi 128 - lo / 128) s

/-- `n` elements of `w` bits of a number, the first at bit 0. -/
def unpackElems (w n v : Nat) : List Nat := (List.range n).map fun i => elemOf w v i

/-- The FP32 elements of rows FIRST to FIRST + COUNT − 1 of a tile. -/
def rowsRead (tag : Tag) (t first count : Nat) (s : State) : List (BitVec 32) × State :=
  let rb := (tileOf s t).rowBytes
  let (v, s) := rangeRead tag t (first * rb) ((first + count) * rb) s
  ((unpackElems 32 (count * rb / 4) v).map (BitVec.ofNat 32), s)

/-- Elements that a command read set the nonfinite detail bit (R183). -/
def noteRead (tag : Tag) (xs : List (BitVec 32)) (s : State) : State :=
  if xs.any isNonfin then addBits tag bNonfin s else s

/-- Elements that a command wrote count in MIL_NONFIN and set the bit (R183). -/
def noteNonfin (tag : Tag) (n : Nat) (s : State) : State :=
  if n = 0 then s else addBits tag bNonfin (cnt 0x1040 n s)

/-- Write FP32 elements from tile byte `lo` upwards. -/
def fpWrite (tag : Tag) (t lo : Nat) (xs : List (BitVec 32)) (s : State) : State :=
  let s := rangeWrite tag t lo (lo + 4 * xs.length) (packElems 32 (xs.map (·.toNat))) s
  noteNonfin tag (xs.filter isNonfin).length s

/-- Write FP32 elements into the rows of a range. -/
def rowsWrite (tag : Tag) (t first : Nat) (xs : List (BitVec 32)) (s : State) : State :=
  fpWrite tag t (first * (tileOf s t).rowBytes) xs s

/-! ### TACC, TACCC, TSCL, TZERO -/

/-- D + ALPHA × S (R185). -/
def doTacc (tag : Tag) (x : BankOp) (s : State) : State :=
  let (d, s) := rowsRead tag x.dtile x.first x.count s
  let (v, s) := rowsRead tag x.stile x.first x.count s
  rowsWrite tag x.dtile x.first (List.zipWith (fun a b => fma a x.alpha b) d v) (noteRead tag (d ++ v) s)

/-- The sum and the new error of one element (R186). -/
def accc (d e x : BitVec 32) : BitVec 32 × BitVec 32 :=
  let t := fadd d x
  let bv := fsub t d
  let er := fadd (fsub d (fsub t bv)) (fsub x bv)
  (t, if isNonfin t then e else fadd e er)

/-- TACCC (R186). -/
def doTaccc (tag : Tag) (x : BankOp) (s : State) : State :=
  let (d, s) := rowsRead tag x.dtile x.first x.count s
  let (e, s) := rowsRead tag x.etile x.first x.count s
  let (v, s) := rowsRead tag x.stile x.first x.count s
  let r := List.zipWith (fun p c => accc p.1 p.2 c) (List.zip d e) v
  let s := noteRead tag (d ++ e ++ v) s
  rowsWrite tag x.etile x.first (r.map (·.2)) (rowsWrite tag x.dtile x.first (r.map (·.1)) s)

/-- D × MUL + ADD (R187). -/
def doTscl (tag : Tag) (x : BankOp) (s : State) : State :=
  let (d, s) := rowsRead tag x.dtile x.first x.count s
  rowsWrite tag x.dtile x.first (d.map fun a => fma x.add a x.alpha) (noteRead tag d s)

/-- Zero into the rows of the range (R197). -/
def doTzero (tag : Tag) (x : BankOp) (s : State) : State :=
  let rb := (tileOf s x.dtile).rowBytes
  rangeWrite tag x.dtile (x.first * rb) ((x.first + x.count) * rb) 0 s

/-! ### TRED -/

/-- MAX, MIN or MAXABS of two elements, or their sum (R188). -/
def combine (op : Nat) (a b : BitVec 32) : BitVec 32 :=
  match op with
  | 0 => fadd a b
  | 1 => fmax a b
  | 2 => fmin a b
  | 4 => fmax (fabs a) (fabs b)
  | _ => fadd a b

/-- Take the element at a freely chosen position (log 1). -/
def takePick {α : Type} [Inhabited α] (l : List α) (s : State) : α × List α × State :=
  let (n, s) := pick s
  let i := n % l.length
  (l.getD i default, dropAt i l, s)

/-- Combine partial sums two at a time, in an order the spec leaves unspecified (R188, R189). -/
def sumFree : Nat → List (BitVec 32) → State → BitVec 32 × State
  | 0, l, s => (l.headD 0, s)
  | n + 1, l, s =>
    if l.length ≤ 1 then (l.headD 0, s)
    else
      let (a, l, s) := takePick l s
      let (b, l, s) := takePick l s
      sumFree n (fadd a b :: l) s

/-- Add squares one at a time with one rounding each, in an unspecified order (R188, R189). -/
def sumSqFree : Nat → BitVec 32 → List (BitVec 32) → State → BitVec 32 × State
  | 0, acc, _, s => (acc, s)
  | n + 1, acc, l, s =>
    if l.isEmpty then (acc, s)
    else
      let (a, l, s) := takePick l s
      sumSqFree n (fma acc a a) l s

/-- A NaN result is the quiet NaN (R183). -/
def quiet (a : BitVec 32) : BitVec 32 := if isNan a then fpNan else a

/-- Reduce a list that is not empty (R188). -/
def reduceList (op : Nat) (l : List (BitVec 32)) (s : State) : BitVec 32 × State :=
  match op with
  | 0 => let (r, s) := sumFree l.length l s; (quiet r, s)
  | 3 => sumSqFree l.length 0 l s
  | 4 => (quiet ((l.map fabs).foldl (combine 4) 0), s)
  | o => (quiet (l.tail.foldl (combine o) (l.headD 0)), s)

/-- Reduce each list of a list. -/
def reduceAll (op : Nat) (ls : List (List (BitVec 32))) (s : State) : List (BitVec 32) × State :=
  ls.foldl (fun acc l => let (r, s) := reduceList op l acc.2; (acc.1 ++ [r], s)) ([], s)

/-- The elements of row `r`, `n` to a row. -/
def rowOf (n : Nat) (xs : List (BitVec 32)) (r : Nat) : List (BitVec 32) := (xs.drop (n * r)).take n

/-- TRED (R188). -/
def doTred (tag : Tag) (x : BankOp) (s : State) : State :=
  let n := (tileOf s x.stile).elems
  let (v, s) := rowsRead tag x.stile x.first x.count s
  let s := noteRead tag v s
  match x.axis with
  | 0 =>
    let (r, s) := reduceAll x.op ((List.range x.count).map (rowOf n v)) s
    fpWrite tag x.dtile (4 * x.doff) r s
  | 1 =>
    let (r, s) := reduceAll x.op ((List.range n).map fun j => (List.range x.count).map fun i => v.getD (n * i + j) 0) s
    fpWrite tag x.dtile (x.doff * (tileOf s x.dtile).rowBytes) r s
  | 2 =>
    let (r, s) := reduceList x.op v s
    fpWrite tag x.dtile (4 * x.doff) [r] s
  | _ =>
    let (v2, s) := rowsRead tag x.s2tile x.first x.count s
    rowsWrite tag x.dtile x.first (List.zipWith (fun a b => quiet (combine x.op a b)) v v2) (noteRead tag v2 s)

/-! ### TQNT -/

/-- One advance of a lane's generator (R195). -/
def genAdvance (g : BitVec 32) : BitVec 32 := (g >>> 1) ^^^ (if bit g 0 then 0x80200003#32 else 0)

/-- The state of a lane after a reseed (R195). -/
def genSeed (seed nn l : Nat) : BitVec 32 :=
  let v := BitVec.ofNat 32 seed ^^^ BitVec.ofNat 32 (32 * nn + l)
  if v = 0 then 1 else v

/-- The state of lane `l` of physical Miller `nn`. -/
def genOf (s : State) (nn l : Nat) : BitVec 32 :=
  tget (genSeed (tget 1 s.mil.seeds (nn / 9)).toNat nn l) s.mil.gens (32 * nn + l)

/-- A draw: sixteen advances, then bits [15:0] (R195). -/
def draw (nn l : Nat) (s : State) : Nat × State :=
  let g := (List.range 16).foldl (fun g _ => genAdvance g) (genOf s nn l)
  (fld g 15 0, { s with mil := { s.mil with gens := tput (32 * nn + l) g s.mil.gens } })

/-- The draws of one source segment for the lanes whose element lies in `lo` to `hi - 1` (R194). -/
def segDraws (t lo hi k : Nat) (s : State) : List Nat × State :=
  let (bank, _) := segPlace s t (tileOf s t) k
  (List.range 32).foldl (fun acc l =>
    let o := 128 * k + 4 * l
    if lo ≤ o ∧ o < hi then
      let (r, s) := draw bank l acc.2
      (acc.1 ++ [r], s)
    else (acc.1 ++ [0], acc.2)) ([], s)

/-- Every segment's draws, the segments taken in an unspecified order (R189). -/
def drawsFree (t lo hi : Nat) : Nat → List Nat → List (Nat × List Nat) → State → List (Nat × List Nat) × State
  | 0, _, acc, s => (acc, s)
  | n + 1, ks, acc, s =>
    if ks.isEmpty then (acc, s)
    else
      let (k, ks, s) := takePick ks s
      let (d, s) := segDraws t lo hi k s
      drawsFree t lo hi n ks ((k, d) :: acc) s

/-- The draw of the element at tile byte `o`. -/
def drawAt (ds : List (Nat × List Nat)) (o : Nat) : Nat :=
  match ds.find? (fun p => p.1 == o / 128) with
  | some p => p.2.getD (o % 128 / 4) 0
  | none => 0

/-- Quantise the elements of one row: the codes, how many saturated, and the scale bytes of an MX row (R190-R193). `mode i` says how
element `i` rounds. -/
def quantRow (ty : EType) (sexp : Int) (mode : Nat → RMode) (xs : List (BitVec 32)) : List Nat × Nat × List Nat :=
  let nums := xs.map fp32
  let es : List Int := if ty.isMx then (List.range (ceilDiv nums.length 32)).map fun b => blockExp ty ((nums.drop (32 * b)).take 32) else []
  let q := nums.zipIdx.map fun p =>
    let y := if ty.isMx then p.1.scale (-(es.getD (p.2 / 32) 0)) else p.1.scale sexp
    ty.quant (mode p.2) y
  (q.map (·.1), (q.filter (·.2)).length, es.map fun e => (e + 127).toNat)

/-- A row of scale bytes: those of the blocks, then zeros (R93). -/
def scaleRow (rb : Nat) (sc : List Nat) : Nat := packElems 8 ((List.range rb).map fun i => sc.getD i 0)

/-- Rows as one number, each of `rb` bytes. -/
def packRows (rb : Nat) (rows : List Nat) : Nat := packElems (8 * rb) rows

/-- TQNT (R190-R195). -/
def doTqnt (tag : Tag) (x : BankOp) (s : State) : State :=
  let d := tileOf s x.dtile
  let src := tileOf s x.stile
  let n := src.elems
  let lo := x.first * src.rowBytes
  let hi := (x.first + x.count) * src.rowBytes
  let (v, s) := rowsRead tag x.stile x.first x.count s
  let s := noteRead tag v s
  let ks := (List.range (ceilDiv hi 128 - lo / 128)).map (· + lo / 128)
  let (ds, s) := if x.stoch then drawsFree x.stile lo hi ks.length ks [] s else ([], s)
  let rows := (List.range x.count).map fun r =>
    quantRow d.ty x.sexp (fun i => if x.stoch then .draw (drawAt ds (lo + r * src.rowBytes + 4 * i)) else .nearest) (rowOf n v r)
  let out := rows.map fun r => packElems d.ty.bits r.1
  let s := rangeWrite tag x.dtile (x.first * d.rowBytes) ((x.first + x.count) * d.rowBytes) (packRows d.rowBytes out) s
  let nf := (rows.map fun r => (r.1.filter d.ty.nonfinCode).length).sum
  let sat := (rows.map fun r => r.2.1).sum
  let s := noteNonfin tag nf s
  let s := if sat = 0 then s else addBits tag bSat (cnt 0x1044 sat s)
  if d.ty.isMx then
    let rb := (tileOf s d.pair).rowBytes
    rangeWrite tag d.pair (x.first * rb) ((x.first + x.count) * rb) (packRows rb (rows.map fun r => scaleRow rb r.2.2)) s
  else s

/-! ### TDQ -/

/-- The bytes of the rows of a range as one number for each row. -/
def rawRows (tag : Tag) (t first count : Nat) (s : State) : List Nat × State :=
  let rb := (tileOf s t).rowBytes
  let (v, s) := rangeRead tag t (first * rb) ((first + count) * rb) s
  (unpackElems (8 * rb) count v, s)

/-- The scale bytes of each row of a range of an MX value tile (R92, R93). -/
def scaleRows (tag : Tag) (src : Tile) (first count : Nat) (s : State) : List (List Nat) × State :=
  let (rows, s) := rawRows tag src.pair first count s
  (rows.map fun r => unpackElems 8 src.blocks r, s)

/-- Blocks of a row that a scale tile holds the scales of: those of the MX value tile that names it (R92, R93). -/
def scaleUse (s : State) (t : Nat) : Option Nat :=
  ((List.range 64).find? fun u => (tileOf s u).configured && (tileOf s u).ty.isMx && (tileOf s u).pair == t).map fun u => (tileOf s u).blocks

/-- A row of a tile as it is to be stored: zero beyond the last block's scale of a scale tile (R93). -/
def cutRow (s : State) (t v : Nat) : Nat := match scaleUse s t with | some n => v % 2 ^ (8 * n) | none => v

/-- A copy, bit for bit, with the scale rows of an MX value tile (R93, R196). -/
def doCopy (tag : Tag) (x : BankOp) (s : State) : State :=
  let d := tileOf s x.dtile
  let src := tileOf s x.stile
  let (rows, s) := rawRows tag x.stile x.first x.count s
  let nf := (rows.map fun r => ((unpackElems src.ty.bits src.elems r).filter src.ty.nonfinCode).length).sum
  let s := rangeWrite tag x.dtile (x.first * d.rowBytes) ((x.first + x.count) * d.rowBytes)
    (packRows d.rowBytes (rows.map (cutRow s x.dtile))) s
  let s := noteNonfin tag nf s
  if src.ty.isMx then
    let (sc, s) := scaleRows tag src x.first x.count s
    let rb := (tileOf s d.pair).rowBytes
    let s := rangeWrite tag d.pair (x.first * rb) ((x.first + x.count) * rb) (packRows rb (sc.map (scaleRow rb))) s
    noteNonfin tag ((sc.map fun r => (r.filter (· == 0xFF)).length).sum) s
  else s

/-- The FP32 elements of one row of a source (R196). -/
def dequantRow (ty : EType) (n row : Nat) (sc : List Nat) : List (BitVec 32) :=
  (unpackElems ty.bits n row).zipIdx.map fun p =>
    let v := ty.decode p.1
    (if ty.isMx then v.withScale (sc.getD (p.2 / 32) 0) else v).toFp32

/-- A conversion to FP32 (R196). -/
def doConvert (tag : Tag) (x : BankOp) (s : State) : State :=
  let src := tileOf s x.stile
  let (rows, s) := rawRows tag x.stile x.first x.count s
  let (sc, s) := if src.ty.isMx then scaleRows tag src x.first x.count s else ([], s)
  let out := (rows.zipIdx.map fun p => dequantRow src.ty src.elems p.1 (sc.getD p.2 [])).flatten
  let rd := rows.any fun r => (unpackElems src.ty.bits src.elems r).any fun c => (src.ty.decode c).nonfinite
  rowsWrite tag x.dtile x.first out (if rd || sc.any (·.contains 0xFF) then addBits tag bNonfin s else s)

/-- TDQ (R196). -/
def doTdq (tag : Tag) (x : BankOp) (s : State) : State :=
  if (tileOf s x.dtile).ty = (tileOf s x.stile).ty then doCopy tag x s else doConvert tag x s

/-! ### The step of a command -/

/-- What a command that passed its checks computes and writes. -/
def runBank (op : Opcode) (tag : Tag) (x : BankOp) (s : State) : State :=
  match op with
  | .tacc => doTacc tag x s
  | .taccc => doTaccc tag x s
  | .tscl => doTscl tag x s
  | .tzero => doTzero tag x s
  | .tred => doTred tag x s
  | .tqnt => doTqnt tag x s
  | .tdq => doTdq tag x s
  | _ => s

/-- The requests for the bytes `lo` to `hi - 1` of a tile: one for each segment (R174, R182). -/
def rangeReqs (s : State) (tag : Tag) (wr upd : Bool) (t lo hi : Nat) : List MilReq :=
  (List.range (ceilDiv hi 128 - lo / 128)).map fun i => ⟨tag, segBank t (tileOf s t) (lo / 128 + i), wr, upd⟩

/-- The requests for the rows of the range of a tile. -/
def rowReqs (s : State) (tag : Tag) (wr upd : Bool) (x : BankOp) (t : Nat) : List MilReq :=
  rangeReqs s tag wr upd t (x.first * (tileOf s t).rowBytes) ((x.first + x.count) * (tileOf s t).rowBytes)

/-- The same with the scale rows of an MX tile. -/
def rowReqs2 (s : State) (tag : Tag) (wr : Bool) (x : BankOp) (t : Nat) : List MilReq :=
  rowReqs s tag wr false x t ++ if (tileOf s t).ty.isMx then rowReqs s tag wr false x (tileOf s t).pair else []

/-- The requests of a write of FP32 elements that may cover a part of a word at either end (R181). -/
def elemReqs (s : State) (tag : Tag) (t lo hi : Nat) : List MilReq :=
  (if lo % 8 = 0 then [] else rangeReqs s tag false false t lo (lo + 1))
  ++ (if hi % 8 = 0 then [] else rangeReqs s tag false false t (hi - 1) hi) ++ rangeReqs s tag true false t lo hi

/-- The requests of rows that several tiles hold at equal offsets, segment by segment: those of each tile read, then those written. -/
def zipReqs (s : State) (tag : Tag) (upd : Bool) (x : BankOp) (rd wr : List Nat) : List MilReq :=
  let rb := (tileOf s x.dtile).rowBytes
  let k0 := x.first * rb / 128
  (List.range (ceilDiv ((x.first + x.count) * rb) 128 - k0)).flatMap fun i =>
    rd.map (fun t => ⟨tag, segBank t (tileOf s t) (k0 + i), false, false⟩)
    ++ wr.map fun t => ⟨tag, segBank t (tileOf s t) (k0 + i), true, upd⟩

/-- The bank reads and writes of a command, each read before the write it feeds (R176, R182). -/
def bankReqs (s : State) (op : Opcode) (tag : Tag) (x : BankOp) : List MilReq :=
  let d := tileOf s x.dtile
  match op with
  | .tacc => zipReqs s tag true x [x.dtile, x.stile] [x.dtile]
  | .taccc => zipReqs s tag true x [x.dtile, x.etile, x.stile] [x.dtile, x.etile]
  | .tscl => zipReqs s tag true x [x.dtile] [x.dtile]
  | .tzero => zipReqs s tag false x [] [x.dtile]
  | .tred =>
    if x.axis = 3 then zipReqs s tag false x [x.stile, x.s2tile] [x.dtile]
    else rowReqs s tag false false x x.stile ++ match x.axis with
      | 0 => elemReqs s tag x.dtile (4 * x.doff) (4 * (x.doff + x.count))
      | 1 => rangeReqs s tag true false x.dtile (x.doff * d.rowBytes) (x.doff * d.rowBytes + (tileOf s x.stile).rowBytes)
      | _ => elemReqs s tag x.dtile (4 * x.doff) (4 * (x.doff + 1))
  | .tqnt => rowReqs s tag false false x x.stile ++ rowReqs2 s tag true x x.dtile
  | _ => rowReqs2 s tag false x x.stile ++ rowReqs2 s tag true x x.dtile

/-- A command whose bank cycles have all been granted computes and ends (R182); a group that has left ON meanwhile is woken. -/
def bankEnd (op : Opcode) (tag : Tag) (x : BankOp) (s : State) : State :=
  let g := (tileOf s x.dtile).group
  if milBusy s tag then s
  else if !(groupOf s g).ready then wakeGroup g s
  else if running s (1 + g) then finishWritten tag x.count (runBank op tag x s) else s

/-- A started bank-arithmetic command: COUNT 0 moves nothing; a failing check replies; else it wakes its group, asks for its bank cycles, and
runs to completion (R110, R178, R180, R182). -/
def bankStep (op : Opcode) (tag : Tag) (s : State) : Host.Outcome State Fault Refusal :=
  match started s tag op with
  | some e =>
    match e.cmd with
    | some (.bank _ x) =>
      if x.count = 0 then .next (finishWritten tag 0 s)
      else if e.job.stage = 0 then
        match bankChecks s op x with
        | some o => .next (finish tag o s)
        | none =>
          let s := wakeGroup (tileOf s x.dtile).group (updJob tag (fun j => { j with stage := 1 }) s)
          .next (askMil (bankReqs s op tag x) s)
      else .next (bankEnd op tag x s)
    | _ => .next s
  | none => .next s

/-- TACC (R185). -/
def execTacc (tag : Tag) (s : State) : Host.Outcome State Fault Refusal := bankStep .tacc tag s
/-- TRED (R188). -/
def execTred (tag : Tag) (s : State) : Host.Outcome State Fault Refusal := bankStep .tred tag s
/-- TQNT (R190). -/
def execTqnt (tag : Tag) (s : State) : Host.Outcome State Fault Refusal := bankStep .tqnt tag s
/-- TSCL (R187). -/
def execTscl (tag : Tag) (s : State) : Host.Outcome State Fault Refusal := bankStep .tscl tag s
/-- TACCC (R186). -/
def execTaccc (tag : Tag) (s : State) : Host.Outcome State Fault Refusal := bankStep .taccc tag s
/-- TDQ (R196). -/
def execTdq (tag : Tag) (s : State) : Host.Outcome State Fault Refusal := bankStep .tdq tag s
/-- TZERO (R197). -/
def execTzero (tag : Tag) (s : State) : Host.Outcome State Fault Refusal := bankStep .tzero tag s

end Sys2Proof.Machine
end

