-- ==== Sys2Proof/Machine/Carters.lean ====
section
/-! DEFINITION. Ports and the operand crossbar: the slot wheel, the bank cycle, the spill path and the reuse latches (R115-R141), with the
sharing of a bank cycle (R176, R177) and the drain bus's update of a segment (R184). A beat's two halves are two bank requests. -/

namespace Sys2Proof.Machine

/-! ### Stations -/

/-- A station's side of the Carters. -/
def stnOf (s : State) (n : Nat) : Station := tget (Station.init n) s.crt.stns n

/-- Set a station's side of the Carters. -/
def setStn (n : Nat) (x : Station) (s : State) : State :=
  { s with crt := { s.crt with stns := tset (Station.init n) s.crt.stns n x } }

/-- Change a station's side of the Carters. -/
def updStn (n : Nat) (f : Station → Station) (s : State) : State := setStn n (f (stnOf s n)) s

/-- V0, V1 and SF lie outside the fabric (R57). -/
def external (n : Nat) : Bool := n == 3 || n == 4 || n == 5

/-- The station number of an external station (R15). -/
def extNum : ExtStn → Nat
  | .v0 => 3 | .v1 => 4 | .sf => 5

/-- Drive the pins of a station channel (R35). -/
def drive (n : Nat) (f : StnPins → StnPins) (s : State) : State :=
  { s with pin := { s.pin with stn := tset StnPins.zero s.pin.stn n (f (tget StnPins.zero s.pin.stn n)) } }

/-- The beats of a tile that cover bytes `lo` to `hi - 1` (R116). -/
def beatsOf (lo hi : Nat) : List Nat := if hi ≤ lo then [] else (List.range (ceilDiv hi 256 - lo / 256)).map (· + lo / 256)

/-- The 64-bit words of beat `j` that lie in bytes `lo` to `hi - 1` (R117); every range begins and ends on a word. -/
def beatMask (lo hi j : Nat) : BitVec 32 :=
  BitVec.ofNat 32 (((List.range 32).filter fun w => decide (lo ≤ 256 * j + 8 * w) && decide (256 * j + 8 * w < hi)).foldl
    (fun m w => m + 2 ^ w) 0)

/-- Ask for the read beats of tile bytes `lo` to `hi - 1` (R116, R118). -/
def askRead (n : Nat) (tag : Tag) (t lo hi : Nat) (last : Bool) (s : State) : State :=
  let js := beatsOf lo hi
  let ds := js.zipIdx.map fun p => (⟨tag, t, p.1, last && p.2 + 1 == js.length⟩ : RdDemand)
  updJob tag (fun j => { j with rdOut := j.rdOut + ds.length }) (updStn n (fun x => { x with rdQ := x.rdQ ++ ds }) s)

/-- A word of a tile as it is to be stored, at tile byte `o`: a scale tile's bytes beyond the last block's scale are zero (R93), with check
bits that leave a bad word bad. -/
def cutWord (s : State) (t o : Nat) (d : Word) (c : Byte) : Word × Byte :=
  match scaleUse s t with
  | none => (d, c)
  | some n =>
    let keep := n - o % (tileOf s t).rowBytes
    if 8 ≤ keep then (d, c)
    else
      let v := BitVec.ofNat 64 (d.toNat % 2 ^ (8 * keep))
      (v, match eccTest d c with | (_, .uncorr) => badCheck v | _ => checkByte v)

/-- A write beat as it is to be stored (R93). -/
def cutBeat (s : State) (w : WrItem) : WrItem :=
  if (scaleUse s w.tile).isNone then w
  else
    let ws := (List.range 32).map fun i => cutWord s w.tile (256 * w.j + 8 * i) (wordAt w.data i) (byteAt w.chk i)
    { w with data := BitVec.ofNat 2048 (ofWords (ws.map (·.1))), chk := BitVec.ofNat 256 (ofBytes (ws.map (·.2))) }

/-- Put a write beat into a station's write buffer, for one of its write credits (R117, R130). -/
def askWrite (n : Nat) (w : WrItem) (s : State) : State :=
  let b := cutBeat s w
  updJob w.tag (fun j => { j with wrOut := j.wrOut + 1 }) (updStn n (fun x => { x with wrQ := x.wrQ ++ [b], wHeld := x.wHeld - 1 }) s)

/-- Half of a write beat. -/
def halfMask (h : Bool) : BitVec 32 := if h then 0xFFFF0000#32 else 0x0000FFFF#32

/-- The island of a station: H for the Coopers and the Thresher, C for DB, A for the rest (R57). -/
def stnIsl (n : Nat) : Nat := if 6 ≤ n ∧ n ≤ 14 then islH else if n = 15 then islC else islA

/-- The crossing that a station's read beats take out of island A, and the one its write beats take into it (R348). -/
def beatCross (n : Nat) : Nat := if n = 15 then 63 else 56
def writeCross (n : Nat) : Nat := if n = 15 then 62 else 57

/-! ### A read beat reaches its station -/

/-- A read beat of a command, at or before beat `j` of a tile, has still to leave its banks. -/
def readsBefore (s : State) (n : Nat) (tag : Tag) (t j : Nat) : Bool :=
  let x := stnOf s n
  (x.rdQ.any fun d => d.tag == tag && d.tile == t && decide (d.j ≤ j))
  || x.fly.any fun b => b.left != 0 && b.d.tag == tag && b.d.tile == t && decide (b.d.j ≤ j)

/-- No beat of a tile that a command reads is still to leave its banks. -/
def readsDone (s : State) (tag : Tag) (t : Nat) : Bool :=
  !s.crt.stns.any fun p => (p.2.rdQ.any fun d => d.tag == tag && d.tile == t)
    || p.2.fly.any fun b => b.left != 0 && b.d.tag == tag && b.d.tile == t

/-- End a command's touches of an object in one class (R63). -/
def endClass (tag : Tag) (o : Obj) (cls : TClass) (s : State) : State :=
  let f := fun (x : Touch) => if x.obj = o ∧ x.cls = cls ∧ x.orderOnly = false then { x with live := false } else x
  updTag tag (fun e => { e with touches := e.touches.map f }) s

/-- A class-R touch of a tile ends when the last byte has left its bank (R63). -/
def endRead (tag : Tag) (t : Nat) (s : State) : State := if readsDone s tag t then endClass tag (.tile t) .r s else s

/-- The Tinker logs the words of one segment of a read beat with the physical bank that held them (R133). -/
def tinkHalf (d : RdDemand) (data : Beat) (chk : BeatChk) (h : Nat) (s : State) : State :=
  let p := segPlace s d.tile (tileOf s d.tile) (2 * d.j + h)
  (List.range 16).foldl (fun s i => (shfTest p.1 p.2 (wordAt data (16 * h + i)) (byteAt chk (16 * h + i)) s).2.2) s

/-- The Tinker's part in a read beat of a Sheaf tile: of two banks that trigger a retirement at once the lower comes first (R365). -/
def tinkBeat (d : RdDemand) (data : Beat) (chk : BeatChk) (s : State) : State :=
  if (tileOf s d.tile).spill then s
  else
    let bank := fun h => (segPlace s d.tile (tileOf s d.tile) (2 * d.j + h)).1
    if bank 1 < bank 0 then tinkHalf d data chk 0 (tinkHalf d data chk 1 s) else tinkHalf d data chk 1 (tinkHalf d data chk 0 s)

/-- What the test of word `w` of a read beat does to its command (R133, R137): an internal station corrects and reports; V0, V1 and SF test on
their own side. -/
def noteWord (n : Nat) (d : RdDemand) (data : Beat) (chk : BeatChk) (s : State) (w : Nat) : State :=
  let seg := 2 * d.j + w / 16
  match (eccTest (wordAt data w) (byteAt chk w)).2 with
  | .good => s
  | .corrected => if external n then s else addBits d.tag bEcc s
  | .uncorr =>
    if external n then updJob d.tag (fun j => { j with bad := j.bad.or (some (BitVec.ofNat 16 (d.tile + 128 * (seg % 512)))) }) s
    else addUncorr d.tag d.tile false seg s

/-- A read beat is tested (R133): what is logged and reported. -/
def testBeat (n : Nat) (d : RdDemand) (data : Beat) (chk : BeatChk) (s : State) : State :=
  (List.range 32).foldl (noteWord n d data chk) (tinkBeat d data chk s)

/-- The data an internal station uses: corrected (R133). -/
def fixBeat (data : Beat) (chk : BeatChk) : Beat :=
  BitVec.ofNat 2048 (ofWords ((List.range 32).map fun w => (eccTest (wordAt data w) (byteAt chk w)).1))

/-- Give a beat to its station: an internal station takes it at once and returns the credit (log 10); an external one sees it on its
channel (R35, R118, R133). -/
def giveBeat (n : Nat) (d : RdDemand) (data : Beat) (chk : BeatChk) (s : State) : State :=
  let s := updJob d.tag (fun j => { j with rdOut := j.rdOut - 1 }) s
  if external n then
    drive n (fun p => { p with rv := true, rd := data, rchk := chk, rtag := d.tag, rlast := d.last }) s
  else
    updStn n (fun x => { x with rHeld := x.rHeld + 1, rFly := x.rFly - 1 })
      (updJob d.tag (fun j => { j with rx := j.rx ++ [⟨d.tile, d.j, fixBeat data chk⟩] }) s)

/-- The oldest beat on its way to a station arrives, once all of it has left its banks: a later one waits behind it (R118). -/
def deliver (s : State) (n : Nat) : State :=
  let x := stnOf s n
  match x.fly with
  | b :: r =>
    if b.left = 0 ∧ running s islA = true ∧ (stnIsl n = islA ∨ canCross s (beatCross n) = true) then
      giveBeat n b.d b.data b.chk (if stnIsl n = islA then setStn n { x with fly := r } s
        else crossIn (beatCross n) (setStn n { x with fly := r } s))
    else s
  | [] => s

/-- Load a station's latch (R139). -/
def loadLatch (n : Nat) (b : FlyBeat) (s : State) : State :=
  if b.latch then
    cnt 0x21A4 1 { s with crt := { s.crt with latches := tset none s.crt.latches n (some ⟨b.d.tile, b.d.j, b.data, b.chk⟩) } }
  else s

/-- The beat that waits for the quarters `q` of demand `d` takes them. -/
def fillFly (d : RdDemand) (q : BitVec 4) (data : Beat) (chk : BeatChk) : List FlyBeat → List FlyBeat
  | [] => []
  | b :: r =>
    if b.d = d ∧ b.left &&& q = q then { b with left := b.left ^^^ q, data := b.data ||| data, chk := b.chk ||| chk } :: r
    else b :: fillFly d q data chk r

/-- The beat of demand `d` that still lacks the quarters `q`. -/
def flyOf (s : State) (n : Nat) (d : RdDemand) (q : BitVec 4) : Option FlyBeat :=
  (stnOf s n).fly.find? fun b => decide (b.d = d) && b.left &&& q == q

/-- Quarters of a beat have left their bank: the last of them brings the test, loads the latch, and ends the touch when it is the command's
last of the tile (R63, R133, R139). -/
def quarterRead (n : Nat) (d : RdDemand) (q : BitVec 4) (data : Beat) (chk : BeatChk) (s : State) : State :=
  match flyOf s n d q with
  | none => s
  | some b =>
    let s := updStn n (fun x => { x with fly := fillFly d q data chk x.fly }) s
    let s := if b.left = q then
        let w := { b with data := b.data ||| data, chk := b.chk ||| chk }
        endRead d.tag d.tile (testBeat n d w.data w.chk (loadLatch n w s))
      else s
    deliver s n

/-- The reuse latches are active for a packet (R5). -/
def latchOn (s : State) (tag : Tag) : Bool := hdrFmt (tagOf s tag).hdr == 1 || hdrReuse (tagOf s tag).hdr

/-- A latch's beat is a hit (R139). A touch taken for ordering only counts (log 74). -/
def latchHit (s : State) (n : Nat) (d : RdDemand) : Option Latch :=
  match tget none s.crt.latches n with
  | some l =>
    if latchOn s d.tag && l.tile == d.tile && l.j == d.j && !(tileOf s d.tile).spill
      && !(allocTags s).any (fun p => p.2.inFlight && p.2.touches.any fun x =>
        decide (x.obj = .tile d.tile) && (x.cls == .a || x.cls == .w || x.cls == .c)) then some l
    else none
  | none => none

/-! ### The slot wheel -/

/-- The byte of a wheel's slot. -/
def slotByte (s : State) (wheel slot : Nat) : Nat := fld (tget 0 s.crt.wheels (4 * wheel + slot / 4)) (8 * (slot % 4) + 7) (8 * (slot % 4))

/-- Copy the shadow of every wheel with a pending commit (R126): only at slot 0. -/
def commitWheels (s : State) : State :=
  if s.crt.slot ≠ 0 then s
  else
    let pend := rget s 0x2060
    let ws := (List.range 6).filter fun i => bit pend i
    let s := ws.foldl (fun s i => (List.range 4).foldl (fun s q =>
      { s with crt := { s.crt with wheels := tput (4 * i + q) (rget s (0x2000 + 0x10 * i + 4 * q)) s.crt.wheels } }) s) s
    rset 0x2060 0 s

/-- Requests of a port outstanding to a group (R125, R129): the two halves of a beat are one request. -/
def portOut (s : State) (port g : Nat) : Nat :=
  (dedup ((s.crt.reqs.filter fun r => r.port == port && r.lbank / 8 == g).map (·.age))).length

/-- The next beat of a station on a read wheel or a write wheel, with the tile's group, when it may be granted but for the four-request
limit (R20, R118, R125). -/
def nextBeat (s : State) (wr : Bool) (n : Nat) : Option Nat :=
  let x := stnOf s n
  let may := fun (t : Tile) => !t.spill && (groupOf s t.group).ready && canCross s (7 * t.group)
  if wr then
    match x.wrQ with
    | w :: _ =>
      let t := tileOf s w.tile
      if may t && canCross s (7 * t.group + 2) && !readsBefore s n w.tag w.tile w.j then some t.group else none
    | [] => none
  else
    match x.rdQ with
    | d :: _ =>
      let t := tileOf s d.tile
      if decide (0 < x.rHeld) && may t then some t.group else none
    | [] => none

/-- A TMMA or TMMAS has started and not completed (R124). -/
def arrayActive (s : State) : Bool :=
  (allocTags s).any fun p => p.2.st = .started && match p.2.cmd with
    | some c => c.opcode == .tmma || c.opcode == .tmmas
    | none => false

/-- Grant a read or write beat of a station on a port: its two bank requests (R116, R128). -/
def grantBeat (wr : Bool) (port n : Nat) (reserved : Bool) (s : State) : State :=
  let x := stnOf s n
  let req := fun (t j : Nat) (h : Bool) (a : PortAct) =>
    let tl := tileOf s t
    let k := 2 * j + b2n h
    (⟨port, reserved, s.crt.age, segBank t tl k, segEntry tl k, a⟩ : PortReq)
  if wr then
    match x.wrQ with
    | w :: r =>
      let rs := [req w.tile w.j false (.write w false), req w.tile w.j true (.write w true)]
      let g := (tileOf s w.tile).group
      let s := crossIn (7 * g + 2) (crossIn (7 * g) (setStn n { x with wrQ := r, wHeld := x.wHeld + 1 } s))
      let s := { s with crt := { s.crt with reqs := s.crt.reqs ++ rs } }
      if external n then drive n (fun p => { p with wcrd := true }) s else s
    | [] => s
  else
    match x.rdQ with
    | d :: r =>
      let b : FlyBeat := ⟨d, latchOn s d.tag, 0xF, 0, 0⟩
      let rs := [req d.tile d.j false (.read n d false), req d.tile d.j true (.read n d true)]
      let s := crossIn (7 * (tileOf s d.tile).group)
        (setStn n { x with rdQ := r, fly := x.fly ++ [b], rHeld := x.rHeld - 1, rFly := x.rFly + 1 } s)
      { s with crt := { s.crt with reqs := s.crt.reqs ++ rs } }
    | [] => s

/-- One port's slot (R123-R125): `done` lists the stations that take no more part in this a-cycle (R119). -/
def portSlot (acc : List Nat × State) (wheel : Nat) : List Nat × State :=
  let (taken, s) := acc
  let wr := decide (4 ≤ wheel)
  let b := slotByte s wheel s.crt.slot
  let mode := b / 64
  let owner := b % 16
  let could := fun n => !taken.contains n && (nextBeat s wr n).isSome
  let elig := fun n => !taken.contains n && match nextBeat s wr n with
    | some g => decide (portOut s wheel g < 4)
    | none => false
  let held := (List.range 16).any fun n => could n && !elig n
  let s := if held then cnt (0x2088 + 0x10 * wheel) 1 s else s
  let own := (mode == 1 || mode == 2) && elig owner
  let lend := !(mode == 2 && arrayActive s)
  let rot := tget 0 s.crt.rot wheel
  if own then (owner :: taken, cnt (0x2080 + 0x10 * wheel) 1 (grantBeat wr wheel owner (mode == 2) s))
  else if lend then
    match rotFind 16 rot elig with
    | some n =>
      let s := grantBeat wr wheel n (mode == 2) s
      let s := { s with crt := { s.crt with rot := tset 0 s.crt.rot wheel ((n + 1) % 16) } }
      let s := cnt (0x2080 + 0x10 * wheel) 1 s
      (n :: taken, if mode == 1 || mode == 2 then cnt (0x2084 + 0x10 * wheel) 1 s else s)
    | none => (taken, s)
  else (taken, s)

/-- Serve a station's next beat from its latch (R139): one credit spent and returned. -/
def latchServe (acc : List Nat × State) (n : Nat) : List Nat × State :=
  let x := stnOf acc.2 n
  match x.rdQ with
  | d :: r =>
    match latchHit acc.2 n d with
    | some l =>
      if x.rHeld = 0 then acc
      else
        let b : FlyBeat := ⟨d, false, 0, l.data, l.chk⟩
        let s := setStn n { x with rdQ := r, fly := x.fly ++ [b], rHeld := x.rHeld - 1, rFly := x.rFly + 1 } acc.2
        (n :: acc.1, deliver (endRead d.tag d.tile (testBeat n d l.data l.chk (cnt 0x21A0 1 s))) n)
    | none => acc
  | [] => acc

/-- A station has a read or write beat ready (CRT_SWAITs, R141): a read beat still to send with a credit, or a buffered write beat. A beat
that R118 or its group holds back is ready all the same (log 75). -/
def beatReady (s : State) (n : Nat) : Bool :=
  let x := stnOf s n
  (!x.rdQ.isEmpty && decide (0 < x.rHeld)) || !x.wrQ.isEmpty

/-- The groups of the tiles whose beats a station has waiting. -/
def waitingGroups (s : State) (n : Nat) : List Nat :=
  let x := stnOf s n
  let ts := (x.rdQ.take 1).map (·.tile) ++ (x.wrQ.take 1).map (·.tile)
  (ts.filter fun t => !(tileOf s t).spill).map fun t => (tileOf s t).group

/-- A group that idled away under a started command is woken by the beats that wait for it (R110, R111; DEDUCED, log 15); after step 3 of the
unplug sequence nothing is (R356). -/
def wakeWaiting (s : State) : State :=
  if 3 ≤ s.ctl.unplug then s
  else (dedup (((List.range 16).map (waitingGroups s)).flatten)).foldl (fun s g => if (groupOf s g).ready then s else setGroup g (groupOf s g).wakeUp s) s

/-- PORT_SLOT_GRANT: one a-cycle of all six wheels (R119, R121, R123); the beats that have left their banks arrive, one at each station. -/
def execPortSlotGrant (s : State) : Host.Outcome State Fault Refusal :=
  if !running s islA then .next s
  else
  let s := wakeWaiting (commitWheels ((List.range 16).foldl deliver s))
  let ready := (List.range 16).filter fun n => beatReady s n && !s.crt.spilled.contains n
  let (hit, s) := (List.range 16).foldl latchServe ([], s)
  let (rd, s) := (List.range 4).foldl portSlot (hit, s)
  let (wr, s) := [4, 5].foldl portSlot ([], s)
  let s := ready.foldl (fun s n => if rd.contains n || wr.contains n then s else cnt (0x2100 + 4 * n) 1 s) s
  .next { s with crt := { s.crt with slot := (s.crt.slot + 1) % 16, age := s.crt.age + 1, spilled := [] } }

/-- WHEEL_COMMIT: a pending shadow is copied at slot 0 (R126). -/
def execWheelCommit (s : State) : Host.Outcome State Fault Refusal := .next (if running s islA then commitWheels s else s)

/-! ### The bank cycle -/

/-- The drained row that waits longest at a physical bank (R154, R184). -/
def drainAt (s : State) (bank : Nat) : Option Nat := findPos (fun r => physOf s 0 r.lbank == bank) s.arr.drainQ

/-- The b-cycle of a group. -/
def bcOf (s : State) (g : Nat) : BCycle := tget BCycle.init s.crt.bcyc g

/-- Set the b-cycle of a group. -/
def setBc (g : Nat) (c : BCycle) (s : State) : State := { s with crt := { s.crt with bcyc := tset BCycle.init s.crt.bcyc g c } }

/-- A bank has its part of a b-cycle; one that has had it begins the next, whose order of equals starts one port later (R128). -/
def beginBank (bank : Nat) (s : State) : State :=
  let c := bcOf s (bank / 9)
  setBc (bank / 9) (if c.banks.contains bank then ⟨[bank], [], false, (c.start + 1) % 6⟩ else { c with banks := c.banks ++ [bank] }) s

/-- The port request a bank serves (R128): RESERVED first, then the oldest, ties in rotating order of ports, read ports 0-3 before write ports
0 and 1 in one rotation (log 76). -/
def pickReq (s : State) (g : Nat) (p : PortReq → Bool) : Option PortReq :=
  let key := fun r => (if r.reserved then 0 else 2 ^ 64) + 8 * r.age + (r.port + 6 - (bcOf s g).start) % 6
  (s.crt.reqs.filter p).foldl (fun (best : Option PortReq) r => match best with
    | some b => if key r < key b then some r else some b
    | none => some r) none

/-- Whether the pattern of R177 grants this contended b-cycle to the Miller, after the contended b-cycles `x`: a pattern of eight with `m` for
the Miller repeats; of one that is not yet whole the grant's own choice `want` gives the next place, as far as `m` leaves a choice (log 1). -/
def millerTurn (m : Nat) (x : List Bool) (want : Bool) : Bool :=
  if x.length = 8 ∧ x.countP id = m then x.headD false
  else
    let x := if 8 ≤ x.length then [] else x
    decide (x.countP id < m) && (want || decide (8 - x.length ≤ m - x.countP id))

/-- The contended b-cycles that the pattern remembers after one more; one that fits MSHARE no longer begins anew. -/
def nextPattern (m : Nat) (x : List Bool) (b : Bool) : List Bool :=
  if x.length < 8 then x ++ [b] else if x.length = 8 ∧ x.countP id = m then x.tail ++ [b] else [b]

/-- Settle a contention of a port and a Miller (R177): whether the Miller wins, and the pattern's advance. -/
def share (bank : Nat) (wr want : Bool) (s : State) : Bool × State :=
  let k := 2 * bank + b2n wr
  let m := fld (rget s 0x1000) 3 0
  let x := tget [] s.mil.pattern k
  let b := millerTurn m x want
  (b, { s with mil := { s.mil with pattern := tset [] s.mil.pattern k (nextPattern m x b) } })

/-- Count a b-cycle's wait of the port requests that satisfy `p`: once for each beat (R128). -/
def countConf (g : Nat) (p : PortReq → Bool) (s : State) : State :=
  (s.crt.reqs.filter p).foldl (fun s r =>
    let c := bcOf s g
    if c.counted.contains (r.port, r.age) then s
    else cnt (0x208C + 0x10 * r.port) 1 (setBc g { c with counted := c.counted ++ [(r.port, r.age)] } s)) s

/-- Remove a request. -/
def dropReq (r : PortReq) (s : State) : State := { s with crt := { s.crt with reqs := s.crt.reqs.filter (· ≠ r) } }

/-- The 16 words of an entry and their check bytes, as stored. -/
def entryWords (s : State) (bank entry : Nat) : List (Word × Byte) := (List.range 16).map (shfRaw s bank entry)

/-- Serve a port read of one half (R116, R120). -/
def serveRead (bank : Nat) (r : PortReq) (s : State) : State :=
  let s := dropReq r s
  match r.act with
  | .read n d half =>
    let ws := entryWords s bank r.entry
    let data : Beat := BitVec.ofNat 2048 (ofWords (ws.map (·.1)) * 2 ^ (1024 * b2n half))
    let chk : BeatChk := BitVec.ofNat 256 (ofBytes (ws.map (·.2)) * 2 ^ (128 * b2n half))
    quarterRead n d (if half then 0xC else 0x3) data chk (crossIn (7 * (bank / 9) + 1) s)
  | .write .. => s

/-- A write beat of a command is in its banks (R120). The last of a destination of a station's operation ends its touch, and the tile holds
what was written unless it is PARTIAL (R63, R96). -/
def beatWritten (tag : Tag) (t : Nat) (s : State) : State :=
  let s := updJob tag (fun j => { j with wrOut := j.wrOut - 1, wLeft := tset 0 j.wLeft t (tget 0 j.wLeft t - 1) }) s
  match (tagOf s tag).cmd, (tileOf s t).st with
  | some (.station ..), .partialTo _ => s
  | some (.station ..), _ => if tget 0 (tagOf s tag).job.wLeft t = 0 then endClass tag (.tile t) .w (markValid t s) else s
  | _, _ => s

/-- Serve a port write of one half (R88, R117, R120): the words of its mask, with the check bits they carry. -/
def serveWrite (bank : Nat) (r : PortReq) (s : State) : State :=
  let s := dropReq r s
  match r.act with
  | .write w half =>
    let s := (List.range 16).foldl (fun s i =>
      let k := 16 * b2n half + i
      if bit w.mask k then shfPut bank r.entry i (wordAt w.data k) (byteAt w.chk k) s else s) s
    let s := crossIn (7 * (bank / 9) + 3) s
    if s.crt.reqs.any fun q => q.age == r.age && q.port == r.port then s else beatWritten w.tag w.tile s
  | .read .. => s

/-- One element of a drained row and of its segment word: the sum, whether an operand is nonfinite, whether the sum is (R184). -/
def accElem (r : DrainRow) (d : Word) (w i : Nat) : BitVec 32 × Bool × Bool :=
  let a : BitVec 32 := d.extractLsb' (32 * i) 32
  let v : BitVec 32 := r.vals.extractLsb' (32 * (2 * w + i)) 32
  if 2 * w + i < r.ncols then (fadd a v, isNonfin a || isNonfin v, isNonfin (fadd a v)) else (a, false, false)

/-- Note what the test of a segment word read found (R198). -/
def noteRes (tag : Tag) (t seg : Nat) (r : EccRes) (s : State) : State :=
  match r with
  | .good => s
  | .corrected => addBits tag bEcc (cnt 0x1050 1 s)
  | .uncorr => addUncorr tag t false seg s

/-- One word of a segment with the two elements of a drained row added, written where the row has a column in it (R148, R154); `acc` counts
nonfinite sums and notes nonfinite elements. -/
def accWord (bank : Nat) (r : DrainRow) (acc : Nat × Bool × State) (w : Nat) : Nat × Bool × State :=
  let x := shfRead bank r.entry w acc.2.2
  let e0 := accElem r x.1 w 0
  let e1 := accElem r x.1 w 1
  let v : Word := BitVec.ofNat 64 (e0.1.toNat + 2 ^ 32 * e1.1.toNat)
  let s := noteRes r.tag r.tile r.seg x.2.1 x.2.2
  (acc.1 + b2n e0.2.2 + b2n e1.2.2, acc.2.1 || e0.2.1 || e1.2.1 || e0.2.2 || e1.2.2,
    if 2 * w < r.ncols then shfPut bank r.entry w v (checkByte v) s else s)

/-- A drained row is added into its segment (R184): read, tested (R198), added element by element, written with good check bits. -/
def accumulate (bank : Nat) (r : DrainRow) (s : State) : State :=
  let x := (List.range 16).foldl (accWord bank r) (0, false, s)
  let s := cnt 0x1040 x.1 (cnt 0x1048 1 x.2.2)
  if x.2.1 then addBits r.tag bNonfin s else s

/-- A drained row's record counts a row written; a record whose last row is written is retired, and its pass has landed (R153, R168). The
command's touch of the accumulator ends when no pass of it still adds to the tile (R63). -/
def rowWritten (r : DrainRow) (s : State) : State :=
  let recs := s.arr.records.map fun q => if q.uid = r.uid then { q with written := q.written + 1 } else q
  let s := { s with arr := { s.arr with records := recs.filter fun q => decide (q.written < q.total) } }
  if s.arr.records.any fun q => q.uid == r.uid then s
  else
    let s := updJob r.tag (fun j => { j with landed := j.landed + 1 }) s
    let more := (s.arr.passes.any fun p => p.tag == r.tag && p.atile == r.tile && !p.isTwf)
      || s.arr.records.any fun q => q.tag == r.tag && q.tile == r.tile
    if more then s else endClass r.tag (.tile r.tile) .a s

/-! ### Tinker requests -/

/-- Data bytes and then check bytes of stored words (R375). -/
def rawBytes (ws : List (Word × Byte)) : List Byte := (ws.flatMap fun p => bytes 8 p.1) ++ ws.map (·.2)

/-- 64-bit word `w` of an image, and its check byte, which follow `n` data words (R376). -/
def imageWord (n w : Nat) (bs : List Byte) : Word × Byte :=
  (BitVec.ofNat 64 (ofBytes ((bs.drop (8 * w)).take 8)), bs.getD (8 * n + w) 0)

/-- Store an entry with exactly the check bits supplied (R376). -/
def putEntry (bank entry : Nat) (bs : List Byte) (s : State) : State :=
  (List.range 16).foldl (fun s w => shfPut bank entry w (imageWord 16 w bs).1 (imageWord 16 w bs).2 s) s

/-- Put a request of the Tinker at a bank. -/
def askTink (q : TinkReq) (s : State) : State := { s with mil := { s.mil with tinker := s.mil.tinker ++ [q] } }

/-- A request that a DSCRUB waits for has been served. -/
def scrubDone (by_ : Option Tag) (n : Nat) (s : State) : State :=
  match by_ with
  | some t => updJob t (fun j => { j with wrOut := j.wrOut - 1, landed := j.landed + n }) s
  | none => s

/-- One word of the Tinker's read of an entry (R198, R362): tested, logged, counted; as it is to be stored, an uncorrectable one as it was
read. `acc` also counts corrections. -/
def tinkerWord (bank entry : Nat) (acc : List (Word × Byte) × Nat × State) (w : Nat) : List (Word × Byte) × Nat × State :=
  let raw := shfRaw acc.2.2 bank entry w
  match shfRead bank entry w acc.2.2 with
  | (_, .uncorr, s) => (acc.1 ++ [raw], acc.2.1, s)
  | (d, .corrected, s) => (acc.1 ++ [(d, checkByte d)], acc.2.1 + 1, cnt 0x1050 1 s)
  | (d, .good, s) => (acc.1 ++ [(d, raw.2)], acc.2.1, s)

/-- The Tinker's read of an entry (R362, R366, R375): a correction of a scrub asks for the write-back; a copy for the write at the spare. -/
def tinkerRead (q : TinkReq) (s : State) : State :=
  let s := { s with mil := { s.mil with tinker := s.mil.tinker.erase q } }
  match q.use with
  | .raw tag => updJob tag (fun j => { j with wrOut := j.wrOut - 1, raw := rawBytes (entryWords s q.bank q.entry) }) s
  | .scrub by_ =>
    let x := (List.range 16).foldl (tinkerWord q.bank q.entry) ([], 0, s)
    if x.2.1 = 0 then scrubDone by_ 0 x.2.2 else askTink ⟨q.bank, q.entry, true, .scrub by_, 0⟩ x.2.2
  | .copy =>
    let x := (List.range 16).foldl (tinkerWord q.bank q.entry) ([], 0, s)
    match x.2.2.tnk.copying with
    | some c => askTink ⟨c.spare, q.entry, true, .copy, 0⟩ { x.2.2 with tnk := { x.2.2.tnk with copying := some { c with buf := some x.1 } } }
    | none => x.2.2

/-- Write back the correctable words of an entry as stored now, so no concurrent update is lost (R175, R362); how many. -/
def scrubBack (bank entry : Nat) (acc : Nat × State) (w : Nat) : Nat × State :=
  let p := shfRaw acc.2 bank entry w
  match eccTest p.1 p.2 with
  | (d, .corrected) => (acc.1 + 1, shfPut bank entry w d (checkByte d) acc.2)
  | _ => acc

/-- The Tinker's write of an entry (R362, R366, R376). -/
def tinkerWrite (q : TinkReq) (s : State) : State :=
  let s := { s with mil := { s.mil with tinker := s.mil.tinker.erase q } }
  match q.use with
  | .raw tag => updJob tag (fun j => { j with wrOut := j.wrOut - 1 }) (putEntry q.bank q.entry (tagOf s tag).job.raw s)
  | .scrub by_ =>
    let x := (List.range 16).foldl (scrubBack q.bank q.entry) (0, s)
    scrubDone by_ x.1 x.2
  | .copy =>
    match s.tnk.copying with
    | some c =>
      let ws := c.buf.getD []
      let s := (List.range 16).foldl (fun s w => shfPut1 q.bank q.entry w (ws.getD w (0, 0)).1 (ws.getD w (0, 0)).2 s) s
      let s := if c.entry + 1 < 64 then askTink ⟨c.bank, c.entry + 1, false, .copy, 0⟩ s else s
      traceEv 8 (1 + c.bank / 9) c.bank q.entry c.spare
        { s with tnk := { s.tnk with copying := some { c with entry := c.entry + 1, buf := none } } }
    | none => s

/-- The Tinker request that waits longest at a bank in one direction. -/
def tinkerAt (s : State) (bank : Nat) (wr : Bool) : Option TinkReq := s.mil.tinker.find? fun q => q.bank == bank && q.write == wr

/-- The b-cycle in progress counts in the wait of the Tinker's requests of a bank (R176). -/
def tinkerAge (bank : Nat) (s : State) : State :=
  { s with mil := { s.mil with tinker := s.mil.tinker.map fun q => if q.bank = bank then { q with wait := q.wait + 1 } else q } }

/-- A Tinker request that has waited 64 b-cycles before this one: rank 0 (R176). -/
def tinkerDue (s : State) (bank : Nat) (wr : Bool) : Option TinkReq := (tinkerAt s bank wr).filter fun q => decide (65 ≤ q.wait)

/-! ### Requests of ports and commands -/

/-- A read or a write of a port at a physical bank; it needs a free entry of the crossing back for its beat or its completion (R20). -/
def portAt (s : State) (bank : Nat) (wr : Bool) (r : PortReq) : Bool :=
  physOf s 0 r.lbank == bank && (match r.act with
    | .read .. => !wr && canCross s (7 * (bank / 9) + 1)
    | .write .. => wr && canCross s (7 * (bank / 9) + 3))

/-- The first request of a list that satisfies `p` and waits for no read: a write comes after the earlier reads of its command, listed in
`rd` (R176). -/
def milFind (p : MilReq → Bool) : List Tag → List MilReq → Option MilReq
  | _, [] => none
  | rd, r :: l => if p r && (!r.write || !rd.contains r.tag) then some r else milFind p (if r.write then rd else r.tag :: rd) l

/-- The request of a command that a bank may serve. -/
def milAt (s : State) (bank : Nat) (p : MilReq → Bool) : Option MilReq :=
  milFind (fun r => physOf s 0 r.lbank == bank && p r) [] s.mil.reqs

/-- Serve a request of a command. -/
def serveMil (r : MilReq) (s : State) : State := { s with mil := { s.mil with reqs := s.mil.reqs.erase r } }

/-- The ports of a bank wait this b-cycle (R128). -/
def portsWait (bank : Nat) (wr : Bool) (s : State) : State := countConf (bank / 9) (portAt s bank wr) s

/-- A bank-arithmetic command's request waits this b-cycle: counted once (R177, R199). -/
def millerWaits (bank : Nat) (m : Option MilReq) (s : State) : State :=
  match m with
  | none => s
  | some r =>
    let c := bcOf s (bank / 9)
    match (tagOf s r.tag).cmd with
    | some (.bank ..) => if c.milled then s else cnt (0x1060 + 4 * (bank / 9)) 1 (setBc (bank / 9) { c with milled := true } s)
    | _ => s

/-! ### The bank cycle -/

/-- Serve a drained row: its read, and the write that completes its update (R184). -/
def serveDrain (bank i : Nat) (s : State) : Bool × State :=
  match s.arr.drainQ[i]? with
  | some row =>
    let s := { s with arr := { s.arr with drainQ := dropAt i s.arr.drainQ } }
    (true, rowWritten row (accumulate bank row s))
  | none => (false, s)

/-- The read of ranks 3 and 4 (R176, R177): ports and the Miller's command by the pattern, then the Tinker. -/
def bankReadLow (bank : Nat) (want : Bool) (s : State) : State :=
  let m := milAt s bank fun r => !r.write
  match pickReq s (bank / 9) (portAt s bank false), m with
  | some r, some q =>
    let p := share bank false want s
    if p.1 then serveMil q (portsWait bank false p.2)
    else millerWaits bank m (serveRead bank r (portsWait bank false (dropReq r p.2)))
  | some r, none => serveRead bank r (portsWait bank false (dropReq r s))
  | none, some q => serveMil q s
  | none, none => match tinkerAt s bank false with
    | some q => tinkerRead q s
    | none => s

/-- The read of a b-cycle (R176): whether a drained row was added. A row waits where a Tinker's write of rank 0 takes the write. -/
def bankRead (bank : Nat) (want : Bool) (s : State) : Bool × State :=
  let m := milAt s bank fun r => !r.write
  match tinkerDue s bank false with
  | some q => (false, millerWaits bank m (portsWait bank false (tinkerRead q s)))
  | none =>
  match pickReq s (bank / 9) (fun r => portAt s bank false r && r.reserved) with
  | some r => (false, millerWaits bank m (serveRead bank r (portsWait bank false (dropReq r s))))
  | none =>
  match if (tinkerDue s bank true).isSome then none else drainAt s bank with
  | some i => serveDrain bank i (millerWaits bank m (portsWait bank false s))
  | none => (false, bankReadLow bank want s)

/-- The write of ranks 2 and 3 (R176, R177): ports and other writes of the Miller by the pattern, then the Tinker. -/
def bankWriteLow (bank : Nat) (want : Bool) (s : State) : State :=
  let m := milAt s bank fun r => r.write
  match pickReq s (bank / 9) (portAt s bank true), m with
  | some r, some q =>
    let p := share bank true want s
    if p.1 then serveMil q (portsWait bank true p.2)
    else millerWaits bank m (serveWrite bank r (portsWait bank true (dropReq r p.2)))
  | some r, none => serveWrite bank r (portsWait bank true (dropReq r s))
  | none, some q => serveMil q s
  | none, none => match tinkerAt s bank true with
    | some q => tinkerWrite q s
    | none => s

/-- The write of a b-cycle (R176): none is left when a drained row's update took it. -/
def bankWrite (bank : Nat) (drained want : Bool) (s : State) : State :=
  let m := milAt s bank fun r => r.write
  if drained then millerWaits bank m (portsWait bank true s)
  else match tinkerDue s bank true with
    | some q => millerWaits bank m (portsWait bank true (tinkerWrite q s))
    | none =>
      match milAt s bank fun r => r.write && r.upd with
      | some q => serveMil q (portsWait bank true s)
      | none => bankWriteLow bank want s

/-- BANK_CYCLE_GRANT: one b-cycle of a physical bank (R24, R128, R176, R177). `mRead` and `mWrite` say where R177's pattern of this bank and
direction has a place for the Miller, which R177 leaves open (log 1). A group that is not ON serves nothing (R109). -/
def execBankCycleGrant (bank : Nat) (mRead mWrite : Bool) (s : State) : Host.Outcome State Fault Refusal :=
  if 72 ≤ bank then .fault .noSuchUnit
  else if !(groupOf s (bank / 9)).ready || !running s (1 + bank / 9) then .next s
  else
    let p := bankRead bank mRead (tinkerAge bank (beginBank bank s))
    .next (bankWrite bank p.1 mWrite p.2)

/-! ### Stopping -/

/-- A port read of a command. -/
def PortReq.readsFor (r : PortReq) (tag : Tag) : Bool := match r.act with | .read _ d _ => d.tag == tag | .write .. => false

/-- Drop the read beats of a command that one station has still to send or to receive; the credits of those on their way come back (R130). -/
def purgeStation (tag : Tag) (s : State) (n : Nat) : State :=
  let x := stnOf s n
  let k := (x.fly.filter fun b => b.d.tag == tag).length
  if k = 0 && !x.rdQ.any fun d => d.tag == tag then s
  else setStn n { x with rdQ := x.rdQ.filter fun d => d.tag != tag, fly := x.fly.filter fun b => b.d.tag != tag
                         rHeld := x.rHeld + k, rFly := x.rFly - k } s

/-- Drop the read beats that a stopped or ended command still has to send or to receive. -/
def purgeReads (tag : Tag) (s : State) : State :=
  let mine := fun (a : HayAcc) => match a.use with | .spillRead _ d _ => d.tag == tag | _ => false
  let s := { s with
    crt := { s.crt with reqs := s.crt.reqs.filter fun r => !r.readsFor tag }
    hay := { s.hay with waiting := s.hay.waiting.filter fun a => !mine a } }
  (List.range 16).foldl (purgeStation tag) s

/-- The tile register a started command goes by: as it stood when the command started. -/
def jobTile (s : State) (tag : Tag) (t : Nat) : Tile := tget Tile.none (tagOf s tag).job.snap t

/-- Note the tile registers that a command goes by. -/
def snapTiles (tag : Tag) (ts : List Nat) (s : State) : State :=
  updJob tag (fun j => { j with snap := ts.foldl (fun m t => tput t (tileOf s t) m) j.snap }) s

/-- The beat `j` of a tile among those received. -/
def rxGet (rx : List RxBeat) (t j : Nat) : Option Beat := (rx.find? fun b => b.tile == t && b.j == j).map (·.data)

/-- The `n` bytes of a tile from byte `lo`, as a little-endian number, once every beat that holds one has been received. -/
def rxBytes (rx : List RxBeat) (t lo n : Nat) : Option Nat :=
  let js := beatsOf lo (lo + n)
  let bs := js.filterMap (rxGet rx t)
  if bs.length = js.length then some (packElems 2048 (bs.map (·.toNat)) / 2 ^ (8 * (lo % 256)) % 2 ^ (8 * n)) else none

/-! ### The spill path -/

/-- A spill beat a station has ready (R136): false a read, true a write. -/
def spillReady (s : State) (n : Nat) : Option Bool :=
  let x := stnOf s n
  let rd := match x.rdQ with
    | d :: _ => (tileOf s d.tile).spill && decide (0 < x.rHeld)
    | [] => false
  let wr := match x.wrQ with
    | w :: _ => (tileOf s w.tile).spill && !readsBefore s n w.tag w.tile w.j
    | [] => false
  if rd then some false else if wr then some true else none

/-- The spill path still has accesses waiting (R136): it serves one beat at a time. -/
def spillBusy (s : State) : Bool := s.hay.waiting.any fun a => a.master == 12

/-- The words of quarter `q` that a beat writes, as byte enables of their 64 bytes. -/
def quarterBe (mask : BitVec 32) (q : Nat) : BitVec 64 :=
  BitVec.ofNat 64 (((List.range 8).filter fun i => bit mask (8 * q + i)).foldl (fun m i => m + 255 * 2 ^ (8 * i)) 0)

/-- The check bits with which a word of a spill beat is stored (R137): those of its data, or bits that leave it bad. -/
def spillChk (d : Word) (c : Byte) : Byte := match eccTest d c with | (_, .uncorr) => badCheck d | _ => checkByte d

/-- Begin to read a spill beat (R137): four accesses to the Hayloft. -/
def spillRead (n : Nat) (d : RdDemand) (s : State) : State :=
  let b : FlyBeat := ⟨d, false, 0xF, 0, 0⟩
  let s := updStn n (fun x => { x with rdQ := x.rdQ.tail, fly := x.fly ++ [b], rHeld := x.rHeld - 1, rFly := x.rFly + 1 }) s
  let a := (tileOf s d.tile).hayAddr + 256 * d.j
  askHays ((List.range 4).map fun q => hayRd 12 (a + 64 * q) (-1) (.spillRead n d q)) s

/-- Begin to write a spill beat (R137): an access for each quarter that holds a word of it. -/
def spillWrite (n : Nat) (w : WrItem) (s : State) : State :=
  let a := (tileOf s w.tile).hayAddr + 256 * w.j
  let chk := BitVec.ofNat 256 (ofBytes ((List.range 32).map fun i => spillChk (wordAt w.data i) (byteAt w.chk i)))
  let acc := fun q => { hayWr 12 (a + 64 * q) (quarterBe w.mask q) (w.data.extractLsb' (512 * q) 512) (.spillWrite n w.tag) with
    chk := some (chk.extractLsb' (64 * q) 64) }
  askHays (((List.range 4).filter fun q => quarterBe w.mask q != 0).map acc) s

/-- Word `w` of quarter `q` of a spill beat as the path delivers it (R137): `bad` has a bit for each uncorrectable word of the access. -/
def spillCheck (data : BitVec 512) (bad w : Nat) : Byte := if bad.testBit w then badCheck (wordAt data w) else checkByte (wordAt data w)

/-- A quarter of a spill beat has been read (R137): its outcome travels in the check bits; a correction is reported at once. -/
def spillArrived (n : Nat) (d : RdDemand) (q : Nat) (data : BitVec 512) (r : EccRes) (bad : Nat) (s : State) : State :=
  let s := if r = .good then s else if r = .corrected then addBits d.tag bEcc s else s
  let chk := ofBytes ((List.range 8).map (spillCheck data bad))
  quarterRead n d (BitVec.ofNat 4 (2 ^ q)) (BitVec.ofNat 2048 (data.toNat * 2 ^ (512 * q))) (BitVec.ofNat 256 (chk * 2 ^ (64 * q))) s

/-- An access of a spill write has been performed: with the last of them the beat is written and its credit returns (R117, R130). -/
def spillWritten (n : Nat) (tag : Tag) (s : State) : State :=
  if s.hay.waiting.any fun a => decide (a.use = .spillWrite n tag) then s
  else match (stnOf s n).wrQ with
    | w :: r =>
      let s := updStn n (fun x => { x with wrQ := r, wHeld := x.wHeld + 1 }) s
      beatWritten tag w.tile (if external n then drive n (fun p => { p with wcrd := true }) s else s)
    | [] => s

/-- SPILL_PATH_GRANT: one beat of one station (R113, R136, R137). -/
def execSpillPathGrant (s : State) : Host.Outcome State Fault Refusal :=
  if spillBusy s || !running s islA || !canCross s 56 then .next s
  else match rotFind 16 s.crt.spillRot (fun n => (spillReady s n).isSome) with
    | none => .next s
    | some n =>
      let x := stnOf s n
      let go := fun (tag : Tag) => addBits tag bSpill (cnt 0x21B0 1 (crossIn 56 { s with
        crt := { s.crt with spillRot := (n + 1) % 16, spilled := n :: s.crt.spilled } }))
      if (spillReady s n).getD false then
        match x.wrQ with
        | w :: _ => .next (spillWrite n w (go w.tag))
        | [] => .next s
      else
        match x.rdQ with
        | d :: _ => .next (spillRead n d (go d.tag))
        | [] => .next s

end Sys2Proof.Machine
end

