-- ==== Sys2Proof/Machine/Array.lean ====
section
/-! DEFINITION. Feeding and draining the array (R142-R173): the checks of TWF, TMMA and TMMAS, the sequence of fronts and passes, the row
feed, the weight fronts, the routing records and the deskew buffer. A ROW_LAUNCH and a FRONT_BEAT are one a-cycle of each feeder; in one
a-cycle the launch comes before the front beat (log 2). -/

namespace Sys2Proof.Machine

/-! ### Operand classes -/

/-- The classes of R144. -/
inductive KClass where
  | b8 | b6 | b16 | b4
  deriving DecidableEq, Repr

/-- The class of a type, none where it is no array operand (R144). -/
def EType.kclass : EType → Option KClass
  | .e4m3 | .e5m2 | .mxE4m3 | .mxE5m2 | .mxInt8 => some .b8
  | .mxE3m2 | .mxE2m3 => some .b6
  | .bf16 | .fp16 => some .b16
  | .int4 | .mxE2m1 => some .b4
  | _ => none

/-- Elements of a lane in one a-cycle (R144). -/
def KClass.lane : KClass → Nat
  | .b8 | .b6 => 4 | .b16 => 2 | .b4 => 8

/-- Bytes of the K block, and K elements, of a pass (R144). -/
def KClass.kb : KClass → Nat
  | .b6 => 96 | _ => 128

/-- K elements of a pass (R144). -/
def KClass.elems (c : KClass) : Nat := 32 * c.lane

/-- Bytes of a lane that carry data (R145). -/
def KClass.laneBytes (c : KClass) : Nat := c.kb / 32

/-- The pairing rule of R144 between a streaming and a front type. -/
def pairTypes (a b : EType) : Bool :=
  (match a.kclass, b.kclass with
    | some x, some y => x == y || ((x == .b8 || x == .b6) && (y == .b8 || y == .b6))
    | _, _ => false)
  && (a == .mxInt8) == (b == .mxInt8) && (a == .int4) == (b == .int4)

/-- A type that FLAY 1 accepts (R150). -/
def EType.flay1 (t : EType) : Bool := t == .bf16 || t == .fp16 || t == .e4m3 || t == .e5m2 || t == .int4

/-- Columns of a front tile (R150). -/
def frontCols (w : Tile) (flay : Bool) : Nat :=
  if flay then w.elems else w.rowBytes / (match w.ty.kclass with | some c => c.laneBytes | none => 4)

/-- The extents of R150. -/
def frontOk (w : Tile) (flay : Bool) : Bool :=
  match w.ty.kclass with
  | none => false
  | some c =>
    if flay then decide (w.rows ≤ c.elems) && decide (frontCols w true ≤ 32)
    else decide (w.rows ≤ 32) && decide (w.rowBytes ≤ c.kb)

/-! ### Checks -/

/-- The array is usable: TIL_STATUS.ARRAYOK (R156). -/
def arrayOk (s : State) : Bool := bit (rget s 0x3030) 1

/-- TIL_STATUS.MXOK (R156). -/
def mxOk (s : State) : Bool := bit (rget s 0x3030) 2

/-- What an array command uses: its streaming tile, fronts with their layout, accumulators with the rows they need, and column block. -/
structure ArrayUse where
  stile : Nat
  fronts : List (Nat × Bool)
  accs : List (Nat × Nat)
  acol : Nat
  deriving DecidableEq, Repr

/-- The entries in use of the segment table that a TMMAS goes by, in ascending INDEX order (R76). -/
def mmasUse (e : TagEntry) : List (Nat × Seg) := e.segs.filter fun p => p.2.count ≠ 0

/-- The accumulator of an entry, when it is known (R162-R164). -/
def mmasAcc (e : TagEntry) (x : Mmas) (p : Nat × Seg) : Option Nat :=
  if !x.masked then some x.atile
  else if !p.2.hint then some p.2.tile
  else (e.hints.find? fun h => h.1 == p.1).map (·.2)

/-- What an array command uses (R158, R159, R162, R163). -/
def arrayUse (s : State) (e : TagEntry) : ArrayUse :=
  match e.cmd with
  | some (.twf w f _ _) => ⟨w, [(w, f)], [], 0⟩
  | some (.tmma x) =>
    ⟨x.stile, if x.res then [] else [(x.wtile, x.flay)], [(x.atile, x.arow + x.first + x.count)], x.acol⟩
  | some (.tmmas x) =>
    let us := mmasUse e
    if x.masked then
      ⟨x.otile, [(x.stile, true)], (dedup (us.filterMap (mmasAcc e x))).map fun t => (t, x.arow + (tileOf s x.otile).rows), x.acol⟩
    else ⟨x.stile, us.map fun p => (p.2.tile, x.flay), [(x.atile, x.arow + (tileOf s x.stile).rows)], x.acol⟩
  | _ => ⟨0, [], [], 0⟩

/-- The tiles of an array command that R67 judges (item 1 of R157), scale tiles included. -/
def arrayJudged (s : State) (e : TagEntry) : List (Nat × TClass) :=
  let u := arrayUse s e
  withScales s (((dedup (u.stile :: u.fronts.map (·.1))).map fun t => (t, TClass.r)) ++ u.accs.map fun a => (a.1, TClass.a))

/-- R113 for the accumulators of a list, the lowest-numbered first. -/
def spillAcc (s : State) (accs : List Nat) : Option Outc :=
  (lowestTile accs fun t => (tileOf s t).spill).map fun t => outc .capacity (0x200 + t) 0

/-- The TYPE_MISMATCH of R144 and R150, with the tile it names. -/
def arrayTypeBad (s : State) (isTwf : Bool) (u : ArrayUse) : Option Nat :=
  let ty := fun t => (tileOf s t).ty
  match lowestTile (u.accs.map (·.1)) fun t => ty t != .fp32 with
  | some t => some t
  | none => match (u.stile :: u.fronts.map (·.1)).find? fun t => (ty t).kclass.isNone with
    | some t => some t
    | none => (u.fronts.find? fun f => (!isTwf && !pairTypes (ty u.stile) (ty f.1)) || (f.2 && !(ty f.1).flay1)).map (·.1)

/-- Reasons 3 and 4 of R157 for the accumulators of a list. -/
def accShapeBad (s : State) (accs : List (Nat × Nat)) (acol : Nat) : Option Outc :=
  match accs.find? fun a => (tileOf s a.1).rowBytes % 128 != 0 || decide ((tileOf s a.1).rowBytes < 128 * (acol + 1)) with
  | some a => some (outc .shapeMismatch (0x3000 + a.1) 0)
  | none => (accs.find? fun a => decide ((tileOf s a.1).rows < a.2)).map fun a => outc .shapeMismatch (0x4000 + a.1) 0

/-- SHAPE_MISMATCH of item 6 of R157, in ascending order of reason. -/
def arrayShapeBad (s : State) (isTwf : Bool) (u : ArrayUse) : Option Outc :=
  let st := tileOf s u.stile
  if !isTwf && (match st.ty.kclass with | some c => decide (c.kb < st.rowBytes) | none => false) then
    some (outc .shapeMismatch (0x1000 + u.stile) 0)
  else match u.fronts.find? fun f => !frontOk (tileOf s f.1) f.2 with
    | some f => some (outc .shapeMismatch (0x2000 + f.1) 0)
    | none => accShapeBad s u.accs u.acol

/-- Items 2 to 6 of R157; `resMx` says that the resident front the command uses was driven from an MX tile. -/
def arrayChecks (s : State) (e : TagEntry) (resMx : Bool) : Option Outc :=
  let u := arrayUse s e
  let isTwf := match e.cmd with | some (.twf ..) => true | _ => false
  if !mxOk s && (resMx || (u.stile :: u.fronts.map (·.1)).any fun t => (tileOf s t).ty.isMx) then some (outc .unsupported 0x5000 0)
  else match spillAcc s (u.accs.map (·.1)) with
    | some o => some o
    | none =>
      let long := match e.cmd with
        | some (.tmma x) => decide ((tileOf s x.stile).rows < x.first + x.count)
        | _ => false
      if long then some (outc .length u.stile 0)
      else match arrayTypeBad s isTwf u with
        | some t => some (outc .typeMismatch t 0)
        | none => arrayShapeBad s isTwf u

/-- The segment checks of R77: the lowest offending INDEX; 0 where the table has no entry in use (log 79). -/
def segsBad (s : State) (e : TagEntry) (stile : Nat) : Option Nat :=
  let us := mmasUse e
  if us.isEmpty then some 0
  else
    let meets := fun (a b : Seg) => decide (a.first < b.first + b.count) && decide (b.first < a.first + a.count)
    (us.find? fun p => decide ((tileOf s stile).rows < p.2.first + p.2.count)
      || us.any fun q => decide (q.1 < p.1) && meets p.2 q.2).map (·.1)

/-- Item 7 of R157 for one accumulator that a hint names only at resolution: R67 and R68, R113, R144, reasons 3 and 4. -/
def lateAcc (s : State) (x : Mmas) (t : Nat) : Verdict :=
  match judge s [(t, .a)] x.noWait with
  | .go =>
    match spillAcc s [t] with
    | some o => .reply o
    | none =>
      if (tileOf s t).ty ≠ .fp32 then .reply (outc .typeMismatch t 0)
      else match accShapeBad s [(t, x.arow + (tileOf s x.otile).rows)] x.acol with
        | some o => .reply o
        | none => .go
  | v => v

/-! ### The sequence of fronts and passes -/

/-- Change the array's feeders and collectors. -/
def updArr (f : ArrayUnit → ArrayUnit) (s : State) : State := { s with arr := f s.arr }

/-- The beats of a front (R149). -/
def frontBeats (w : Tile) : Nat := if !w.ty.isMx then 32 else if w.ty = .mxE2m1 then 34 else 33

/-- The first value beat of a front comes after its scale beats (R149). -/
def scaleBeats (w : Tile) : Nat := frontBeats w - 32

/-- A pass that waits to be driven and launched. -/
def newPass (tag : Tag) (w : Tile) (wt : Nat) (flay : Bool) : Pass :=
  { uid := 0, test := none, tag := tag, drives := true, isTwf := false, wtile := wt, flay := flay, mask := none, ptag := none, lf := frontBeats w, beats := 0,
    stile := 0, first := 0, count := 0, launched := 0, atile := 0, arow := 0, acol := 0, ncols := frontCols w flay, flabel := 0 }

/-- Ask for the rows of a tile and, of an MX tile, for the same rows of its scale tile, the scales first (R146, R149). -/
def askRows (n : Nat) (tag : Tag) (t first count : Nat) (s : State) : State :=
  let x := jobTile s tag t
  let s := if x.ty.isMx then
      let p := jobTile s tag x.pair
      askRead n tag x.pair (first * p.rowBytes) ((first + count) * p.rowBytes) true s
    else s
  askRead n tag t (first * x.rowBytes) ((first + count) * x.rowBytes) true s

/-- Put a pass at the end of the sequence (R151). -/
def addPass (p : Pass) (s : State) : State :=
  updArr (fun a => { a with passes := a.passes ++ [{ p with uid := a.nextUid }], nextUid := a.nextUid + 1 }) s

/-- Put a pass at the end of the sequence, and ask for the operands of its front and rows (R151). -/
def pushPass (p : Pass) (s : State) : State :=
  let s := addPass p s
  let s := if p.drives then
      match p.mask with
      | some (f, c) => askRows 1 p.tag p.wtile f c s
      | none => askRows 1 p.tag p.wtile 0 (jobTile s p.tag p.wtile).rows s
    else s
  if p.isTwf then s else askRows 0 p.tag p.stile p.first p.count s

/-- The pass of segment entry `p` of a TMMAS (R162, R163). -/
def mmasPass (s : State) (tag : Tag) (e : TagEntry) (x : Mmas) (p : Nat × Seg) : Pass :=
  let acc := (mmasAcc e x p).getD 0
  if x.masked then
    { newPass tag (jobTile s tag x.stile) x.stile true with
      mask := some (p.2.first, p.2.count), stile := x.otile, first := 0, count := (jobTile s tag x.otile).rows, atile := acc,
      arow := x.arow, acol := x.acol }
  else
    { newPass tag (jobTile s tag p.2.tile) p.2.tile x.flay with
      stile := x.stile, first := p.2.first, count := p.2.count, atile := acc, arow := x.arow, acol := x.acol }

/-- Tiles with the scale tiles of the MX ones. -/
def tilesWithScales (s : State) (ts : List Nat) : List Nat := dedup ((withScales s (ts.map fun t => (t, TClass.r))).map (·.1))

/-- Begin an array command: note its tiles and wake their groups (R110). -/
def beginArray (tag : Tag) (u : ArrayUse) (s : State) : State :=
  let ts := tilesWithScales s (u.stile :: u.fronts.map (·.1) ++ u.accs.map (·.1))
  let s := snapTiles tag ts s
  let gs := dedup ((ts.filter fun t => !(tileOf s t).spill).map fun t => (tileOf s t).group)
  updJob tag (fun j => { j with stage := 1 }) (wakeGroups gs s)

/-! ### Ending -/

/-- The reply of a command that stopped at point `row` (R326, R327): an uncorrectable word comes first. -/
def endStopped (tag : Tag) (row : Nat) (s : State) : State :=
  let e := tagOf s tag
  let s := purgeReads tag s
  if e.ecc.isSome then finish tag (formStatus e row) s
  else match e.stop with
    | some .unplug => finish tag (outc .abortedPower 0 row) s
    | some (.xlate c) => stopWithRef tag .xlateFault c row s
    | some .rdErr => stopWithRef tag .descRange 0xE row s
    | some .wrErr => finish tag (outc .descRange 0xD000 row) s
    | some .preempt => stopWithRef tag .preempted 0 row s
    | none => finish tag (formStatus e row) s

/-- No pass of a command is still to launch and no record of it is outstanding (R168, R169). -/
def arrayIdle (s : State) (tag : Tag) : Bool :=
  !(s.arr.passes.any fun p => p.tag == tag) && !(s.arr.records.any fun r => r.tag == tag)

/-- End an array command whose passes have landed (R158, R159, R169). -/
def endArray (tag : Tag) (total : Nat) (s : State) : State :=
  let j := (tagOf s tag).job
  if j.landed < total then endStopped tag j.landed s else finishWritten tag j.landed (purgeReads tag s)

/-- Stop an array command at a pass boundary (R169): its passes that have launched no row, and its fronts not wholly driven, go. A TWF so
stopped leaves no resident front (R160). -/
def arrayStop (tag : Tag) (s : State) : State :=
  updArr (fun a => { a with
    passes := a.passes.filter fun p => p.tag != tag || decide (0 < p.launched)
    resident := if a.passes.any fun p => p.tag == tag && p.isTwf then none else a.resident }) s

/-! ### TWF, TMMA, TMMAS -/

/-- The resident front that a TMMA with RES 1 would use (R160): none where the latest front of the sequence is not one that a TWF has driven
whole. -/
def residentNow (s : State) : Option Resident := if s.arr.passes.any (·.drives) then none else s.arr.resident

/-- Item 8 of R157 (R160). -/
def residentBad (s : State) (x : Mma) : Option Outc :=
  match residentNow s with
  | none => some (outc .tileEmpty (0x400 + x.stile) 0)
  | some r =>
    if r.label ≠ x.flabel then some (outc .tileEmpty (0x400 + x.stile) 0)
    else if pairTypes (tileOf s x.stile).ty r.ty then none
    else some (outc .typeMismatch x.stile 0)

/-- The checks of a TMMA with RES 1, at the place its pass takes in the sequence (items 2 to 8 of R157). -/
def resChecks (s : State) (e : TagEntry) (x : Mma) : Option Outc :=
  let mx := match residentNow s with | some q => decide (q.label = x.flabel) && q.ty.isMx | none => false
  (arrayChecks s e mx).or (residentBad s x)

/-- The pass of a TMMA (R158). -/
def mmaPass (s : State) (tag : Tag) (x : Mma) : Pass :=
  let p := newPass tag (jobTile s tag x.wtile) x.wtile x.flay
  let p := { p with stile := x.stile, first := x.first, count := x.count, atile := x.atile, arow := x.arow, acol := x.acol }
  match x.res, residentNow s with
  | true, some r => { p with drives := false, lf := 0, ptag := some r.ptag, ncols := r.ncols }
  | _, _ => p

/-- An array command that has just started takes its place in the sequence of fronts and passes (R151, R158, R159, R162, R163); a TMMAS
begins after the passes that landed before it was stopped (R332). -/
def arrayBegin (tag : Tag) (s : State) : State :=
  let e := tagOf s tag
  match e.cmd with
  | some (.twf w flay label _) =>
    let s := beginArray tag (arrayUse s e) s
    pushPass { newPass tag (jobTile s tag w) w flay with isTwf := true, flabel := label } s
  | some (.tmma x) =>
    if x.count = 0 then s
    else
      let s := beginArray tag (arrayUse s e) s
      pushPass (mmaPass s tag x) s
  | some (.tmmas x) =>
    let s := beginArray tag (arrayUse s e) s
    ((mmasUse e).drop e.job.landed).foldl (fun s p => pushPass (mmasPass s tag e x p) s) s
  | _ => s

/-- TWF of a started tag (R159): FRONT_BEAT drives its front; it ends with its front. -/
def execTwf (tag : Tag) (s : State) : Host.Outcome State Fault Refusal :=
  match started s tag .twf with
  | some _ => .next (if arrayIdle s tag then endArray tag 1 s else s)
  | none => .next s

/-- TMMA of a started tag (R158): it ends when its record is retired. -/
def execTmma (tag : Tag) (s : State) : Host.Outcome State Fault Refusal :=
  match started s tag .tmma with
  | some e =>
    match e.cmd with
    | some (.tmma x) =>
      .next (if x.count = 0 then finish tag (outc .ok 0 0) s else if arrayIdle s tag then endArray tag 1 s else s)
    | _ => .next s
  | none => .next s

/-- TMMAS of a started tag (R161-R163): it ends when the record of its last pass is retired. -/
def execTmmas (tag : Tag) (s : State) : Host.Outcome State Fault Refusal :=
  match started s tag .tmmas with
  | some e => .next (if arrayIdle s tag then endArray tag (mmasUse e).length s else s)
  | none => .next s

/-! ### Lanes -/

/-- The physical row of logical row `i` (R143). -/
def physRow (s : State) (i : Nat) : Nat := (((List.range 34).filter fun q => !bit s.arr.rowbyp q)[i]?).getD i

/-- The physical column of logical column `j` (R143). -/
def physCol (s : State) (j : Nat) : Nat := (((List.range 33).filter fun q => !bit s.arr.colbyp q)[j]?).getD j

/-- The physical row of scale lane `k` (R143). -/
def scaleLane (s : State) (k : Nat) : Nat := (((List.range 34).filter fun q => bit s.arr.rowbyp q)[k]?).getD (32 + k)

/-- The effective trim of a row-feed lane (R170). -/
def afTrim (s : State) (q : Nat) : Nat := fld (rget s (0x3010 + 4 * (q / 16))) (2 * (q % 16) + 1) (2 * (q % 16))

/-- The effective trim of a weight-front lane (R170). -/
def wfTrim (s : State) (q : Nat) : Nat := fld (rget s (0x3020 + 4 * (q / 16))) (2 * (q % 16) + 1) (2 * (q % 16))

/-- Drive the row-feed lanes whose slice is due this a-cycle, and bring the others one a-cycle nearer (R146). -/
def driveAf (s : State) : State :=
  let (due, rest) := s.arr.afPipe.partition fun x => x.1 = 0
  let v := due.foldl (fun (m : BitVec 34) x => m ||| put 1 x.2.1) 0
  let d := due.foldl (fun (m : BitVec 1088) x => m ||| put x.2.2.toNat (32 * x.2.1)) 0
  { s with
    arr := { s.arr with afPipe := rest.map fun x => (x.1 - 1, x.2) }
    pin := { s.pin with afv := v, afd := d } }

/-- Drive the weight-front lanes whose beat is due this a-cycle (R170). -/
def driveWf (s : State) : State :=
  let (due, rest) := s.arr.wfPipe.partition fun x => x.1 = 0
  let v := due.foldl (fun (m : BitVec 33) x => m ||| put 1 x.2.1) 0
  let d := due.foldl (fun (m : BitVec 1056) x => m ||| put x.2.2.1.toNat (32 * x.2.1)) 0
  let t := due.foldl (fun (m : BitVec 132) x => m ||| put x.2.2.2.toNat (4 * x.2.1)) 0
  { s with
    arr := { s.arr with wfPipe := rest.map fun x => (x.1 - 1, x.2) }
    pin := { s.pin with wfv := v, wfd := d, wfpt := t } }

/-! ### The row feed -/

/-- The bytes of the K block of row `m` and, of an MX tile, its first eight scale bytes with 0x7F where it has no block (R145, R146);
none while a byte is missing. -/
def rowBytesOf (s : State) (tag : Tag) (t m : Nat) : Option (Nat × Nat) :=
  let rx := (tagOf s tag).job.rx
  let x := jobTile s tag t
  let ones := 0x7F7F7F7F7F7F7F7F
  match rxBytes rx t (m * x.rowBytes) x.rowBytes with
  | none => none
  | some d =>
    if x.ty.isMx then
      let p := jobTile s tag x.pair
      let n := min 8 x.blocks
      (rxBytes rx x.pair (m * p.rowBytes) n).map fun c => (d, c + ones / 2 ^ (8 * n) * 2 ^ (8 * n))
    else some (d, ones)

/-- The slices of a launched row of `lb` bytes to a lane, with the a-cycles until each is driven (R145, R146). -/
def rowSlices (s : State) (lb d sc : Nat) : List (Nat × Nat × BitVec 32) :=
  ((List.range 32).map fun i =>
    let q := physRow s i
    (i + afTrim s q, q, BitVec.ofNat 32 (d / 2 ^ (8 * lb * i) % 2 ^ (8 * lb))))
  ++ (List.range 2).map fun k =>
    let q := scaleLane s k
    (afTrim s q, q, BitVec.ofNat 32 (sc / 2 ^ (32 * k)))

/-- Row `m` of step `k` of the skew self-test (R172): row 20 alone carries ones, in FP8 for a logical row, in MXFP4 for a scale lane. -/
def testRow (k m : Nat) : Nat × Nat :=
  let ones := 0x7F7F7F7F7F7F7F7F
  if m ≠ 20 then (0, ones)
  else if k < 32 then (0x38383838 * 2 ^ (32 * k), ones)
  else (0x22222222 * 2 ^ (512 * (k - 32)), ones + 2 ^ (32 * (k - 32)))

/-- The K block and scales of the next row of a pass; none while a byte is missing (R145, R146). -/
def passRow (s : State) (p : Pass) : Option (Nat × Nat) :=
  match p.test with
  | some k => some (testRow k p.launched)
  | none => rowBytesOf s p.tag p.stile (p.first + p.launched)

/-- Bytes that a lane carries for a pass. -/
def passLane (s : State) (p : Pass) : Nat :=
  match p.test with
  | some _ => 4
  | none => match (jobTile s p.tag p.stile).ty.kclass with | some c => c.laneBytes | none => 4

/-- The record of a pass when its first row launches (R153). -/
def recordOf (p : Pass) : RouteRec :=
  { uid := p.uid, test := p.test, ptag := p.ptag.getD 0, tag := p.tag, total := p.count, launched := 1, released := 0, written := 0, tile := p.atile, first := p.first,
    arow := p.arow, acol := p.acol, ncols := p.ncols }

/-- Launch the next row of the first pass of the sequence (R146, R147, R153). -/
def launchRow (p : Pass) (d sc : Nat) (s : State) : State :=
  let new := rowSlices s (passLane s p) d sc
  let bump := fun (r : RouteRec) => if r.uid = p.uid then { r with launched := r.launched + 1 } else r
  let recs := if p.launched = 0 then s.arr.records ++ [recordOf p] else s.arr.records.map bump
  let rest := if p.launched + 1 = p.count then s.arr.passes.tail else { p with launched := p.launched + 1 } :: s.arr.passes.tail
  cnt 0x3050 1 (updArr (fun a => { a with passes := rest, records := recs, q := a.q + 1, afPipe := a.afPipe ++ new }) s)

/-- The row feed's choice in one a-cycle (R147, R168): a row, or a bubble with its counter; of two reasons at once the first counts
(log 82). -/
def feedRow (s : State) : State :=
  match s.arr.passes with
  | [] => s
  | p :: _ =>
    if p.isTwf || decide (p.beats < p.lf) then s
    else if 0 < s.arr.hold then s
    else match passRow s p with
      | none => cnt 0x3040 1 s
      | some (d, sc) =>
        if 40 ≤ s.arr.q then cnt 0x3048 1 s
        else if p.launched = 0 ∧ 16 ≤ s.arr.records.length then cnt 0x304C 1 s
        else launchRow p d sc s

/-- ROW_LAUNCH: one a-cycle of the row feed (R146, R147); after a drain fault the hold runs down (R155). -/
def execRowLaunch (s : State) : Host.Outcome State Fault Refusal :=
  if !running s islA then .next s
  else
  let s := driveAf (feedRow s)
  .next (updArr (fun a => { a with hold := a.hold - 1 }) s)

/-! ### The weight front -/

/-- The next pass tag in order that no record and not the front in use carries (R153). -/
def freePtag (s : State) : Option (BitVec 4) :=
  (rotFind 16 s.arr.nextTag.toNat fun t =>
    s.arr.frontTag != some (BitVec.ofNat 4 t) && !(s.arr.records.any fun r => r.ptag == BitVec.ofNat 4 t)).map (BitVec.ofNat 4)

/-- The byte of a scale beat's stream: four scales to a row, eight of an MXFP4 tile; 0x7F where the tile has no row or block (R149). -/
def scaleByte (s : State) (p : Pass) (i : Nat) : Option Nat :=
  let x := jobTile s p.tag p.wtile
  let per := if x.ty = .mxE2m1 then 8 else 4
  let r := i / per
  let b := i % per
  if x.rows ≤ r ∨ x.blocks ≤ b then some 0x7F
  else rxBytes (tagOf s p.tag).job.rx x.pair (r * (jobTile s p.tag x.pair).rowBytes + b) 1

/-- The bytes of row `r` of a front tile; zero beyond the tile and outside the segment of a masked front (R148, R163). -/
def frontRow (s : State) (p : Pass) (r : Nat) : Option Nat :=
  let x := jobTile s p.tag p.wtile
  let off := match p.mask with | some (f, c) => decide (r < f) || decide (f + c ≤ r) | none => false
  if decide (x.rows ≤ r) || off then some 0 else rxBytes (tagOf s p.tag).job.rx p.wtile (r * x.rowBytes) x.rowBytes

/-- All of a list, or none. -/
def allSome {α : Type} : List (Option α) → Option (List α)
  | [] => some []
  | none :: _ => none
  | some a :: r => (allSome r).map (a :: ·)

/-- The lanes of beat `b` of the front of step `k` of the skew self-test (R172). -/
def testLanes (k b : Nat) : List Nat :=
  List.replicate 32 (if k < 32 then (if b = k then 0x38383838 else 0) else if b < 2 then 0x7F7F7F7F else 0x22222222)

/-- The 32 lanes of beat `k` of a front (R149, R150); none while a byte is missing. -/
def frontLanes (s : State) (p : Pass) (k : Nat) : Option (List Nat) :=
  match p.test with
  | some n => some (testLanes n k)
  | none =>
  let x := jobTile s p.tag p.wtile
  let c := x.ty.kclass.getD .b8
  let sb := scaleBeats x
  if k < sb then
    (allSome ((List.range 128).map fun i => scaleByte s p (128 * k + i))).map fun bs => unpackElems 32 32 (packElems 8 bs)
  else if p.flay then
    (allSome ((List.range c.lane).map fun i => frontRow s p (c.lane * (k - sb) + i))).map fun rows =>
      (List.range 32).map fun j =>
        if x.elems ≤ j then 0 else packElems x.ty.bits (rows.map fun r => elemOf x.ty.bits r j)
  else (frontRow s p (k - sb)).map fun r => unpackElems (8 * c.laneBytes) 32 r

/-- Put a front beat on its lanes, each after its own trim (R149, R170). -/
def putBeat (t : BitVec 4) (lanes : List Nat) (s : State) : State :=
  let new := lanes.zipIdx.map fun p => (wfTrim s (physCol s p.2), physCol s p.2, BitVec.ofNat 32 p.1, t)
  updArr (fun a => { a with wfPipe := a.wfPipe ++ new }) s

/-- The last beat of a front has been driven (R151, R159): the array uses it; a TWF's becomes the resident front, and any other ends
residency. -/
def frontDone (p : Pass) (t : BitVec 4) (s : State) : State :=
  let x := jobTile s p.tag p.wtile
  let res : Option Resident := if p.isTwf then some ⟨p.flabel, t, x.ty, p.ncols⟩ else none
  let s := cnt 0x3054 1 (updArr (fun a => { a with frontTag := some t, resident := res }) s)
  if p.isTwf then
    updJob p.tag (fun j => { j with landed := j.landed + 1 }) (updArr (fun a => { a with passes := a.passes.tail }) s)
  else s

/-- Drive beat `p.beats` of the front at position `i` of the sequence (R151, R152). A last beat that rule 2 of R151 holds is due for
TIL_FRONTWAIT (log 83). -/
def driveBeat (i : Nat) (p : Pass) (t : BitVec 4) (s : State) : State :=
  let p := { p with ptag := some t }
  let s := updArr (fun a => { a with passes := a.passes.set i p }) s
  match frontLanes s p p.beats with
  | none => cnt 0x3044 1 s
  | some lanes =>
    if p.beats + 1 = p.lf ∧ i ≠ 0 then s
    else
      let s := putBeat t lanes (updArr (fun a => { a with passes := a.passes.set i { p with beats := p.beats + 1 } }) s)
      if p.beats + 1 = p.lf then frontDone p t s else s

/-- FRONT_BEAT: one a-cycle of the weight front (R151-R153, R168). The last beat waits until every row of the passes before it has
launched. -/
def execFrontBeat (s : State) : Host.Outcome State Fault Refusal :=
  if !running s islA then .next s
  else match findPos (fun p => p.drives && decide (p.beats < p.lf)) s.arr.passes with
  | none => .next (driveWf s)
  | some i =>
    match s.arr.passes[i]? with
    | none => .next (driveWf s)
    | some p =>
      match p.ptag with
      | some t => .next (driveWf (driveBeat i p t s))
      | none =>
        match freePtag s with
        | none => .next (driveWf (cnt 0x304C 1 s))
        | some t => .next (driveWf (driveBeat i p t (updArr (fun a => { a with nextTag := t + 1 }) s)))

/-! ### Draining -/

/-- The record of the `k`-th row that has launched and not been released (R154). -/
def recordAt : List RouteRec → Nat → Option RouteRec
  | [], _ => none
  | r :: rest, k => if k < r.launched - r.released then some r else recordAt rest (k - (r.launched - r.released))

/-- A drain fault in the skew self-test: every column of its step is wrong (R172). -/
def skewFault (s : State) : State := { s with tnk := { s.tnk with skew := s.tnk.skew.map fun k => { k with wrong := -1 } } }

/-- A drain fault (R155): the buffer and the records go, and every array command that had a record ends, in acceptance order (R83). -/
def drainFault (info : Nat) (s : State) : State :=
  let mine := fun (p : Tag × TagEntry) => s.arr.records.any fun r => r.test.isNone && r.tag == p.1
  let ends := ((allocTags s).filter mine).foldr insertAcc []
  let tags := ends.map fun p => p.1
  let s := if s.arr.records.any fun r => r.test.isSome then skewFault s else s
  let w := fld (rget s 0x400C) 15 0
  let s := cnt 0x4018 1 (logErr 0x09 islA 2 0 info s)
  let s := updArr (fun a => { a with
    fifos := [], q := 0, records := [], resident := none, hold := w, drainQ := []
    passes := a.passes.filter fun p => p.test.isNone && !tags.contains p.tag }) s
  tags.foldl (fun s t => finish t (outc .aborted 0x2000 (tagOf s t).job.landed) (purgeReads t s)) s

/-- Take the value of one logical lane (R165): false where it is a drain fault, as is a value beyond the rows launched (log 84). -/
def drainLane (adv : BitVec 33) (add : BitVec 1056) (adpt : BitVec 132) (acc : Bool × State) (j : Nat) : Bool × State :=
  let (ok, s) := acc
  let q := physCol s j
  if !ok || !bit adv q then acc
  else
    let f := tget [] s.arr.fifos j
    match recordAt s.arr.records f.length with
    | none => (false, s)
    | some r =>
      if r.ptag ≠ adpt.extractLsb' (4 * q) 4 then (false, s)
      else (true, updArr (fun a => { a with fifos := tset [] a.fifos j (f ++ [add.extractLsb' (32 * q) 32]) }) s)

/-- DRAIN_BEAT: one a-cycle of the drain lanes (R155, R165). Values of the bypassed column are discarded; after a drain fault a value
restarts the hold. -/
def execDrainBeat (adv : BitVec 33) (add : BitVec 1056) (adpt : BitVec 132) (s : State) : Host.Outcome State Fault Refusal :=
  let some_ := (List.range 32).any fun j => bit adv (physCol s j)
  if !running s islA then .next s
  else if 0 < s.arr.hold then
    .next (if some_ then updArr (fun a => { a with hold := fld (rget s 0x400C) 15 0 }) s else s)
  else
    let (ok, t) := (List.range 32).foldl (drainLane adv add adpt) (true, s)
    .next (if ok then t else drainFault 0 s)

/-- DRAIN_WATCHDOG_EXPIRE (R155): while Q is above 0 and the watchdog is enabled. -/
def execDrainWatchdogExpire (s : State) : Host.Outcome State Fault Refusal :=
  if 0 < s.arr.q ∧ fld (rget s 0x400C) 15 0 ≠ 0 ∧ running s islA = true then .next (drainFault 1 s) else .next s

/-- The values of the oldest row of the deskew buffer. -/
def drainVals (s : State) : List (BitVec 32) := (List.range 32).map fun j => (tget [] s.arr.fifos j).headD 0

/-- Release a row of the skew self-test (R172): row 20, and no other, is to hold the value expected in every column. -/
def releaseTest (r : RouteRec) (k : Nat) (s : State) : State :=
  let want : BitVec 32 := if k < 32 then 0x40800000 else 0x41800000
  let bad := ((drainVals s).zipIdx.filter fun p => (p.1 == want) != (r.released == 20)).foldl (fun (m : BitVec 32) p => m ||| put 1 p.2) 0
  let step := fun (x : RouteRec) => if x.uid = r.uid then { x with released := x.released + 1, written := x.written + 1 } else x
  let s := { s with tnk := { s.tnk with skew := s.tnk.skew.map fun y => { y with wrong := y.wrong ||| bad, rows := y.rows + 1 } } }
  updArr (fun a => { a with
    fifos := (List.range 32).foldl (fun m j => tset [] m j (tget [] a.fifos j).tail) a.fifos
    records := (a.records.map step).filter fun q => decide (q.written < q.total)
    q := a.q - 1 }) s

/-- Release a complete row of a record onto the drain bus (R154, R165). -/
def releaseRow (r : RouteRec) (s : State) : State :=
  let t := tileOf s r.tile
  let row := r.arow + r.first + r.released
  let seg := (row * t.rowBytes + 128 * r.acol) / 128
  let vals := packElems 32 ((drainVals s).map (·.toNat))
  let d : DrainRow := { uid := r.uid, tag := r.tag, lbank := segBank r.tile t seg, entry := segEntry t seg, tile := r.tile, seg := seg,
                        ncols := r.ncols, vals := BitVec.ofNat 1024 vals }
  let bump := fun (x : RouteRec) => if x.uid = r.uid then { x with released := x.released + 1 } else x
  cnt 0x4010 1 (updArr (fun a => { a with
    fifos := (List.range 32).foldl (fun m j => tset [] m j (tget [] a.fifos j).tail) a.fifos
    records := a.records.map bump
    q := a.q - 1
    drainQ := a.drainQ ++ [d] }) s)

/-- DRAIN_ROW_RELEASE (R165-R167): the oldest row, when it is complete, the group is ON, and the crossing has one of its 8 entries free
(R20). -/
def execDrainRowRelease (s : State) : Host.Outcome State Fault Refusal :=
  match s.arr.records.find? fun r => decide (r.released < r.launched) with
  | none => .next s
  | some r =>
    if !running s islA then .next s
    else if (List.range 32).any fun j => (tget [] s.arr.fifos j).isEmpty then .next s
    else match r.test with
    | some k => .next (releaseTest r k s)
    | none =>
      let g := (tileOf s r.tile).group
      if !(groupOf s g).ready then .next (cnt 0x4014 1 (wakeGroup g s))
      else if 8 ≤ (s.arr.drainQ.filter fun d => d.lbank / 8 == g).length then .next (cnt 0x4014 1 s)
      else .next (releaseRow r s)

end Sys2Proof.Machine
end

