-- ==== Sys2Proof/Machine/Descriptors.lean ====
section
/-! DEFINITION. Tensor descriptors (R205-R209), allocation windows (R210), and the commands DCRE and DFREE (R212-R215). -/

namespace Sys2Proof.Machine

/-! ### The descriptor -/

/-- Sharding of a dimension (R206). -/
inductive Shard where
  | replicated | block | cyclic
  deriving DecidableEq, Repr, Inhabited

/-- One dimension of a descriptor: global size, stride, sharding, shard count and index. Dimension 0 has no stride or sharding, and a
dimension above NDIM is one coordinate (R205, R206). -/
structure Dim where
  size : Nat
  stride : Nat
  mode : Shard
  cnt : Nat
  idx : Nat
  deriving DecidableEq, Repr, Inhabited

/-- A tensor descriptor (R205); `ndim` is the number of dimensions less one. -/
structure Desc where
  base : Nat
  scaleOff : Nat
  ty : EType
  hay : Bool
  xlate : Bool
  ndim : Nat
  blocked : Bool
  rowPacked : Bool
  br : Nat
  bcb : Nat
  win : Nat
  d0 : Dim
  d1 : Dim
  d2 : Dim
  d3 : Dim
  fill : Nat
  deriving DecidableEq, Repr

/-- A dimension above NDIM. -/
def Dim.single : Dim := ⟨1, 0, .replicated, 1, 0⟩

/-- The dimension `d` of an image. -/
def dimOf (img : BitVec 512) (ndim d : Nat) : Dim :=
  if d = 0 then ⟨fld img 151 128, 0, .replicated, 1, 0⟩
  else if ndim < d then Dim.single
  else
    let o := 128 + 64 * d
    let m := 384 + 32 * (d - 1)
    ⟨fld img (o + 23) o, fld img (o + 63) (o + 24),
      (match fld img (m + 1) m with | 1 => .block | 2 => .cyclic | _ => .replicated), fld img (m + 15) (m + 4) + 1, fld img (m + 27) (m + 16)⟩

/-- The descriptor of an image (R205). -/
def Desc.ofImage (img : BitVec 512) : Desc :=
  let n := fld img 105 104
  { base := fld img 63 0, scaleOff := fld img 95 64, ty := (EType.ofCode (fld img 99 96)).getD .fp32, hay := fld img 101 100 == 1,
    xlate := bit img 102, ndim := n, blocked := bit img 106, rowPacked := bit img 107, br := 2 ^ fld img 110 108,
    bcb := 16 * 2 ^ fld img 113 111, win := fld img 121 114, d0 := dimOf img n 0, d1 := dimOf img n 1, d2 := dimOf img n 2,
    d3 := dimOf img n 3, fill := fld img 511 480 }

/-- Dimension `d`. -/
def Desc.dim (x : Desc) (d : Nat) : Dim := match d with | 0 => x.d0 | 1 => x.d1 | 2 => x.d2 | _ => x.d3

/-- B of R206: global coordinates to a BLOCK shard. -/
def Dim.blk (d : Dim) : Nat := ceilDiv d.size d.cnt

/-- Local extent (R206). -/
def Dim.extent (d : Dim) : Nat :=
  match d.mode with
  | .replicated => d.size
  | .block => min d.blk (d.size - d.idx * d.blk)
  | .cyclic => if d.idx < d.size then ceilDiv (d.size - d.idx) d.cnt else 0

/-- The local coordinate of a global coordinate, none where the shard does not own it (R206). -/
def Dim.loc (d : Dim) (g : Int) : Option Nat :=
  if g < 0 ∨ (d.size : Int) ≤ g then none
  else
    let n := g.toNat
    match d.mode with
    | .replicated => some n
    | .block => if d.idx * d.blk ≤ n ∧ n < (d.idx + 1) * d.blk then some (n - d.idx * d.blk) else none
    | .cyclic => if n % d.cnt = d.idx then some (n / d.cnt) else none

/-- The owned coordinate nearest to a global coordinate, as a local coordinate, the lower one on a tie; none where the shard owns nothing
(R223). -/
def Dim.clamp (d : Dim) (g : Int) : Option Nat :=
  let n := d.extent
  if n = 0 then none
  else match d.loc g with
    | some l => some l
    | none =>
      match d.mode with
      | .replicated => some (if g < 0 then 0 else n - 1)
      | .block => some (if g < (d.idx * d.blk : Nat) then 0 else n - 1)
      | .cyclic =>
        if g ≤ (d.idx : Int) then some 0
        else
          let l := (g.toNat - d.idx) / d.cnt
          if n - 1 ≤ l then some (n - 1)
          else
            let a := d.idx + l * d.cnt
            some (if g.toNat - a ≤ a + d.cnt - g.toNat then l else l + 1)

/-- Bytes of a stored row (R209). -/
def Desc.rowBytes (x : Desc) : Nat := x.d0.size * x.ty.bits / 8

/-- SP of R207. -/
def Desc.prefixBytes (x : Desc) : Nat := if x.rowPacked then 16 * ceilDiv (x.d0.size / 32) 16 else 0

/-- The address of byte `b` of the stored row at local (l1, l2, l3) (R207). -/
def Desc.byteAddr (x : Desc) (l1 l2 l3 b : Nat) : Nat :=
  let tail := l2 * x.d2.stride + l3 * x.d3.stride
  if x.blocked then
    x.base + (l1 / x.br) * x.d1.stride + (b / x.bcb) * x.br * x.bcb + (l1 % x.br) * x.bcb + b % x.bcb + tail
  else x.base + l1 * x.d1.stride + tail + x.prefixBytes + b

/-- The address of the scale of block `k` of the stored row at local (l1, l2, l3) (R208). -/
def Desc.scaleAddr (x : Desc) (l1 l2 l3 k : Nat) : Nat :=
  if x.rowPacked then x.base + l1 * x.d1.stride + l2 * x.d2.stride + l3 * x.d3.stride + k
  else x.base + 16 * x.scaleOff + k + x.d0.size / 32 * (l1 + x.d1.extent * (l2 + x.d2.extent * l3))

/-- The footprint (R209): ranges from the first byte to the last. -/
def Desc.footprint (x : Desc) : List (Nat × Nat) :=
  let e1 := x.d1.extent
  let e2 := x.d2.extent
  let e3 := x.d3.extent
  if x.d0.size = 0 ∨ e1 = 0 ∨ e2 = 0 ∨ e3 = 0 then []
  else
    let tail := (e2 - 1) * x.d2.stride + (e3 - 1) * x.d3.stride
    let hi := if x.blocked then x.base + (ceilDiv e1 x.br - 1) * x.d1.stride + x.br * ceilDiv x.rowBytes x.bcb * x.bcb - 1 + tail
      else x.base + (e1 - 1) * x.d1.stride + tail + x.rowBytes + x.prefixBytes - 1
    let sc := x.base + 16 * x.scaleOff
    (x.base, hi) :: if x.ty.isMx && !x.rowPacked then [(sc, sc + x.d0.size / 32 * e1 * e2 * e3 - 1)] else []

/-! ### Checks of an image -/

/-- Fields of an image as (high bit, low bit). -/
def imgFields : List (Nat × Nat) :=
  [(63, 0), (95, 64), (99, 96), (101, 100), (102, 102), (105, 104), (106, 106), (107, 107), (110, 108), (113, 111), (121, 114), (151, 128),
   (215, 192), (255, 216), (279, 256), (319, 280), (343, 320), (383, 344),
   (385, 384), (399, 388), (411, 400), (417, 416), (431, 420), (443, 432), (449, 448), (463, 452), (475, 464), (511, 480)]

/-- The bits that no field covers. -/
def imgMask : Nat := imgFields.foldl (fun m f => m - ((2 ^ (f.1 + 1) - 2 ^ f.2) &&& m)) (2 ^ 512 - 1)

/-- Check 3 of R212: a reserved field of the image, a reserved value, or a field that R205 wants zero. -/
def imgOffends (img : BitVec 512) : Bool :=
  let ty := fld img 99 96
  let mx := decide (8 ≤ ty) && decide (ty ≤ 13)
  let n := fld img 105 104
  let dimBad := fun d =>
    let o := 128 + 64 * d
    let m := 384 + 32 * (d - 1)
    fld img (m + 1) m == 3 || (decide (n < d) && (fld img (o + 63) o != 0 || fld img (m + 31) m != 0))
  (img.toNat &&& imgMask) != 0 || ty == 15 || decide (1 < fld img 101 100)
  || (!bit img 102 && decide ((if fld img 101 100 = 1 then 2 ^ 22 else 2 ^ 48) ≤ fld img 63 0))
  || (!bit img 106 && fld img 113 108 != 0) || (bit img 107 && !mx)
  || (fld img 95 64 != 0 && !(mx && !bit img 107)) || dimBad 1 || dimBad 2 || dimBad 3

/-- The dimensions in use. -/
def Desc.used (x : Desc) : List Dim := [x.d0, x.d1, x.d2, x.d3].take (x.ndim + 1)

/-- Checks 3 to 8 of R212: status and reason. -/
def imgCheck (img : BitVec 512) : Option (Status × Nat) :=
  let x := Desc.ofImage img
  if imgOffends img then some (.reservedField, 0)
  else if x.used.any fun d => d.size == 0 then some (.descInvalid, 1)
  else if x.used.any fun d => decide (d.cnt ≤ d.idx) || (d.mode == .replicated && (d.cnt != 1 || d.idx != 0)) then some (.descInvalid, 2)
  else if x.d0.size * x.ty.bits % 8 ≠ 0 ∨ (x.ty.isMx ∧ x.d0.size % 32 ≠ 0) then some (.descInvalid, 3)
  else if x.blocked && (x.ndim == 0 || x.rowPacked || decide (x.d1.stride < x.br * ceilDiv x.rowBytes x.bcb * x.bcb)) then
    some (.descInvalid, 4)
  else if x.xlate && x.hay then some (.descInvalid, 5)
  else none

/-! ### Windows -/

/-- An allocation window. -/
def windowOf (s : State) (w : Nat) : Window := tget Window.invalid s.asy.windows w

/-- A window holds addresses of the kind wanted (check 9 of R212, R204). -/
def Window.fits (w : Window) (hay xl : Bool) : Bool := w.valid && w.hay == hay && w.xl == xl

/-- A range lies wholly inside a window. -/
def Window.holds (w : Window) (lo hi : Nat) : Bool := decide (w.base ≤ lo) && decide (hi < w.base + w.size)

/-- The staging registers as a window (R210). -/
def stagedWindow (s : State) : Window :=
  let c := rget s 0x6014
  ⟨bit c 0, fld c 2 1 == 1, bit c 3, (rget s 0x6018).toNat + 2 ^ 32 * (rget s 0x601C).toNat,
    (rget s 0x6020).toNat + 2 ^ 32 * (rget s 0x6024).toNat⟩

/-- Load the staging registers from a window (R210). -/
def loadStaging (w : Window) (s : State) : State :=
  let r := fun (off v : Nat) (s : State) => rset off (BitVec.ofNat 32 v) s
  r 0x6014 (b2n w.valid + 2 * b2n w.hay + 8 * b2n w.xl)
    (r 0x6018 (w.base % 2 ^ 32) (r 0x601C (w.base / 2 ^ 32) (r 0x6020 (w.size % 2 ^ 32) (r 0x6024 (w.size / 2 ^ 32) s))))

/-- Copy the staging registers into the selected window, unless its end lies out of range (R210). -/
def commitWindow (s : State) : State :=
  let w := stagedWindow s
  let sel := fld (rget s 0x6010) 7 0
  let e := w.base + w.size
  if (w.hay && decide (2 ^ 22 < e)) || (!w.hay && !w.xl && decide (2 ^ 48 < e)) || decide (2 ^ 64 < e) then unusable islH 0 0x6028 sel s
  else { s with asy := { s.asy with windows := tset Window.invalid s.asy.windows sel w } }

/-! ### Slots -/

/-- The CRC of a live handle. -/
def liveCrc (s : State) (h : Nat) : Option (BitVec 32) := tget none s.asy.live h

/-- Make a handle live with a CRC, or free. -/
def setLive (h : Nat) (c : Option (BitVec 32)) (s : State) : State :=
  { s with asy := { s.asy with live := tset none s.asy.live h c } }

/-- The address of a slot (R212, R245). -/
def slotAddr (s : State) (h : Nat) : Nat := descBase s + 64 * h

/-- The CRC-32 of an image (R212). -/
def imgCrc (img : BitVec 512) : BitVec 32 := crc32 (bytes 64 img)

/-- The image that the slot of a live handle holds now, each word as its test leaves it, when its check succeeds (R214). -/
def slotImage (s : State) (h : Nat) : Option (BitVec 512) :=
  let p := accPlace s (hayRd 9 (slotAddr s h) (-1) (.fetch 0))
  let ws := (List.range 8).map fun w => (eccTest (hayRaw s p.1 p.2 w).1 (hayRaw s p.1 p.2 w).2).1
  let img : BitVec 512 := BitVec.ofNat 512 (ofWords ws)
  if liveCrc s h = some (imgCrc img) then some img else none

/-- The slot of a handle of a command that starts, as the Assayer has read it (R214): the image, or the reply. -/
def slotCheck (tag : Tag) (h : Nat) (s : State) : (Outc ⊕ BitVec 512) × State :=
  match liveCrc s h with
  | none => (.inl (outc .descInvalid (0x9000 + h) 0), s)
  | some c =>
    match (tagOf s tag).job.slots.find? fun p => p.1 == h with
    | some p =>
      if imgCrc p.2.1 = c then (.inr p.2.1, s)
      else (.inl (outc .descInvalid (0x8000 + h) 0), cnt 0x6050 1 (logErr 0x06 islH 0 h 0 s))
    | none => (.inl (outc .descInvalid (0x9000 + h) 0), s)

/-- Ask for the slots of the live handles of a command that is to start (R214, R247). -/
def askSlots (tag : Tag) (hs : List Nat) (s : State) : State :=
  let hs := (dedup hs).filter fun h => (liveCrc s h).isSome
  askHays (hs.map fun h => hayRd 9 (slotAddr s h) (-1) (.slot tag h)) (updJob tag (fun j => { j with asking := true, slots := [] }) s)

/-- Every slot asked for has arrived. -/
def slotsHere (s : State) (tag : Tag) (hs : List Nat) : Bool :=
  let j := (tagOf s tag).job
  j.asking && hs.all fun h => (liveCrc s h).isNone || j.slots.any fun p => p.1 == h

/-- A command that goes on waiting reads its slots anew when it starts. -/
def dropSlots (tag : Tag) (s : State) : State := updJob tag (fun j => { j with asking := false, slots := [] }) s

/-- Cancel the references of stopped transfers that use a handle (R215, R330). -/
def cancelHandle (h : Nat) (s : State) : State := cancelRecs (fun e => e.uses (.handle h)) (outc .descInvalid (0x9000 + h) 0) s

/-! ### DCRE and DFREE -/

/-- Reject a DCRE (R212): its reply, ASY_DREJ and ASY_DLAST. -/
def rejectDcre (tag : Tag) (h : Nat) (st : Status) (reason : Nat) (s : State) : State :=
  let s := cnt 0x6044 1 (rset 0x6030 (BitVec.ofNat 32 (st.code * 65536 + reason * 4096 + h)) s)
  finish tag (outc st (4096 * reason + h) 0) s

/-- Checks 9 and 10 of R212. -/
def windowCheck (s : State) (x : Desc) : Option (Status × Nat) :=
  let w := windowOf s x.win
  if !w.fits x.hay x.xlate then some (.descInvalid, 6)
  else if x.footprint.all fun r => w.holds r.1 r.2 then none
  else some (.descRange, 0)

/-- Ask for the image of a DCRE: a memory line, or a Hayloft word of the control master (R212, R247). -/
def askImage (tag : Tag) (hay : Bool) (addr : Nat) (s : State) : State :=
  let s := updJob tag (fun j => { j with stage := 1 }) s
  if hay then askHay (hayRd 9 addr (-1) (.image tag)) s
  else askMem ⟨false, addr - addr % 128, 0, 0, .image tag⟩ s

/-- The image of a DCRE has arrived, ERROR and uncorrectable words noted (R212). -/
def imageArrived (tag : Tag) (img : BitVec 512) (err unc : Bool) (s : State) : State :=
  updJob tag (fun j => { j with stage := 2, imgs := [img], lim := if err then some (0, .rdErr) else none,
                                bad := if unc then some 0 else none }) s

/-- Check the image of a DCRE, and write it into its slot (R212). -/
def checkImage (tag : Tag) (h : Nat) (e : TagEntry) (s : State) : State :=
  let img := e.job.imgs.headD 0
  if e.job.lim.isSome then rejectDcre tag h .descInvalid 0xC s
  else if e.job.bad.isSome then rejectDcre tag h .eccUncorr 0 s
  else match (imgCheck img).or (windowCheck s (Desc.ofImage img)) with
    | some (st, r) => rejectDcre tag h st r s
    | none =>
      askHay (hayWr 9 (slotAddr s h) (-1) img (.store tag)) (updJob tag (fun j => { j with stage := 3, wrOut := j.wrOut + 1 }) s)

/-- The image of a DCRE is in its slot: the handle is live (R212). A word of the image that was corrected shows in the reply (R337;
log 85). -/
def endDcre (tag : Tag) (h : Nat) (e : TagEntry) (s : State) : State :=
  let s := cnt 0x6040 1 (cancelHandle h (setLive h (some (imgCrc (e.job.imgs.headD 0))) s))
  finish tag (if e.bits = 0 then outc .ok h 1 else ⟨.okInfo, e.bits, 1⟩) s

/-- DCRE of a started tag (R212): the handle must be free; the image is read, checked and stored. -/
def execDcre (tag : Tag) (s : State) : Host.Outcome State Fault Refusal :=
  match started s tag .dcre with
  | some e =>
    match e.cmd with
    | some (.dcre h hay addr) =>
      .next (if e.job.stage = 0 then
          (if (liveCrc s h).isSome then rejectDcre tag h .descInvalid 7 s else askImage tag hay addr s)
        else if e.job.stage = 1 then s
        else if e.job.stage = 2 then checkImage tag h e s
        else if e.job.wrOut = 0 then endDcre tag h e s
        else s)
    | _ => .next s
  | none => .next s

/-- DFREE of a started tag (R213). -/
def execDfree (tag : Tag) (s : State) : Host.Outcome State Fault Refusal :=
  match started s tag .dfree with
  | some e =>
    match e.cmd with
    | some (.dfree h) =>
      .next (if (liveCrc s h).isSome then finish tag (outc .ok 0 1) (cancelHandle h (setLive h none s))
        else finish tag (outc .ok 0 0) s)
    | _ => .next s
  | none => .next s

end Sys2Proof.Machine
end

