-- ==== Sys2Proof/Machine/Coopers.lean ====
section
/-! DEFINITION. What every transfer shares (R200-R204, R217-R224, R236-R241): the units of storage it asks for and receives, translated
pages, the rows of a load and their write beats, the units a store fills, stopping, and the checks before it starts. -/

namespace Sys2Proof.Machine

/-! ### Storage as a transfer sees it -/

/-- Where a transfer's bytes lie, and the bytes of one access: a line of memory, a Hayloft word, or a narrow access (R203, R219). -/
structure Side where
  hay : Bool
  xl : Bool
  unit : Nat
  deriving DecidableEq, Repr

/-- The side of a location. -/
def Side.of (hay xl narrow : Bool) : Side := ⟨hay, xl, if narrow then 16 else if hay then 64 else 128⟩

/-- The side of a descriptor image. -/
def sideOf (img : BitVec 512) (narrow : Bool) : Side :=
  Side.of (Desc.ofImage img).hay (Desc.ofImage img).xlate narrow

/-- The unit that holds an address. -/
def Side.base (d : Side) (a : Nat) : Nat := a / d.unit * d.unit

/-- The units that hold the addresses of a list. -/
def Side.units (d : Side) (addrs : List Nat) : List Nat := dedup (addrs.map d.base)

/-- The physical address of an address of a side (R217). -/
def physAddr (j : Job) (d : Side) (a : Nat) : Nat :=
  if d.xl then
    match j.xl.find? fun p => decide (p.va ≤ a) && decide (a < p.va + p.size) with
    | some p => p.pa + (a - p.va)
    | none => a
  else a

/-- The first address of a list whose page is not translated yet. -/
def needPage (j : Job) (d : Side) (addrs : List Nat) : Option Nat :=
  if d.xl then (d.units addrs).find? fun a => !j.xl.any fun p => decide (p.va ≤ a) && decide (a < p.va + p.size) else none

/-- The number of a command's engine, 0-3 CL0-CL3 and 4-7 CS0-CS3 (R242). -/
def Job.engine (j : Job) : Nat := j.stn.getD 6 - 6

/-! ### Translation queries -/

/-- Send the next query when none is being sent and an identifier is free (R26, R48, R49). -/
def pumpTrn (s : State) : State :=
  match s.asy.sending, s.asy.waiting with
  | none, q :: r =>
    match (List.range 16).find? fun i => (tget none s.asy.queries i).isNone with
    | some i =>
      let qs := tset none s.asy.queries i (some q)
      let s := { s with asy := { s.asy with queries := qs, waiting := r, sending := some i } }
      cnt 0x6048 1 { s with pin := { s.pin with
        qreq := !s.pin.qreq, qva := BitVec.ofNat 64 q.va, qid := BitVec.ofNat 4 i, qunit := BitVec.ofNat 4 q.unit, qwr := q.wr } }
    | none => s
  | _, _ => s

/-- Ask for the page of an address for step `n` of a command (R217): one page at a time. -/
def askPage (tag : Tag) (n a : Nat) (wr : Bool) (s : State) : State :=
  let j := (tagOf s tag).job
  if j.xlWait then s
  else
    let q : Query := ⟨.job tag, a, j.stn.getD 0, wr, false, false⟩
    let s := updJob tag (fun j => { j with xlWait := true, xlRow := n }) s
    pumpTrn { s with asy := { s.asy with waiting := s.asy.waiting ++ [q] } }

/-- The earlier of two stops. -/
def limMin (a : Option (Nat × Stop)) (n : Nat) (w : Stop) : Option (Nat × Stop) :=
  match a with
  | some (m, v) => if m ≤ n then some (m, v) else some (n, w)
  | none => some (n, w)

/-! ### Requests and their data -/

/-- Ask for one unit for step `n`. -/
def askUnit (tag : Tag) (d : Side) (n : Nat) (s : State) (u : Nat) : State :=
  let j := (tagOf s tag).job
  let p := physAddr j d u
  let s := if d.unit = 16 then cnt (0x504C + 0x10 * j.engine) 1 s else s
  if d.hay then askHay (hayRd j.engine (p - p % 64) (beRange (p % 64) (min d.unit 64)) (.unitFor tag n u)) s
  else askMem ⟨false, p - p % 128, 0, 0, .unitFor tag n u⟩ s

/-- Ask for the units of step `n` that the step before did not ask for (R203). -/
def request (tag : Tag) (d : Side) (n : Nat) (addrs : List Nat) (s : State) : State :=
  let j := (tagOf s tag).job
  let us := d.units addrs
  let new := us.filter fun u => !j.asked.contains u
  let s := new.foldl (askUnit tag d n) s
  updJob tag (fun j => { j with want := j.want ++ new.map (fun u => (n, u)), asked := us, reqRow := n + 1 }) s

/-- A unit has arrived: the access of `data` that holds it, with a bit of `bad` for each uncorrectable 64-bit word; `off` is the unit's
first byte in that access. -/
def unitArrived (tag : Tag) (n u off : Nat) (data : Nat) (bad : Nat) (s : State) : State :=
  let x : RxUnit := ⟨n, u, BitVec.ofNat 1024 (data / 2 ^ (8 * off)), bad / 2 ^ (off / 8)⟩
  updJob tag (fun j => { j with want := j.want.erase (n, u), units := j.units ++ [x] }) s

/-- A read was answered ERROR: the command stops before the step that asked (R240). -/
def unitFailed (tag : Tag) (n u : Nat) (s : State) : State :=
  updJob tag (fun j => { j with want := j.want.erase (n, u), lim := limMin j.lim n .rdErr }) s

/-- The latest copy of a unit that a step up to `n` asked for. -/
def unitAt (us : List RxUnit) (n u : Nat) : Option RxUnit :=
  us.foldl (fun (best : Option RxUnit) x =>
    if x.addr = u ∧ x.row ≤ n then
      match best with
      | some b => if b.row ≤ x.row then some x else some b
      | none => some x
    else best) none

/-- Everything that the steps up to `n` asked for has arrived. -/
def unitsReady (j : Job) (n : Nat) : Bool := decide (n < j.reqRow) && !j.want.any fun p => decide (p.1 ≤ n)

/-- The byte at an address, and whether its word is uncorrectable. -/
def byteIn (j : Job) (d : Side) (n a : Nat) : Byte × Bool :=
  match unitAt j.units n (d.base a) with
  | some x => (byteAt x.data (a - d.base a), x.bad.testBit ((a - d.base a) / 8))
  | none => (0, false)

/-- No request of a command is queued, and none is outstanding. -/
def TxUse.tagOf : TxUse → Option Tag
  | .unitFor t _ _ | .image t | .store t _ | .ctxWrite t | .dump t => some t
  | _ => none

/-- The tag a Hayloft access serves; the spill path keeps its own account of the beats it moves. -/
def HayUse.tagOf : HayUse → Option Tag
  | .unitFor t _ _ | .image t | .slot t _ | .store t | .ctxWrite t | .dump t | .raw t | .scrub (some t) => some t
  | .scrub none | .fetch _ | .racc .. | .spillRead .. | .spillWrite .. | .ingress _ => none

/-- A command still has a request or a query queued or outstanding. -/
def outstanding (s : State) (tag : Tag) : Bool :=
  (s.noc.tx.any fun p => match p.2 with | some o => o.use.tagOf == some tag | none => false)
  || (s.noc.outQ.any fun r => r.use.tagOf == some tag)
  || (s.hay.waiting.any fun a => a.use.tagOf == some tag)
  || (s.asy.queries.any fun p => match p.2 with | some q => decide (q.use = .job tag) && !q.timedOut | none => false)

/-- Withdraw the reads and queries of a command that have not been sent, and its writes too when `writes`. -/
def dropAsks (tag : Tag) (writes : Bool) (s : State) : State :=
  let mineM := fun (r : OutReq) => r.use.tagOf == some tag && (writes || !r.write)
  let mineH := fun (a : HayAcc) => a.use.tagOf == some tag && (writes || !a.write)
  let n := (s.noc.outQ.filter fun r => mineM r && r.write).length + (s.hay.waiting.filter fun a => mineH a && a.write).length
  let s := { s with
    noc := { s.noc with outQ := s.noc.outQ.filter fun r => !mineM r }
    hay := { s.hay with waiting := s.hay.waiting.filter fun a => !mineH a }
    asy := { s.asy with waiting := s.asy.waiting.filter fun q => decide (q.use ≠ .job tag) } }
  updJob tag (fun j => { j with wrOut := j.wrOut - n }) s

/-! ### Rows of a load -/

/-- The source of one row of a load: for each element of `w` bits the bit it begins at and the bytes that hold it, or none where it takes
`fill`; for each block the address of its scale; elements clamped and filled (R222); the step whose units hold the bytes. -/
structure RowSrc where
  w : Nat
  cells : List (Option (Nat × List Nat))
  fill : Nat
  scales : List (Option Nat)
  sfill : Nat
  clamps : Nat
  fills : Nat
  step : Nat
  deriving DecidableEq, Repr

/-- A row of zeros (R220). -/
def RowSrc.zero (n : Nat) : RowSrc := ⟨8, [], 0, [], 0, 0, 0, n⟩

/-- The addresses a row reads. -/
def RowSrc.addrs (r : RowSrc) : List Nat := (r.cells.filterMap fun c => c.map (·.2)).flatten ++ r.scales.filterMap id

/-- The dimensions of a descriptor. -/
def Desc.dims (x : Desc) : List Dim := [x.d0, x.d1, x.d2, x.d3]

/-- The local coordinates of an element, each clamped on its own (R223). -/
def Desc.clampPt (x : Desc) (g : List Int) : Option (List Nat) := allSome (List.zipWith Dim.clamp x.dims g)

/-- The local coordinates of an element that the shard owns (R206). -/
def Desc.locPt (x : Desc) (g : List Int) : Option (List Nat) := allSome (List.zipWith Dim.loc x.dims g)

/-- The bit and the bytes of the element at local coordinates (R207). -/
def Desc.cell (x : Desc) (l : List Nat) : Nat × List Nat :=
  let b := l.getD 0 0 * x.ty.bits
  (b % 8, (List.range (ceilDiv (b % 8 + x.ty.bits) 8)).map fun i => x.byteAddr (l.getD 1 0) (l.getD 2 0) (l.getD 3 0) (b / 8 + i))

/-- The scale address of the block that holds local coordinates (R208). -/
def Desc.scaleOf (x : Desc) (l : List Nat) : Nat := x.scaleAddr (l.getD 1 0) (l.getD 2 0) (l.getD 3 0) (l.getD 0 0 / 32)

/-- The row of a load whose element e has global coordinates `co e` (R219, R222-R224). -/
def Desc.srcRow (x : Desc) (n ne : Nat) (co : Nat → List Int) : RowSrc :=
  let pts := (List.range ne).map fun e => x.clampPt (co e)
  { w := x.ty.bits, cells := pts.map fun p => p.map x.cell, fill := x.fill % 2 ^ x.ty.bits
    scales := if x.ty.isMx then (List.range (ne / 32)).map fun k => (pts.getD (32 * k) none).map x.scaleOf else []
    sfill := x.fill / 2 ^ 24
    clamps := ((List.range ne).filter fun e => (x.clampPt (co e)).isSome && (x.locPt (co e)).isNone).length
    fills := (pts.filter (·.isNone)).length
    step := n }

/-- The value of a cell, and whether a word of it is uncorrectable. -/
def cellVal (j : Job) (d : Side) (r : RowSrc) (c : Option (Nat × List Nat)) : Nat × Bool :=
  match c with
  | none => (r.fill, false)
  | some (o, as) =>
    let bs := as.map (byteIn j d r.step)
    (ofBytes (bs.map (·.1)) / 2 ^ o % 2 ^ r.w, bs.any (·.2))

/-- The value of a scale. -/
def scaleVal (j : Job) (d : Side) (r : RowSrc) (c : Option Nat) : Nat × Bool :=
  match c with
  | none => (r.sfill, false)
  | some a => ((byteIn j d r.step a).1.toNat, (byteIn j d r.step a).2)

/-- A row of `rb` bytes as 64-bit words. -/
def rowWords (rb v : Nat) : List Word := (List.range (rb / 8)).map fun i => BitVec.ofNat 64 (v / 2 ^ (64 * i))

/-- Note the first uncorrectable element of a row against a command (R237): `w` bits to an element. -/
def noteBad (tag : Tag) (t row rb w : Nat) (bads : List Bool) (s : State) : State :=
  match findPos id bads with
  | some i => addUncorr tag t false ((row * rb + i * w / 8) / 128) s
  | none => s

/-- What a load writes: its rows from storage, the rows it writes, its tile and scale tile. -/
structure Load where
  side : Side
  rows : Nat
  total : Nat
  tile : Nat
  pair : Option Nat
  deriving DecidableEq, Repr

/-- Form the next row of a load from its units (R220-R222). -/
def formRow (tag : Tag) (v : Load) (r : RowSrc) (s : State) : State :=
  let j := (tagOf s tag).job
  let rb := (jobTile s tag v.tile).rowBytes
  let cs := r.cells.map (cellVal j v.side r)
  let sc := r.scales.map (scaleVal j v.side r)
  let s := noteBad tag v.tile j.row rb r.w (cs.map (·.2)) s
  let s := match v.pair with
    | some p => noteBad tag p j.row (jobTile s tag p).rowBytes 8 (sc.map (·.2)) s
    | none => s
  let s := if r.fills = 0 then s else addBits tag bOob (cnt 0x50C4 r.fills s)
  let s := if r.step = j.row then s else addBits tag bCoal (cnt 0x50CC 1 s)
  let s := cnt 0x50C0 r.clamps (cnt (0x5040 + 0x10 * j.engine) (r.cells.length * r.w / 8 + r.scales.length) s)
  let ws := rowWords rb (packElems r.w (cs.map (·.1)))
  let ws2 := match v.pair with
    | some p => rowWords (jobTile s tag p).rowBytes (packElems 8 (sc.map (·.1)))
    | none => []
  updJob tag (fun j => { j with row := j.row + 1, staged := j.staged ++ ws, staged2 := j.staged2 ++ ws2 }) s

/-! ### Write beats of a load -/

/-- A tile's group serves: no credit is spent on a beat of it while the group is not ON (R110). -/
def tileServes (s : State) (t : Nat) : Bool := (tileOf s t).spill || (groupOf s (tileOf s t).group).ready

/-- Send the next write beat of a destination (R110, R117): `words` begins at tile byte `at_`; bytes `lo` to `hi - 1` are to be written now, and
only a last beat may be short. -/
def sendBeat (tag : Tag) (second : Bool) (t at_ lo hi : Nat) (fin : Bool) (words : List Word) (s : State) : State :=
  let j := (tagOf s tag).job
  let n := j.stn.getD 6
  let k := if second then j.wIdx2 else j.wIdx
  if 256 * k < hi ∧ lo < hi ∧ (256 * (k + 1) ≤ hi ∨ fin) ∧ 0 < (stnOf s n).wHeld ∧ tileServes s t = true ∧ canCross s 57 = true then
    let ws := (List.range 32).map fun i => if 32 * k + i < at_ / 8 then (0 : Word) else words.getD (32 * k + i - at_ / 8) 0
    let data : Beat := BitVec.ofNat 2048 (ofWords ws)
    let s := askWrite n ⟨tag, t, k, beatMask lo hi k, data, beatChk data⟩ (crossIn 57 s)
    updJob tag (fun j => if second then { j with wIdx2 := k + 1 } else { j with wIdx := k + 1 }) s
  else s

/-- Every beat up to tile byte `hi` has been sent. -/
def beatsSent (idx lo hi : Nat) : Bool := decide (hi ≤ lo) || decide (hi ≤ 256 * idx)

/-- Send the beats of a load's tile and scale tile; `fin` when no further row follows. -/
def sendLoad (tag : Tag) (v : Load) (fin : Bool) (s : State) : State :=
  let j := (tagOf s tag).job
  let rb := (jobTile s tag v.tile).rowBytes
  let s := sendBeat tag false v.tile (j.landed * rb) (j.landed * rb) (j.row * rb) fin j.staged s
  match v.pair with
  | some p =>
    let rp := (jobTile s tag p).rowBytes
    sendBeat tag true p (j.landed * rp) (j.landed * rp) (j.row * rp) fin j.staged2 s
  | none => s

/-- Every row formed is in its banks (R238). -/
def loadLanded (s : State) (tag : Tag) (v : Load) : Bool :=
  let j := (tagOf s tag).job
  let rb := (jobTile s tag v.tile).rowBytes
  let ok := match v.pair with
    | some p =>
      let rp := (jobTile s tag p).rowBytes
      beatsSent j.wIdx2 (j.landed * rp) (j.row * rp)
    | none => true
  beatsSent j.wIdx (j.landed * rb) (j.row * rb) && ok && j.wrOut == 0

/-! ### Stopping and the step of a load -/

/-- Why a command is to stop at its present point (R326, R327). -/
def stopWhy (e : TagEntry) : Option Stop :=
  match e.stop, e.job.lim with
  | some .unplug, _ => some .unplug
  | st, some (k, w) => if k ≤ e.job.row then some w else st
  | st, none => st

/-- Note why a command stops. -/
def setStop (tag : Tag) (w : Stop) (s : State) : State := updTag tag (fun e => { e with stop := some w }) s

/-- Wake the groups of a transfer's tiles and note its tiles (R110). -/
def beginTiles (tag : Tag) (ts : List Nat) (s : State) : State :=
  let s := snapTiles tag ts s
  wakeGroups (dedup ((ts.filter fun t => !(tileOf s t).spill).map fun t => (tileOf s t).group)) s

/-- Stop a load (R239, R241): rows already formed are written whole; then the tile is PARTIAL and the command ends. -/
def loadStop (tag : Tag) (v : Load) (keep : Bool) (w : Stop) (s : State) : State :=
  let s := dropAsks tag false s
  if loadLanded s tag v && !outstanding s tag then
    let k := (tagOf s tag).job.row
    let s := markPartial v.tile k s
    let s := match v.pair with | some p => markPartial p k s | none => s
    let s := updJob tag (fun j => { j with staged := if keep then j.staged else [], units := [] }) s
    endStopped tag k (setStop tag w s)
  else sendLoad tag v true s

/-- One step of a load: ask for the next row, form the next row that has arrived, send a beat, complete (R203, R217, R220, R238). -/
def loadStep (tag : Tag) (v : Load) (src : Nat → RowSrc) (s : State) : State :=
  let e := tagOf s tag
  match (if e.job.row < v.total then stopWhy e else none) with
  | some w => loadStop tag v false w s
  | none =>
    let n := e.job.reqRow
    let s := if n < v.rows && e.job.lim.isNone then
        let r := src n
        let as := if r.step = n then r.addrs else []
        match needPage e.job v.side as with
        | some a => askPage tag n a false s
        | none => request tag v.side n as s
      else s
    let s := updJob tag (fun j => { j with issued := j.issued || decide (v.rows ≤ j.reqRow) }) s
    let j := (tagOf s tag).job
    let s := if v.rows ≤ j.row then (if j.row < v.total then formRow tag v (RowSrc.zero j.row) s else s)
      else if unitsReady j j.row then formRow tag v (src j.row) s else s
    let fin := decide (v.total ≤ (tagOf s tag).job.row)
    let s := sendLoad tag v fin s
    if fin && loadLanded s tag v && !outstanding s tag then finishWritten tag v.total s else s

/-- Begin a load at the row it was stopped at, or row 0. -/
def beginLoad (tag : Tag) (v : Load) (s : State) : State :=
  let s := beginTiles tag (v.tile :: v.pair.toList) s
  let rb := (jobTile s tag v.tile).rowBytes
  let rp := match v.pair with | some p => (jobTile s tag p).rowBytes | none => 0
  updJob tag (fun j => { j with stage := 1, reqRow := j.row, landed := j.row, wIdx := j.row * rb / 256, wIdx2 := j.row * rp / 256 }) s

/-! ### Units of a store -/

/-- Put one byte into the unit that a store will write; where an earlier row of the store put one, which stays is open (R227). -/
def mergeByte (tag : Tag) (d : Side) (row : Nat) (s : State) (x : Nat × Byte) : State :=
  let u := d.base x.1
  let i := x.1 - u
  match (tagOf s tag).job.pend.find? fun p => p.addr == u with
  | none =>
    updJob tag (fun j => { j with pend := j.pend ++ [⟨u, BitVec.ofNat 1024 (x.2.toNat * 2 ^ (8 * i)), 2 ^ i, row⟩] }) s
  | some p =>
    let (n, s) := if p.be.testBit i then pick s else (1, s)
    if n % 2 = 0 then s
    else
      let clr := p.data.toNat - (byteAt p.data i).toNat * 2 ^ (8 * i)
      let q : WrUnit := { p with data := BitVec.ofNat 1024 (clr + x.2.toNat * 2 ^ (8 * i)), be := p.be ||| 2 ^ i }
      updJob tag (fun j => { j with pend := j.pend.map fun y => if y.addr = u then q else y }) s

/-- The bytes of a unit that the Hayloft is to take: a byte written before is written again or not, which is open, unless the order is
fixed (R227, R228). -/
def takeBytes (tag : Tag) (ordered : Bool) (p : WrUnit) (s : State) : Nat × State :=
  (List.range 128).foldl (fun (acc : Nat × State) i =>
    if p.be.testBit i then
      let j := (tagOf acc.2 tag).job
      let seen := tget 0 j.wrote (p.addr + i) == 1 && !ordered
      let (n, s) := if seen then pick acc.2 else (1, acc.2)
      (acc.1 + (n % 2) * 2 ^ i, updJob tag (fun j => { j with wrote := tset 0 j.wrote (p.addr + i) 1 }) s)
    else acc) (0, s)

/-- Send one unit of a store (R203). -/
def sendUnit (tag : Tag) (d : Side) (ordered : Bool) (s : State) (p : WrUnit) : State :=
  let j := (tagOf s tag).job
  let a := physAddr j d p.addr
  let s := if d.unit = 16 then cnt (0x504C + 0x10 * j.engine) 1 s else s
  let s := updJob tag (fun j => { j with wrOut := j.wrOut + 1 }) s
  if d.hay then
    let (be, s) := takeBytes tag ordered p s
    let o := a % 64
    askHay (hayWr j.engine (a - o) (BitVec.ofNat 64 (be * 2 ^ o)) (BitVec.ofNat 512 (p.data.toNat * 2 ^ (8 * o))) (.store tag)) s
  else
    let o := a % 128
    askMem ⟨true, a - o, BitVec.ofNat 1024 (p.data.toNat * 2 ^ (8 * o)), BitVec.ofNat 128 (p.be * 2 ^ o), .store tag p.row⟩ s

/-- Send the pending units that are not in `keep`. -/
def flushUnits (tag : Tag) (d : Side) (ordered : Bool) (keep : List Nat) (s : State) : State :=
  let ps := (tagOf s tag).job.pend.filter fun p => !keep.contains p.addr
  let s := updJob tag (fun j => { j with pend := j.pend.filter fun p => keep.contains p.addr }) s
  ps.foldl (sendUnit tag d ordered) s

/-- Why a store of `total` steps is to stop at its present point, the first cause in the order of R327. -/
def storeWhy (e : TagEntry) (total : Nat) : Option Stop :=
  match (if e.job.row < total then stopWhy e else none), e.job.wErr with
  | some .unplug, _ => some .unplug
  | some (.xlate c), _ => some (.xlate c)
  | _, some _ => some .wrErr
  | w, none => w

/-- Stop a store (R239, R240): what was formed is written and every acknowledgement awaited. After a WRACK of ERROR for row `k` only units that
hold a byte of an earlier row are still written, and the store stops at `k` (log 86). -/
def storeStop (tag : Tag) (d : Side) (row : Nat) (w : Stop) (s : State) : State :=
  let s := dropAsks tag false s
  let k := ((tagOf s tag).job.wErr).getD row
  let s := match (tagOf s tag).job.wErr with
    | some k => updJob tag (fun j => { j with pend := j.pend.filter fun p => decide (p.row < k) }) s
    | none => s
  let s := flushUnits tag d false [] s
  if (tagOf s tag).job.wrOut = 0 ∧ outstanding s tag = false then
    endStopped tag k (setStop tag w (updJob tag (fun j => { j with staged := [] }) s))
  else s

/-- What one step of a store writes: the bytes of each row with their addresses, elements dropped, bytes moved, positions coalesced. -/
structure StepOut where
  rows : List (List (Nat × Byte))
  drops : Nat
  moved : Nat
  coal : Nat
  deriving DecidableEq, Repr

/-- Take the bytes of a row into the units to write: only consecutive rows share a unit (R203). -/
def putRow (tag : Tag) (d : Side) (ordered : Bool) (s : State) (bs : List (Nat × Byte)) : State :=
  bs.foldl (mergeByte tag d (tagOf s tag).job.row) (flushUnits tag d ordered (d.units (bs.map (·.1))) s)

/-- Take the rows of a step into the units to write (R203, R222). -/
def putStep (tag : Tag) (d : Side) (ordered : Bool) (o : StepOut) (s : State) : State :=
  let j := (tagOf s tag).job
  let s := o.rows.foldl (putRow tag d ordered) s
  let s := if o.drops = 0 then s else addBits tag bOob (cnt 0x50C8 o.drops s)
  let s := if o.coal = 0 then s else addBits tag bCoal (cnt 0x50CC o.coal s)
  let s := cnt (0x5040 + 0x10 * j.engine) o.moved s
  updJob tag (fun j => { j with row := j.row + 1 }) s

/-- Complete a store of `total` steps whose writes are all acknowledged, with its count (R238). -/
def storeDone (tag : Tag) (d : Side) (total count : Nat) (s : State) : State :=
  let j := (tagOf s tag).job
  if j.row < total then s
  else
    let s := updJob tag (fun j => { j with issued := true }) (flushUnits tag d false [] s)
    if (tagOf s tag).job.wrOut = 0 ∧ outstanding s tag = false then finishWritten tag count s else s

/-- One step of a store: form the next step once its data and pages are there; `mk` gives what it writes. -/
def storeStep (tag : Tag) (d : Side) (total count : Nat) (mk : Nat → State → Option (StepOut × State)) (s : State) : State :=
  let e := tagOf s tag
  match storeWhy e total with
  | some w => storeStop tag d e.job.row w s
  | none =>
    let s := if e.job.row < total then
        match mk e.job.row s with
        | none => s
        | some (o, s') =>
          match needPage e.job d (o.rows.flatten.map (·.1)) with
          | some a => askPage tag e.job.row a true s
          | none => putStep tag d false o s'
      else s
    storeDone tag d total count s

/-- The destinations of one row of a store: an address for each row byte and for each block's scale, none where it is dropped, and the
elements dropped (R207, R208, R222). -/
structure RowDst where
  bytes : List (Option Nat)
  scales : List (Option Nat)
  drops : Nat
  deriving DecidableEq, Repr

/-- The destination of a row whose element e has global coordinates `co e`. -/
def Desc.dstRow (x : Desc) (ne : Nat) (co : Nat → List Int) : RowDst :=
  let w := x.ty.bits
  let pts := (List.range ne).map fun e => x.locPt (co e)
  { bytes := (List.range (ne * w / 8)).map fun b =>
      let e := 8 * b / w
      (pts.getD e none).map fun l => x.byteAddr (l.getD 1 0) (l.getD 2 0) (l.getD 3 0) (l.getD 0 0 * w / 8 + b - e * w / 8)
    scales := if x.ty.isMx then (List.range (ne / 32)).map fun k => (pts.getD (32 * k) none).map x.scaleOf else []
    drops := (pts.filter (·.isNone)).length }

/-- Pair the addresses of a row with its bytes. -/
def pairBytes (addrs : List (Option Nat)) (v : Nat) : List (Nat × Byte) :=
  addrs.zipIdx.filterMap fun p => p.1.map fun a => (a, BitVec.ofNat 8 (v / 2 ^ (8 * p.2)))

/-- The bytes that a row's destination takes from the tile row and the scale row. -/
def RowDst.put (r : RowDst) (v sc : Nat) : List (Nat × Byte) := pairBytes r.bytes v ++ pairBytes r.scales sc

/-- The bytes of a row that are written: none of a dropped element (R222). -/
def RowDst.moved (r : RowDst) : Nat := (r.bytes.filterMap id).length + (r.scales.filterMap id).length

/-- What a row of a store writes. -/
def rowOut (r : RowDst) (v sc : Nat) : StepOut := ⟨[r.put v sc], r.drops, r.moved, 0⟩

/-- The bytes of a tile row and of its scale row, once they have arrived. -/
def tileRow (s : State) (tag : Tag) (t : Nat) (pair : Option Nat) (row n ns : Nat) : Option (Nat × Nat) :=
  let rx := (tagOf s tag).job.rx
  match rxBytes rx t (row * (jobTile s tag t).rowBytes) n with
  | none => none
  | some v => match pair with
    | none => some (v, 0)
    | some p => if ns = 0 then some (v, 0) else (rxBytes rx p (row * (jobTile s tag p).rowBytes) ns).map fun c => (v, c)

/-- Ask for the rows of a tile, and of its scale tile, that a store reads. -/
def askTile (tag : Tag) (n t : Nat) (pair : Option Nat) (lo hi : Nat) (s : State) : State :=
  let rb := (jobTile s tag t).rowBytes
  let s := askRead n tag t (lo * rb) (hi * rb) true s
  match pair with
  | some p => askRead n tag p (lo * (jobTile s tag p).rowBytes) (hi * (jobTile s tag p).rowBytes) true s
  | none => s

/-! ### Checks before a transfer starts -/

/-- The elements of a row and the rows of a FORM 1 transfer (R219). -/
def DescXfer.elems (x : DescXfer) : Nat := if x.trans then x.ext.getD 0 0 else x.e0

/-- Rows of the region (R219). -/
def DescXfer.rows (x : DescXfer) : Nat := if x.trans then x.e0 else x.ext.getD 0 0 * x.ext.getD 1 0 * x.ext.getD 2 0

/-- The global coordinates of element `e` of region row `n` (R219). -/
def DescXfer.coords (x : DescXfer) (n e : Nat) : List Int :=
  let g := fun d => x.start.getD d 0
  let st := fun d => (x.step.getD (d - 1) 0 : Int)
  if x.trans then [g 0 + n, g 1 + e * st 1, g 2, g 3]
  else
    let i1 := n % x.ext.getD 0 1
    let i2 := n / x.ext.getD 0 1 % x.ext.getD 1 1
    let i3 := n / (x.ext.getD 0 1 * x.ext.getD 1 1)
    [g 0 + (if x.bc0 then 0 else e : Nat), g 1 + i1 * st 1, g 2 + i2 * st 2, g 3 + i3 * st 3]

/-- A transfer with no rows or no bytes per row (R236). -/
def noRows (c : Command) : Bool :=
  match c with
  | .inline _ x => x.nr == 0
  | .desc _ x => x.e0 == 0 || (if x.trans then x.ext.getD 0 0 == 0 else x.rows == 0)
  | .gather _ x => x.nidx == 0 || x.e0 == 0
  | _ => false

/-- The handles a transfer uses, in the order of its body. -/
def handlesOf (c : Command) : List Nat :=
  match c with
  | .desc _ x => [x.handle]
  | .gather _ x => [x.handle, x.ihandle]
  | .tperm x => if x.tensor then [x.shandle, x.dhandle] else []
  | _ => []

/-- The tiles a transfer uses, with the class of their touch (R65, R204, R221). -/
def xferTiles (s : State) (c : Command) : List (Nat × TClass) :=
  match c with
  | .inline st x => [(x.tile, if st then .r else .w)]
  | .desc st x => withScales s [(x.tile, if st then .r else .w)]
  | .gather op x => withScales s [(x.tile, if op = .tgat then .w else .r)]
  | .tperm x => if x.tensor then [] else [(x.stile, .r), (x.dtile, .w)]
  | _ => []

/-- The NOWAIT bit of a transfer. -/
def xferNoWait (c : Command) : Bool :=
  match c with
  | .inline _ x => x.noWait | .desc _ x => x.noWait | .gather _ x => x.noWait | .tperm x => x.noWait | _ => false

/-- The dimension of the source that becomes dimension `d` of the destination (R233). -/
def permOf (perm d : Nat) : Nat := perm / 4 ^ d % 4

/-- Bytes of the local elements of a descriptor. -/
def Desc.localBytes (x : Desc) : Nat := x.d0.size * x.d1.extent * x.d2.extent * x.d3.extent * x.ty.bits / 8

/-- Base and size in bytes of the bounce area (R242). -/
def bounceArea (s : State) : Nat × Nat := (fld (rget s 0x5000) 5 0 * 65536, fld (rget s 0x5000) 12 8 * 65536)

/-- The footprints of two descriptors overlap (R234). -/
def descsOverlap (a b : Desc) : Bool :=
  a.hay == b.hay && a.xlate == b.xlate
  && a.footprint.any fun p => b.footprint.any fun q => decide (p.1 ≤ q.2) && decide (q.1 ≤ p.2)

/-- A TPERM that is to stage its source: BOUNCE, with overlapping footprints (R234). -/
def mustBounce (x : Perm) (imgs : List (BitVec 512)) : Bool :=
  x.tensor && x.bounce && descsOverlap (Desc.ofImage (imgs.getD 0 0)) (Desc.ofImage (imgs.getD 1 0))

/-- Check 3 of R236: the detail of LENGTH. -/
def lengthBad (s : State) (c : Command) (imgs : List (BitVec 512)) : Option Nat :=
  let d := Desc.ofImage (imgs.getD 0 0)
  match c with
  | .inline st x => if (tileOf s x.tile).rows < (if st then x.first else 0) + x.nr then some x.tile else none
  | .desc st x =>
    let t := tileOf s x.tile
    if t.rows < (if st then x.first else 0) + x.rows || decide (t.rowBytes < ceilDiv (x.elems * d.ty.bits) 8) then some x.tile else none
  | .gather op x =>
    let t := tileOf s x.tile
    if t.rows < (if op = .tgat then 0 else x.first) + x.nidx || decide (t.rowBytes < ceilDiv (x.e0 * d.ty.bits) 8) then some x.tile
    else if (Desc.ofImage (imgs.getD 1 0)).d0.size < x.ifirst + x.nidx then some (256 + x.tile) else none
  | .tperm x =>
    if mustBounce x imgs && decide ((bounceArea s).2 ≠ 0) && decide ((bounceArea s).2 < d.localBytes) then some 0 else none
  | _ => none

/-- Types that a transposition moves (R219, R232). -/
def EType.transOk (t : EType) : Bool := decide (t.code ≤ 6)

/-- Check 4 of R236: the detail of TYPE_MISMATCH. -/
def xferTypeBad (s : State) (c : Command) (imgs : List (BitVec 512)) : Option Nat :=
  let d := Desc.ofImage (imgs.getD 0 0)
  match c with
  | .desc _ x =>
    if (tileOf s x.tile).ty ≠ d.ty || (x.trans && !d.ty.transOk) || (d.ty.isMx && x.bc0) then some x.tile else none
  | .gather op x =>
    if (tileOf s x.tile).ty ≠ d.ty || (op == .tscta && d.ty != .fp32 && d.ty != .int32) then some x.tile
    else if (Desc.ofImage (imgs.getD 1 0)).ty ≠ .int32 then some (2048 + x.tile) else none
  | .tperm x =>
    if x.tensor then
      let t := d.ty
      if t.isMx || (Desc.ofImage (imgs.getD 1 0)).ty.isMx || ((t == .int4 || t == .mxE3m2 || t == .mxE2m3) && permOf x.perm 0 != 0) then some 0 else none
    else if !(tileOf s x.stile).ty.transOk then some x.stile
    else if (tileOf s x.dtile).ty ≠ (tileOf s x.stile).ty then some x.dtile else none
  | _ => none

/-- The alignment of R221. -/
def alignBad (t : EType) (start : Int) (e0 : Nat) : Bool :=
  let m := if t.isMx then 32 else if t == .int4 then 2 else 1
  start % m != 0 || e0 % m != 0

/-- The conditions of R233 on two descriptors and a permutation. -/
def permOk (perm : Nat) (a b : Desc) : Bool :=
  a.ndim == b.ndim && a.ty == b.ty
  && ((List.range 4).all fun d => if d ≤ a.ndim then decide (permOf perm d ≤ a.ndim) else permOf perm d == d)
  && (dedup ((List.range 4).map (permOf perm))).length == 4
  && (List.range 4).all fun d => (b.dim d).extent == (a.dim (permOf perm d)).extent

/-- Check 5 of R236: the lowest reason of SHAPE_MISMATCH, and the tile. -/
def xferShapeBad (s : State) (c : Command) (imgs : List (BitVec 512)) : Option (Nat × Nat) :=
  let d := Desc.ofImage (imgs.getD 0 0)
  let above := fun (start : List Int) => (List.range 4).any fun i => decide (d.ndim < i) && start.getD i 0 != 0
  match c with
  | .desc _ x =>
    let hi := fun (l : List Nat) (v : Nat) => (List.range 4).any fun i => decide (d.ndim < i) && l.getD (i - 1) 0 != v
    if alignBad d.ty (x.start.getD 0 0) x.e0 then some (8, x.tile)
    else if x.trans && (x.ext.getD 1 0 != 1 || x.ext.getD 2 0 != 1) then some (9, x.tile)
    else if above x.start || hi x.ext 1 || hi x.step 0 then some (14, x.tile) else none
  | .gather _ x =>
    if alignBad d.ty (x.start.getD 0 0) x.e0 then some (8, x.tile)
    else if (Desc.ofImage (imgs.getD 1 0)).ndim ≠ 0 ∨ d.ndim < x.gdim then some (10, x.tile)
    else if above x.start then some (14, x.tile) else none
  | .tperm x =>
    if x.tensor then (if permOk x.perm d (Desc.ofImage (imgs.getD 1 0)) then none else some (11, 0))
    else
      let a := tileOf s x.stile
      let b := tileOf s x.dtile
      if b.rows == a.elems && b.elems == a.rows && x.perm == 0 then none else some (11, x.dtile)
  | _ => none

/-- Check 6 of R236: the window of an inline transfer whose region begins at `base` (R204). -/
def inlineWindow (s : State) (x : Inline) (base : Nat) : Option Outc :=
  let w := windowOf s x.win
  if !w.fits x.hay false then some (outc .descInvalid (0x6000 + x.win) 0)
  else if w.holds base (base + (x.nr - 1) * x.stride + (tileOf s x.tile).rowBytes - 1) then none
  else some (outc .descRange x.win 0)

/-- Check 7 of R236. -/
def overlapBad (s : State) (c : Command) (imgs : List (BitVec 512)) : Option Outc :=
  match c with
  | .tperm x =>
    if x.tensor && descsOverlap (Desc.ofImage (imgs.getD 0 0)) (Desc.ofImage (imgs.getD 1 0)) then
      (if !x.bounce then some (outc .overlap x.dhandle 0)
       else if (bounceArea s).2 = 0 then some (outc .capacity 0 0) else none)
    else none
  | _ => none

/-- Checks 3 to 7 of R236 of a transfer whose inline region, if any, begins at `base`. -/
def xferChecks (s : State) (c : Command) (imgs : List (BitVec 512)) (base : Nat) : Option Outc :=
  match lengthBad s c imgs with
  | some d => some (outc .length d 0)
  | none =>
  match xferTypeBad s c imgs with
  | some d => some (outc .typeMismatch d 0)
  | none =>
  match xferShapeBad s c imgs with
  | some (r, t) => some (outc .shapeMismatch (4096 * r + t) 0)
  | none =>
  match (match c with | .inline _ x => inlineWindow s x base | _ => none) with
  | some o => some o
  | none => overlapBad s c imgs

end Sys2Proof.Machine
end

