-- ==== Sys2Proof/Machine/Transfers.lean ====
section
/-! DEFINITION. The transfers TLD, TST, TGAT, TSCT, TSCTA and TPERM (R200-R241). A transfer started by COMMAND_START carries its station, its
descriptor images and its inline base; each step here asks for a row, forms one, sends a beat or a unit, or ends the command. -/

namespace Sys2Proof.Machine

/-! ### TLD -/

/-- The scale tile that moves with a value tile through a descriptor (R221). -/
def pairOf (s : State) (t : Nat) : Option Nat := if (tileOf s t).ty.isMx then some (tileOf s t).pair else none

/-- The scale tile that a started command goes by. -/
def jobPair (s : State) (tag : Tag) (t : Nat) : Option Nat :=
  if (jobTile s tag t).ty.isMx then some (jobTile s tag t).pair else none

/-- The row `n` of an inline load: the bytes from BASE + n × STRIDE (R204). -/
def inlineSrc (base stride rb n : Nat) : RowSrc :=
  ⟨8, (List.range rb).map fun b => some (0, [base + n * stride + b]), 0, [], 0, 0, 0, n⟩

/-- What an inline load moves. -/
def inlineLoad (x : Inline) : Load := ⟨Side.of x.hay false false, x.nr, x.nr, x.tile, none⟩

/-- What a descriptor load moves: with ZPAD also the tile rows beyond the region (R220). -/
def descLoad (s : State) (x : DescXfer) (img : BitVec 512) (pair : Option Nat) : Load :=
  ⟨sideOf img x.trans, x.rows, if x.zpad then (tileOf s x.tile).rows else x.rows, x.tile, pair⟩

/-- TLD of a started tag (R204, R218-R224). -/
def execTld (tag : Tag) (s : State) : Host.Outcome State Fault Refusal :=
  match started s tag .tld with
  | some e =>
    match e.cmd with
    | some c =>
      if noRows c then .next (finishWritten tag 0 s)
      else match c with
        | .inline _ x =>
          if e.job.stage = 0 then .next (beginLoad tag (inlineLoad x) s)
          else .next (loadStep tag (inlineLoad x) (inlineSrc e.job.base x.stride (jobTile s tag x.tile).rowBytes) s)
        | .desc _ x =>
          let img := e.job.imgs.headD 0
          if e.job.stage = 0 then .next (beginLoad tag (descLoad s x img (pairOf s x.tile)) s)
          else
            .next (loadStep tag (descLoad s x img (jobPair s tag x.tile))
              (fun n => (Desc.ofImage img).srcRow n x.elems (x.coords n)) s)
        | _ => .next s
    | none => .next s
  | none => .next s

/-! ### TST -/

/-- Row `n` of an inline store. -/
def inlineDst (base stride rb n : Nat) : RowDst := ⟨(List.range rb).map fun b => some (base + n * stride + b), [], 0⟩

/-- Begin a store of tile rows `lo` to `hi - 1`. -/
def beginStore (tag : Tag) (t : Nat) (pair : Option Nat) (lo hi : Nat) (s : State) : State :=
  let s := beginTiles tag (t :: pair.toList) s
  let s := updJob tag (fun j => { j with stage := 1, reqRow := j.row, landed := j.row }) s
  askTile tag ((tagOf s tag).job.stn.getD 0) t pair lo hi s

/-- What row `n` of a TST writes, once its bytes have arrived. -/
def storeRow (tag : Tag) (t : Nat) (pair : Option Nat) (first : Nat) (dst : Nat → RowDst) (n : Nat) (s : State) :
    Option (StepOut × State) :=
  let r := dst n
  (tileRow s tag t pair (first + n) r.bytes.length r.scales.length).map fun p => (rowOut r p.1 p.2, s)

/-- TST of a started tag (R204, R218-R222). -/
def execTst (tag : Tag) (s : State) : Host.Outcome State Fault Refusal :=
  match started s tag .tst with
  | some e =>
    match e.cmd with
    | some c =>
      if noRows c then .next (finish tag (outc .ok 0 0) s)
      else match c with
        | .inline _ x =>
          if e.job.stage = 0 then .next (beginStore tag x.tile none (x.first + e.job.row) (x.first + x.nr) s)
          else
            let dst := inlineDst e.job.base x.stride (jobTile s tag x.tile).rowBytes
            .next (storeStep tag (Side.of x.hay false false) x.nr x.nr (storeRow tag x.tile none x.first dst) s)
        | .desc _ x =>
          let img := e.job.imgs.headD 0
          if e.job.stage = 0 then .next (beginStore tag x.tile (pairOf s x.tile) (x.first + e.job.row) (x.first + x.rows) s)
          else
            let dst := fun n => (Desc.ofImage img).dstRow x.elems (x.coords n)
            .next (storeStep tag (sideOf img x.trans) x.rows x.rows (storeRow tag x.tile (jobPair s tag x.tile) x.first dst) s)
        | _ => .next s
    | none => .next s
  | none => .next s

/-! ### Indices -/

/-- The bytes of index position `n` (R225). -/
def idxAddrs (x : Desc) (n : Nat) : List Nat := (List.range 4).map fun i => x.byteAddr 0 0 0 (4 * n + i)

/-- Read the indices ahead of the rows (R225): positions `k` and up. Once they are here, the data's units start afresh. -/
def indexStep (tag : Tag) (x : Gather) (k rb : Nat) (s : State) : State :=
  let j := (tagOf s tag).job
  let img := j.imgs.getD 1 0
  let d := sideOf img false
  let pos := (List.range (x.nidx - k)).map (· + k)
  let addrs := (pos.map fun n => idxAddrs (Desc.ofImage img) (x.ifirst + n)).flatten
  if j.reqRow ≤ j.row then
    match needPage j d addrs with
    | some a => askPage tag j.row a false s
    | none => request tag d j.row addrs s
  else if unitsReady j j.row then
    let vals := pos.map fun n => (idxAddrs (Desc.ofImage img) (x.ifirst + n)).map (byteIn j d j.row)
    let s := match findPos (fun v => v.any (·.2)) vals with
      | some i => addUncorr tag x.tile false (((if x.first = 0 then 0 else x.first) + k + i) * rb / 128) s
      | none => s
    let ix := vals.map fun v => signed 32 (ofBytes (v.map (·.1)))
    updJob tag (fun j => { j with stage := 2, idx := ix, units := [], asked := [], reqRow := j.row }) s
  else s

/-- The local coordinate of the dimension that index position `n` addresses, none where it is out of bounds (R225); `k` is the first
position read. -/
def idxLoc (x : Gather) (d : Desc) (j : Job) (k n : Nat) : Option Nat := (d.dim x.gdim).loc (j.idx.getD (n - k) (-1))

/-- The first position of `n`'s window, at or after `k`, that carries the same index (R230). -/
def repOf (j : Job) (k n : Nat) : Nat :=
  let lo := max k (n / 64 * 64)
  ((List.range (n - lo)).map (· + lo)).find? (fun m => j.idx.getD (m - k) 0 == j.idx.getD (n - k) 0) |>.getD n

/-- The global coordinates of element `e` of index position `n` (R225). -/
def gatherCoords (x : Gather) (j : Job) (k n e : Nat) : List Int :=
  (List.range 4).map fun i =>
    if i = x.gdim then j.idx.getD (n - k) (-1) else if i = 0 then x.start.getD 0 0 + e else x.start.getD i 0

/-! ### TGAT -/

/-- The row of index position `n` of a TGAT (R226, R230). -/
def gatherSrc (x : Gather) (d : Desc) (j : Job) (n : Nat) : RowSrc :=
  let k := j.landed
  match idxLoc x d j k n with
  | none =>
    { w := d.ty.bits, cells := List.replicate x.e0 none, fill := d.fill % 2 ^ d.ty.bits
      scales := if d.ty.isMx then List.replicate (x.e0 / 32) none else []
      sfill := d.fill / 2 ^ 24, clamps := 0, fills := x.e0, step := n }
  | some _ => { d.srcRow n x.e0 (gatherCoords x j k n) with step := repOf j k n }

/-- TGAT of a started tag (R225, R226, R230). -/
def execTgat (tag : Tag) (s : State) : Host.Outcome State Fault Refusal :=
  match started s tag .tgat with
  | some e =>
    match e.cmd with
    | some (.gather _ x) =>
      if x.nidx = 0 ∨ x.e0 = 0 then .next (finishWritten tag 0 s)
      else
        let img := e.job.imgs.headD 0
        let v := fun (p : Option Nat) =>
          (⟨sideOf img false, x.nidx, if x.zpad then (tileOf s x.tile).rows else x.nidx, x.tile, p⟩ : Load)
        if e.job.stage = 0 then .next (beginLoad tag (v (pairOf s x.tile)) s)
        else
          let w := v (jobPair s tag x.tile)
          if e.job.stage = 1 ∧ e.job.row < x.nidx then
            match stopWhy e with
            | some why => .next (loadStop tag w false why s)
            | none => .next (indexStep tag x e.job.row (jobTile s tag x.tile).rowBytes s)
          else .next (loadStep tag w (gatherSrc x (Desc.ofImage img) e.job) s)
    | _ => .next s
  | none => .next s

/-! ### TSCT and TSCTA -/

/-- Windows of a scatter (R230). -/
def scatWindows (x : Gather) : Nat := ceilDiv x.nidx 64

/-- The positions of window `w`. -/
def windowPos (x : Gather) (w : Nat) : List Nat := (List.range (min 64 (x.nidx - 64 * w))).map (· + 64 * w)

/-- Positions of a window that carry the index of position `n`. -/
def sameIdx (x : Gather) (j : Job) (k n : Nat) : List Nat :=
  (windowPos x (n / 64)).filter fun m => j.idx.getD (m - k) 0 == j.idx.getD (n - k) 0

/-- The positions of a window served with a write of their own: the first of each in-bounds index (R230). -/
def leaders (x : Gather) (d : Desc) (j : Job) (k w : Nat) : List Nat :=
  (windowPos x w).filter fun n => (idxLoc x d j k n).isSome && (sameIdx x j k n).head? == some n

/-- The destination of index position `n`; nothing where it is out of bounds (R227). -/
def scatDst (x : Gather) (d : Desc) (j : Job) (k n : Nat) : RowDst :=
  match idxLoc x d j k n with
  | none => ⟨[], [], x.e0⟩
  | some _ => d.dstRow x.e0 (gatherCoords x j k n)

/-- The tile rows of a window, once they have all arrived. -/
def windowRows (s : State) (tag : Tag) (x : Gather) (d : Desc) (pair : Option Nat) (w : Nat) : Option (List (Nat × Nat)) :=
  allSome ((windowPos x w).map fun n =>
    tileRow s tag x.tile pair (x.first + n) (x.e0 * d.ty.bits / 8) (if d.ty.isMx then x.e0 / 32 else 0))

/-- Elements dropped, bytes moved and positions coalesced in a window. -/
def windowCounts (x : Gather) (d : Desc) (j : Job) (k w : Nat) : Nat × Nat × Nat :=
  let ps := windowPos x w
  let ls := leaders x d j k w
  let inb := ps.filter fun n => (idxLoc x d j k n).isSome
  ((ps.map fun n => (scatDst x d j k n).drops).sum,
   (ls.map fun n => (scatDst x d j k n).moved).sum, inb.length - ls.length)

/-- What a window of a TSCT writes (R227, R230): of the rows with one index, one row, chosen freely. -/
def scatWindow (tag : Tag) (x : Gather) (d : Desc) (pair : Option Nat) (k w : Nat) (s : State) : Option (StepOut × State) :=
  match windowRows s tag x d pair w with
  | none => none
  | some rows =>
    let j := (tagOf s tag).job
    let (bs, s) := (leaders x d j k w).foldl (fun (acc : List (List (Nat × Byte)) × State) n =>
      let (m, _, s) := takePick (sameIdx x j k n) acc.2
      let r := rows.getD (m - 64 * w) (0, 0)
      (acc.1 ++ [(scatDst x d j k n).put r.1 r.2], s)) ([], s)
    let c := windowCounts x d j k w
    some (⟨bs, c.1, c.2.1, c.2.2⟩, s)

/-- Begin a scatter: its windows resume at the one where it stopped. -/
def beginScatter (tag : Tag) (x : Gather) (row : Nat) (s : State) : State :=
  beginStore tag x.tile (pairOf s x.tile) (x.first + 64 * row) (x.first + x.nidx) s

/-- TSCT of a started tag (R225, R227, R230). -/
def execTsct (tag : Tag) (s : State) : Host.Outcome State Fault Refusal :=
  match started s tag .tsct with
  | some e =>
    match e.cmd with
    | some (.gather _ x) =>
      if x.nidx = 0 ∨ x.e0 = 0 then .next (finish tag (outc .ok 0 0) s)
      else if e.job.stage = 0 then .next (beginScatter tag x e.job.row s)
      else
        let img := e.job.imgs.headD 0
        let k := 64 * e.job.landed
        let d := sideOf img false
        if e.job.stage = 1 then
          match stopWhy e with
          | some why => .next (storeStop tag d e.job.row why s)
          | none => .next (indexStep tag x k (jobTile s tag x.tile).rowBytes s)
        else
          .next (storeStep tag d (scatWindows x) x.nidx (scatWindow tag x (Desc.ofImage img) (jobPair s tag x.tile) k) s)
    | _ => .next s
  | none => .next s

/-- The sum of one element over the rows that carry an index: FP32 in an open order, INT32 modulo 2³² (R228, R230). -/
def sumElem (t : EType) (xs : List (BitVec 32)) (s : State) : BitVec 32 × State :=
  if t = .fp32 then sumFree xs.length xs s else (xs.foldl (· + ·) 0, s)

/-- Add one element into the stored bytes at its addresses; whether the result is not finite. -/
def addElem (t : EType) (d : Side) (j : Job) (w : Nat) (img : Tbl Byte) (as : List Nat) (v : BitVec 32) : Tbl Byte × Bool :=
  let old := BitVec.ofNat 32 (ofBytes (as.map fun a => tget (byteIn j d w a).1 img a))
  let new := if t = .fp32 then fadd old v else old + v
  (as.zipIdx.foldl (fun m p => tput p.1 (byteAt new p.2) m) img, t == .fp32 && isNonfin new)

/-- Add the rows of one index of a window into the stored bytes (R228). -/
def addRows (tag : Tag) (x : Gather) (d : Desc) (k w : Nat) (rows : List (Nat × Nat)) (acc : Tbl Byte × Nat × State) (n : Nat) :
    Tbl Byte × Nat × State :=
  let j := (tagOf acc.2.2 tag).job
  let side := sideOf (j.imgs.headD 0) false
  let dst := (scatDst x d j k n).bytes
  let ms := sameIdx x j k n
  (List.range x.e0).foldl (fun (acc : Tbl Byte × Nat × State) e =>
    match allSome ((dst.drop (4 * e)).take 4) with
    | none => acc
    | some as =>
      let (v, s) := sumElem d.ty (ms.map fun m => BitVec.ofNat 32 (elemOf 32 (rows.getD (m - 64 * w) (0, 0)).1 e)) acc.2.2
      let (img, nf) := addElem d.ty side j w acc.1 as v
      (img, acc.2.1 + b2n nf, s)) acc

/-- What a window of a TSCTA writes (R228, R230), once its rows and its lines are here. -/
def addWindow (tag : Tag) (x : Gather) (d : Desc) (k w : Nat) (s : State) : Option (StepOut × State) :=
  let j := (tagOf s tag).job
  match windowRows s tag x d none w with
  | none => none
  | some rows =>
    let side := sideOf (j.imgs.headD 0) false
    let ls := leaders x d j k w
    let rowsOf := ls.map fun n => (scatDst x d j k n).bytes.filterMap id
    let s := match findPos (fun n => ((scatDst x d j k n).bytes.filterMap id).any fun a => (byteIn j side w a).2) ls with
      | some i => addUncorr tag x.tile false ((x.first + ls.getD i 0) * (jobTile s tag x.tile).rowBytes / 128) s
      | none => s
    let (img, nf, s) := ls.foldl (addRows tag x d k w rows) ([], 0, s)
    let s := if nf = 0 then s else addBits tag bNonfin (cnt 0x50D0 nf s)
    let c := windowCounts x d j k w
    let out := rowsOf.zipIdx.map fun p =>
      (dedup p.1).filterMap fun a =>
        if (rowsOf.take p.2).any (·.contains a) then none else (img.find? fun q => q.1 == a)
    some (⟨out, c.1, c.2.1, c.2.2⟩, s)

/-- One window at a time (R228): the next is read only when every write of the one before is acknowledged. -/
def scatAddStep (tag : Tag) (x : Gather) (s : State) : State :=
  let e := tagOf s tag
  let j := e.job
  let img := j.imgs.headD 0
  let d := Desc.ofImage img
  let side := sideOf img false
  let k := 64 * j.landed
  let total := scatWindows x
  match storeWhy e total with
  | some w => storeStop tag side j.row w s
  | none =>
    let s := if total ≤ j.row then s
      else if j.reqRow ≤ j.row then
        (if j.wrOut ≠ 0 ∨ outstanding s tag = true then s
         else
          let addrs := ((leaders x d j k j.row).map fun n => (scatDst x d j k n).bytes.filterMap id).flatten
          match needPage j side addrs with
          | some a => askPage tag j.row a true s
          | none => request tag side j.row addrs (updJob tag (fun j => { j with asked := [] }) s))
      else if !unitsReady j j.row then s
      else match addWindow tag x d k j.row s with
        | none => s
        | some (o, s) => flushUnits tag side true [] (putStep tag side true o s)
    storeDone tag side total x.nidx s

/-- TSCTA of a started tag (R225, R228, R230). -/
def execTscta (tag : Tag) (s : State) : Host.Outcome State Fault Refusal :=
  match started s tag .tscta with
  | some e =>
    match e.cmd with
    | some (.gather _ x) =>
      if x.nidx = 0 ∨ x.e0 = 0 then .next (finish tag (outc .ok 0 0) s)
      else if e.job.stage = 0 then .next (beginScatter tag x e.job.row s)
      else if e.job.stage = 1 then
        match stopWhy e with
        | some why => .next (storeStop tag (sideOf (e.job.imgs.headD 0) false) e.job.row why s)
        | none => .next (indexStep tag x (64 * e.job.landed) (jobTile s tag x.tile).rowBytes s)
      else .next (scatAddStep tag x s)
    | _ => .next s
  | none => .next s

/-! ### TPERM, KIND 0 -/

/-- The transposed image of a tile (R232). -/
def transposed (src : Tile) (v : Nat) : Nat :=
  let w := src.ty.bits
  packElems w ((List.range src.elems).map fun i => (List.range src.rows).map fun j => elemOf w v (j * src.elems + i)).flatten

/-- Begin a tile transposition: its source is read whole, unless a transposition in place was stopped with its source kept (R232, R239). -/
def beginTrans (tag : Tag) (x : Perm) (s : State) : State :=
  let s := beginTiles tag [x.stile, x.dtile] s
  let d := jobTile s tag x.dtile
  let kept := !(tagOf s tag).job.staged.isEmpty
  let s := updJob tag (fun j => { j with
    stage := if kept then 2 else 1, landed := j.row, wIdx := j.row * d.rowBytes / 256, issued := true }) s
  if kept then s else askRead ((tagOf s tag).job.stn.getD 0) tag x.stile 0 (jobTile s tag x.stile).size true s

/-- The load that a tile transposition makes of its destination. -/
def transLoad (s : State) (tag : Tag) (x : Perm) : Load :=
  ⟨Side.of true false true, 0, (jobTile s tag x.dtile).rows, x.dtile, none⟩

/-- Stop a tile transposition; one in place goes on as if its tile were not PARTIAL (R96, R241; log 34). -/
def transStop (tag : Tag) (x : Perm) (w : Stop) (s : State) : State :=
  let j := (tagOf s tag).job
  let rb := (jobTile s tag x.dtile).rowBytes
  if beatsSent j.wIdx (j.landed * rb) (j.row * rb) && j.wrOut == 0 then
    let s := markPartial x.dtile j.row s
    let own := decide (x.stile = x.dtile)
    let s := updJob tag (fun j => { j with staged := if own then j.staged else [], bounced := own }) s
    endStopped tag j.row (setStop tag w s)
  else sendBeat tag false x.dtile 0 (j.landed * rb) (j.row * rb) true j.staged s

/-- One step of a tile transposition: every source byte is read before the first row is written (R232). -/
def transStep (tag : Tag) (x : Perm) (s : State) : State :=
  let e := tagOf s tag
  let j := e.job
  let src := jobTile s tag x.stile
  let dst := jobTile s tag x.dtile
  match (if j.row < dst.rows then stopWhy e else none) with
  | some w => transStop tag x w s
  | none =>
    if j.stage = 1 then
      match rxBytes j.rx x.stile 0 src.size with
      | none => s
      | some v => updJob tag (fun j => { j with stage := 2, staged := rowWords dst.size (transposed src v), rx := [] }) s
    else
      let s := if j.row < dst.rows then
          cnt (0x5040 + 0x10 * j.engine) dst.rowBytes (updJob tag (fun j => { j with row := j.row + 1 }) s)
        else s
      let j := (tagOf s tag).job
      let rb := dst.rowBytes
      let fin := decide (dst.rows ≤ j.row)
      let s := sendBeat tag false x.dtile 0 (j.landed * rb) (j.row * rb) fin j.staged s
      let j := (tagOf s tag).job
      if fin && beatsSent j.wIdx (j.landed * rb) (j.row * rb) && j.wrOut == 0 then finishWritten tag dst.rows s else s

/-! ### TPERM, KIND 1 -/

/-- Local coordinates of destination row `n` (R233). -/
def rowLocal (b : Desc) (n : Nat) : List Nat :=
  [n % b.d1.extent, n / b.d1.extent % b.d2.extent, n / (b.d1.extent * b.d2.extent)]

/-- Rows of the destination. -/
def permRows (b : Desc) : Nat := if b.d0.size = 0 then 0 else b.d1.extent * b.d2.extent * b.d3.extent

/-- The source address of byte `i` of destination row `n` (R233). -/
def permSrc (perm : Nat) (a b : Desc) (n i : Nat) : Nat :=
  let w := a.ty.bits
  let e := 8 * i / w
  let l := e :: rowLocal b n
  let c := fun (k : Nat) => match (List.range 4).find? fun d => permOf perm d == k with | some d => l.getD d 0 | none => 0
  a.byteAddr (c 1) (c 2) (c 3) (c 0 * w / 8 + i - e * w / 8)

/-- The destination address of byte `i` of row `n`. -/
def permDst (b : Desc) (n i : Nat) : Nat :=
  let l := rowLocal b n
  b.byteAddr (l.getD 0 0) (l.getD 1 0) (l.getD 2 0) i

/-- The two sides of a phase of a permuting copy, and the addresses of byte `i` of row `n`: without staging, source to destination;
staging, source to bounce area; writing, bounce area to destination (R234). -/
def permPlan (s : State) (x : Perm) (j : Job) : Side × Side × (Nat → Nat → Nat) × (Nat → Nat → Nat) :=
  let ia := j.imgs.getD 0 0
  let ib := j.imgs.getD 1 0
  let a := Desc.ofImage ia
  let b := Desc.ofImage ib
  let narrow := permOf x.perm 0 != 0
  let area := fun (n i : Nat) => (bounceArea s).1 + n * b.rowBytes + i
  let hay := Side.of true false narrow
  let src := permSrc x.perm a b
  let dst := permDst b
  if j.stage = 2 then (sideOf ia narrow, hay, src, area)
  else if j.stage = 3 then (hay, sideOf ib narrow, area, dst)
  else (sideOf ia narrow, sideOf ib narrow, src, dst)

/-- The units of a phase start afresh. -/
def permPhase (tag : Tag) (stage : Nat) (s : State) : State :=
  updJob tag (fun j => { j with stage := stage, reqRow := j.row, landed := j.row, units := [], asked := [], wrote := [] }) s

/-- Begin a permuting copy: to be staged, being written from the bounce area it holds, or direct (R234, R241). -/
def beginPerm (tag : Tag) (x : Perm) (s : State) : State :=
  let j := (tagOf s tag).job
  if mustBounce x j.imgs then
    let s := { s with tly := { s.tly with bounceHeld := some tag } }
    permPhase tag (if j.bounced then 3 else 2) s
  else permPhase tag 1 s

/-- Stop a permuting copy: while staging it has written nothing and gives the area up; while writing it holds the area (R235, R240). -/
def permStop (tag : Tag) (d : Side) (w : Stop) (s : State) : State :=
  if (tagOf s tag).job.stage = 2 then
    let s := dropAsks tag false s
    if (tagOf s tag).job.wrOut = 0 ∧ outstanding s tag = false then
      let s := { s with tly := { s.tly with bounceHeld := none } }
      endStopped tag 0 (setStop tag w (updJob tag (fun j => { j with staged := [], pend := [] }) s))
    else s
  else storeStop tag d (tagOf s tag).job.row w s

/-- Form row `n` of a permuting copy from its units (R233). -/
def permRow (tag : Tag) (x : Perm) (n : Nat) (s : State) : Option (StepOut × State) :=
  let j := (tagOf s tag).job
  if !unitsReady j n then none
  else
    let (sd, _, src, dst) := permPlan s x j
    let rb := (Desc.ofImage (j.imgs.getD 1 0)).rowBytes
    let bs := (List.range rb).map fun i => byteIn j sd n (src n i)
    let s := if bs.any (·.2) then addUncorr tag 0 false 0 s else s
    some (⟨[bs.zipIdx.map fun p => (dst n p.2, p.1.1)], 0, if j.stage = 2 then 0 else rb, 0⟩, s)

/-- Ask for the units of a permuting copy's next row (R203, R217). -/
def permAsk (tag : Tag) (x : Perm) (s : State) : State :=
  let j := (tagOf s tag).job
  let b := Desc.ofImage (j.imgs.getD 1 0)
  let (sd, _, src, _) := permPlan s x j
  if j.reqRow < permRows b && j.lim.isNone then
    let as := (List.range b.rowBytes).map (src j.reqRow)
    match needPage j sd as with
    | some a => askPage tag j.reqRow a false s
    | none => request tag sd j.reqRow as s
  else s

/-- Put one row of the source into the bounce area, and begin writing once it holds every row (R234). -/
def permStage (tag : Tag) (x : Perm) (row : Nat) (d : Side) (total : Nat) (s : State) : State :=
  let s := if row < total then (match permRow tag x row s with | some (o, s) => putStep tag d false o s | none => s)
    else flushUnits tag d true [] s
  let j := (tagOf s tag).job
  if total ≤ j.row ∧ j.pend = [] ∧ j.wrOut = 0 ∧ outstanding s tag = false then
    permPhase tag 3 (updJob tag (fun j => { j with row := 0, bounced := true }) s)
  else s

/-- One step of a permuting copy: ask for the next row, form one, and at the end of staging begin writing. -/
def permStep (tag : Tag) (x : Perm) (s : State) : State :=
  let e := tagOf s tag
  let j := e.job
  let total := permRows (Desc.ofImage (j.imgs.getD 1 0))
  let dd := (permPlan s x j).2.1
  match storeWhy e (if j.stage = 2 then total + j.row + 1 else total) with
  | some w => permStop tag dd w s
  | none =>
    if j.stage = 2 then permStage tag x j.row dd total (permAsk tag x s)
    else storeStep tag dd total total (permRow tag x) (permAsk tag x s)

/-- TPERM of a started tag (R231-R235). -/
def execTperm (tag : Tag) (s : State) : Host.Outcome State Fault Refusal :=
  match started s tag .tperm with
  | some e =>
    match e.cmd with
    | some (.tperm x) =>
      .next (if x.tensor then (if e.job.stage = 0 then beginPerm tag x s else permStep tag x s)
        else if e.job.stage = 0 then beginTrans tag x s else transStep tag x s)
    | _ => .next s
  | none => .next s

end Sys2Proof.Machine
end

