-- ==== Sys2Proof/Machine/Contexts.lean ====
section
/-! DEFINITION. Tenant contexts (R281-R293): the entry's fields, resident rows with their references, the miss path, and the commands CTXSET,
CTXGET, CTXPIN and CTXEVICT. A row is known by its logical number: a change of the repair map copies its contents (R360). -/

namespace Sys2Proof.Machine

/-! ### The entry -/

/-- Fields of an entry (R281). -/
def ctxABase (e : BitVec 128) : Nat := fld e 47 0
def ctxEScale (e : BitVec 128) : Nat := fld e 71 56
def ctxBOff (e : BitVec 128) : Nat := fld e 86 72
def ctxBSlot (e : BitVec 128) : Nat := fld e 89 87
def ctxBValid (e : BitVec 128) : Bool := bit e 90
def ctxAHint (e : BitVec 128) : Nat := fld e 96 91
def ctxHValid (e : BitVec 128) : Bool := bit e 97
def ctxValid (e : BitVec 128) : Bool := bit e 112
def ctxSuspend (e : BitVec 128) : Bool := bit e 113

/-! ### Resident rows -/

/-- The row of a resident context: its number and contents. -/
def residentRow (s : State) (c : Nat) : Option (Nat × CtxRow) :=
  s.hab.rows.findSome? fun p => match p.2 with
    | some r => if r.ctx = c then some (p.1, r) else none
    | none => none

/-- The entry of a resident context. -/
def residentEntry (s : State) (c : Nat) : Option (BitVec 128) := (residentRow s c).map (·.2.entry)

/-- Set or free a logical row. -/
def setRow (l : Nat) (r : Option CtxRow) (s : State) : State :=
  { s with hab := { s.hab with rows := tset none s.hab.rows l r } }

/-- Commands that hold a reference to a context (R286). -/
def refCount (s : State) (c : Nat) : Nat := (s.tly.tags.filter fun p => p.2.refs.contains c).length

/-- A logical row that a fetch may take (R287): no fetch has taken it, and it is free, or unpinned with no reference. -/
def victimOk (s : State) (l : Nat) : Bool :=
  !(s.hab.fetches.any fun f => f.row == l)
  && match tget none s.hab.rows l with
    | none => true
    | some r => !r.pin && refCount s r.ctx == 0

/-- HAB_BT base (R285). -/
def btBase (s : State) : Nat := (rget s 0xA000).toNat + 2 ^ 32 * (rget s 0xA004).toNat

/-- HAB_BTCTL.EN and LOC. -/
def btEnabled (s : State) : Bool := bit (rget s 0xA008) 0
def btHay (s : State) : Bool := bit (rget s 0xA008) 1

/-- The address of an entry in the backing table (R285). -/
def btAddr (s : State) (c : Nat) : Nat := btBase s + 16 * c

/-! ### The miss path -/

/-- A failure of R288 for a context: its reason is in detail [15:12]; a TMMAS and a BKOPEN add their low bits. -/
def ctxFail (st : Status) (reason : Nat) : Outc := outc st (4096 * reason) 0

/-- Start the fetch of a context that is not resident (R287): the failure it ends with at once, or none. -/
def startFetch (c : Nat) (s : State) : Option Outc × State :=
  let s := traceEv 11 islC 0 c 0 (cnt 0xA044 1 s)
  if !btEnabled s then (some (ctxFail .ctxFetchFail 3), cnt 0xA048 1 s)
  else
    let (n, s') := pick s
    match rotFind 16384 (n % 16384) (victimOk s') with
    | none => (some (ctxFail .ctxFetchFail 4), cnt 0xA048 1 s)
    | some l =>
      let s := if (tget none s'.hab.rows l).isSome then cnt 0xA04C 1 (setRow l none s') else s'
      let s := { s with hab := { s.hab with fetches := s.hab.fetches ++ [⟨c, l, none⟩] } }
      let a := btAddr s c
      (none, if btHay s then askHay (hayRd 9 (a - a % 64) (beRange (a % 64) 16) (.fetch c)) s
        else askMem ⟨false, a - a % 128, 0, 0, .fetch c⟩ s)

/-- One context that a command needs (R286-R288): a reference to its resident row, a wait on its fetch, or a failure. At most 16 fetches
are outstanding, and a further one waits. -/
def needCtx (tag : Tag) (s : State) (c : Nat) : State :=
  let e := tagOf s tag
  if e.refs.contains c || e.ctxWait.contains c || e.ctxBad.any (fun p => p.1 == c) then s
  else
    let bad := fun (o : Outc) (s : State) => updTag tag (fun e => { e with ctxBad := e.ctxBad ++ [(c, o)] }) s
    match residentEntry s c with
    | some x =>
      let s := updTag tag (fun e => { e with refs := e.refs ++ [c] }) (cnt 0xA040 1 s)
      if ctxValid x then s else bad (ctxFail .ctxInvalid 1) s
    | none =>
      let wait := fun (s : State) => updTag tag (fun e => { e with ctxWait := e.ctxWait ++ [c] }) s
      if s.hab.fetches.any fun f => f.ctx == c then wait s
      else if 16 ≤ s.hab.fetches.length then s
      else
        let (r, s) := startFetch c s
        match r with
        | some o => bad o s
        | none => wait s

/-- The contexts a command needs are settled: each held or failed. -/
def ctxSettled (s : State) (tag : Tag) (cs : List Nat) : Bool :=
  let e := tagOf s tag
  cs.all fun c => !e.ctxWait.contains c && (e.refs.contains c || e.ctxBad.any fun p => p.1 == c)

/-- Resolve the contexts of a command (R77, R286, R287), all at once. -/
def resolveCtxs (tag : Tag) (cs : List Nat) (s : State) : State := cs.foldl (needCtx tag) s

/-- The failure recorded for a context. -/
def ctxFailure (e : TagEntry) (c : Nat) : Option Outc := (e.ctxBad.find? fun p => p.1 == c).map (·.2)

/-- Record a cause in CHN_RINGERR, set the ring's ERR and discard what was read ahead of it (R296, R298, R300). -/
def ringError (ring cause : Nat) (s : State) : State :=
  let r := tget Ring.zero s.rng.ents ring
  let s := { s with rng := { s.rng with
    ents := tset Ring.zero s.rng.ents ring { r with err := true }
    lines := s.rng.lines.filter fun l => l.ring != ring } }
  rset 0x8018 (BitVec.ofNat 32 (ring + 2 ^ 16 + cause * 2 ^ 17)) s

/-- Tell every command that waits on a fetch how it ended. -/
def wakeWaiters (c : Nat) (bad : Option Outc) (s : State) : State :=
  let f := fun (e : TagEntry) =>
    if e.ctxWait.contains c then
      let e := { e with ctxWait := e.ctxWait.filter (· != c) }
      match bad with
      | none => { e with refs := e.refs ++ [c] }
      | some o => { e with ctxBad := e.ctxBad ++ [(c, o)] }
    else e
  { s with tly := { s.tly with tags := s.tly.tags.map fun p => (p.1, f p.2) } }

/-- The rings that wait for a context as their pair's owner may be visited again; a failed fetch sets their ERR (R298). -/
def wakeRings (c : Nat) (failed : Bool) (s : State) : State :=
  let mine := fun (n : Nat) => tget 0 s.rng.owners (n / 2) == c
  let rs := s.rng.waitPairs.filter mine
  let s := { s with rng := { s.rng with waitPairs := s.rng.waitPairs.filter fun n => !mine n } }
  if failed then rs.foldl (fun s n => ringError n 3 s) s else s

/-- A fetch has ended (R287, R288): the entry that arrived, or the one that a CTXSET has put in its place, or the failure. -/
def fetchEnded (c : Nat) (r : BitVec 128 ⊕ Outc) (s : State) : State :=
  match s.hab.fetches.find? fun f => f.ctx == c with
  | none => s
  | some f =>
    let s := { s with hab := { s.hab with fetches := s.hab.fetches.filter fun g => g.ctx != c } }
    let r : BitVec 128 ⊕ Outc := (match r, f.fresh with | .inl _, some y => .inl y | r, _ => r)
    let s := traceEv 11 islC 0 c (match r with
      | .inl x => if ctxValid x then 0 else Status.ctxInvalid.code
      | .inr o => o.status.code) s
    match r with
    | .inl x =>
      if ctxValid x then wakeRings c false (wakeWaiters c none (setRow f.row (some ⟨c, x, false⟩) s))
      else wakeRings c true (wakeWaiters c (some (ctxFail .ctxInvalid 1)) (cnt 0xA048 1 s))
    | .inr o => wakeRings c true (wakeWaiters c (some o) (cnt 0xA048 1 s))

/-- The 16 bytes of an entry in the access that holds them. -/
def entryIn (width : Nat) (v a : Nat) : BitVec 128 := BitVec.ofNat 128 (v / 2 ^ (8 * (a % width)))

/-! ### CTXSET and CTXGET -/

/-- Write 16 bytes for a context command: one WR, or one Hayloft access as master 9 (R290, R292). -/
def writeEntry (tag : Tag) (hay : Bool) (a : Nat) (x : BitVec 128) (stage : Nat) (s : State) : State :=
  let s := updJob tag (fun j => { j with stage := stage, wrOut := 1 }) s
  if hay then
    askHay (hayWr 9 (a - a % 64) (beRange (a % 64) 16) (BitVec.ofNat 512 (x.toNat * 2 ^ (8 * (a % 64)))) (.ctxWrite tag)) s
  else
    let be : BitVec 128 := BitVec.ofNat 128 ((2 ^ 16 - 1) * 2 ^ (a % 128))
    askMem ⟨true, a - a % 128, BitVec.ofNat 1024 (x.toNat * 2 ^ (8 * (a % 128))), be, .ctxWrite tag⟩ s

/-- The table holds a new entry for a context: a resident row takes it, and so does a fetch that may have read the old one (R292, R293). -/
def newEntry (c : Nat) (img : BitVec 128) (s : State) : State :=
  let s := { s with hab := { s.hab with
    fetches := s.hab.fetches.map fun f => if f.ctx = c then { f with fresh := some img } else f } }
  match residentRow s c with
  | some (l, r) => setRow l (some { r with entry := img }) s
  | none => s

/-- CTXSET of a started tag (R292). -/
def execCtxset (tag : Tag) (s : State) : Host.Outcome State Fault Refusal :=
  match started s tag .ctxset with
  | some e =>
    match e.cmd with
    | some (.ctxset c img) =>
      .next (if e.job.stage = 0 then
          (if !btEnabled s then finish tag (ctxFail .ctxFetchFail 3) s else writeEntry tag (btHay s) (btAddr s c) img 1 s)
        else if e.job.wrOut ≠ 0 then s
        else if e.job.wErr.isSome then finish tag (ctxFail .ctxFetchFail 1) s
        else finish tag (outc .ok 0 1) (newEntry c img s))
    | _ => .next s
  | none => .next s

/-- The reply of a CTXGET (R290); a word of the entry that was corrected shows in it (R337; log 85). -/
def ctxgetReply (s : State) (bits : BitVec 16) (c : Nat) : Outc :=
  if bits ≠ 0 then ⟨.okInfo, bits, BitVec.ofNat 32 (if (residentRow s c).isSome then refCount s c else 0)⟩
  else match residentRow s c with
  | some (_, r) => outc .ok (1 + 2 * b2n r.pin) (refCount s c)
  | none => outc .ok 0 0

/-- CTXGET of a started tag (R290): the resident entry or that of the table, written to DADDR. -/
def execCtxget (tag : Tag) (s : State) : Host.Outcome State Fault Refusal :=
  match started s tag .ctxget with
  | some e =>
    match e.cmd with
    | some (.ctxget c hay addr) =>
      let a := btAddr s c
      .next (if e.job.stage = 0 then
          (match residentEntry s c with
            | some x => writeEntry tag hay addr x 3 s
            | none =>
              if !btEnabled s then finish tag (ctxFail .ctxFetchFail 3) s
              else
                let s := updJob tag (fun j => { j with stage := 1, base := a }) s
                if btHay s then askHay (hayRd 9 (a - a % 64) (beRange (a % 64) 16) (.image tag)) s
                else askMem ⟨false, a - a % 128, 0, 0, .image tag⟩ s)
        else if e.job.stage = 1 then s
        else if e.job.stage = 2 then
          (if e.job.lim.isSome then finish tag (ctxFail .ctxFetchFail 1) s
           else if e.job.bad.isSome then finish tag (ctxFail .ctxFetchFail 2) s
           else writeEntry tag hay addr ((e.job.imgs.headD 0).extractLsb' 0 128) 3 s)
        else if e.job.wrOut ≠ 0 then s
        else if e.job.wErr.isSome then finish tag (ctxFail .ctxFetchFail 1) s
        else finish tag (ctxgetReply s e.bits c) s)
    | _ => .next s
  | none => .next s

/-! ### CTXPIN and CTXEVICT -/

/-- Pinned rows (R291). -/
def pinnedRows (s : State) : Nat := (s.hab.rows.filter fun p => match p.2 with | some r => r.pin | none => false).length

/-- CTXPIN with PIN 1 (R291): resident through the miss path, then pinned. -/
def pinCtx (tag : Tag) (c : Nat) (s : State) : State :=
  match residentRow s c with
  | some (l, r) =>
    if r.pin then finish tag (outc .ok 0 0) s
    else if 16256 ≤ pinnedRows s then finish tag (outc .capacity 0x8000 0) s
    else
      let s := resolveCtxs tag [c] s
      match ctxFailure (tagOf s tag) c with
      | some o => finish tag o s
      | none => finish tag (outc .ok 0 1) (setRow l (some { r with pin := true }) s)
  | none =>
    if 16256 ≤ pinnedRows s then finish tag (outc .capacity 0x8000 0) s
    else
      let s := resolveCtxs tag [c] s
      match ctxFailure (tagOf s tag) c with
      | some o => finish tag o s
      | none => s

/-- CTXPIN of a started tag (R291). -/
def execCtxpin (tag : Tag) (s : State) : Host.Outcome State Fault Refusal :=
  match started s tag .ctxpin with
  | some e =>
    match e.cmd with
    | some (.ctxpin c pin) =>
      .next (if pin then pinCtx tag c s
        else match residentRow s c with
          | some (l, r) => finish tag (outc .ok 0 (b2n r.pin)) (setRow l (some { r with pin := false }) s)
          | none => finish tag (outc .ok 0 0) s)
    | _ => .next s
  | none => .next s

/-- CTXEVICT of a started tag (R293). -/
def execCtxevict (tag : Tag) (s : State) : Host.Outcome State Fault Refusal :=
  match started s tag .ctxevict with
  | some e =>
    match e.cmd with
    | some (.ctxevict c) =>
      .next (match residentRow s c with
        | some (l, _) => finish tag (outc .ok 0 1) (setRow l none s)
        | none => finish tag (outc .ok 0 0) s)
    | _ => .next s
  | none => .next s

end Sys2Proof.Machine
end

