-- ==== Sys2Proof/Machine/Noc.lean ====
section
/-! DEFINITION. The network endpoint (R42-R46): flits, credits, transaction identifiers, the requests it sends, and what the responses RDRSP and
WRACK do to the command, fetch or ring that asked. -/

namespace Sys2Proof.Machine

/-! ### Flits and channels -/

/-- A flit header (R44). -/
def flitHdr (addr txid kind : Nat) : Word := put addr 16 ||| put txid 4 ||| put kind 0

/-- Fields of a header (R44). -/
def hdrAddr (h : Word) : Nat := fld h 63 16
def hdrTxid (h : Word) : Txid := h.extractLsb' 4 12
def hdrKind (h : Word) : Nat := fld h 3 0

/-- An outbound channel. -/
def chanOf (s : State) (c : Chan) : OutChan := match c with | .c0 => s.noc.o0 | .c1 => s.noc.o1

/-- Set an outbound channel. -/
def setChan (c : Chan) (x : OutChan) (s : State) : State :=
  match c with
  | .c0 => { s with noc := { s.noc with o0 := x } }
  | .c1 => { s with noc := { s.noc with o1 := x } }

/-- The number of a channel. -/
def chanNum : Chan → Nat
  | .c0 => 0 | .c1 => 1

/-- Send a flit for one credit (R27, R43). -/
def sendFlit (c : Chan) (f : Flit) (s : State) : State :=
  let x := chanOf s c
  let s := setChan c { x with held := x.held - 1, fly := x.fly + 1 } s
  match c with
  | .c0 => { s with pin := { s.pin with o0 := some f } }
  | .c1 => { s with pin := { s.pin with o1 := some f } }

/-- Send the answers that wait, while channel 1 holds credits: an answer goes before any other flit (R43). -/
def pumpAnswers : Nat → State → State
  | 0, s => s
  | n + 1, s =>
    match s.noc.answers with
    | f :: r => if 0 < s.noc.o1.held then pumpAnswers n (sendFlit .c1 f { s with noc := { s.noc with answers := r } }) else s
    | [] => s

/-- Answer an inbound request (R45, R47): KIND 4 CMDACK, 5 INGACK, 6 REGRSP. -/
def answer (txid : Txid) (kind status : Nat) (data : Line) (s : State) : State :=
  let f : Flit := ⟨flitHdr status txid.toNat kind, data, 0⟩
  let s := { s with noc := { s.noc with answers := s.noc.answers ++ [f] } }
  pumpAnswers s.noc.answers.length s

/-! ### Transaction identifiers -/

/-- A TXID that no outstanding request uses, chosen freely (R46; log 1). -/
def freeTxid (s : State) : Option Nat × State :=
  let (n, s') := pick s
  match rotFind 4096 (n % 4096) fun i => (tget none s.noc.tx i).isNone with
  | some i => (some i, s')
  | none => (none, s)

/-- Set the owner of a TXID. -/
def setTx (i : Nat) (o : Option TxOwner) (s : State) : State :=
  { s with noc := { s.noc with tx := tset none s.noc.tx i o } }

/-- The Cooper engine that a request serves, 0-7; none for the requests of other units. -/
def useEngine (s : State) (u : TxUse) : Option Nat :=
  match u with
  | .unitFor t _ _ | .store t _ =>
    match (tagOf s t).job.stn with
    | some n => if 6 ≤ n ∧ n ≤ 13 then some (n - 6) else none
    | none => none
  | _ => none

/-- Outstanding requests of the Coopers, and of one engine (R202). -/
def copOut (s : State) : Nat :=
  (s.noc.tx.filter fun p => match p.2 with | some o => (useEngine s o.use).isSome | none => false).length
def engineOut (s : State) (e : Nat) : Nat :=
  (s.noc.tx.filter fun p => match p.2 with | some o => useEngine s o.use == some e | none => false).length

/-- A queued request may be sent under the limits of R202. -/
def reqAllowed (s : State) (r : OutReq) : Bool :=
  match useEngine s r.use with
  | some e => decide (engineOut s e < 384) && decide (copOut s < 3072)
  | none => true

/-- The kind of a request among those that share channel 1: 1 RD, 2 WR (R43). -/
def OutReq.kind (r : OutReq) : Nat := if r.write then 2 else 1

/-- The first queued request that may be sent, and the first of one kind. -/
def firstReq (s : State) : Option Nat := findPos (reqAllowed s) s.noc.outQ
def firstOf (s : State) (k : Nat) : Option Nat := findPos (fun r => reqAllowed s r && r.kind == k) s.noc.outQ

/-- The kind whose turn channel 1 is (R43): the next in rotating order of those that have something to send; `racc` says that an RACC has. -/
def shareTurn (s : State) (racc : Bool) : Option Nat :=
  rotFind 3 s.noc.share fun k => if k = 0 then racc else (firstOf s k).isSome

/-- The channel and the request that the next RD or WR is (R43): in turn when both channels hold a credit; channel 1 once its turn comes. -/
def nextReq (s : State) (racc : Bool) : Option (Chan × Nat) :=
  let c0 := if 0 < s.noc.o0.held then (firstReq s).map fun i => (Chan.c0, i) else none
  let c1 := if 0 < s.noc.o1.held ∧ s.noc.answers = [] then
      match shareTurn s racc with
      | some 0 | none => none
      | some k => (firstOf s k).map fun i => (Chan.c1, i)
    else none
  if s.noc.turn then c1.or c0 else c0.or c1

/-- Channel 1 has served a kind: the next one's turn begins (R43). -/
def shared (k : Nat) (s : State) : State := { s with noc := { s.noc with share := (k + 1) % 3 } }

/-- Send one RD or WR on a channel under a TXID. -/
def sendReq (c : Chan) (i : Nat) (r : OutReq) (s : State) : State :=
  let s := match useEngine s r.use with
    | some e => cnt (0x5044 + 0x10 * e) 1 s
    | none => s
  let s := setTx i (some ⟨c, r.use, r.addr⟩) s
  let s := { s with noc := { s.noc with turn := decide (c = .c0) } }
  let s := if c = .c1 then shared r.kind s else s
  sendFlit c ⟨flitHdr r.addr i (if r.write then 2 else 1), if r.write then r.data else 0, if r.write then r.be else 0⟩ s

/-! ### Responses -/

/-- How a response is taken: OK, ERROR or UNCORR (R45). -/
inductive Resp where
  | ok | error | uncorr
  deriving DecidableEq, Repr

/-- The meaning of an RDRSP's STATUS; whether the row of R45 lists it. -/
def rdStatus (st : Byte) : Resp × Bool :=
  if st = 0 then (.ok, true) else if st = 2 then (.error, true) else if st = 3 then (.uncorr, true) else (.error, false)

/-- The meaning of a WRACK's STATUS. -/
def wrStatus (st : Byte) : Resp × Bool :=
  if st = 0 then (.ok, true) else if st = 2 then (.error, true) else (.error, false)

/-- An image that a DCRE or a CTXGET asked for has arrived (R212, R290). -/
def takeImage (tag : Tag) (width : Nat) (v : Nat) (err unc : Bool) (s : State) : State :=
  let a := match (tagOf s tag).cmd with
    | some (.dcre _ _ addr) => addr
    | _ => (tagOf s tag).job.base
  imageArrived tag (BitVec.ofNat 512 (v / 2 ^ (8 * (a % width)))) err unc s

/-- A line of a ring has arrived (R300): an ERROR or UNCORR sets the ring's ERR. A line discarded meanwhile is gone. -/
def ringLineArrived (ring seq : Nat) (r : Resp) (data : Line) (s : State) : State :=
  if s.rng.lines.any fun l => l.seq == seq && l.ring == ring then
    if r = .ok then
      { s with rng := { s.rng with lines := s.rng.lines.map fun l => if l.seq = seq then { l with data := some data } else l } }
    else ringError ring 2 s
  else s

/-- What is for a unit of island H takes effect there; while H has no clock it lies in the crossing to it (R347, R348). -/
def inH (f : State → State) (s : State) : State := if running s islH then f s else crossIn 58 s

/-- Island H takes nothing more: it has no clock, and the crossing to it is full (R20, R347). -/
def blockedH (s : State) : Bool := !running s islH && !canCross s 58

/-- A response is for a unit of island H. -/
def answersH (s : State) (txid : Txid) : Bool :=
  match tget none s.noc.tx txid.toNat with
  | some o =>
    match o.use with
    | .racc .. => true
    | u => match u.tagOf.bind fun t => (tagOf s t).cmd with
      | some c => decide (c.opcode.island = islH)
      | none => false
  | none => false

/-- A response for a command takes effect in the command's island. -/
def inUnit (tag : Tag) (f : State → State) (s : State) : State :=
  match (tagOf s tag).cmd with
  | some c => if c.opcode.island = islH then inH f s else f s
  | none => f s

/-- What the data of an RDRSP do (R237, R240, R288, R300). -/
def readAnswered (o : TxOwner) (r : Resp) (data : Line) (s : State) : State :=
  let s := if r = .uncorr then logErr 0x05 islC 0 (o.addr % 2 ^ 32) 3 s else s
  match o.use with
  | .unitFor tag row u =>
    inUnit tag (fun s => if r = .error then unitFailed tag row u s
      else unitArrived tag row u (u % 128) data.toNat (if r = .uncorr then 2 ^ 16 - 1 else 0) s) s
  | .image tag => inUnit tag (takeImage tag 128 data.toNat (r == .error) (r == .uncorr)) s
  | .fetch c =>
    (match r with
      | .ok => fetchEnded c (.inl (entryIn 128 data.toNat (btAddr s c))) s
      | .error => fetchEnded c (.inr (ctxFail .ctxFetchFail 1)) s
      | .uncorr => fetchEnded c (.inr (ctxFail .ctxFetchFail 2)) s)
  | .ring ring seq => ringLineArrived ring seq r data s
  | _ => s

/-- A store sends no further WR for the steps from `k` on (R240). -/
def dropWrites (tag : Tag) (k : Nat) (s : State) : State :=
  let late := fun (r : OutReq) => match r.use with | .store t n => t == tag && decide (k ≤ n) | _ => false
  let n := (s.noc.outQ.filter late).length
  updJob tag (fun j => { j with wrOut := j.wrOut - n }) { s with noc := { s.noc with outQ := s.noc.outQ.filter fun r => !late r } }

/-- A WR was answered: ERROR stops a store at the first step it holds a byte of, and the Tinker logs the address (R240, R290, R292, R340). -/
def writeAnswered (o : TxOwner) (r : Resp) (st : Byte) (s : State) : State :=
  let s := if r = .ok then s else logErr 0x14 islC 0 (o.addr % 2 ^ 32) st.toNat s
  let note := fun (tag : Tag) (row : Nat) (s : State) =>
    updJob tag (fun j => { j with
      wrOut := j.wrOut - 1
      wErr := if r = .ok then j.wErr else some (match j.wErr with | some k => min k row | none => row) }) s
  match o.use with
  | .store tag row => inUnit tag (fun s => let s := note tag row s
      match (tagOf s tag).job.wErr with | some k => dropWrites tag k s | none => s) s
  | .ctxWrite tag => note tag 0 s
  | .dump tag => note tag 0 s
  | _ => s

/-- A request that reads. -/
def TxUse.isRead : TxUse → Bool
  | .unitFor .. | .image _ | .fetch _ | .ring .. => true
  | _ => false

/-- A request that writes. -/
def TxUse.isWrite : TxUse → Bool
  | .store .. | .ctxWrite _ | .dump _ => true
  | _ => false

/-- Take an RDRSP (R45, R46): its TXID is free again. A response that matches no read of its channel is unusable (R29). -/
def takeRdrsp (c : Chan) (txid : Txid) (status : Byte) (data : Line) (s : State) : State :=
  match tget none s.noc.tx txid.toNat with
  | some o =>
    if o.ch = c ∧ o.use.isRead then
      let (r, listed) := rdStatus status
      let s := if listed then s else unusable islC (chanNum c) txid.toNat status.toNat s
      readAnswered o r data (setTx txid.toNat none s)
    else unusable islC (chanNum c) txid.toNat 8 s
  | none => unusable islC (chanNum c) txid.toNat 8 s

/-- Take a WRACK (R45, R46). -/
def takeWrack (c : Chan) (txid : Txid) (status : Byte) (s : State) : State :=
  match tget none s.noc.tx txid.toNat with
  | some o =>
    if o.ch = c ∧ o.use.isWrite then
      let (r, listed) := wrStatus status
      let s := if listed then s else unusable islC (chanNum c) txid.toNat status.toNat s
      writeAnswered o r status (setTx txid.toNat none s)
    else unusable islC (chanNum c) txid.toNat 9 s
  | none => unusable islC (chanNum c) txid.toNat 9 s

end Sys2Proof.Machine
end

