-- ==== Sys2Proof/Machine/Thresher.lean ====
section
/-! DEFINITION. Gradient buckets (R260-R280): BKOPEN, BKADD, BKCLOSE, BKQRY, the encoding, and the remote-accumulate packets with their
answers; and the flits that share channel 1 with them (R43). The Thresher's accesses go to the Hayloft as master 8. -/

namespace Sys2Proof.Machine

/-! ### Slots -/

/-- A slot at reset (R260). -/
def bucket0 (b : Nat) : Bucket := if b = 0 then Bucket.init 0 4 else if b = 1 then Bucket.init 16 4 else Bucket.init 0 0

/-- A bucket slot. -/
def bucketOf (s : State) (b : Nat) : Bucket := tget (bucket0 b) s.thr.slots b

/-- The state code of a bucket (R277). -/
def BkSt.code : BkSt → Nat
  | .closed => 0 | .opened => 1 | .draining => 2

/-- Set a bucket slot; a change of its state is traced (R378). -/
def setBucket (b : Nat) (x : Bucket) (s : State) : State :=
  let s := if x.st = (bucketOf s b).st then s else traceEv 12 islH b 0 x.st.code s
  { s with thr := { s.thr with slots := tset (bucket0 b) s.thr.slots b x } }

/-- Change a bucket slot. -/
def updBucket (b : Nat) (f : Bucket → Bucket) (s : State) : State := setBucket b (f (bucketOf s b)) s

/-- First byte of a bucket's region in the Hayloft. -/
def Bucket.lo (x : Bucket) : Nat := 65536 * x.base
/-- Bytes of a bucket's region. -/
def Bucket.bytes (x : Bucket) : Nat := 262144 * x.size
/-- Blocks of a bucket (R261). -/
def Bucket.blocks (x : Bucket) : Nat := x.nelem / 32

/-- Reasons of BUCKET_STATE and CAPACITY, with the low detail bits. -/
def bkState (reason low : Nat) : Outc := outc .bucketState (4096 * reason + low) 0

/-! ### BKOPEN -/

/-- The slot as a BKOPEN would leave it, not yet OPEN (R264, R266). -/
def openedSlot (s : State) (x : BkOpen) : Bucket :=
  let b := bucketOf s x.bucket
  let base := if x.hsize = 0 then b.base else x.hbase
  let size := if x.hsize = 0 then b.size else x.hsize
  { Bucket.init base size with nelem := 64 * x.nelem, rbase := 256 * x.rbase, step := x.step }

/-- The Hayloft address of the scale array (R264). -/
def scaleArray (s : State) (e : TagEntry) (x : BkOpen) : Nat :=
  64 * (if x.fromCtx then (match residentEntry s (hdrCtx e.hdr) with | some c => ctxEScale c | none => 0) else x.scaddr)

/-- Checks 3 to 5 of R265. -/
def bkopenChecks (s : State) (x : BkOpen) (src : Nat) : Option Outc :=
  let n := openedSlot s x
  if n.size = 0 ∨ 2 ^ 22 < n.lo + n.bytes then some (outc .capacity x.bucket 0)
  else if n.bytes < n.nelem + n.blocks ∨ 2 ^ 22 < src + n.blocks then some (outc .length x.bucket 0)
  else if (List.range 8).any fun b => b != x.bucket && decide ((bucketOf s b).st ≠ .closed)
      && decide (n.lo < (bucketOf s b).lo + (bucketOf s b).bytes) && decide ((bucketOf s b).lo < n.lo + n.bytes) then
    some (bkState 3 x.bucket)
  else none

/-- A BKOPEN copies its scale array: the next one is checked only after it (log 88). -/
def bkopenBusy (s : State) : Bool :=
  s.tly.tags.any fun p => decide (p.2.st = .started) && p.2.job.stage != 0 && match p.2.cmd with | some (.bkopen _) => true | _ => false

/-- Record the placement of a BKOPEN, and ask for the `n` words of its scale array (R266). -/
def bkopenBegin (tag : Tag) (x : BkOpen) (src : Nat) (s : State) : State :=
  let b := openedSlot s x
  let us := (haySplit src b.blocks).map fun p => (0, p.1)
  let s := updJob tag (fun j => { j with stage := 1, base := src, want := us }) (setBucket x.bucket b s)
  askBytes 8 src b.blocks (.unitFor tag 0) s

/-- The scale bytes read for a BKOPEN. -/
def scalesRead (j : Job) (n : Nat) : List Byte := (List.range n).map fun i => (byteIn j (Side.of true false false) 0 (j.base + i)).1

/-- The copy of a BKOPEN is written: the bucket is OPEN, unless a word read was uncorrectable (R266). -/
def bkopenEnd (tag : Tag) (x : BkOpen) (e : TagEntry) (s : State) : State :=
  let b := bucketOf s x.bucket
  if e.job.units.any fun u => u.bad != 0 then finish tag (outc .eccUncorr x.bucket 0) s
  else finish tag (formStatus e b.nelem) (setBucket x.bucket { b with st := .opened } s)

/-- BKOPEN of a started tag (R265, R266): checks 3 to 5, checks 1 and 2 having been made before it started; the scale bytes are read, then
written into the bucket's scale area. -/
def execBkopen (tag : Tag) (s : State) : Host.Outcome State Fault Refusal :=
  match started s tag .bkopen with
  | some e =>
    match e.cmd with
    | some (.bkopen x) =>
      let b := bucketOf s x.bucket
      .next (if x.nelem = 0 then finish tag (outc .ok 0 0) s
        else if e.job.stage = 0 then
          (if bkopenBusy s then s
           else match bkopenChecks s x (scaleArray s e x) with
            | some o => finish tag o s
            | none => bkopenBegin tag x (scaleArray s e x) s)
        else if e.job.stage = 1 then
          (if e.job.want.isEmpty then
            askWriteBytes tag 8 (b.lo + b.nelem) (scalesRead e.job b.blocks) (.store tag) (updJob tag (fun j => { j with stage := 2 }) s)
           else s)
        else if e.job.wrOut = 0 then bkopenEnd tag x e s
        else s)
    | _ => .next s
  | none => .next s

/-! ### BKADD -/

/-- The element offset of a binding in blocks, with BUCKET 8 (R267). -/
def bindOff (s : State) (e : TagEntry) (bucket : Nat) : Nat :=
  if bucket = 8 then (match residentEntry s (hdrCtx e.hdr) with | some c => 2 * ctxBOff c | none => 0) else 0

/-- The slot a BKADD fills: the one it names, or the binding's, as read at acceptance or now (R267). -/
def bkaddSlot (s : State) (e : TagEntry) (bucket : Nat) : Nat :=
  if bucket ≠ 8 then bucket
  else match e.bslot with
    | some b => b
    | none => match residentEntry s (hdrCtx e.hdr) with
      | some c => ctxBSlot c
      | none => 0

/-- Blocks an entry fills, its tile register given. -/
def entBlocks (x : Tile) (e : BkEnt) : Nat := e.count * x.rowBytes / 128

/-- The bits of blocks `k` to `k + n - 1`. -/
def blockMask (k n : Nat) : Nat := (2 ^ n - 1) * 2 ^ k

/-- Checks 3 to 9 of R268. -/
def bkaddChecks (s : State) (e : TagEntry) (bucket : Nat) (es : List BkEnt) : Option Outc :=
  let slot := bkaddSlot s e bucket
  let b := bucketOf s slot
  let off := bindOff s e bucket
  let bound := bucket != 8 || (match residentEntry s (hdrCtx e.hdr) with | some c => ctxBValid c | none => false)
  let bad := fun (p : BkEnt → Bool) => (es.find? p).map (·.tile)
  if !bound then some (bkState 7 0)
  else if b.st = .closed then some (bkState 1 slot)
  else if b.st = .draining then some (outc .bucketFull slot 0)
  else match bad (fun x => decide ((tileOf s x.tile).ty ≠ .fp32)) with
    | some t => some (outc .typeMismatch t 0)
    | none =>
    match bad (fun x => (tileOf s x.tile).rowBytes % 128 != 0) with
    | some t => some (outc .shapeMismatch (0xC000 + t) 0)
    | none =>
    match bad (fun x => decide ((tileOf s x.tile).rows < x.first + x.count) || decide (b.blocks < off + x.eblk + entBlocks (tileOf s x.tile) x)) with
    | some t => some (outc .length t 0)
    | none =>
      let m := fun (x : BkEnt) => blockMask (off + x.eblk) (entBlocks (tileOf s x.tile) x)
      let hit := es.zipIdx.find? fun p => (m p.1 &&& b.placed) != 0 || es.zipIdx.any fun q => q.2 != p.2 && (m q.1 &&& m p.1) != 0
      hit.map fun p => bkState 4 p.1.tile

/-- The blocks of a BKADD in order: tile, tile byte, bucket block. -/
def bkaddBlocks (s : State) (tl : Nat → Tile) (e : TagEntry) (bucket : Nat) (es : List BkEnt) : List (Nat × Nat × Nat) :=
  let off := bindOff s e bucket
  (es.map fun x => (List.range (entBlocks (tl x.tile) x)).map fun i =>
    (x.tile, x.first * (tl x.tile).rowBytes + 128 * i, off + x.eblk + i)).flatten

/-- Reserve the blocks of a BKADD, and ask for its source rows (R268). -/
def bkaddBegin (tag : Tag) (slot : Nat) (bl : List (Nat × Nat × Nat)) (es : List BkEnt) (s : State) : State :=
  let s := updBucket slot (fun b => { b with
    placed := bl.foldl (fun m p => m ||| 2 ^ p.2.2) b.placed, cPlaced := b.cPlaced + 32 * bl.length }) s
  let s := wakeGroups (dedup ((es.filter fun x => !(tileOf s x.tile).spill).map fun x => (tileOf s x.tile).group)) s
  let s := snapTiles tag (es.map (·.tile)) s
  let s := updJob tag (fun j => { j with stage := 1, imgs := [], base := slot }) s
  (es.zipIdx.foldl (fun s p =>
    let rb := (tileOf s p.1.tile).rowBytes
    askRead 14 tag p.1.tile (p.1.first * rb) ((p.1.first + p.1.count) * rb) (p.2 + 1 == es.length) s) s)

/-- The code of one element under a block's scale byte, and whether it is nonfinite or saturated (R269). -/
def encode (c : Nat) (x : BitVec 32) : Nat × Bool × Bool :=
  if c = 0xFF ∨ isNonfin x then (0x7F, true, false)
  else
    let (v, sat) := EType.e4m3.quant .nearest ((fp32 x).scale (127 - (c : Int)))
    (v, false, sat)

/-- Ask for the scale byte of a bucket's block `k`, for step `n` of a BKADD. -/
def askScale (tag : Tag) (slot k n : Nat) (s : State) : State :=
  let b := bucketOf s slot
  let a := b.lo + b.nelem + k
  let u := a - a % 64
  askHay (hayRd 8 u (beRange (a % 64) 1) (.unitFor tag n u))
    (updJob tag (fun j => { j with want := j.want ++ [(n, u)], reqRow := n + 1 }) s)

/-- Note that a command read an uncorrectable word that lies in no tile: the detail of its ECC_UNCORR is open (R337; log 42). -/
def addUncorrFree (tag : Tag) (s : State) : State :=
  let (v, s) := pick s
  updTag tag (fun e => { e with ecc := e.ecc.or (some (BitVec.ofNat 16 v)) }) s

/-- Write one block of a BKADD to the Hayloft, encoded under its scale byte (R269, R270). -/
def bkaddBlock (tag : Tag) (slot k v : Nat) (s : State) : State :=
  let b := bucketOf s slot
  let j := (tagOf s tag).job
  let sc := byteIn j (Side.of true false false) j.row (b.lo + b.nelem + k)
  let s := if sc.2 then addUncorrFree tag s else s
  let cs := (unpackElems 32 32 v).map fun x => encode sc.1.toNat (BitVec.ofNat 32 x)
  let nf := (cs.filter fun c => c.2.1).length
  let sat := (cs.filter fun c => c.2.2).length
  let s := if nf = 0 then s else addBits tag bNonfin (cnt 0xB054 nf s)
  let s := if sat = 0 then s else addBits tag bSat (cnt 0xB058 sat s)
  let s := updBucket slot (fun b => { b with cNonf := b.cNonf + nf, cSat := b.cSat + sat }) s
  let a := b.lo + 32 * k
  let data : BitVec 512 := BitVec.ofNat 512 (packElems 8 (cs.map (·.1)) * 2 ^ (8 * (a % 64)))
  let s := updJob tag (fun j => { j with row := j.row + 1, wrOut := j.wrOut + 1, units := [] }) s
  askHay (hayWr 8 (a - a % 64) (beRange (a % 64) 32) data (.store tag)) s

/-- The last block of a BKADD is written (R270, R271): the bucket whose last block this was begins to drain. -/
def bkaddDone (tag : Tag) (slot n : Nat) (s : State) : State :=
  let s := updBucket slot (fun b =>
    let w := b.written + n
    { b with written := w, st := if b.st = .opened ∧ w = b.blocks then .draining else b.st }) s
  finish tag (formStatus (tagOf s tag) (32 * n)) s

/-- Stop a BKADD at a block boundary under the unplug sequence (R276): its blocks not written are unplaced again. -/
def bkaddStop (tag : Tag) (slot : Nat) (bl : List (Nat × Nat × Nat)) (s : State) : State :=
  let n := (tagOf s tag).job.row
  let rest := bl.drop n
  let s := dropAsks tag false s
  let s := updBucket slot (fun b => { b with
    placed := rest.foldl (fun m p => m ^^^ (m &&& 2 ^ p.2.2)) b.placed, cPlaced := b.cPlaced - 32 * rest.length, written := b.written + n }) s
  endStopped tag (32 * n) s

/-- The next block of a BKADD: its scale byte is read, then the block is written once its data are here too (R269, R270). -/
def bkaddStep (tag : Tag) (slot : Nat) (bl : List (Nat × Nat × Nat)) (j : Job) (s : State) : State :=
  match bl[j.row]? with
  | none => s
  | some (t, o, k) =>
    if j.reqRow ≤ j.row then askScale tag slot k j.row s
    else match rxBytes j.rx t o 128 with
      | none => s
      | some v => if unitsReady j j.row then bkaddBlock tag slot k v s else s

/-- BKADD of a started tag (R268-R271, R276): checks 3 to 9 and the reservation in one step, then one block at a time. -/
def execBkadd (tag : Tag) (s : State) : Host.Outcome State Fault Refusal :=
  match started s tag .bkadd with
  | some e =>
    match e.cmd with
    | some (.bkadd bucket _ es) =>
      if es = [] then .next (finish tag (outc .ok 0 0) s)
      else if e.job.stage = 0 then
        if e.stop = some .unplug then .next (finish tag (outc .abortedPower 0 0) s)
        else match bkaddChecks s e bucket es with
        | some o => .next (finish tag o s)
        | none => .next (bkaddBegin tag (bkaddSlot s e bucket) (bkaddBlocks s (tileOf s) e bucket es) es s)
      else
        let bl := bkaddBlocks s (jobTile s tag) e bucket es
        let slot := e.job.base
        if bl.length ≤ e.job.row then (if e.job.wrOut = 0 then .next (bkaddDone tag slot bl.length s) else .next s)
        else if e.stop = some .unplug then (if e.job.wrOut = 0 then .next (bkaddStop tag slot bl s) else .next s)
        else .next (bkaddStep tag slot bl e.job s)
    | _ => .next s
  | none => .next s

/-! ### The wire -/

/-- The presence mask of packet `p`: blocks 2p and 2p + 1 (R272). -/
def Bucket.mask (b : Bucket) (p : Nat) : Nat := b.placed / 4 ^ p % 4

/-- Elements present in packet `p`. -/
def Bucket.elemsOf (b : Bucket) (p : Nat) : Nat := 32 * (b.mask p % 2 + b.mask p / 2)

/-- The virtual address of packet `p` (R262). -/
def Bucket.va (b : Bucket) (p : Nat) : Nat := b.rbase + 256 * p

/-- The page that holds an address, translated or faulted. -/
def Bucket.page (b : Bucket) (a : Nat) : Option BkPage := b.pages.find? fun g => decide (g.va ≤ a) && decide (a < g.va + g.size)

/-- Packet `p` lies in a faulted page (R274). -/
def Bucket.unsendable (b : Bucket) (p : Nat) : Bool :=
  match b.page (b.va p) with
  | some g => g.res.isNone
  | none => false

/-- The next packet never sent, at or after `next` (R274). -/
def Bucket.nextNew (b : Bucket) : Option Nat :=
  ((List.range (b.nelem / 64 - b.next)).map (· + b.next)).find? fun p => b.mask p != 0 && !b.unsendable p

/-- The next packet to send and whether it is a resend (R274): a due resend first. -/
def Bucket.nextPkt (b : Bucket) : Option (Nat × Bool) :=
  match b.due with
  | p :: _ => some (p, true)
  | [] => b.nextNew.map fun p => (p, false)

/-- The drain has ended (R275). -/
def Bucket.drained (b : Bucket) : Bool := b.raccs == 0 && b.due.isEmpty && b.retried.isEmpty && b.nextNew.isNone

/-- RACC outstanding, all buckets (THR_OUT). -/
def raccOut (s : State) : Nat :=
  (s.noc.tx.filter fun p => match p.2 with
    | some o => (match o.use with | .racc .. => true | _ => false)
    | none => false).length

/-- A bucket's query is waiting or outstanding. -/
def bucketAsking (s : State) (b : Nat) : Bool :=
  (s.asy.waiting.any fun q => decide (q.use = .bucket b))
  || s.asy.queries.any fun p => match p.2 with | some q => decide (q.use = .bucket b) && !q.timedOut | none => false

/-- Ask for the page of a draining bucket's next packet when it has none and no query of the bucket is out (R274). -/
def askBucket (s : State) (b : Nat) : State :=
  let x := bucketOf s b
  match x.nextPkt with
  | some (p, _) =>
    if x.st = .draining ∧ !x.stopped ∧ (x.page (x.va p)).isNone ∧ !bucketAsking s b then
      pumpTrn { s with asy := { s.asy with waiting := s.asy.waiting ++ [⟨.bucket b, x.va p, 14, true, false, false⟩] } }
    else s
  | none => s

/-- A draining bucket has a packet whose page is translated. -/
def raccReady (s : State) (b : Nat) : Bool :=
  let x := bucketOf s b
  decide (x.st = .draining) && !x.stopped && match x.nextPkt with
    | some (p, _) => (match x.page (x.va p) with | some g => g.res.isSome | none => false)
    | none => false

/-- The codes of the next packet of a slot have been read (R274). -/
def codesFor (s : State) (slot p : Nat) : Option RaccData := s.thr.fetched.filter fun f => f.slot == slot && f.pkt == p

/-- Read the codes of packet `p` of a slot, in place of those of another packet (R247, R274). -/
def askCodes (slot p : Nat) (s : State) : State :=
  if s.hay.waiting.any fun a => decide (a.use = .racc slot p) then s
  else askHay (hayRd 8 ((bucketOf s slot).lo + 64 * p) (-1) (.racc slot p)) { s with thr := { s.thr with fetched := none } }

/-- Withdraw what was read, or asked for, of a slot's packets. -/
def dropCodes (slot : Nat) (s : State) : State :=
  let mine := fun (a : HayAcc) => match a.use with | .racc b _ => b == slot | _ => false
  { s with
    thr := { s.thr with fetched := s.thr.fetched.filter fun f => f.slot != slot }
    hay := { s.hay with waiting := s.hay.waiting.filter fun a => !mine a } }

/-- Send packet `p` of a bucket under TXID `i`, its codes having been read (R272, R278). -/
def sendRacc (slot p : Nat) (resend : Bool) (i : Nat) (f : RaccData) (s : State) : State :=
  let b := bucketOf s slot
  let pa := match b.page (b.va p) with | some g => g.res.getD 0 + (b.va p - g.va) | none => 0
  let n := b.elemsOf p
  let data : Line := BitVec.ofNat 1024 (f.codes.toNat + b.mask p * 2 ^ 512 + b.step * 2 ^ 528)
  let s := setBucket slot { b with
    ecc := b.ecc || f.unc, cSent := b.cSent + n, cOut := b.cOut + n, raccs := b.raccs + 1
    next := if resend then b.next else p + 1, due := if resend then b.due.tail else b.due } s
  let s := setTx i (some ⟨.c1, .racc slot p n, pa⟩) s
  let s := shared 0 { s with thr := { s.thr with rot := (slot + 1) % 8, fetched := none } }
  let s := cnt 0xB040 1 (if resend then cnt 0xB044 1 s else s)
  sendFlit .c1 ⟨flitHdr (pa - pa % 256) i 3, data, 0⟩ s

/-- A packet of the slot can be sent but for channel 1: its codes are here, and the limit of THR_RACCMAX and the TXIDs allow it. -/
def raccFree (s : State) (slot : Nat) : Bool :=
  (match (bucketOf s slot).nextPkt with | some (p, _) => (codesFor s slot p).isSome | none => false)
  && decide (raccOut s < fld (rget s 0xB000) 9 0) && (freeTxid s).1.isSome

/-- An RACC waits for its turn on channel 1 (R43). -/
def raccGo (s : State) : Bool :=
  decide (s.ctl.unplug = 0) && running s islH && match rotFind 8 s.thr.rot (raccReady s) with
    | some slot => raccFree s slot
    | none => false

/-- Send the next packet of a slot once its codes are read, or count why it waits in THR_TXWAIT or THR_CRDWAIT (R43, R274). -/
def sendNext (slot : Nat) (s : State) : State :=
  match (bucketOf s slot).nextPkt with
  | none => cnt 0xB050 1 s
  | some (p, resend) =>
    match codesFor s slot p with
    | none => askCodes slot p s
    | some f =>
      match (freeTxid s).1 with
      | none => cnt 0xB050 1 s
      | some i =>
        if fld (rget s 0xB000) 9 0 ≤ raccOut s then cnt 0xB050 1 s
        else if s.noc.o1.held = 0 ∨ s.noc.answers ≠ [] ∨ shareTurn s true ≠ some 0 then cnt 0xB04C 1 s
        else sendRacc slot p resend i f (freeTxid s).2

/-- Send the next packet of the draining buckets in rotating order (R274). -/
def sendRaccs (s : State) : State :=
  match rotFind 8 s.thr.rot (raccReady s) with
  | none =>
    let waits := (List.range 8).any fun b => decide ((bucketOf s b).st = .draining) && (bucketOf s b).nextPkt.isSome
    if waits then cnt 0xB050 1 s else s
  | some slot => sendNext slot s

/-- RACC_SEND (R274). The unplug sequence sends none (R55). -/
def execRaccSend (s : State) : Host.Outcome State Fault Refusal :=
  .next (if 1 ≤ s.ctl.unplug ∨ running s islH = false ∨ running s islC = false then s
    else sendRaccs ((List.range 8).foldl askBucket s))

/-- OUTBOUND_FLIT_SEND (R43, R46, R202): one RD or WR that waits and may be sent. None is sent once the unplug sequence has quiesced
(R55). -/
def execOutboundFlitSend (s : State) : Host.Outcome State Fault Refusal :=
  match nextReq s (raccGo s), (freeTxid s).1 with
  | some (c, k), some i =>
    match s.noc.outQ[k]? with
    | some r =>
      if 2 ≤ s.ctl.unplug ∨ running s islC = false then .next s
      else
        let s' := (freeTxid s).2
        .next (sendReq c i r { s' with noc := { s'.noc with outQ := dropAt k s'.noc.outQ } })
    | none => .next s
  | _, _ => .next s

/-- RACC_RESEND_DUE (R273): 64 c-cycles after its RETRY, a packet of the slot is due again. -/
def execRaccResendDue (slot : BitVec 3) (s : State) : Host.Outcome State Fault Refusal :=
  match (bucketOf s slot.toNat).retried with
  | [] => .next s
  | p :: r => if !running s islH then .next s else .next (updBucket slot.toNat (fun b => { b with retried := r, due := b.due ++ [p] }) s)

/-- What the answer of an RACC of `n` elements does (R273, R278). -/
def raccAnswered (slot p n : Nat) (txid : Txid) (status : Byte) (added : Nat) (s : State) : State :=
  let out := fun (b : Bucket) => { b with cOut := b.cOut - n, raccs := b.raccs - 1 }
  if status = 0 ∧ added = n then updBucket slot (fun b => { out b with cAcked := b.cAcked + n }) s
  else if status = 1 ∧ added = 0 then updBucket slot (fun b => { out b with cSent := b.cSent - n, retried := b.retried ++ [p] }) s
  else unusable islC 1 txid.toNat status.toNat (cnt 0xB048 1 (updBucket slot (fun b => { out b with cFailed := b.cFailed + n }) s))

/-- Take an RACCACK (R46, R273). A STATUS that R45 does not list falls under R29. -/
def takeRaccack (txid : Txid) (status : Byte) (added : Nat) (s : State) : State :=
  match tget none s.noc.tx txid.toNat with
  | some ⟨_, .racc slot p n, _⟩ =>
    if 4 ≤ status.toNat then unusable islC 1 txid.toNat status.toNat s
    else inH (raccAnswered slot p n txid status added) (setTx txid.toNat none s)
  | _ => unusable islC 1 txid.toNat 0xA s

/-! ### BKCLOSE and BKQRY -/

/-- The fault code of the lowest-addressed faulting page (R274). -/
def Bucket.faultCode (b : Bucket) : Option Nat :=
  ((b.pages.filter (·.res.isNone)).foldl (fun (m : Option BkPage) g => match m with
    | some x => if x.va ≤ g.va then some x else some g
    | none => some g) none).map (·.code)

/-- The reply of a BKCLOSE whose drain has ended (R275). -/
def bkcloseReply (slot : Nat) (b : Bucket) : Outc :=
  let left := b.cPlaced - b.cAcked
  if b.stopped then outc .abortedPower slot left
  else if b.ecc then outc .eccUncorr slot left
  else match b.faultCode with
    | some c => outc .xlateFault (slot + 4096 * c) left
    | none =>
      if 0 < b.cFailed then outc .bucketState (0x6000 + slot) left
      else if 0 < b.cNonf ∨ 0 < b.cSat then outc .okInfo (b2n (decide (0 < b.cSat)) + 2 * b2n (decide (0 < b.cNonf))) b.cNonf
      else outc .ok 0 b.cNonf

/-- Reconcile and close (R275). -/
def closeBucket (tag : Tag) (slot : Nat) (s : State) : State :=
  let s := dropCodes slot s
  finish tag (bkcloseReply slot (bucketOf s slot)) (updBucket slot (fun b => { b with st := .closed, due := [], retried := [], pages := [] }) s)

/-- A started command that a later one would have waited for still runs. -/
def behindStarted (s : State) (e : TagEntry) : Bool :=
  s.tly.tags.any fun p => decide (p.2.st = .started) && decide (p.2.place < e.place) && hazard p.2 e

/-- A BKCLOSE that the unplug sequence finds waiting (R276): once every earlier command on its bucket has ended and every RACC is answered
it completes under rank 1 of R275. -/
def bkcloseStop (tag : Tag) (slot : Nat) (e : TagEntry) (s : State) : State :=
  if behindStarted s e || (bucketOf s slot).raccs != 0 then s
  else closeBucket tag slot (updBucket slot (fun b => { b with stopped := true }) s)

/-- BKCLOSE of a started tag (R275, R276). -/
def execBkclose (tag : Tag) (s : State) : Host.Outcome State Fault Refusal :=
  match started s tag .bkclose with
  | some e =>
    match e.cmd with
    | some (.bkclose slot force) =>
      let b := bucketOf s slot
      .next (if e.stop = some .unplug then bkcloseStop tag slot e s
        else match b.st with
        | .closed => finish tag (bkState 1 slot) s
        | .opened => if force then updBucket slot (fun b => { b with st := .draining }) s else finish tag (bkState 5 slot) s
        | .draining => if b.drained then closeBucket tag slot s else s)
    | _ => .next s
  | none => .next s

/-- BKQRY of a started tag (R277). -/
def execBkqry (tag : Tag) (s : State) : Host.Outcome State Fault Refusal :=
  match started s tag .bkqry with
  | some e =>
    match e.cmd with
    | some (.bkqry slot) =>
      let b := bucketOf s slot
      .next (finish tag (outc .ok (b.st.code + 4 * b2n (decide (0 < b.cNonf)) + 8 * b2n (decide (0 < b.cSat)) + 16 * b.raccs) b.cAcked) s)
    | _ => .next s
  | none => .next s

end Sys2Proof.Machine
end

