-- ==== Sys2Proof/Machine/Hayloft.lean ====
section
/-! DEFINITION. The Hayloft's ports (R247-R254): the two arbiters of a bank, the same-word rule, and what a granted access does for its master;
the writes of the network (R47). -/

namespace Sys2Proof.Machine

/-! ### Arbitration -/

/-- Masters of port B (R247). -/
def onPortB (m : Nat) : Bool := (decide (4 ≤ m) && decide (m ≤ 7)) || m == 9 || m == 10

/-- Each master's oldest access to a physical bank on a port, by master (R248, R249). -/
def fronts (s : State) (p : Nat) (b : Bool) : List HayAcc :=
  (List.range 13).filterMap fun m =>
    if onPortB m = b then s.hay.waiting.find? fun a => a.master == m && (accPlace s a).1 == p else none

/-- The access a port grants (R248, R254): a busied one ahead of the rotating order, which begins at `rot`. -/
def arbitrate (rot : Nat) (c : List HayAcc) : Option HayAcc :=
  match c.find? fun a => a.retry with
  | some a => some a
  | none => match rotFind 13 rot fun m => c.any fun a => a.master == m with
    | some m => c.find? fun a => a.master == m
    | none => none

/-- Key of an arbiter's pointer; conflict counters of its masters follow at 16 times it. -/
def portKey (pbank : Nat) (b : Bool) : Nat := 2 * pbank + b2n b

/-- The h-cycles for which a port is still occupied, and the word. -/
def lockOf (s : State) (pbank : Nat) (b : Bool) : HayLock := tget HayLock.free s.hay.locks (portKey pbank b)

/-- Occupy a port for `n` further h-cycles. -/
def lockPort (pbank : Nat) (b : Bool) (n word : Nat) (s : State) : State :=
  { s with hay := { s.hay with locks := tset HayLock.free s.hay.locks (portKey pbank b) (if n = 0 then HayLock.free else ⟨n, word⟩) } }

/-- An h-cycle of a port's occupation has passed. -/
def stepLock (pbank : Nat) (b : Bool) (s : State) : State :=
  lockPort pbank b ((lockOf s pbank b).left - 1) (lockOf s pbank b).word s

/-- An access may be granted beside what the other port does (R252, R254, R362): it waits while the other port holds its word (log 89), and for
one h-cycle while a busied access to its word is issued again there. -/
def mayGrant (s : State) (p : Nat) (b : Bool) (a : HayAcc) : Bool :=
  let w := (accPlace s a).2
  let l := lockOf s p (!b)
  (l.left == 0 || l.word != w) && (a.retry || !(fronts s p (!b)).any fun x => x.retry && (accPlace s x).2 == w)

/-- What a port grants in an h-cycle: nothing while it is occupied. -/
def portGrant (s : State) (p : Nat) (b : Bool) : Option HayAcc :=
  if (lockOf s p b).left ≠ 0 then none
  else arbitrate (tget 0 s.hay.rot (portKey p b)) ((fronts s p b).filter (mayGrant s p b))

/-- A conflict counter adds one, up to 0xFFFF (R250). -/
def bumpConf (pbank : Nat) (b : Bool) (m : Nat) (s : State) : State :=
  let k := 16 * portKey pbank b + m
  { s with hay := { s.hay with conf := tset 0 s.hay.conf k (min 0xFFFF (tget 0 s.hay.conf k + 1)) } }

/-- Count the masters of a port that waited and were not granted (R250), and move the pointer past the one granted in rotation. -/
def countPort (p : Nat) (b : Bool) (c : List HayAcc) (g : Option HayAcc) (s : State) : State :=
  let lost := c.filter fun a => match g with | some x => x.master != a.master | none => true
  let s := lost.foldl (fun s a => bumpConf p b a.master s) s
  match g with
  | some x => if x.retry then s else { s with hay := { s.hay with rot := tset 0 s.hay.rot (portKey p b) ((x.master + 1) % 13) } }
  | none => s

/-! ### What an access does -/

/-- The 64-bit words of a bank word that are uncorrectable among those `be` enables, a bit for each. -/
def badMask (s : State) (pbank word : Nat) (be : BitVec 64) : Nat :=
  ((List.range 8).filter fun w => byteAt be w != 0
    && (eccTest (hayRaw s pbank word w).1 (hayRaw s pbank word w).2).2 == .uncorr).foldl (fun m w => m + 2 ^ w) 0

/-- The slot of a handle has been read for a command that is to start (R214). A correction shows in its reply (R337), and so does a word that
is uncorrectable in an image whose check succeeds (log 85). -/
def slotArrived (tag : Tag) (h : Nat) (img : BitVec 512) (r : EccRes) (s : State) : State :=
  let s := updJob tag (fun j => { j with slots := j.slots ++ [(h, img, r == .uncorr)] }) s
  match r with
  | .good => s
  | .corrected => addBits tag bEcc s
  | .uncorr => if liveCrc s h = some (imgCrc img) then addUncorrFree tag s else s

/-- The data of a read reach whom they serve (R137, R214, R237, R252, R272, R288). -/
def readServed (a : HayAcc) (data : BitVec 512) (r : EccRes) (bad : Nat) (s : State) : State :=
  match a.use with
  | .unitFor tag row u =>
    unitArrived tag row u (u % 64) data.toNat bad (if r = .corrected then addBits tag bEcc s else s)
  | .image tag =>
    let isDcre := match (tagOf s tag).cmd with | some (.dcre ..) => true | _ => false
    takeImage tag 64 data.toNat (r == .uncorr && !isDcre) (r == .uncorr && isDcre) (if r = .corrected then addBits tag bEcc s else s)
  | .slot tag h => slotArrived tag h data r s
  | .fetch c =>
    if r = .uncorr then fetchEnded c (.inr (ctxFail .ctxFetchFail 1)) s
    else fetchEnded c (.inl (entryIn 64 data.toNat (btAddr s c))) s
  | .racc slot p => { s with thr := { s.thr with fetched := some ⟨slot, p, data, r == .uncorr⟩ } }
  | .spillRead n d q => spillArrived n d q data r bad s
  | _ => s

/-- One INGWR's accesses change. -/
def setIngress (x : Ingress) (s : State) : State :=
  { s with hay := { s.hay with ingress := s.hay.ingress.map fun y => if y.id = x.id then x else y } }

/-- Forget an INGWR. -/
def dropIngress (id : Nat) (s : State) : State :=
  let mine := fun (a : HayAcc) => match a.use with | .ingress n => n == id | _ => false
  { s with hay := { s.hay with ingress := s.hay.ingress.filter fun y => y.id != id, waiting := s.hay.waiting.filter fun a => !mine a } }

/-- A word of an INGWR is written; with the last of them it is answered OK (R47). -/
def ingressWritten (id : Nat) (s : State) : State :=
  match s.hay.ingress.find? fun x => x.id == id with
  | none => s
  | some x => if x.left ≤ 1 then answer x.txid 5 0 0 (dropIngress id s) else setIngress { x with left := x.left - 1, wrote := true } s

/-- What a write that has been performed does for its master. -/
def writeServed (a : HayAcc) (s : State) : State :=
  match a.use with
  | .store tag | .ctxWrite tag | .dump tag | .raw tag => updJob tag (fun j => { j with wrOut := j.wrOut - 1 }) s
  | .spillWrite n tag => spillWritten n tag s
  | .ingress id => ingressWritten id s
  | _ => s

/-- Scrub one 64-bit word of a bank word (R362); `acc` counts corrections. -/
def scrubHay1 (pbank word : Nat) (acc : Nat × State) (w : Nat) : Nat × State :=
  match hayTest pbank word (hayRaw acc.2 pbank word w).1 (hayRaw acc.2 pbank word w).2 acc.2 with
  | (d, .corrected, s) => (acc.1 + 1, hayPut pbank word w d (checkByte d) s)
  | (_, _, s) => (acc.1, s)

/-- A scrub's read (R362): what it corrects is written back, in an access that occupies the port for two h-cycles. -/
def scrubHayWord (by_ : Option Tag) (b : Bool) (pbank word : Nat) (s : State) : State :=
  let x := (List.range 8).foldl (scrubHay1 pbank word) (0, s)
  scrubDone by_ x.1 (if x.1 = 0 then x.2 else lockPort pbank b 2 word x.2)

/-- A raw read of the Tinker (R375): the 64 data bytes and the 8 check bytes, untested. -/
def rawHayWord (tag : Tag) (pbank word : Nat) (s : State) : State :=
  updJob tag (fun j => { j with wrOut := j.wrOut - 1, raw := rawBytes ((List.range 8).map (hayRaw s pbank word)) }) s

/-- Perform an access that its port grants (R252): a write of part of a 64-bit word occupies the port for one more h-cycle. -/
def performAcc (a : HayAcc) (s : State) : State :=
  let p := accPlace s a
  if a.write then
    let s := hayWordWrite p.1 p.2 a.be a.data a.chk s
    writeServed a (if partWrite a.be then lockPort p.1 (onPortB a.master) 1 p.2 s else s)
  else
    match a.use with
    | .scrub by_ => scrubHayWord by_ (onPortB a.master) p.1 p.2 s
    | .raw tag => rawHayWord tag p.1 p.2 s
    | _ =>
      let bad := badMask s p.1 p.2 a.be
      let x := hayWordRead p.1 p.2 a.be s
      readServed a x.1 x.2.1 bad x.2.2

/-- Take an access out of the queue and perform it. -/
def serveAcc (a : HayAcc) (s : State) : State := performAcc a { s with hay := { s.hay with waiting := s.hay.waiting.erase a } }

/-- An access is to be issued again, ahead of the others (R254). -/
def issueAgain (a : HayAcc) (s : State) : State :=
  { s with hay := { s.hay with waiting := s.hay.waiting.replace a { a with retry := true } } }

/-- An INGWR receives busy (R47, R254): it is answered RETRY and writes nothing; one that has written its other word is issued again
(log 90). -/
def busyIngress (id : Nat) (a : HayAcc) (s : State) : State :=
  match s.hay.ingress.find? fun x => x.id == id with
  | none => s
  | some x => if x.wrote then issueAgain a s else answer x.txid 5 1 0 (cnt 0x7034 1 (dropIngress id s))

/-- An access receives busy (R203, R253, R254). -/
def busyAcc (pbank : Nat) (a : HayAcc) (s : State) : State :=
  let s := cnt 0x7030 1 (bumpConf pbank (onPortB a.master) a.master s)
  match a.use with
  | .ingress id => busyIngress id a s
  | _ => issueAgain a (if a.master < 8 ∧ a.write = false then cnt (0x5048 + 0x10 * a.master) 1 s else s)

/-- Perform the accesses that the two ports grant in one h-cycle (R253); `bFirst` says that port B's arrived first. -/
def servePorts (pbank : Nat) (bFirst : Bool) (x y : Option HayAcc) (s : State) : State :=
  match x, y with
  | none, none => s
  | some a, none => serveAcc a s
  | none, some b => serveAcc b s
  | some a, some b =>
    let (f, l) := if bFirst then (b, a) else (a, b)
    if (accPlace s a).2 = (accPlace s b).2 ∧ a.write ≠ b.write then busyAcc pbank l (serveAcc f s)
    else serveAcc l (serveAcc f s)

/-- An access that waits for a physical bank that is not ON wakes it (R255); after step 3 of the unplug sequence none does (R356). -/
def wakePhys (s : State) (p : Nat) : State :=
  match servedHay s p with
  | some h =>
    if (hbankOf s h).ready || decide (3 ≤ s.ctl.unplug) || !s.hay.waiting.any (fun a => (accPlace s a).1 == p) then s
    else setHbank h (hbankOf s h).wakeUp s
  | none => s

/-- HAYLOFT_ACCESS_GRANT: one h-cycle of the two ports of a physical bank (R248-R254, R258). A bank that is not ON is woken, a zeroising
bank holds its accesses, and what waits is counted all the same (R250). -/
def execHayloftAccessGrant (bank : Nat) (bFirst : Bool) (s : State) : Host.Outcome State Fault Refusal :=
  if 17 ≤ bank then .fault .noSuchUnit
  else if !running s islH then .next s
  else
    let go := physOpen s bank
    let ga := if go then portGrant s bank false else none
    let gb := if go then portGrant s bank true else none
    let s1 := countPort bank true (fronts s bank true) gb (countPort bank false (fronts s bank false) ga s)
    let s2 := stepLock bank true (stepLock bank false s1)
    .next (servePorts bank bFirst ga gb (if go then s2 else wakePhys s2 bank))

/-! ### Writes of the network -/

/-- Take an INGWR (R47, R251): an access of master 10 to each of its words that has a byte enabled; with none it is done. -/
def takeIngwr (hdr : Word) (data : Line) (be : BitVec 128) (s : State) : State :=
  let a := hdrAddr hdr
  let txid := hdrTxid hdr
  if 2 ^ 22 ≤ a ∨ a % 128 ≠ 0 then answer txid 5 2 0 (unusable islC 1 txid.toNat 0xB s)
  else
    let id := s.hay.ingId
    let lo := be.extractLsb' 0 64
    let hi := be.extractLsb' 64 64
    let as := (if lo = 0 then [] else [hayWr 10 a lo (data.extractLsb' 0 512) (.ingress id)]) ++
      (if hi = 0 then [] else [hayWr 10 (a + 64) hi (data.extractLsb' 512 512) (.ingress id)])
    if as = [] then answer txid 5 0 0 s
    else askHays as { s with hay := { s.hay with ingress := s.hay.ingress ++ [⟨id, txid, as.length, false⟩], ingId := id + 1 } }

end Sys2Proof.Machine
end

