-- ==== Sys2Proof/Machine/Chandler.lean ====
section
/-! DEFINITION. Acceptance, decode and start (R31, R60-R84, R308, R309): which packets are taken, the touches a decoded command is recorded
with, the order in which ready commands start, and what is checked as one starts. -/

namespace Sys2Proof.Machine

/-! ### Acceptance -/

/-- The fabric has power and is out of reset; otherwise it ignores its inputs (R54). -/
def awake (s : State) : Bool := s.ctl.powered && !s.ctl.inReset

/-- Boot is complete: FAB_BOOTLOCK.CMDEN is 1 (R371). -/
def booted (s : State) : Bool := bit (rget s 0xE004) 1

/-- A control packet, by its FMT and OPCODE bytes alone (R84). -/
def controlPacket (h : Word) : Bool := (hdrFmt h == 1 || hdrFmt h == 2) && hdrOp h / 16 == 7

/-- Tag TAG is unallocated, and R84 counts a tag free for the packet (R308). -/
def tagFreeFor (s : State) (h : Word) : Bool :=
  !(tagOf s (hdrTag h)).alloc && decide ((if controlPacket h then 1 else 9) ≤ freeTags s)

/-- A packet can be accepted now (R31, R54, R55, R308). -/
def canAccept (s : State) (p : Packet) : Bool :=
  awake s && running s islC && booted s && !s.ctl.halted && tagFreeFor s p.w0 && decide (s.tly.inq.length < 8)

/-- The number of a source in the log and the trace: 0 `cmd_`, 1 the network, 2 a ring. -/
def Origin.code : Origin → Nat
  | .cmd => 0 | .noc => 1 | .ring .. => 2

/-- Accept a packet: its tag is allocated, it takes its place in the acceptance order, and it enters the input queue (R31, R60, R325); the
next source has its turn (R301). -/
def accept (src : Origin) (p : Packet) (s : State) : State :=
  let t := hdrTag p.w0
  let n := s.tly.accNext
  let s := setTag t { TagEntry.free with st := .waiting, own := p.w0, hdr := p.w0, pkt := p, src := src, place := n, acc := n } s
  let s := { s with tly := { s.tly with accNext := n + 1, inq := s.tly.inq ++ [t], turn := (src.code + 1) % 3 } }
  traceEv 0 islC src.code t.toNat (hdrOp p.w0 + 256 * hdrStream p.w0) (cnt 0x9040 1 (cnt (0x8040 + 4 * src.code) 1 s))

/-- Toggle `cmd_ack` (R26). -/
def ackCmd (s : State) : State := { s with pin := { s.pin with cmdAck := !s.pin.cmdAck } }

/-! ### Touches -/

/-- The tiles a command's fields name, with their classes, scale tiles apart (R65). -/
def valueTiles (s : State) (e : TagEntry) (c : Command) : List (Nat × TClass) :=
  match c with
  | .tcfg es => (dedup ((tileEnts es).map (·.2.tile))).map fun t => (t, .c)
  | .trel m => (maskTiles m).map fun t => (t, .c)
  | .tqry t => [(t, .q)]
  | .inline st x => [(x.tile, if st then .r else .w)]
  | .desc st x => [(x.tile, if st then .r else .w)]
  | .gather op x => [(x.tile, if op = .tgat then .w else .r)]
  | .tperm x => if x.tensor then [] else [(x.stile, .r), (x.dtile, .w)]
  | .twf .. | .tmma _ | .tmmas _ =>
    if (match c with | .tmma x => x.count == 0 | _ => false) then []
    else
    let u := arrayUse s e
    ((dedup (u.stile :: u.fronts.map (·.1))).map fun t => (t, TClass.r)) ++ u.accs.map fun a => (a.1, TClass.a)
  | .bank op x => bankTiles op x
  | .station _ x => (x.srcs.map fun t => (t, .r)) ++ x.dsts.map fun t => (t, .w)
  | .bkadd _ _ es => es.map fun x => (x.tile, .r)
  | _ => []

/-- A command that touches the scale tiles of its MX value tiles together with them (R178, R221, R157; an array command's too, log 80). -/
def takesScales (c : Command) : Bool :=
  match c with
  | .desc .. | .gather .. | .twf .. | .tmma _ | .tmmas _ | .bank .. => true
  | _ => false

/-- The tiles a command uses, with their classes (R65). -/
def cmdTiles (s : State) (e : TagEntry) (c : Command) : List (Nat × TClass) :=
  if takesScales c then withScales s (valueTiles s e c) else valueTiles s e c

/-- An earlier accepted TCFG or TREL that names a tile has not been validated (R395). -/
def cfgPending (s : State) (e : TagEntry) (t : Nat) : Bool :=
  s.tly.tags.any fun p => p.2.inFlight && decide (p.2.place < e.place) && match p.2.cmd with
    | some (.tcfg es) => (tileEnts es).any fun x => x.2.tile == t
    | some (.trel m) => bit m t
    | _ => false

/-- A TCFG with segment entries. -/
def hasSegs (es : List CfgEnt) : Bool := es.any fun x => match x with | .seg .. => true | _ => false

/-- An earlier accepted TCFG with segment entries for the command's stream has not been validated (R395). -/
def segPending (s : State) (e : TagEntry) : Bool :=
  s.tly.tags.any fun p => p.2.inFlight && decide (p.2.place < e.place) && hdrStream p.2.hdr == hdrStream e.hdr && match p.2.cmd with
    | some (.tcfg es) => hasSegs es
    | _ => false

/-- An earlier accepted CTXSET or CTXEVICT of a context has not completed (R164, R267). -/
def ctxPending (s : State) (e : TagEntry) (c : Nat) : Bool :=
  s.tly.tags.any fun p => p.2.inFlight && decide (p.2.place < e.place) && match p.2.cmd with
    | some (.ctxset d _) => d == c
    | some (.ctxevict d) => d == c
    | _ => false

/-- A field of a context's entry can be read at acceptance (R164, R267). -/
def ctxReadable (s : State) (e : TagEntry) (c : Nat) : Bool := (residentEntry s c).isSome && !ctxPending s e c

/-- The tracked objects other than tiles that a command touches, apart from those that wait for its start (R65, R282). -/
def objTouches (e : TagEntry) (c : Command) : List (Obj × TClass) :=
  let hc := Obj.ctx (hdrCtx e.hdr)
  match c with
  | .tcfg es => if hasSegs es then [(.segs (hdrStream e.hdr), .c)] else []
  | .inline _ x => if x.ctxRel then [(hc, .r)] else []
  | .desc .. | .gather .. | .tperm _ => (handlesOf c).map fun h => (.handle h, .r)
  | .dcre h _ _ => [(.handle h, .c)]
  | .dfree h => [(.handle h, .c)]
  | .tmmas _ => (.segs (hdrStream e.hdr), .r) :: (dedup ((mmasUse e).map fun p => p.2.ctx)).map fun c => (Obj.ctx c, TClass.r)
  | .bkopen x => (.bucket x.bucket, .c) :: if x.fromCtx then [(hc, .r)] else []
  | .bkadd b _ _ =>
    if b = 8 then (hc, .r) :: (e.bslot.toList.map fun b => (Obj.bucket b, TClass.a)) else [(.bucket b, .a)]
  | .bkclose b _ => [(.bucket b, .c)]
  | .bkqry b => [(.bucket b, .q)]
  | .ctxset c _ => [(.ctx c, .c)]
  | .ctxget c _ _ => [(.ctx c, .q)]
  | .ctxpin c _ => [(.ctx c, .c)]
  | .ctxevict c => [(.ctx c, .c)]
  | .ringset x => [(.ring x.ring, .c)]
  | .ringget n => [(.ring n, .q)]
  | _ => []

/-- Touches for more than ordering. -/
def realTouches (s : State) (e : TagEntry) (c : Command) : List Touch :=
  ((cmdTiles s e c).map fun p => (⟨.tile p.1, p.2, false, true⟩ : Touch)) ++ (objTouches e c).map fun p => ⟨p.1, p.2, false, true⟩

/-- Every tile in a class, for ordering only. -/
def allTiles (cls : TClass) : List Touch := (List.range 64).map fun t => ⟨.tile t, cls, true, true⟩

/-- Every bucket in class A, for ordering only (R267). -/
def allBuckets : List Touch := (List.range 8).map fun b => ⟨.bucket b, .a, true, true⟩

/-- The segment table of a stream: entries listed in ascending INDEX order (R74, R76). -/
def streamSegs (s : State) (stream : Nat) : List (Nat × Seg) :=
  (s.shf.segs.filter fun p => p.1 / 64 == stream).map fun p => (p.1 % 64, p.2)

/-- The hints a TMMAS could read at acceptance (R164): one for each HINT entry whose context's hint is valid. -/
def readHints (s : State) (us : List (Nat × Seg)) : List (Nat × Nat) :=
  us.filterMap fun p => if p.2.hint then
    match residentEntry s p.2.ctx with
    | some x => if ctxHValid x then some (p.1, ctxAHint x) else none
    | none => none
  else none

/-- Fix the touches of a TMMAS at acceptance (R76, R164, R395). -/
def decodeMmas (s : State) (e : TagEntry) (x : Mmas) : TagEntry :=
  let e := { e with segs := streamSegs s (hdrStream e.hdr) }
  let unsure := segPending s e
  let hs := (mmasUse e).filter fun p => p.2.hint
  let late := x.masked && (unsure || !hs.all fun p => ctxReadable s e p.2.ctx)
  let e := { e with hintsLate := late, hints := if late || !x.masked then [] else readHints s hs }
  let known := if unsure then { e with segs := [] } else e
  let c := Command.tmmas x
  let maybe := unsure || (valueTiles s known c).any fun p => cfgPending s e p.1
  let base := if maybe then
      ((valueTiles s known c).map fun p => (⟨.tile p.1, p.2, false, true⟩ : Touch))
        ++ ((objTouches known c).map fun p => (⟨p.1, p.2, false, true⟩ : Touch)) ++ allTiles .w ++ [⟨.anyCtx, .r, true, true⟩]
    else realTouches s known c
  { e with touches := base ++ if late then allTiles .a else [] }

/-- A decoded command with the touches fixed at its acceptance (R65, R267, R395). -/
def decodeTouches (s : State) (e : TagEntry) (c : Command) : TagEntry :=
  let e := { e with cmd := some c }
  match c with
  | .tmmas x => decodeMmas s e x
  | .bkadd 8 _ _ =>
    if ctxReadable s e (hdrCtx e.hdr) then
      let e := { e with bslot := (residentEntry s (hdrCtx e.hdr)).map ctxBSlot }
      { e with touches := realTouches s e c }
    else { e with touches := realTouches s e c ++ allBuckets }
  | _ =>
    if takesScales c && (valueTiles s e c).any fun p => cfgPending s e p.1 then
      { e with touches := ((valueTiles s e c).map fun p => (⟨.tile p.1, p.2, false, true⟩ : Touch))
          ++ ((objTouches e c).map fun p => (⟨p.1, p.2, false, true⟩ : Touch)) ++ allTiles .w }
    else { e with touches := realTouches s e c }

/-- A decoded RESUME has not been looked up yet (R331). -/
def resumePending (s : State) : Bool :=
  s.tly.tags.any fun p => decide (p.2.st = .waiting) && match p.2.cmd with | some (.resume _) => true | _ => false

/-- A BKCLOSE that the unplug sequence finds waiting goes to its end (R276). -/
def stopClose (e : TagEntry) : TagEntry := { e with st := .started, stop := some .unplug }

/-- What the unplug sequence makes of a packet decoded after its second step (R55, R276). -/
def unplugDecoded (t : Tag) (c : Command) (s : State) : State :=
  match c with
  | .bkclose .. => updTag t (fun e => stopClose (decodeTouches s e c)) s
  | _ => finish t (outc .abortedPower 0 0) s

/-- PACKET_DECODE (R309): the oldest queued packet ends at once, or becomes a command. It waits while a RESUME before it is looked up. -/
def execPacketDecode (s : State) : Host.Outcome State Fault Refusal :=
  match s.tly.inq with
  | [] => .next s
  | t :: r =>
    if resumePending s || !running s islC then .next s
    else
      let s := { s with tly := { s.tly with inq := r } }
      let e := tagOf s t
      let owner := match e.src with | .ring _ o => some o | _ => none
      match decodePacket owner e.pkt with
      | .inl o => .next (finish t o s)
      | .inr c =>
        if 1 ≤ s.ctl.unplug then .next (unplugDecoded t c s)
        else .next (setTag t (decodeTouches s e c) s)

/-! ### Start order -/

/-- Commands that use no operand: their tile states are not judged (R180, R236, R268, R320). -/
def judgesNothing (c : Command) : Bool :=
  match c with
  | .tmma x => x.count == 0
  | .bank _ x => x.count == 0
  | .station _ x => x.count == 0
  | .bkadd _ _ es => es.isEmpty
  | c => noRows c

/-- The NOWAIT bit of a command (R67). -/
def cmdNoWait (c : Command) : Bool :=
  match c with
  | .twf _ _ _ n => n
  | .tmma x => x.noWait
  | .tmmas x => x.noWait
  | .bank _ x => x.noWait
  | .station _ x => x.noWait
  | .bkadd _ n _ => n
  | c => xferNoWait c

/-- A transposition in place that was stopped once its source was held: its tile, PARTIAL by its own stop, is only written (log 34). -/
def ownPartial (e : TagEntry) (c : Command) : Bool :=
  match c with
  | .tperm x => !x.tensor && x.stile == x.dtile && e.job.bounced
  | _ => false

/-- R67 for the tiles a command uses. -/
def judgeCmd (s : State) (e : TagEntry) (c : Command) : Verdict :=
  if judgesNothing c then .go
  else if ownPartial e c then judge s ((cmdTiles s e c).filter fun p => decide (p.2 = .w)) (cmdNoWait c)
  else judge s (cmdTiles s e c) (cmdNoWait c)

/-- The first handle of a transfer with a translated descriptor (R216). -/
def xlatedHandle (s : State) (c : Command) : Option Nat :=
  (handlesOf c).find? fun h => match slotImage s h with | some i => (Desc.ofImage i).xlate | none => false

/-- A station's bit of ASY_PRIVMASK (R216). -/
def privileged (s : State) (n : Nat) : Bool := bit (rget s 0x6000) n

/-- The engines that ENG names: of one kind, 6-9 or 10-13 (R200, R201). -/
def engines (c : Command) : List Nat :=
  let pick := fun (base eng : Nat) => if eng = 4 then [base, base + 1, base + 2, base + 3] else [base + eng]
  match c with
  | .inline st x => pick (if st then 10 else 6) x.eng
  | .desc st x => pick (if st then 10 else 6) x.eng
  | .gather op x => pick (if op = .tgat then 6 else 10) x.eng
  | .tperm x => pick (if x.tensor then 10 else 6) x.eng
  | _ => []

/-- The engines eligible for a transfer (R201). -/
def eligible (s : State) (c : Command) : List Nat :=
  if (xlatedHandle s c).isSome && decide (1 < (engines c).length) then (engines c).filter (privileged s) else engines c

/-- A station outside the fabric is present (R131). -/
def present (s : State) (n : Nat) : Bool := decide (0 < (stnOf s n).rTotal) && decide (0 < (stnOf s n).oTotal)

/-- The stations a TVOP or TSFU names (R319). -/
def namedStns (op : Opcode) (x : StnOp) : List Nat :=
  if op = .tsfu then [5] else if x.stn = 2 then [3, 4] else [3 + x.stn]

/-- A DIAG opcode, which drives station DB (R57, R375). -/
def Command.isDiag (c : Command) : Bool :=
  match c with
  | .drdent .. | .dwrent .. | .drdhay .. | .dwrhay .. | .dscrub .. | .dretire _ | .drepair .. | .dtrace .. => true
  | _ => false

/-- The stations on which a ready command may start (R57, R79): the array's front feed for every array command; 32 + g for the Millers of
Gg. -/
def stationsFor (s : State) (c : Command) : List Nat :=
  match c with
  | .twf .. | .tmma _ | .tmmas _ => [1]
  | .bank _ x => [32 + (tileOf s x.dtile).group]
  | .station op x => (namedStns op x).filter (present s)
  | .bkadd .. => [14]
  | c => if c.isDiag then [15] else eligible s c

/-- A command that COMMAND_START starts: PREEMPT and RESUME act by rows of their own. -/
def startsHere (c : Command) : Bool :=
  match c with
  | .preempt .. | .resume _ => false
  | _ => true

/-- The contexts that a command needs before it starts (R77, R265, R267, R283, R291). -/
def startCtxs (e : TagEntry) (c : Command) : List Nat :=
  match c with
  | .tmmas _ => dedup ((mmasUse e).map fun p => p.2.ctx)
  | .inline _ x => if x.ctxRel && x.nr != 0 then [hdrCtx e.hdr] else []
  | .bkopen x => if x.fromCtx && x.nelem != 0 then [hdrCtx e.hdr] else []
  | .bkadd b _ es => if b = 8 ∧ es ≠ [] then [hdrCtx e.hdr] else []
  | .ctxpin x true => [x]
  | _ => []

/-- A context is there or has failed: nothing more is waited for. -/
def ctxThere (s : State) (e : TagEntry) (c : Nat) : Bool :=
  !e.ctxWait.contains c && (e.refs.contains c || (e.ctxBad.any fun p => p.1 == c) || (residentEntry s c).isSome)

/-- The bounce area is held by another TPERM, started or stopped (R234). -/
def bounceBusy (s : State) (t : Tag) : Bool :=
  (match s.tly.bounceHeld with | some u => u != t | none => false)
  || match s.tly.bounceRec with | some i => (tagOf s t).recSlot != some i | none => false

/-- A command waits for something of its own kind: a TPERM for the bounce area (R234), a TMMAS for a PARTIAL accumulator that a hint names
only now (item 7 of R157). -/
def waitsOwn (s : State) (t : Tag) (e : TagEntry) (c : Command) : Bool :=
  match c with
  | .tperm x => mustBounce x ((handlesOf c).map fun h => (slotImage s h).getD 0) && bounceBusy s t
  | .tmmas x => e.hintsLate && (dedup ((readHints s (mmasUse e)).map (·.2))).any fun a => decide (lateAcc s x a = .wait)
  | _ => false

/-- A waiting command all of whose waits have cleared: hazards, fences, PARTIAL tiles, contexts and the bounce area (R64, R68, R77, R79,
R234). -/
def readyCmd (s : State) (p : Tag × TagEntry) : Bool :=
  match p.2.cmd with
  | some c => decide (p.2.st = .waiting) && startsHere c && ((startCtxs p.2 c).all (ctxThere s p.2)) && !heldBack s p.1
      && decide (judgeCmd s p.2 c ≠ .wait) && !waitsOwn s p.1 p.2 c
  | none => false

/-- A waiting command is to use a station; one that moves nothing uses none. -/
def wantsStn (s : State) (e : TagEntry) (n : Nat) : Bool :=
  match e.cmd with
  | some c => decide (e.st = .waiting) && !judgesNothing c && (stationsFor s c).contains n
  | none => false

/-- An earlier command of the same stream has still to start on the station (point 3 of R81). A RESUME's command keeps its first place in the
order, and waits for none accepted after that (log 46). -/
def behindOnStn (s : State) (n : Nat) (e : TagEntry) : Bool :=
  decide (n < 16) && s.tly.tags.any fun p =>
    hdrStream p.2.hdr == hdrStream e.hdr && decide (p.2.acc < e.acc) && decide (p.2.place < e.place) && wantsStn s p.2 n

/-- Of the ready commands of a station: the earliest of each stream; of these the highest priority; of equals the earliest (R79, R81). -/
def takesFirst (s : State) (n : Nat) (t : Tag) : Bool :=
  let rs := (allocTags s).filter fun p => wantsStn s p.2 n && readyCmd s p && !behindOnStn s n p.2
  let heads := rs.filter fun p => !rs.any fun q => hdrStream q.2.hdr == hdrStream p.2.hdr && decide (q.2.acc < p.2.acc)
  heads.any fun p => p.1 == t && !heads.any fun q =>
    decide (hdrPrio p.2.hdr < hdrPrio q.2.hdr) || (hdrPrio q.2.hdr == hdrPrio p.2.hdr && decide (q.2.acc < p.2.acc))

/-- Started commands of a station. -/
def startedOn (s : State) (n : Nat) : List (Tag × TagEntry) :=
  (allocTags s).filter fun p => decide (p.2.st = .started) && p.2.job.stn == some n

/-- A command has issued its last memory or Hayloft request (R202). -/
def lastIssued (s : State) (p : Tag × TagEntry) : Bool := p.2.job.issued && !s.noc.outQ.any fun r => r.use.tagOf == some p.1

/-- A Cooper engine can start a command (R202). -/
def engineFree (s : State) (n : Nat) : Bool := decide ((startedOn s n).length < 2) && (startedOn s n).all (lastIssued s)

/-- V0, V1 or SF can start a command: its operation can be sent (R27, R58). -/
def stationFree (s : State) (n : Nat) : Bool := decide (0 < (stnOf s n).oHeld) && (startedOn s n).all fun p => p.2.job.opSent

/-- TH or DB can start a command: those it started before are under way (R58). -/
def underWay (s : State) (n : Nat) : Bool := (startedOn s n).all fun p => p.2.job.stage != 0

/-- The array's feeders can start a command (R57, R58): no read beat of an earlier one is still to be granted. -/
def feedersFree (s : State) (c : Command) : Bool :=
  (stnOf s 1).rdQ.isEmpty && ((stnOf s 0).rdQ.isEmpty || match c with | .twf .. => true | _ => false)

/-- The Millers of a group run no command (R178). -/
def millersFree (s : State) (g : Nat) : Bool :=
  !s.tly.tags.any fun p => decide (p.2.st = .started) && match p.2.cmd with
    | some (.bank _ x) => (tileOf s x.dtile).group == g && x.count != 0
    | _ => false

/-! ### Start -/

/-- What an attempt to start a command comes to: it waits, it is refused, or it starts on a station with these job fields. -/
inductive Start where
  | wait
  | reply (o : Outc)
  | go (stn : Option Nat) (f : TagEntry → TagEntry)

/-- Start or wait as a condition says. -/
def goIf (b : Bool) (stn : Nat) : Start := if b then .go (some stn) id else .wait

/-- A failure of a context with low detail bits added (R77, R265). -/
def ctxReply (o : Outc) (low : Nat) : Outc := { o with detail := o.detail ||| BitVec.ofNat 16 low }

/-- The lowest entry in use whose context failed, or whose hint is wanted and not valid (R77, R282). -/
def mmasCtxBad (s : State) (e : TagEntry) (x : Mmas) : Option Outc :=
  (mmasUse e).findSome? fun p =>
    match ctxFailure e p.2.ctx with
    | some o => some (ctxReply o p.1)
    | none =>
      if x.masked && p.2.hint then
        match residentEntry s p.2.ctx with
        | some y => if ctxHValid y then none else some (ctxReply (ctxFail .ctxInvalid 2) p.1)
        | none => none
      else none

/-- Items 2 to 7 of R157 for a TMMAS, contexts included (R77, R164). -/
def startMmas (t : Tag) (x : Mmas) (s : State) : Start × State :=
  let e := tagOf s t
  match arrayChecks s e false with
  | some o => (.reply o, s)
  | none =>
  match segsBad s e x.stile with
  | some i => (.reply (outc .shapeMismatch i 0), s)
  | none =>
    let us := mmasUse e
    let cs := dedup (us.map fun p => p.2.ctx)
    let s := resolveCtxs t cs s
    let e := tagOf s t
    if !ctxSettled s t cs then (.wait, s)
    else match mmasCtxBad s e x with
      | some o => (.reply o, s)
      | none =>
        let hs := if e.hintsLate then readHints s us else e.hints
        let late := if e.hintsLate then dedup (hs.map (·.2)) else []
        match (late.map (lateAcc s x)).find? fun v => decide (v ≠ .go) with
        | some (.reply o) => (.reply o, s)
        | some _ => (.wait, s)
        | none =>
          let go := takesFirst s 1 t && feedersFree s (.tmmas x)
          (if go then .go (some 0) fun e => { e with hints := hs, hintsLate := false } else .wait, s)

/-- A TMMA with RES 1 looks at the resident front at its place in the sequence (R160): a TWF that has taken its place before it is driven
first (log 28). -/
def resWaits (s : State) (x : Mma) : Bool := x.res && s.arr.passes.any (·.isTwf)

/-- Items 2 to 8 of R157 for a TWF or a TMMA (R160). -/
def startChecks (s : State) (e : TagEntry) (c : Command) : Option Outc :=
  match c with
  | .tmma x => if x.res then resChecks s e x else arrayChecks s e false
  | _ => arrayChecks s e false

/-- A TWF or a TMMA whose tiles allow it (R57, R58, R157). One with RES 1 is checked when it may take its place. -/
def startFeed (t : Tag) (c : Command) (s : State) : Start :=
  let e := tagOf s t
  let mayGo := takesFirst s 1 t && feedersFree s c && match c with | .tmma x => !resWaits s x | _ => true
  let late := match c with | .tmma x => x.res | _ => false
  if late && !mayGo then .wait
  else match startChecks s e c with
    | some o => .reply o
    | none => goIf mayGo (match c with | .twf .. => 1 | _ => 0)

/-- An array command (R156, R157). While the array is unusable R156 comes first, also for a TMMA with COUNT 0 (log 81). -/
def startArray (t : Tag) (c : Command) (s : State) : Start × State :=
  let e := tagOf s t
  if !arrayOk s then (.reply (outc .unsupported 0x4000 0), s)
  else match judgeCmd s e c with
    | .reply o => (.reply o, s)
    | .wait => (.wait, s)
    | .go =>
      match c with
      | .tmmas x => startMmas t x s
      | _ => (if judgesNothing c then .go (some 0) id else startFeed t c s, s)

/-- The slots of a transfer's handles in order, as read (R214): the images, or the first failure. -/
def checkSlots (t : Tag) : List Nat → State → (Outc ⊕ List (BitVec 512)) × State
  | [], s => (.inr [], s)
  | h :: r, s =>
    match (slotCheck t h s).1 with
    | .inl o => (.inl o, (slotCheck t h s).2)
    | .inr i =>
      let p := checkSlots t r (slotCheck t h s).2
      match p.1 with
      | .inl o => (.inl o, p.2)
      | .inr is => (.inr (i :: is), p.2)

/-- Checks 3 to 7 of R236 at an inline base (R234). -/
def startGo (t : Tag) (c : Command) (n : Nat) (imgs : List (BitVec 512)) (base : Nat) (s : State) : Start × State :=
  match xferChecks s c imgs base with
  | some o => (.reply o, s)
  | none =>
    let busy := match c with | .tperm x => mustBounce x imgs && bounceBusy s t | _ => false
    if busy then (.wait, dropSlots t s)
    else (.go (some n) fun e => { e with job := { e.job with imgs := imgs, base := base, asking := false, slots := [] } }, s)

/-- Checks 2 to 7 of R236, with the context of R283, once the images are read. -/
def startChecked (t : Tag) (c : Command) (n : Nat) (imgs : List (BitVec 512)) (s : State) : Start × State :=
  let e := tagOf s t
  match judgeCmd s e c with
  | .reply o => (.reply o, s)
  | .wait => (.wait, dropSlots t s)
  | .go =>
    match c with
    | .inline _ x =>
      if !x.ctxRel then startGo t c n imgs x.base s
      else match lengthBad s c imgs with
        | some d => (.reply (outc .length d 0), s)
        | none =>
          let cx := hdrCtx e.hdr
          let s := resolveCtxs t [cx] s
          if !ctxSettled s t [cx] then (.wait, s)
          else match ctxFailure (tagOf s t) cx, residentEntry s cx with
            | some o, _ => (.reply o, s)
            | none, some y =>
              if 2 ^ 48 ≤ ctxABase y + x.base then (.reply (outc .descRange x.win 0), s)
              else startGo t c n imgs (ctxABase y + x.base) s
            | none, none => (.wait, s)
    | _ => startGo t c n imgs 0 s

/-- The reply of a transfer that no privileged engine may carry out (R201, R216). -/
def noEngine (h : Nat) : Outc := outc .descInvalid (0xA000 + h) 0

/-- A transfer whose slots have been read (R201, R214, R216, R236): of the engines that may take it, it starts on the lowest that can. Where
no engine is eligible the reply names the translated handle, whatever another handle's check would say. -/
def startRead (t : Tag) (c : Command) (free : Option Nat) (s : State) : Start × State :=
  match eligible s c, xlatedHandle s c, free with
  | [], some h, _ => (.reply (noEngine h), s)
  | _, _, none => (.wait, dropSlots t s)
  | _, x, some n =>
    match checkSlots t (handlesOf c) s, x with
    | (.inl o, s), _ => (.reply o, s)
    | (.inr imgs, s), some h => if privileged s n then startChecked t c n imgs s else (.reply (noEngine h), s)
    | (.inr imgs, s), none => startChecked t c n imgs s

/-- A transfer (R201, R214): once it could start, or no engine is eligible, the Assayer reads its handles' slots. -/
def startXfer (t : Tag) (c : Command) (s : State) : Start × State :=
  if noRows c then (.go none id, s)
  else
    let hs := handlesOf c
    let free := (eligible s c).find? fun n => engineFree s n && takesFirst s n t
    if hs ≠ [] ∧ (tagOf s t).job.asking = false then
      (.wait, if free.isSome || (eligible s c).isEmpty then askSlots t hs s else s)
    else if hs ≠ [] ∧ slotsHere s t hs = false then (.wait, s)
    else startRead t c free s

/-- A bank-arithmetic command (R178, R180). -/
def startBank (t : Tag) (c : Command) (x : BankOp) (s : State) : Start :=
  if x.count = 0 then .go none id
  else match judgeCmd s (tagOf s t) c with
    | .reply o => .reply o
    | .wait => .wait
    | .go =>
      let g := (tileOf s x.dtile).group
      if millersFree s g && takesFirst s (32 + g) t then .go none id else .wait

/-- A TVOP or TSFU: checks 1 to 3 of R320. One with COUNT 0 completes OK, with its destinations VALID (R96). -/
def startStation (t : Tag) (c : Command) (x : StnOp) (s : State) : Start × State :=
  let ns := stationsFor s c
  if ns = [] then (.reply (outc .unsupported 0x3000 0), s)
  else if x.count = 0 then (.reply (outc .ok 0 0), markWritten t s)
  else match judgeCmd s (tagOf s t) c with
    | .reply o => (.reply o, s)
    | .wait => (.wait, s)
    | .go =>
      match ns.find? fun n => stationFree s n && takesFirst s n t with
      | some n => (.go (some n) id, s)
      | none => (.wait, s)

/-- Checks 1 and 2 of R265. -/
def startBkopen (t : Tag) (x : BkOpen) (s : State) : Start × State :=
  if x.nelem = 0 then (.go none id, s)
  else if (bucketOf s x.bucket).st ≠ .closed then (.reply (bkState 2 x.bucket), s)
  else if !x.fromCtx then (.go none id, s)
  else
    let c := hdrCtx (tagOf s t).hdr
    let s := resolveCtxs t [c] s
    if !ctxSettled s t [c] then (.wait, s)
    else match ctxFailure (tagOf s t) c with
      | some o => (.reply (ctxReply o x.bucket), s)
      | none => (.go none id, s)

/-- A verdict on the sources of a BKADD names the tile of the lowest-indexed entry that fails (R268). -/
def bkaddVerdict (s : State) (es : List BkEnt) (o : Outc) : Outc :=
  let v := if o.status = .tileEmpty then 1 else 2
  match es.find? fun x => judge1 .r (tileOf s x.tile) == v with
  | some x => outc o.status (x.tile + if (tileOf s x.tile).st = .unconfigured then 256 else 0) 0
  | none => o

/-- Checks 1 and 2 of R268. -/
def startBkadd (t : Tag) (c : Command) (b : Nat) (es : List BkEnt) (s : State) : Start × State :=
  if es = [] then (.go none id, s)
  else match judgeCmd s (tagOf s t) c with
    | .reply o => (.reply (bkaddVerdict s es o), s)
    | .wait => (.wait, s)
    | .go =>
      let cx := hdrCtx (tagOf s t).hdr
      let cs := if b = 8 then [cx] else []
      let s := resolveCtxs t cs s
      if !ctxSettled s t cs then (.wait, s)
      else match ctxFailure (tagOf s t) cx with
        | some o => (.reply o, s)
        | none => (goIf (takesFirst s 14 t && underWay s 14) 14, s)

/-- CTXPIN with PIN 1 waits for its context before it starts (R287, R291, R333); one that the row count refuses starts no fetch. -/
def startPin (t : Tag) (c : Nat) (s : State) : Start × State :=
  if (residentRow s c).isSome || decide (16256 ≤ pinnedRows s) then (.go none id, s)
  else
    let s := resolveCtxs t [c] s
    if !ctxSettled s t [c] then (.wait, s)
    else match ctxFailure (tagOf s t) c with
      | some o => (.reply o, s)
      | none => (.go none id, s)

/-- Try to start a command whose hazards and fences have cleared. -/
def tryStart (t : Tag) (c : Command) (s : State) : Start × State :=
  match c with
  | .twf .. | .tmma _ | .tmmas _ => startArray t c s
  | .inline .. | .desc .. | .gather .. | .tperm _ => startXfer t c s
  | .bank _ x => (startBank t c x s, s)
  | .station _ x => startStation t c x s
  | .bkopen x => startBkopen t x s
  | .bkadd b _ es => startBkadd t c b es s
  | .ctxpin x true => startPin t x s
  | c => (if c.isDiag then goIf (takesFirst s 15 t && underWay s 15) 15 else .go none id, s)

/-- The latches of the tiles that a starting command touches in class A, W or C become invalid (R140). -/
def dropLatches (e : TagEntry) (s : State) : State :=
  let hit := fun (l : Latch) => e.touches.any fun x =>
    decide (x.obj = .tile l.tile) && !x.orderOnly && (x.cls == .a || x.cls == .w || x.cls == .c)
  { s with crt := { s.crt with latches := s.crt.latches.filter fun p => match p.2 with | some l => !hit l | none => true } }

/-- Start a command: STARTED, its touches those of the configuration in force, its segment table fixed (R63, R64, R395). -/
def beginCmd (t : Tag) (c : Command) (stn : Option Nat) (f : TagEntry → TagEntry) (s : State) : State :=
  let e := f (tagOf s t)
  let e := { e with st := .started, job := { e.job with stn := stn } }
  let more := (realTouches s e c).filter fun x => !e.touches.any fun y => decide (y.obj = x.obj) && decide (y.cls = x.cls) && !y.orderOnly
  let s := setTag t { e with touches := e.touches ++ more } s
  let s := match c with
    | .tmmas _ => endTouch t (.segs (hdrStream e.hdr)) s
    | .tperm x => if mustBounce x e.job.imgs then { s with tly := { s.tly with bounceHeld := some t } } else s
    | _ => s
  let s := traceEv 1 islC (stn.getD 0) t.toNat 0 (dropLatches (tagOf s t) s)
  match c with
  | .twf .. | .tmma _ | .tmmas _ => arrayBegin t s
  | _ => s

/-- The crossing that dispatches a command to its island, if it has one (R348). -/
def dispatchCross (s : State) (c : Command) : Option Nat :=
  match c with
  | .bank _ x => some (7 * (tileOf s x.dtile).group + 4)
  | c => if c.opcode.island = islH then some 60 else if c.opcode.island = islA then some 62 else none

/-- A command starts once it can be dispatched (R20). -/
def dispatch (t : Tag) (c : Command) (stn : Option Nat) (f : TagEntry → TagEntry) (s : State) : State :=
  match dispatchCross s c with
  | some n => if canCross s n then beginCmd t c stn f (crossIn n s) else s
  | none => beginCmd t c stn f s

/-- What an attempt to start a command comes to. -/
def applyStart (t : Tag) (c : Command) (p : Start × State) : State :=
  match p.1 with
  | .wait => p.2
  | .reply o => finish t o p.2
  | .go stn f => dispatch t c stn f p.2

/-- COMMAND_START (R64, R67, R68, R79): a waiting command whose waits have cleared starts, or is refused, or goes on waiting. -/
def execCommandStart (tag : Tag) (s : State) : Host.Outcome State Fault Refusal :=
  let e := tagOf s tag
  match e.cmd with
  | some c =>
    if e.st ≠ .waiting ∨ startsHere c = false ∨ heldBack s tag = true ∨ 1 ≤ s.ctl.unplug ∨ running s islC = false then .next s
    else .next (applyStart tag c (tryStart tag c s))
  | none => .next s

/-! ### Replies -/

/-- Release a tag (R34, R325). -/
def releaseTag (t : Tag) (s : State) : State := setTag t TagEntry.free s

/-- REPLY_DELIVERED (R34, R325): the reply on `sts_` is acknowledged; its tag is released, or its notify is due. -/
def execReplyDelivered (s : State) : Host.Outcome State Fault Refusal :=
  match s.tly.stsCur with
  | some (.reply t) =>
    let e := tagOf s t
    let s := { s with tly := { s.tly with stsCur := none, delivered := s.tly.delivered + 1 } }
    let s := traceEv 3 islC 0 t.toNat 0 (cnt 0x9044 1 s)
    let s := if hdrNotify e.own then
        pumpNtf { (setTag t { e with st := .notifying } s) with tly.ntfQ := s.tly.ntfQ ++ [t] }
      else releaseTag t s
    .next (pumpSts s)
  | _ => .next s

/-- NOTIFY_DELIVERED (R34): the notify is acknowledged and its tag released. -/
def execNotifyDelivered (s : State) : Host.Outcome State Fault Refusal :=
  match s.tly.ntfCur with
  | some t => .next (pumpNtf (releaseTag t { s with tly := { s.tly with ntfCur := none } }))
  | none => .next s

/-- REGISTER_DATA_DELIVERED (R33): the register data on `sts_` are acknowledged. -/
def execRegisterDataDelivered (s : State) : Host.Outcome State Fault Refusal :=
  match s.tly.stsCur with
  | some (.regData _) => .next (pumpSts { s with tly := { s.tly with stsCur := none } })
  | _ => .next s

end Sys2Proof.Machine
end

