-- ==== Sys2Proof/Machine/Rings.lean ====
section
/-! DEFINITION. Command rings (R294-R303): ring entries, pairs, doorbells, the scheduler, and the commands RINGSET and RINGGET. -/

namespace Sys2Proof.Machine

/-! ### Entries -/

/-- A ring entry. -/
def ringOf (s : State) (n : Nat) : Ring := tget Ring.zero s.rng.ents n

/-- Set a ring entry. -/
def setRing (n : Nat) (r : Ring) (s : State) : State := { s with rng := { s.rng with ents := tset Ring.zero s.rng.ents n r } }

/-- The OWNER of a ring's pair, its WEIGHT, its doorbell bit (R295, R296). -/
def ringOwner (s : State) (n : Nat) : Nat := tget 0 s.rng.owners (n / 2)
def ringWeight (s : State) (n : Nat) : Nat := tget 1 s.rng.weights n
def ringBell (s : State) (n : Nat) : Bool := tget false s.rng.bells n

/-- Set or clear a doorbell bit. -/
def setBell (n : Nat) (b : Bool) (s : State) : State := { s with rng := { s.rng with bells := tset false s.rng.bells n b } }

/-- SIZE (R294). -/
def Ring.size (r : Ring) : Nat := 2 ^ r.szlog

/-- Packets a ring holds, were TAIL `t` (R294). -/
def Ring.countTo (r : Ring) (t : Nat) : Nat := (t + 2048 - r.head) % 2048

/-- Packets a ring holds (R294). -/
def Ring.count (r : Ring) : Nat := r.countTo r.tail

/-- The byte address of packet index `i` (R294). -/
def Ring.slot (r : Ring) (i : Nat) : Nat := r.base * 4096 + 64 * (i % r.size)

/-- A ring entry as its 64 bits (R294). -/
def Ring.bits (r : Ring) : Word :=
  put (b2n r.en) 63 ||| put (b2n r.err) 62 ||| put r.szlog 58 ||| put r.head 47 ||| put r.tail 36 ||| put r.base 0

/-- Discard what was read ahead of the rings that satisfy `p`, and withdraw reads not yet sent (R300). -/
def dropLines (p : Nat → Bool) (s : State) : State :=
  { s with
    rng := { s.rng with lines := s.rng.lines.filter fun l => !p l.ring }
    noc := { s.noc with outQ := s.noc.outQ.filter fun r => match r.use with | .ring n _ => !p n | _ => true } }

/-! ### Doorbells -/

/-- A doorbell write (R296). -/
def ringDoorbell (n tail : Nat) (s : State) : State :=
  let r := ringOf s n
  let s := traceEv 10 islC n 0 tail s
  if r.count ≤ r.countTo tail ∧ r.countTo tail ≤ r.size then setBell n true (setRing n { r with tail := tail } s)
  else unusable islC 0 0x8000 n (dropLines (· == n) (ringError n 1 (cnt 0x804C 1 s)))

/-! ### RINGSET and RINGGET -/

/-- Apply a RINGSET (R302). -/
def applyRingset (x : RingSet) (s : State) : State :=
  let r := ringOf s x.ring
  let r := { r with en := x.en, err := r.err && !x.clrErr }
  let r := if x.full then { r with szlog := x.szlog, base := x.base, head := x.ptr, tail := x.ptr } else r
  let s := setRing x.ring r s
  let s := { s with rng := { s.rng with weights := tset 1 s.rng.weights x.ring x.weight } }
  let s := if x.full || !x.en then dropLines (· == x.ring) s else s
  if x.full then
    setBell x.ring false { s with rng := { s.rng with
      owners := tset 0 s.rng.owners (x.ring / 2) x.owner
      waitPairs := s.rng.waitPairs.filter fun n => n / 2 != x.ring / 2 } }
  else s

/-- RINGSET of a started tag (R302). -/
def execRingset (tag : Tag) (s : State) : Host.Outcome State Fault Refusal :=
  match started s tag .ringset with
  | some e =>
    match e.cmd with
    | some (.ringset x) =>
      .next (if x.full && (ringOf s x.ring).en then finish tag (outc .ringState 0x1000 0) s
        else finish tag (outc .ok 0 1) (applyRingset x s))
    | _ => .next s
  | none => .next s

/-- The reply of a RINGGET (R303). -/
def ringgetReply (s : State) (n : Nat) : Outc :=
  let r := ringOf s n
  outc .ok (b2n (ringBell s n))
    (r.head % 2 ^ 11 + 2 ^ 11 * (r.tail % 2 ^ 11) + 2 ^ 22 * (r.szlog % 16) + 2 ^ 26 * b2n r.en + 2 ^ 27 * b2n r.err + 2 ^ 28 * ringWeight s n)

/-- RINGGET of a started tag (R303). -/
def execRingget (tag : Tag) (s : State) : Host.Outcome State Fault Refusal :=
  match started s tag .ringget with
  | some e =>
    match e.cmd with
    | some (.ringget n) => .next (finish tag (ringgetReply s n) s)
    | _ => .next s
  | none => .next s

/-! ### The scheduler -/

/-- A ring the scheduler may visit (step 1 of R298); a pair that waits for its owner's fetch is not visited (step 3). -/
def visitable (s : State) (n : Nat) : Bool :=
  ringBell s n && (ringOf s n).en && !(ringOf s n).err && decide (0 < ringWeight s n) && !s.rng.waitPairs.any fun m => m / 2 == n / 2

/-- Places from the pointer to a ring, with wrap-around. -/
def fromPtr (s : State) (n : Nat) : Nat := (n + 32768 - s.rng.ptr) % 32768

/-- The first ring to visit at or after the pointer (R298). -/
def nextRing (s : State) : Option Nat :=
  ((s.rng.bells.map (·.1)).filter (visitable s)).foldl (fun (b : Option Nat) n => match b with
    | some m => if fromPtr s n < fromPtr s m then some n else some m
    | none => some n) none

/-- Move the pointer past a ring. -/
def passRing (n : Nat) (s : State) : State := { s with rng := { s.rng with ptr := (n + 1) % 32768 } }

/-- The line read ahead that gives packet index `i` of a ring. -/
def lineFor (s : State) (n i : Nat) : Option RingLine :=
  s.rng.lines.find? fun l => l.ring == n && decide ((i + 2048 - l.idx) % 2048 < l.n)

/-- Packet index `i` of a ring, once its line has arrived. -/
def ringPacket (s : State) (n i : Nat) : Option Packet :=
  match lineFor s n i with
  | some l =>
    match l.data with
    | some d => some (Packet.ofBits (d >>> (8 * ((ringOf s n).slot i % 128))))
    | none => none
  | none => none

/-- Drop the lines of a ring whose packets have all been taken. -/
def dropTaken (n : Nat) (s : State) : State :=
  let h := (ringOf s n).head
  let keep := fun (l : RingLine) =>
    l.ring != n || decide ((h + 2048 - l.idx) % 2048 < l.n) || decide ((l.idx + 2048 - h) % 2048 < 1024)
  { s with rng := { s.rng with lines := s.rng.lines.filter keep } }

/-- Read the line that holds packet index `i`, if a line more may be read (R300). -/
def readLine (n : Nat) (s : State) (i : Nat) : State :=
  let r := ringOf s n
  if (lineFor s n i).isSome ∨ 8 ≤ (s.rng.lines.filter fun l => l.ring == n).length ∨ 32 ≤ s.rng.lines.length then s
  else
    let two := decide (r.slot i % 128 = 0) && decide (1 < r.countTo r.tail - r.countTo i) && decide (1 < r.size)
    let a := r.slot i
    let q := s.rng.seq
    let l : RingLine := ⟨q, n, i, if two then 2 else 1, none⟩
    let ls := s.rng.lines ++ [l]
    let g := { s.rng with lines := ls, seq := q + 1 }
    askMem ⟨false, a - a % 128, 0, 0, .ring n q⟩ { s with rng := g }

/-! ### Acceptance in turn -/

/-- The next packet of the ring being served, when its line has arrived and it can be accepted. -/
def ringReady (s : State) : Option (Nat × Packet) :=
  match s.rng.visit with
  | some (n, _) =>
    let r := ringOf s n
    if r.en && !r.err && r.count != 0 && bit (rget s 0x8004) 0 then
      (ringPacket s n r.head).bind fun p => if canAccept s p then some (n, p) else none
    else none
  | none => none

/-- The packet of a CMD flit at the head of channel 1's buffer, when it can be accepted and answered (R43, R47). -/
def nocReady (s : State) : Bool :=
  match s.noc.in1 with
  | .inl f :: _ => hdrKind f.hdr == 0xC && s.noc.o1.held != 0 && canAccept s (Packet.ofBits f.data)
  | _ => false

/-- The packet at the front of `cmd_` can be accepted. -/
def cmdReady (s : State) : Bool :=
  match s.tly.cmdHeld with
  | .packet p :: _ => canAccept s p
  | _ => false

/-- A source has a packet ready (R301): 0 `cmd_`, 1 the network, 2 the scheduler. -/
def srcReady (s : State) (k : Nat) : Bool := if k = 0 then cmdReady s else if k = 1 then nocReady s else (ringReady s).isSome

/-- No other source with a packet ready comes before source `k` in the rotating order (R301; log 91). -/
def hasTurn (s : State) (k : Nat) : Bool :=
  !(List.range 3).any fun j => srcReady s j && decide ((j + 3 - s.tly.turn) % 3 < (k + 3 - s.tly.turn) % 3)

/-! ### The visit -/

/-- A visit ends: the pointer moves past the ring (R298). -/
def endVisit (n : Nat) (s : State) : State := passRing n (dropTaken n { s with rng := { s.rng with visit := none } })

/-- Take the next packet of a ring (R298-R300): the visit ends with the last that WEIGHT allows, or the last the ring holds. -/
def takePacket (n k : Nat) (p : Packet) (s : State) : State :=
  let r := ringOf s n
  let s := accept (.ring n (ringOwner s n)) p (setRing n { r with head := (r.head + 1) % 2048 } s)
  let s := dropTaken n { s with rng := { s.rng with visit := some (n, k + 1) } }
  if ringWeight s n ≤ k + 1 ∨ (ringOf s n).count = 0 then endVisit n s else s

/-- Serve the ring being visited, of which `k` packets have been taken (step 4 of R298): the next packet, once it has been read and the other
sources have had their turn. A visit whose next line finds no line free ends (log 49). -/
def serveRing (n k : Nat) (s : State) : State :=
  let r := ringOf s n
  if !r.en || r.err || r.count == 0 || !bit (rget s 0x8004) 0 || decide (ringWeight s n ≤ k) then endVisit n s
  else match ringPacket s n r.head with
    | some p => if !canAccept s p then endVisit n s else if hasTurn s 2 then takePacket n k p s else s
    | none =>
      let t := ((List.range (min (ringWeight s n - k) r.count)).map fun j => (r.head + j) % 2048).foldl (readLine n) s
      if (lineFor t n r.head).isSome then t else endVisit n t

/-- The owner of a ring's pair is not resident (step 3 of R298): its fetch starts, and the pair waits for it. -/
def fetchOwner (n owner : Nat) (s : State) : State :=
  let s := passRing n (cnt 0x8050 1 s)
  let wait := fun (s : State) => { s with rng := { s.rng with waitPairs := s.rng.waitPairs ++ [n] } }
  if s.hab.fetches.any fun f => f.ctx == owner then wait s
  else if 16 ≤ s.hab.fetches.length then s
  else match (startFetch owner s).1 with
    | some _ => dropLines (· == n) (ringError n 3 (startFetch owner s).2)
    | none => wait (startFetch owner s).2

/-- A new visit (steps 1 to 3 of R298). -/
def beginVisit (n : Nat) (s : State) : State :=
  if (ringOf s n).count = 0 then passRing n (setBell n false s)
  else
    let o := ringOwner s n
    match residentEntry s o with
    | none => fetchOwner n o s
    | some x =>
      if ctxSuspend x || !ctxValid x then passRing n (cnt 0x8050 1 s)
      else serveRing n 0 { s with rng := { s.rng with visit := some (n, 0) } }

/-- One step of the scheduler (R298): the visit under way goes on, or the next begins. Rings wait until boot completes, and step 1 of R55
stops the scheduler (R301). -/
def schedule (s : State) : State :=
  if !awake s || !booted s || s.ctl.halted || !running s islC then s
  else match s.rng.visit with
    | some (n, k) => serveRing n k s
    | none => match nextRing s with
      | none => s
      | some n => beginVisit n s

end Sys2Proof.Machine
end

