-- ==== Sys2Proof/Machine/Control.lean ====
section
/-! DEFINITION. Control commands: FENCE (R72), NOP (R321), PREEMPT (R333, R334), RESUME (R331, R332) and AUDIT (R338-R343), and the
writing of a dump. -/

namespace Sys2Proof.Machine

/-! ### FENCE and NOP -/

/-- FENCE of a started tag (R72): every earlier command of its scope has completed. -/
def execFence (tag : Tag) (s : State) : Host.Outcome State Fault Refusal :=
  match started s tag .fence with
  | some _ => .next (finish tag (outc .ok 0 0) s)
  | none => .next s

/-- NOP of a started tag (R321). -/
def execNop (tag : Tag) (s : State) : Host.Outcome State Fault Refusal :=
  match started s tag .nop with
  | some _ => .next (finish tag (outc .ok 0 0) s)
  | none => .next s

/-! ### PREEMPT -/

/-- A command that no PREEMPT acts on (R333): control and DIAG commands, and the bucket commands of R276. A RESUME that has claimed a
record counts as the command it continues. -/
def preemptSpares (e : TagEntry) : Bool :=
  match e.cmd with
  | some (.bkopen _) | some (.bkadd ..) | some (.bkclose ..) => true
  | some _ => decide (0x70 ≤ hdrOp e.hdr)
  | none => true

/-- The commands a PREEMPT acts on, in acceptance order (R329, R333). -/
def preemptTargets (s : State) (me : TagEntry) (scope ttag : Nat) : List (Tag × TagEntry) :=
  let inScope := fun (p : Tag × TagEntry) =>
    if scope = 0 then hdrStream p.2.hdr == hdrStream me.hdr else if scope = 1 then true else p.1.toNat == ttag
  ((allocTags s).filter fun p => p.2.inFlight && decide (p.2.acc < me.acc) && !preemptSpares p.2 && inScope p).foldr insertAcc []

/-- A started command stops at a boundary (R333): transfers and array commands; the rest run on. -/
def stopsAtBoundary (c : Command) : Bool :=
  match c with
  | .inline .. | .desc .. | .gather .. | .tperm _ | .twf .. | .tmma _ | .tmmas _ => true
  | _ => false

/-- An array command. -/
def isArrayCmd (c : Command) : Bool :=
  match c with
  | .twf .. | .tmma _ | .tmmas _ => true
  | _ => false

/-- Stop a command that has not started (R333): PREEMPTED, count 0, with a reference. -/
def stopWaiting (t : Tag) (s : State) : State :=
  let s := dropAsks t true s
  let (ref, s) := takeRec t (tagOf s t).job.row s
  finish t (outc .preempted ref 0) (traceEv 4 islC 0 t.toNat ref s)

/-- A PREEMPT acts on one command (R333). -/
def preemptOne (me : Tag) (s : State) (p : Tag × TagEntry) : State :=
  let t := p.1
  let e := p.2
  let s := updTag t (fun e => { e with actedBy := e.actedBy ++ [me] }) s
  let s := updJob me (fun j => { j with acted := j.acted + 1 }) s
  if e.st = .waiting then stopWaiting t s
  else match e.cmd with
    | some c =>
      let s := if stopsAtBoundary c then updTag t (fun e => { e with stop := e.stop.or (some .preempt) }) s else s
      if isArrayCmd c then arrayStop t s else s
    | none => s

/-- PREEMPT (R333, R334): it acts as soon as it is decoded; it completes once what it acts on has completed and its fences allow. -/
def execPreempt (tag : Tag) (s : State) : Host.Outcome State Fault Refusal :=
  let e := tagOf s tag
  match e.cmd with
  | some (.preempt scope ttag) =>
    if !running s islC then .next s
    else if e.st = .waiting then
      let s := (preemptTargets s e scope ttag).foldl (preemptOne tag) s
      .next (traceEv 1 islC 0 tag.toNat 0 (updTag tag (fun e => { e with st := .started }) s))
    else if e.st = .started ∧ e.job.acted = 0 ∧ heldBack s tag = false then .next (finish tag (outc .ok 0 e.job.landed) s)
    else .next s
  | _ => .next s

/-! ### RESUME -/

/-- The entry of a RESUME that has claimed a record: the stopped command in its own place, under the RESUME's tag (R331, R332). -/
def claimedEntry (e : TagEntry) (r : Rec) (slot : Nat) : TagEntry :=
  { r.cmd with st := .waiting, own := e.own, src := e.src, acc := e.acc, recSlot := some slot }

/-- RESUME (R331): the reference is looked up as soon as the command is decoded. -/
def execResume (tag : Tag) (s : State) : Host.Outcome State Fault Refusal :=
  let e := tagOf s tag
  match e.cmd with
  | some (.resume ref) =>
    if e.st ≠ .waiting ∨ running s islC = false then .next s
    else
      let slot := ref % 256
      let r := recOf s slot
      let no := finish tag (outc .descInvalid (0xB000 + ref) 0) s
      if r.gen ≠ ref / 256 then .next no
      else match r.st with
        | .free | .claimed => .next no
        | .cancelled o => .next (freeRec slot (finish tag o s))
        | .held => .next (setTag tag (claimedEntry e r slot) (setRec slot { r with st := .claimed } s))
  | _ => .next s

/-! ### Dumps -/

/-- Write a list of bytes for a command, at an address of memory or of the Hayloft (R340, R376): one WR for each line, or one access for
each word; each is counted until it is acknowledged or performed. -/
def writeOut (tag : Tag) (master : Nat) (hay : Bool) (a : Nat) (bs : List Byte) (s : State) : State :=
  let n := bs.length
  if hay then askWriteBytes tag master a bs (.dump tag) s
  else
    let ls := (List.range (n / 128 + 2)).filterMap fun i =>
      let base := 128 * (a / 128 + i)
      let lo := if i = 0 then a % 128 else 0
      let hi := min 128 (a + n - base)
      if base < a + n ∧ lo < hi then some (base, lo, hi - lo) else none
    let s := updJob tag (fun j => { j with wrOut := j.wrOut + ls.length }) s
    ls.foldl (fun s p =>
      let part := (bs.drop (p.1 + p.2.1 - a)).take p.2.2
      askMem ⟨true, p.1, BitVec.ofNat 1024 (ofBytes part * 2 ^ (8 * p.2.1)), BitVec.ofNat 128 ((2 ^ p.2.2 - 1) * 2 ^ p.2.1), .dump tag⟩ s) s

/-! ### AUDIT -/

/-- One sum as evaluated (R341, R342). -/
structure AuditSum where
  id : Nat
  isl : Nat
  rx : Nat
  excess : Bool
  expected : Nat
  found : Nat
  largest : Nat
  deriving DecidableEq, Repr

/-- A sum fails (R342). -/
def AuditSum.fails (x : AuditSum) : Bool := x.found != x.expected || x.excess

/-- A sum whose FOUND adds the terms listed. -/
def mkSum (id isl : Nat) (expected : Nat) (terms : List Nat) : AuditSum :=
  ⟨id, isl, 0, false, expected, terms.foldl (· + ·) 0, terms.foldl max 0⟩

/-- Sums of a station channel: read, write, operation (R132). -/
def readSum (s : State) (id n : Nat) : AuditSum := let x := stnOf s n; mkSum id islA x.rTotal [x.rHeld, x.rFly]
def writeSum (s : State) (id n : Nat) : AuditSum := let x := stnOf s n; mkSum id islA x.wTotal [x.wHeld, x.wrQ.length]
def opSum (s : State) (id n : Nat) : AuditSum := let x := stnOf s n; mkSum id islA x.oTotal [x.oHeld, x.oFly]

/-- The crossing FIFOs in the order of R348: sender, receiver, depth. -/
def crossings : List (Nat × Nat × Nat) :=
  ((List.range 8).flatMap fun g =>
    let b := 1 + g
    [(islA, b, 4), (b, islA, 8), (islA, b, 8), (b, islA, 4), (islC, b, 4), (b, islC, 4), (islA, b, 8)])
  ++ [(islA, islH, 8), (islH, islA, 8), (islC, islH, 8), (islH, islC, 8), (islC, islH, 4), (islH, islC, 4), (islC, islA, 4), (islA, islC, 4)]

/-- The entries of a crossing that its receiver has not taken (R348): of a drain crossing, the rows that wait at their banks. -/
def crossFill (s : State) (c : Nat) : Nat :=
  if c < 56 ∧ c % 7 = 6 then (s.arr.drainQ.filter fun r => r.lbank / 8 == c / 7).length else crossOcc s c

/-- Sums of class 0 (R338): what the sender or the partner holds, and what lies in the buffer. -/
def sums0 (s : State) : List AuditSum :=
  [readSum s 0 0, readSum s 1 1]
  ++ ((List.range 3).flatMap fun i => [readSum s (2 + 3 * i) (3 + i), writeSum s (3 + 3 * i) (3 + i), opSum s (4 + 3 * i) (3 + i)])
  ++ ((List.range 4).flatMap fun i => [readSum s (11 + 2 * i) (6 + i), writeSum s (12 + 2 * i) (6 + i)])
  ++ ((List.range 4).map fun i => readSum s (19 + i) (10 + i))
  ++ [readSum s 23 14, readSum s 24 15, writeSum s 25 15]
  ++ [mkSum 26 islC s.noc.o0.total [s.noc.o0.held, s.noc.o0.fly], mkSum 27 islC s.noc.o1.total [s.noc.o1.held, s.noc.o1.fly],
      mkSum 28 islC 16 [s.noc.i0Out, s.noc.in0.length], mkSum 29 islC 16 [s.noc.i1Out, (s.noc.in1.filter (·.isLeft)).length]]
  ++ crossings.zipIdx.map fun p =>
    { mkSum (30 + p.2) p.1.1 p.1.2.2 [p.1.2.2 - crossFill s p.2, crossFill s p.2] with rx := p.1.2.1 }

/-- Tags in WAITING, STARTED or REPLYING. -/
def liveTags (s : State) : Nat := (s.tly.tags.filter fun p => p.2.inFlight || p.2.st == .replying).length

/-- Sums of class 1 (R338). -/
def sums1 (s : State) : List AuditSum :=
  let a := (s.tly.tags.filter fun p => p.2.alloc).length
  [mkSum 94 islC 512 [a, freeTags s], ⟨95, islC, 0, false, liveTags s, s.tly.accNext - s.tly.delivered, s.tly.accNext⟩]

/-- Sums of class 2 (R278, R338): a CLOSED slot passes with zeros. -/
def sums2 (s : State) : List AuditSum :=
  (List.range 8).map fun b =>
    let x := bucketOf s b
    if x.st = .closed then mkSum (96 + b) islC 0 []
    else { mkSum (96 + b) islC x.cSent [x.cAcked, x.cFailed, x.cOut] with excess := decide (x.cPlaced < x.cSent) }

/-- The sum of class 3 (R286, R338). -/
def sums3 (s : State) : List AuditSum :=
  let pairs := s.tly.tags.foldl (fun n p => n + p.2.refs.length) 0
  [mkSum 104 islC pairs (s.hab.rows.map fun p => match p.2 with | some r => refCount s r.ctx | none => 0)]

/-- The sums a MASK selects (R341). -/
def sumsOf (s : State) (mask : Nat) : List AuditSum :=
  (if mask.testBit 0 then sums0 s else []) ++ (if mask.testBit 1 then sums1 s else [])
  ++ (if mask.testBit 2 then sums2 s else []) ++ (if mask.testBit 3 then sums3 s else [])

/-- The class of a sum (R341). -/
def sumClass (id : Nat) : Nat := if id < 94 then 0 else if id < 96 then 1 else if id < 104 then 2 else 3

/-- The reply of an AUDIT (R343). -/
def auditReply (xs : List AuditSum) : Outc :=
  let bad := xs.filter AuditSum.fails
  match bad with
  | [] => outc .ok 0 xs.length
  | b :: r =>
    let low := r.foldl (fun m x => min m x.id) b.id
    let cls := (List.range 4).foldl (fun m c => m + if bad.any fun x => sumClass x.id == c then 2 ^ c else 0) 0
    outc .auditMismatch (cls + 256 * low) bad.length

/-- A number as `n` little-endian bytes. -/
def leBytes (n v : Nat) : List Byte := (List.range n).map fun i => BitVec.ofNat 8 (v >>> (8 * i))

/-- A record of the dump (R342); `none` for a sum that was not evaluated. -/
def sumRecord (id : Nat) (x : Option AuditSum) : List Byte :=
  match x with
  | none => leBytes 2 id ++ leBytes 14 0
  | some x =>
    leBytes 2 id ++ leBytes 1 x.isl ++ leBytes 1 (1 + 2 * b2n x.fails + 4 * b2n x.excess + 16 * x.rx)
      ++ leBytes 4 x.expected ++ leBytes 4 x.found ++ leBytes 4 x.largest

/-- The dump of an AUDIT (R342): a header and 105 records. -/
def auditDump (s : State) (mask : Nat) (xs : List AuditSum) : List Byte :=
  leBytes 8 (islOf s islC).cyc.toNat ++ leBytes 2 105 ++ leBytes 2 (xs.filter AuditSum.fails).length ++ leBytes 1 mask ++ leBytes 51 0
    ++ (List.range 105).flatMap fun i => sumRecord i (xs.find? fun x => x.id == i)

/-- Log a failing sum (R343, R377): UNIT its identifier, WHERE EXPECTED, INFO FOUND. -/
def logSum (s : State) (x : AuditSum) : State := if x.fails then logErr 0x10 x.isl x.id x.expected x.found s else s

/-- Complete an AUDIT: counted in TLY_AUDITS (R344). -/
def endAudit (tag : Tag) (o : Outc) (s : State) : State := finish tag o (cnt 0x9050 1 s)

/-- AUDIT of a started tag (R340-R343): the sums are taken, logged and dumped; then it replies. A dump write answered ERROR is only logged. -/
def execAudit (tag : Tag) (s : State) : Host.Outcome State Fault Refusal :=
  match started s tag .audit with
  | some e =>
    match e.cmd with
    | some (.audit mask dump hay addr) =>
      if e.job.stage = 0 then
        if mask = 0 then .next (endAudit tag (outc .ok 0 0) s)
        else
          let xs := sumsOf s mask
          let o := auditReply xs
          let bs := auditDump s mask xs
          let s := cnt 0x9054 (xs.filter AuditSum.fails).length (xs.foldl logSum s)
          if dump then
            let bad := if o.status = .ok then none else some o.detail
            .next (writeOut tag 9 hay addr bs (updJob tag (fun j => { j with stage := 1, bad := bad, landed := o.count.toNat }) s))
          else .next (endAudit tag o s)
      else if e.job.wrOut ≠ 0 then .next s
      else .next (endAudit tag (match e.job.bad with
        | some d => outc .auditMismatch d.toNat e.job.landed
        | none => outc .ok 0 e.job.landed) s)
    | _ => .next s
  | none => .next s

end Sys2Proof.Machine
end

