-- ==== Sys2Proof/Machine/Stations.lean ====
section
/-! DEFINITION. V0, V1 and SF: TVOP and TSFU (R319, R320), and what the stations send back: result beats, done and error pulses (R35-R37,
R117, R134, R135). -/

namespace Sys2Proof.Machine

/-! ### Operands -/

/-- The byte range of a tile that an operand covers (R320). -/
def opRange (s : State) (tag : Tag) (x : StnOp) (t : Nat) : Nat × Nat :=
  let rb := (jobTile s tag t).rowBytes
  (x.first * rb, (x.first + x.count) * rb)

/-- The write beats a command calls for, in order: tile, beat, words (R117, R320). -/
def opWrites (s : State) (tag : Tag) (x : StnOp) : List (Nat × Nat × BitVec 32) :=
  x.dsts.flatMap fun t =>
    let r := opRange s tag x t
    (beatsOf r.1 r.2).map fun j => (t, j, beatMask r.1 r.2 j)

/-- Checks 4 and 5 of R320. -/
def stationChecks (s : State) (x : StnOp) : Option Outc :=
  match (List.range 64).find? fun t => (x.srcs ++ x.dsts).contains t && decide ((tileOf s t).rows < x.first + x.count) with
  | some t => some (outc .length t 0)
  | none => if x.dsts.length = 2 ∧ x.dsts[0]? = x.dsts[1]? then some (outc .shapeMismatch (0xD000 + x.dsts.headD 0) 0) else none

/-- The groups of a command's tiles. -/
def opGroups (s : State) (x : StnOp) : List Nat :=
  dedup (((x.srcs ++ x.dsts).filter fun t => !(tileOf s t).spill).map fun t => (tileOf s t).group)

/-- Send the operation of a command, then ask for its read beats (R36, R118); the write beats of each destination are counted (R63). -/
def sendOp (tag : Tag) (n : Nat) (x : StnOp) (s : State) : State :=
  let s := snapTiles tag (dedup (x.srcs ++ x.dsts)) s
  let ws := opWrites s tag x
  let left := x.dsts.foldl (fun m t => tset 0 m t (ws.filter fun w => w.1 == t).length) []
  let s := updJob tag (fun j => { j with wLeft := left }) s
  let s := drive n (fun p => { p with ov := true, op := x.body, otag := tag }) s
  let s := updStn n (fun y => { y with oHeld := y.oHeld - 1, oFly := y.oFly + 1 }) s
  let s := updJob tag (fun j => { j with stage := 1, opSent := true }) s
  x.srcs.zipIdx.foldl (fun s p =>
    let r := opRange s tag x p.1
    askRead n tag p.1 r.1 r.2 (p.2 + 1 == x.srcs.length) s) s

/-- A command still holds a tile as its destination (R63). -/
def TagEntry.writes (e : TagEntry) (t : Nat) : Bool :=
  e.touches.any fun y => decide (y.obj = .tile t) && decide (y.cls = .w) && y.live && !y.orderOnly

/-- The states that a finished command leaves its destinations in, where it still holds them (R96): a PARTIAL tile becomes VALID only if all was
written and the command did not abort. -/
def stationTiles (e : TagEntry) (x : StnOp) (full : Bool) (s : State) : State :=
  (x.dsts.filter e.writes).foldl (fun s t => match (tileOf s t).st with
    | .partialTo _ => if full then markValid t s else s
    | _ => markValid t s) s

/-- The command has seen done and its last write beat, and all its beats have moved (R36). -/
def stationDone (e : TagEntry) (x : StnOp) : Bool :=
  e.job.dn.isSome && (x.dsts.isEmpty || e.job.wLast) && e.job.rdOut == 0 && e.job.wrOut == 0

/-- Complete a TVOP or TSFU (R96, R135). -/
def endStation (tag : Tag) (x : StnOp) (s : State) : State :=
  let e := tagOf s tag
  let o := formStatus e x.count
  let full := decide (o.status ≠ .aborted) && decide (e.job.wIdx = (opWrites s tag x).length)
  finish tag o (stationTiles e x full s)

/-- One step of a started TVOP or TSFU: the checks and the operation, or its end. No credit is spent while a group of its tiles wakes (R110). -/
def stationStep (tag : Tag) (x : StnOp) (s : State) : State :=
  let e := tagOf s tag
  match e.job.stn with
  | none => s
  | some n =>
    if e.job.stage = 0 then
      match stationChecks s x with
      | some o => finish tag o s
      | none =>
        if !(opGroups s x).all fun g => (groupOf s g).ready then wakeGroups (opGroups s x) s
        else if (stnOf s n).oHeld = 0 then s
        else sendOp tag n x s
    else if stationDone e x then endStation tag x s
    else s

/-- TVOP of a started tag (R320). -/
def execTvop (tag : Tag) (s : State) : Host.Outcome State Fault Refusal :=
  match started s tag .tvop with
  | some e =>
    match e.cmd with
    | some (.station _ x) => .next (stationStep tag x s)
    | _ => .next s
  | none => .next s

/-- TSFU of a started tag (R320). -/
def execTsfu (tag : Tag) (s : State) : Host.Outcome State Fault Refusal :=
  match started s tag .tsfu with
  | some e =>
    match e.cmd with
    | some (.station _ x) => .next (stationStep tag x s)
    | _ => .next s
  | none => .next s

/-! ### What a station sends -/

/-- The operation outstanding at a station under a tag (R37). -/
def atStation (s : State) (n : Nat) (t : Tag) : Option StnOp :=
  let e := tagOf s t
  if e.st = .started && e.job.stn == some n && e.job.opSent then
    match e.cmd with
    | some (.station _ x) => some x
    | _ => none
  else none

/-- Log a word of a write beat that was not good (R134): the unit and place are those it is to be stored at. -/
def logWriteWord (t seg wa : Nat) (bad : Bool) (syn : Nat) (s : State) : State :=
  let x := tileOf s t
  let k := b2n bad
  if x.spill then
    let a := x.hayAddr + wa
    logErr (3 + k) islH (physOf s 4 (hayBank a)) (hayWord a) syn s
  else
    let p := segPlace s t x seg
    logErr (1 + k) islA p.1 p.2 syn s

/-- Test word `w` of a write beat as it enters the crossbar (R134): `acc` gathers data and check bits. -/
def testWrite (tag : Tag) (t j : Nat) (d : Beat) (c : BeatChk) (acc : Nat × Nat × State) (w : Nat) : Nat × Nat × State :=
  let x := wordAt d w
  let b := byteAt c w
  let seg := 2 * j + w / 16
  let wa := 256 * j + 8 * w
  let (y, e, s) := match eccTest x b with
    | (_, .good) => (x, b, acc.2.2)
    | (x', .corrected) => (x', checkByte x', addBits tag bEcc (cnt 0x21C0 1 (logWriteWord t seg wa false (syndrome x b) acc.2.2)))
    | (_, .uncorr) => (x, b, addUncorr tag t true seg (logWriteWord t seg wa true (syndrome x b) acc.2.2))
  (acc.1 + y.toNat * 2 ^ (64 * w), acc.2.1 + e.toNat * 2 ^ (8 * w), s)

/-- Return a write credit at once (R117). -/
def returnWrite (n : Nat) (s : State) : State := drive n (fun p => { p with wcrd := true }) s

/-- A result beat in its place: tested, and put into the write buffer (R117, R134). -/
def takeWrite (n : Nat) (tag : Tag) (p : Nat × Nat × BitVec 32) (wd : Beat) (wchk : BeatChk) (s : State) : State :=
  let (d, c, s) := (List.range 32).foldl (testWrite tag p.1 p.2.1 wd wchk) (0, 0, s)
  askWrite n ⟨tag, p.1, p.2.1, p.2.2, BitVec.ofNat 2048 d, BitVec.ofNat 256 c⟩ (updJob tag (fun j => { j with wIdx := j.wIdx + 1 }) s)

/-- STATION_WRITE_BEAT (R35, R117, R134, R135): a beat for a command at the station takes its place among those R117 calls for; one after the
last is discarded, and so is one that ends the command early counted. A beat with a tag the station has no command for, or without a
credit, cannot be used (R27, R29). -/
def execStationWriteBeat (n : ExtStn) (wd : Beat) (wchk : BeatChk) (wtag : Tag) (wlast : Bool) (s : State) :
    Host.Outcome State Fault Refusal :=
  let k := extNum n
  if !awake s || !running s islA then .next s
  else if (stnOf s k).wHeld = 0 then .next (unusable islA k wtag.toNat 0x21 s)
  else match atStation s k wtag with
    | none => .next (returnWrite k (unusable islA k wtag.toNat 0x22 s))
    | some x =>
      let e := tagOf s wtag
      let ws := opWrites s wtag x
      let last := decide (e.job.wIdx + 1 = ws.length)
      let late := e.job.wLast || decide (ws.length ≤ e.job.wIdx)
      let bad := late || (wlast && !last)
      let s := if late then returnWrite k s else match ws[e.job.wIdx]? with
        | some p => takeWrite k wtag p wd wchk s
        | none => s
      .next (updJob wtag (fun j => { j with wLast := j.wLast || wlast, wBad := j.wBad || bad }) s)

/-- STATION_DONE (R36, R37, R135): the operation has finished with the station's own status. -/
def execStationDone (n : ExtStn) (dtag : Tag) (dsts : Byte) (s : State) : Host.Outcome State Fault Refusal :=
  let k := extNum n
  if !awake s || !running s islA then .next s
  else match atStation s k dtag with
    | none => .next (unusable islA k dtag.toNat 0x23 s)
    | some _ =>
      if (tagOf s dtag).job.dn.isSome then .next (unusable islA k dtag.toNat 0x23 s)
      else
        let s := if !bit dsts 7 && fld dsts 6 3 != 0 then unusable islA k dtag.toNat (0x100 + dsts.toNat) s else s
        .next (addBits dtag (dstsBits dsts) (updJob dtag (fun j => { j with dn := some dsts }) s))

/-- STATION_ERR (R37, R133, R135): the station found an uncorrectable word in a read beat of the command: the first that the fabric sent with
such check bits, or, where it sent none, one it does not know (log 1). -/
def execStationErr (n : ExtStn) (etag : Tag) (s : State) : Host.Outcome State Fault Refusal :=
  let k := extNum n
  if !awake s || !running s islA then .next s
  else match atStation s k etag with
    | none => .next (unusable islA k etag.toNat 0x24 s)
    | some _ =>
      let e := tagOf s etag
      match e.ecc, e.job.bad with
      | some _, _ => .next s
      | none, some d => .next (updTag etag (fun e => { e with ecc := some d }) s)
      | none, none =>
        let (v, s) := pick s
        .next (updTag etag (fun e => { e with ecc := some (BitVec.ofNat 16 v) }) s)

end Sys2Proof.Machine
end

