-- ==== Sys2Proof/Machine/Translation.lean ====
section
/-! DEFINITION. The translation interface (R48, R49): acknowledges, responses and timeouts, and what they do to a transfer (R217) or a draining
bucket (R274). -/

namespace Sys2Proof.Machine

/-- Bytes of a page (R48). -/
def pageSize (code : Nat) : Nat :=
  match code with
  | 0 => 2 ^ 12 | 1 => 2 ^ 16 | 2 => 2 ^ 21 | _ => 2 ^ 30

/-- An answer to a query: the physical address of the queried byte, or a fault code; `size` is the page's. -/
def answerQuery (q : Query) (size : Nat) (r : Nat ⊕ Nat) (s : State) : State :=
  let va := q.va - q.va % size
  let pa := fun (p : Nat) => (p + 2 ^ 48 - q.va % size) % 2 ^ 48
  let s := match r with | .inl _ => s | .inr _ => cnt 0x604C 1 s
  match q.use, r with
  | .job t, .inl p => updJob t (fun j => { j with xl := j.xl ++ [⟨va, size, pa p⟩], xlWait := false }) s
  | .job t, .inr c => updJob t (fun j => { j with lim := limMin j.lim j.xlRow (.xlate c), xlWait := false }) s
  | .bucket b, .inl p => updBucket b (fun x => { x with pages := x.pages ++ [⟨va, size, some (pa p), 0⟩] }) s
  | .bucket b, .inr c => updBucket b (fun x => { x with pages := x.pages ++ [⟨va, size, none, c⟩], fault := true }) s

/-- Set the query of an identifier. -/
def setQuery (i : Nat) (q : Option Query) (s : State) : State :=
  { s with asy := { s.asy with queries := tset none s.asy.queries i q } }

/-- TRN_RESPONSE (R49): the query of the identifier is answered and its identifier is free; a late one is discarded; one that answers no
outstanding query cannot be used, and neither does one whose query has not been acknowledged, which stays outstanding (log 77). -/
def execTrnResponse (sid : BitVec 4) (spa : BitVec 48) (ssize : BitVec 2) (sflt : Bool) (scode : BitVec 4) (s : State) :
    Host.Outcome State Fault Refusal :=
  if !awake s || !running s islH then .next s
  else
    let s := { s with pin := { s.pin with sack := !s.pin.sack } }
    match tget none s.asy.queries sid.toNat with
    | none => .next (unusable islH 0 sid.toNat 0x30 s)
    | some q =>
      if !q.acked then .next (unusable islH 0 sid.toNat 0x30 s)
      else
        let s := setQuery sid.toNat none s
        let s := if q.timedOut then s
          else answerQuery q (pageSize ssize.toNat) (if sflt then .inr scode.toNat else .inl spa.toNat) s
        .next (pumpTrn s)

/-- TRN_QUERY_ACK (R49): the query's transfer is complete, and the next may be sent. -/
def execTrnQueryAck (s : State) : Host.Outcome State Fault Refusal :=
  match s.asy.sending with
  | some i =>
    if !awake s || !running s islH then .next s
    else
      let s := match tget none s.asy.queries i with
        | some q => setQuery i (some { q with acked := true }) s
        | none => s
      .next (pumpTrn { s with asy := { s.asy with sending := none } })
  | none => .next s

/-- XLATE_TIMEOUT (R49): a fault with code 0xF; the identifier stays in use until its late response arrives. -/
def execXlateTimeout (sid : BitVec 4) (s : State) : Host.Outcome State Fault Refusal :=
  match tget none s.asy.queries sid.toNat with
  | some q =>
    if !q.acked || q.timedOut || !awake s || !running s islH then .next s
    else .next (answerQuery q 4096 (.inr 0xF) (setQuery sid.toNat (some { q with timedOut := true }) s))
  | none => .next s

end Sys2Proof.Machine
end

