-- ==== Sys2Proof/Machine/Diag.lean ====
section
/-! DEFINITION. Diagnostics and repair (15): raw reads and writes, scrubbing (R362, R363), live bank retirement (R364-R368), DREPAIR and the
trace buffer (R375-R378). -/

namespace Sys2Proof.Machine

/-! ### Raw entries and words -/

/-- A request of the Tinker to a Sheaf bank crosses to its island and wakes its group (R20, R110, R348). -/
def sendTink (q : TinkReq) (s : State) : State := askTink q (crossIn (7 * (q.bank / 9) + 4) (wakeGroups [q.bank / 9] s))

/-- A request of the Tinker to a Sheaf bank can cross. -/
def canTink (s : State) (bank : Nat) : Bool := canCross s (7 * (bank / 9) + 4)

/-- An access of the Tinker to a whole word of a physical Hayloft bank (R247, R375). -/
def tinkHay (bank word : Nat) (write : Bool) (bs : List Byte) (use : HayUse) : HayAcc :=
  { master := 11, addr := 0, phys := some (bank, word), write := write, be := -1, data := BitVec.ofNat 512 (ofBytes (bs.take 64)),
    chk := if write then some (BitVec.ofNat 64 (ofBytes ((bs.drop 64).take 8))) else none, retry := false, use := use }

/-- A raw request of a command has been made, and is waited for. -/
def rawAsked (tag : Tag) (stage : Nat) (s : State) : State := updJob tag (fun j => { j with stage := stage, wrOut := j.wrOut + 1 }) s

/-! ### DRDENT, DRDHAY -/

/-- A raw read of a started tag: `ask` reads the image once it can be sent, which is then written out (R375). -/
def rawRead (tag : Tag) (can : Bool) (ask : State → State) (hay : Bool) (addr : Nat) (s : State) : State :=
  let j := (tagOf s tag).job
  if j.stage = 0 then (if can then ask (rawAsked tag 1 s) else s)
  else if j.wrOut ≠ 0 then s
  else if j.stage = 1 then writeOut tag 11 hay addr j.raw (updJob tag (fun j => { j with stage := 2 }) s)
  else finish tag (outc .ok 0 1) s

/-- DRDENT of a started tag (R375). -/
def execDrdent (tag : Tag) (s : State) : Host.Outcome State Fault Refusal :=
  match started s tag .drdent with
  | some e =>
    match e.cmd with
    | some (.drdent b n hay addr) => .next (rawRead tag (canTink s b) (sendTink ⟨b, n, false, .raw tag, 0⟩) hay addr s)
    | _ => .next s
  | none => .next s

/-- DRDHAY of a started tag (R375). -/
def execDrdhay (tag : Tag) (s : State) : Host.Outcome State Fault Refusal :=
  match started s tag .drdhay with
  | some e =>
    match e.cmd with
    | some (.drdhay b w hay addr) => .next (rawRead tag true (askHay (tinkHay b w false [] (.raw tag))) hay addr s)
    | _ => .next s
  | none => .next s

/-! ### DWRENT, DWRHAY -/

/-- Ask for `n` bytes of an address, as the Tinker (R247). -/
def readIn (tag : Tag) (hay : Bool) (addr n : Nat) (s : State) : State :=
  let d := Side.of hay false false
  let us := d.units ((List.range n).map (addr + ·))
  let s := updJob tag (fun j => { j with stage := 1, want := us.map fun u => (0, u) }) s
  if hay then askBytes 11 addr n (.unitFor tag 0) s
  else us.foldl (fun s u => askMem ⟨false, u, 0, 0, .unitFor tag 0 u⟩ s) s

/-- The bytes read in; the bytes of an answer of ERROR have no stated value (log 1). -/
def readBytes (s : State) (j : Job) (hay : Bool) (addr n : Nat) : List Byte :=
  let d := Side.of hay false false
  (List.range n).map fun i =>
    match unitAt j.units 0 (d.base (addr + i)) with
    | some x => byteAt x.data (addr + i - d.base (addr + i))
    | none => Config.freeByte (s.freeCtr + i)

/-- A raw write of a started tag: the image of `n` bytes is read in, then `ask` stores it once it can be sent (R375, R376). -/
def rawWrite (tag : Tag) (can : Bool) (n : Nat) (hay : Bool) (addr : Nat) (ask : List Byte → State → State) (s : State) : State :=
  let j := (tagOf s tag).job
  if j.stage = 0 then readIn tag hay addr n s
  else if j.stage = 1 then
    (if j.want ≠ [] ∨ can = false then s
     else
      let bs := readBytes s j hay addr n
      ask bs (rawAsked tag 2 (updJob tag (fun j => { j with raw := bs }) { s with freeCtr := s.freeCtr + n })))
  else if j.wrOut = 0 then finish tag (outc .ok 0 1) s
  else s

/-- DWRENT of a started tag (R375, R376). -/
def execDwrent (tag : Tag) (s : State) : Host.Outcome State Fault Refusal :=
  match started s tag .dwrent with
  | some e =>
    match e.cmd with
    | some (.dwrent b n hay addr) => .next (rawWrite tag (canTink s b) 144 hay addr (fun _ => sendTink ⟨b, n, true, .raw tag, 0⟩) s)
    | _ => .next s
  | none => .next s

/-- DWRHAY of a started tag (R375, R376). -/
def execDwrhay (tag : Tag) (s : State) : Host.Outcome State Fault Refusal :=
  match started s tag .dwrhay with
  | some e =>
    match e.cmd with
    | some (.dwrhay b w hay addr) => .next (rawWrite tag true 72 hay addr (fun bs => askHay (tinkHay b w true bs (.raw tag))) s)
    | _ => .next s
  | none => .next s

/-! ### Scrubbing -/

/-- Ask for the scrub of entry `i` of a Sheaf bank, or of word `i` of a Hayloft bank (R362). -/
def askScrub (hay : Bool) (bank i : Nat) (by_ : Option Tag) (s : State) : State :=
  if hay then askHay (tinkHay bank i false [] (.scrub by_)) s else sendTink ⟨bank, i, false, .scrub by_, 0⟩ s

/-- DSCRUB of a started tag (R375): the entries or words of a bank one after another, each scrubbed before the next is asked for. -/
def execDscrub (tag : Tag) (s : State) : Host.Outcome State Fault Refusal :=
  match started s tag .dscrub with
  | some e =>
    match e.cmd with
    | some (.dscrub hay b) =>
      .next (if e.job.wrOut ≠ 0 then s
        else if e.job.row = (if hay then 4096 else 64) then finish tag (outc .ok 0 e.job.landed) s
        else if !hay && !canTink s b then s
        else askScrub hay b e.job.row (some tag) (rawAsked tag 1 (updJob tag (fun j => { j with row := j.row + 1 }) s)))
    | _ => .next s
  | none => .next s

/-- A physical Hayloft bank may be scrubbed: ON and not zeroising (R256). -/
def wordOpen (s : State) (b : Nat) : Bool := running s islH && physOpen s b

/-- The group a scrub may visit: ON, and no copy runs in it (R362). -/
def scrubbable (s : State) (g : Nat) : Bool :=
  (groupOf s g).ready && match s.tnk.copying with | some c => c.bank / 9 != g | none => true

/-- The Sheaf part of a scrub step (R362): the next entry, groups that may not be visited passed over. -/
def scrubSheaf (s : State) : State :=
  let g0 := s.tnk.scrubS / 576
  match rotFind 8 g0 (scrubbable s) with
  | none => s
  | some g =>
    let i := if g = g0 then s.tnk.scrubS else 576 * g
    let q : TinkReq := ⟨i / 64, i % 64, false, .scrub none, 0⟩
    if !canTink s q.bank then s
    else
      let s := if s.mil.tinker.any fun x => x.bank == q.bank && x.entry == q.entry && x.use == .scrub none then s else sendTink q s
      { s with tnk := { s.tnk with scrubS := (i + 1) % 4608 } }

/-- The Hayloft part of a scrub step (R256, R362): the next word, once the last is scrubbed; banks that are not ON are skipped. -/
def scrubHayloft (s : State) : State :=
  let b0 := s.tnk.scrubH / 4096
  match rotFind 17 b0 (wordOpen s) with
  | none => s
  | some b =>
    let i := if b = b0 then s.tnk.scrubH else 4096 * b
    if s.hay.waiting.any fun a => a.use == .scrub none then s
    else askScrub true b (i % 4096) none { s with tnk := { s.tnk with scrubH := (i + 1) % 69632 } }

/-- Entries of the control stores: tags, Haberdasher rows, resume records, rings (R363). -/
def controlEntries : Nat := 528 + 16896 + 256 + 32768

/-- FATAL (R363): recorded, and no further packet is accepted. -/
def fatal (loc : Nat) (s : State) : State :=
  let s := logErr 0x0A islC 0 loc 0 s
  { s with tnk := { s.tnk with fatal := true }, ctl := { s.ctl with halted := true } }

/-- The check of a control-store entry that was read (R363). The log's KIND of a corrected entry is not stated (log 1). -/
def checkControl (i : Nat) (c : CtlCheck) (s : State) : State :=
  match c with
  | .good => s
  | .corrected =>
    let (k, s) := pick s
    logErr (k % 256) islC 0 i 0 s
  | .uncorr => fatal i s

/-- SCRUB_STEP (R362, R363): one entry, one word and one control-store entry, of which `ctl` says what its check shows. An INTERVAL of 0
stops scrubbing; `ctl` then speaks of an entry that a unit reads, one or another (log 66). -/
def execScrubStep (ctl : CtlCheck) (s : State) : Host.Outcome State Fault Refusal :=
  if !running s islC then .next s
  else if fld (rget s 0xD000) 15 0 = 0 then .next (checkControl ((pick s).1 % controlEntries) ctl (pick s).2)
  else
    let i := s.tnk.scrubC
    let s := { s with tnk := { s.tnk with scrubC := (i + 1) % controlEntries } }
    .next (checkControl i ctl (scrubHayloft (scrubSheaf s)))

/-- CE_WINDOW_RESET (R364, R365): a window begins. -/
def execCeWindowReset (s : State) : Host.Outcome State Fault Refusal :=
  if !running s islC then .next s
  else .next { s with tnk := { s.tnk with ceWin := [], noSpare := [] } }

/-! ### Retirement -/

/-- DRETIRE of a started tag (R365, R375): its trigger, once. -/
def execDretire (tag : Tag) (s : State) : Host.Outcome State Fault Refusal :=
  match started s tag .dretire with
  | some e =>
    match e.cmd with
    | some (.dretire b) =>
      if e.job.stage ≠ 0 then .next s
      else if (servedBank s b).isNone then .next (finish tag (outc .cfgInconsistent (0xB00 + b) 0) s)
      else .next (trigger b (some tag) (wakeGroups [b / 9] (updJob tag (fun j => { j with stage := 1 }) s)))
    | _ => .next s
  | none => .next s

/-- Begin the copy of a bank to its group's spare (R366). -/
def beginCopy (b l : Nat) (by_ : Option Tag) (s : State) : State :=
  sendTink ⟨b, 0, false, .copy, 0⟩ { s with tnk := { s.tnk with copying := some ⟨b, l, 9 * (b / 9) + 8, 0, none, by_⟩ } }

/-- RETIREMENT_COPY (R364-R366): the earliest waiting trigger begins its copy once its group is ON, or is dropped when it may not begin. -/
def execRetirementCopy (s : State) : Host.Outcome State Fault Refusal :=
  if s.tnk.copying.isSome || !running s islC then .next s
  else match s.tnk.trigs with
    | [] => .next s
    | (b, by_) :: r =>
      let s' := { s with tnk := { s.tnk with trigs := r } }
      match servedBank s b with
      | none => .next (dropTrigger b by_ s')
      | some l =>
        if !mayRetire s (b / 9) then .next (dropTrigger b by_ s')
        else if (groupOf s (b / 9)).ready && canTink s b then .next (beginCopy b l by_ s')
        else .next s

/-- The DRETIREs that a retirement completes, in acceptance order: the one that began it and those of the same bank that wait (R83, R367). -/
def retirers (s : State) (c : Retire) : List Tag :=
  let ts := c.by_.toList ++ (s.tnk.trigs.filter fun x => x.1 == c.bank).filterMap (·.2)
  ((ts.map fun t => (t, tagOf s t)).foldr insertAcc []).map (·.1)

/-- RETIREMENT_SWITCH (R367): the last entry is written; the spare takes the position, the bank is retired, and no trigger of it is left. -/
def execRetirementSwitch (s : State) : Host.Outcome State Fault Refusal :=
  match s.tnk.copying with
  | none => .next s
  | some c =>
    if c.entry < 64 ∨ running s islC = false then .next s
    else
      let g := c.bank / 9
      let ts := retirers s c
      let s := setPhys 0 c.lbank c.spare s
      let sh : Reg := put 1 31 ||| put (c.lbank % 8) 8 ||| put c.bank 0
      let s := { s with tnk := { s.tnk with
        copying := none
        lastBank := c.bank
        trigs := s.tnk.trigs.filter fun x => x.1 != c.bank
        retired := s.tnk.retired ++ [c.bank]
        used := s.tnk.used + 1
        shadow := tset 0 s.tnk.shadow g sh } }
      let s := logErr 0x0C (1 + g) c.bank 0 c.spare s
      .next (ts.foldl (fun s t => finish t (outc .ok 0 1) s) s)

/-- Abandon a copy in progress, and the triggers that wait (R368). -/
def abandonCopy (s : State) : State :=
  let s := match s.tnk.copying with
    | some c => logErr 0x0D (1 + c.bank / 9) c.bank c.entry c.spare s
    | none => s
  let tk := s.mil.tinker.filter fun q => q.use != .copy
  { s with mil := { s.mil with tinker := tk }, tnk := { s.tnk with copying := none, trigs := [] } }

/-! ### DREPAIR and DTRACE -/

/-- DREPAIR of a started tag (R322, R360, R375). -/
def execDrepair (tag : Tag) (s : State) : Host.Outcome State Fault Refusal :=
  match started s tag .drepair with
  | some e =>
    match e.cmd with
    | some (.drepair k l p) =>
      let bad := finish tag (outc .cfgInconsistent (0xA00 + l % 64) 0) s
      if bit (rget s 0xE004) 0 || !booted s then .next (finish tag (outc .bootLocked 0 0) s)
      else if k = 0 ∧ ((List.range 64).any fun t => decide ((tileOf s t).st ≠ .unconfigured) && !(tileOf s t).spill && (tileOf s t).group == l / 8) then
        .next bad
      else match assignMap k l p s with
        | none => .next bad
        | some u => .next (finish tag (outc .ok 0 1) u)
    | _ => .next s
  | none => .next s

/-- An entry of the log or of the trace as its 16 bytes (R377, R378). -/
def LogEnt.bytes (e : LogEnt) : List Byte :=
  leBytes 4 e.cycle.toNat ++ leBytes 1 e.isl ++ leBytes 1 e.kind ++ leBytes 2 e.unit ++ leBytes 4 e.loc ++ leBytes 4 e.info

/-- The dump of the trace buffer (R378). -/
def traceDump (s : State) : List Byte :=
  let t := s.tnk.trace
  leBytes 2 t.length ++ leBytes 2 s.tnk.traceOld ++ leBytes 4 (rget s 0xD080).toNat ++ leBytes 56 0
    ++ (t.drop s.tnk.traceOld ++ t.take s.tnk.traceOld).flatMap LogEnt.bytes

/-- DTRACE of a started tag (R375, R378). -/
def execDtrace (tag : Tag) (s : State) : Host.Outcome State Fault Refusal :=
  match started s tag .dtrace with
  | some e =>
    match e.cmd with
    | some (.dtrace a hay addr) =>
      let c := rget s 0xD080
      if e.job.stage = 1 then .next (if e.job.wrOut = 0 then finish tag (outc .ok 0 e.job.landed) s else s)
      else if a = 0 then .next (finish tag (outc .ok 0 0) (rset 0xD080 (c &&& 0xFFFFFFFE) s))
      else if a = 1 then .next (finish tag (outc .ok 0 0) (rset 0xD080 (c ||| 1) s))
      else if a = 2 then
        .next (writeOut tag 11 hay addr (traceDump s) (updJob tag (fun j => { j with stage := 1, landed := s.tnk.trace.length }) s))
      else .next (finish tag (outc .ok 0 0) { s with tnk := { s.tnk with trace := [], traceOld := 0 } })
    | _ => .next s
  | none => .next s

end Sys2Proof.Machine
end

