-- ==== Sys2Proof/Machine/Power.lean ====
section
/-! DEFINITION. Clocks, droop, temperature and power states (R345-R355, R109-R111, R255): the events of the Lamplighter. -/

namespace Sys2Proof.Machine

/-! ### Islands -/

/-- The limits of LMP_ENVi (R346). -/
def envMin (s : State) (i : Nat) : Nat := fld (rget s (0xC080 + 4 * i)) 7 0
def envMax (s : State) (i : Nat) : Nat := fld (rget s (0xC080 + 4 * i)) 15 8

/-- LMP_FSETi. -/
def fset (s : State) (i : Nat) : Nat := fld (rget s (0xC000 + 4 * i)) 7 0

/-- Set a stretch level; a change is traced (R351, R378). -/
def setStretch (i lvl : Nat) (s : State) : State :=
  if (islOf s i).stretch = lvl then s
  else traceEv 5 i i 0 lvl (updIsl i (fun x => { x with stretch := lvl }) s)

/-- The stretch level that a supply `d` millivolts below its average calls for: 2 beyond TH2 of LMP_DROOP, 1 beyond TH1 (R350, R351). -/
def dropLevel (s : State) (d : Nat) : Nat :=
  if fld (rget s 0xC104) 15 8 < d then 2 else if fld (rget s 0xC104) 7 0 < d then 1 else 0

/-- The highest level that a detector of the island trips now (R351). -/
def tripLevel (s : State) (i : Nat) : Nat := (islOf s i).drops.foldl (fun m p => max m (dropLevel s p.2)) 0

/-- DROOP_TRIP (R350, R351): what a detector of an island senses. Beyond a threshold the clock is stretched; a stretch begun is counted. The detectors of an island that is OFF or in RETENTION are
inactive. -/
def execDroopTrip (isl : Nat) (x : DroopReading) (s : State) : Host.Outcome State Fault Refusal :=
  if 11 ≤ isl then .fault .noSuchUnit
  else if !islActive s isl then .next s
  else
    let d := x.avg.toNat - x.sensed.toNat
    let s := updIsl isl (fun y => { y with volt := x.avg, drops := tset 0 y.drops x.det.toNat d }) s
    let old := (islOf s isl).stretch
    let lvl := dropLevel s d
    let s := if old = 0 ∧ 0 < lvl then cnt (0xC140 + 4 * isl) 1 s else s
    .next (setStretch isl (max old lvl) s)

/-- STRETCH_STEP_BACK (R351): 64 cycles of the island have passed without a trip of the level in force: one level down. It does nothing
while a detector trips that level, nor in an island without a clock (R347). -/
def execStretchStepBack (isl : Nat) (s : State) : Host.Outcome State Fault Refusal :=
  if 11 ≤ isl then .fault .noSuchUnit
  else if !islActive s isl || decide ((islOf s isl).stretch ≤ tripLevel s isl) then .next s
  else .next (setStretch isl ((islOf s isl).stretch - 1) s)

/-- The unplug sequence holds an island at LMP_ENVi.FMIN (R356): H from its fifth step, C from its last. -/
def heldLow (s : State) (i : Nat) : Bool :=
  (i == islH && decide (5 ≤ s.ctl.unplug)) || (i == islC && decide (6 ≤ s.ctl.unplug))

/-- Start a frequency change (R346, R356). -/
def startFreq (i f : Nat) (s : State) : State :=
  updIsl i (fun x => { x with target := some (if heldLow s i then envMin s i else f) }) s

/-- FREQUENCY_CHANGE_DONE (R346): the new frequency is in force. -/
def execFrequencyChangeDone (isl : Nat) (s : State) : Host.Outcome State Fault Refusal :=
  if 11 ≤ isl then .fault .noSuchUnit
  else match (islOf s isl).target with
    | some f => .next (updIsl isl (fun x => { x with freq := f, target := none }) s)
    | none => .next s

/-- GENERATOR_LOCK_LOSS (R347): the island's clock stops until reset, and the Tinker logs it. What crosses to it from now on stays in its
crossings (R20). -/
def execGeneratorLockLoss (isl : Nat) (s : State) : Host.Outcome State Fault Refusal :=
  if 11 ≤ isl then .fault .noSuchUnit
  else if !running s isl then .next s
  else
    let s := { s with crt := { s.crt with cross := s.crt.cross.filter fun p => crossRx p.1 != isl } }
    .next (logErr 0x13 isl isl 0 0 (updIsl isl (fun x => { x with lock := false }) s))

/-! ### Temperature -/

/-- Two islands are neighbours (R348): A and C of every other; a bank island and H of A and C only. -/
def neighbours (i j : Nat) : Bool := i != j && (i == islA || i == islC || j == islA || j == islC)

/-- An island's temperature in °C. -/
def tempOf (s : State) (i : Nat) : Int := signed 8 (islOf s i).temp.toNat

/-- Every neighbour of an island is at most `d` degrees cooler (R352). -/
def within (s : State) (i : Nat) (d : Int) : Bool :=
  (List.range 11).all fun j => !neighbours i j || decide (tempOf s i - tempOf s j ≤ d)

/-- The frequency an island is at or moving to. -/
def aimed (s : State) (i : Nat) : Nat := (islOf s i).target.getD (islOf s i).freq

/-- The throttling of one island after a reading of the sensors (R352): one sixteenth of LMP_FSETi, rounded down, at a time. -/
def throttle (s : State) (i : Nat) : State :=
  let hot := decide (100 < tempOf s i) || !within s i 25
  let cool := within s i 20 && decide (tempOf s i ≤ 95)
  let cur := aimed s i
  let d := fset s i / 16
  let s := updIsl i (fun x => { x with throt := hot }) s
  if hot then
    if cur ≤ envMin s i then logErr 0x0B i i 0 cur s
    else
      let f := max (envMin s i) (cur - d)
      traceEv 7 i i 0 f (cnt 0xC180 1 (startFreq i f s))
  else if cool && decide (cur < fset s i) && !heldLow s i then
    let f := min (fset s i) (cur + d)
    traceEv 7 i i 0 f (startFreq i f s)
  else s

/-- THERMAL_SAMPLE (R352): the sensors' temperatures and the supplies as measured, byte and half-word `i` for island `i`. -/
def execThermalSample (temps : BitVec 88) (volts : BitVec 176) (s : State) : Host.Outcome State Fault Refusal :=
  if !running s islC then .next s
  else
    let s := (List.range 11).foldl (fun s i =>
      updIsl i (fun x => { x with temp := temps.extractLsb' (8 * i) 8, volt := volts.extractLsb' (16 * i) 16 }) s) s
    .next ((List.range 11).foldl throttle s)

/-! ### Groups -/

/-- A configured tile lies in a group (R109). -/
def tileIn (s : State) (g : Nat) : Bool :=
  s.shf.tiles.any fun p => decide (p.2.st ≠ .unconfigured) && !p.2.spill && p.2.group == g

/-- Nothing is on its way to a group, and no copy runs in it (R109, R355, R366). -/
def groupQuiet (s : State) (g : Nat) : Bool :=
  !(s.crt.reqs.any fun r => r.lbank / 8 == g) && !(s.arr.drainQ.any fun r => r.lbank / 8 == g)
  && !(s.mil.tinker.any fun q => q.bank / 9 == g) && !(s.mil.reqs.any fun q => q.lbank / 8 == g)
  && (match s.tnk.copying with | some c => c.bank / 9 != g | none => true)

/-- The policy of a group in SHF_GPOL (R111). -/
def groupPol (s : State) (g : Nat) : Nat := fld (rget s 0x0000) (2 * g + 1) (2 * g)

/-- The state an idle group enters (R111): none when it stays as it is. -/
def idleTo (s : State) (g : Nat) : Option PState :=
  let u := groupOf s g
  if u.entering.isSome then none
  else
    let want : PState := if groupPol s g = 0 ∧ tileIn s g = false then .off else .retention
    match u.st with
    | .on => some want
    | .retention => if want = .off then some .off else none
    | .off => none

/-- GROUP_IDLE_EXPIRE (R111): an idle group enters RETENTION or OFF as its policy directs; SHF_GIDLE.CYCLES 0 disables it. -/
def execGroupIdleExpire (g : BitVec 3) (s : State) : Host.Outcome State Fault Refusal :=
  let k := g.toNat
  if fld (rget s 0x0004) 15 0 == 0 || groupPol s k == 1 || !groupQuiet s k || !running s islC then .next s
  else match idleTo s k with
    | some p => .next (setGroup k { groupOf s k with entering := some p } s)
    | none => .next s

/-- Storage with a range filled with new bytes. -/
def Memory.fill (m : Memory) (a n : Nat) (f : Nat → Byte) : Memory :=
  (m.filter fun c => decide (c.1 < a)) ++ ((List.range n).filterMap fun i => if f i = 0 then none else some (a + i, f i))
    ++ m.filter fun c => decide (a + n ≤ c.1)

/-- A group that wakes from OFF holds undefined contents, check bytes included (R110; log 1). -/
def loseGroup (g : Nat) (s : State) : State :=
  let c := s.freeCtr
  { s with
    shf := { s.shf with
      mem := Memory.fill s.shf.mem (73728 * g) 73728 (fun i => Config.freeByte (c + i))
      chk := Memory.fill s.shf.chk (9216 * g) 9216 (fun i => Config.freeByte (c + 73728 + i)) }
    freeCtr := c + 82944 }

/-- Reseed the lanes of a group (R195, R387). -/
def reseedGroup (g : Nat) (s : State) : State :=
  { s with mil := { s.mil with
      gens := s.mil.gens.filter fun p => p.1 / 288 != g
      seeds := tset 1 s.mil.seeds g (rget s 0x1004)
      reseed := tset false s.mil.reseed g false } }

/-- A unit ends the change it is in, and goes on to the state asked for meanwhile (R354). -/
def PwrUnit.arrive (u : PwrUnit) (x : PState) : PwrUnit :=
  match u.after with
  | some y => PwrUnit.goTo ⟨x, none, none⟩ y
  | none => ⟨x, none, none⟩

/-- GROUP_STATE_CHANGE_DONE (R110, R353, R354): the group is in the state it was entering. -/
def execGroupStateChangeDone (g : BitVec 3) (s : State) : Host.Outcome State Fault Refusal :=
  let k := g.toNat
  let u := groupOf s k
  match u.entering with
  | none => .next s
  | some x =>
    let s := if x = .on ∧ u.st = .off then loseGroup k s else s
    let s := setGroup k (u.arrive x) s
    let s := traceEv 6 islC k 0 (match x with | .off => 0 | .retention => 1 | .on => 2) s
    .next (if x = .on ∧ tget false s.mil.reseed k = true then reseedGroup k s else s)

/-! ### Hayloft banks -/

/-- The state that a value of HAY_BSET sets for a logical Hayloft bank (R255): 0 ON, 1 RETENTION, 2 OFF. -/
def setStateOf (v : Reg) (h : Nat) : PState :=
  match fld v (2 * h + 1) (2 * h) with
  | 1 => .retention | 2 => .off | _ => .on

/-- The set state of a logical Hayloft bank (R255). -/
def setState (s : State) (h : Nat) : PState := setStateOf (rget s 0x7020) h

/-- Accesses that wait for a logical Hayloft bank. -/
def waitingAt (s : State) (h : Nat) : Nat := (s.hay.waiting.filter fun a => accBank s a == some h).length

/-- A bank begins to enter a state, or enters it after the change it is in. Accesses that wait at a bank ON are held from then on, are
counted, and wake it again (R255, R354). -/
def parkBank (h : Nat) (p : PState) (s : State) : State :=
  let u := hbankOf s h
  let n := waitingAt s h
  let s := if u.ready then cnt 0x7038 n s else s
  setHbank h (if n = 0 then u.goTo p else (u.goTo p).wakeUp) s

/-- An access still occupies a port of a logical Hayloft bank. -/
def lockedBank (s : State) (h : Nat) : Bool :=
  (lockOf s (physOf s 4 h) false).left != 0 || (lockOf s (physOf s 4 h) true).left != 0

/-- HAYLOFT_BANK_IDLE_EXPIRE (R255): a woken bank returns to its set state; HAY_BIDLE.CYCLES 0 keeps it ON. After the unplug sequence's
power-down it returns to RETENTION (R357). -/
def execHayloftBankIdleExpire (b : BitVec 4) (s : State) : Host.Outcome State Fault Refusal :=
  let h := b.toNat
  let u := hbankOf s h
  let p := if 5 ≤ s.ctl.unplug then .retention else setState s h
  if fld (rget s 0x7028) 15 0 == 0 && decide (s.ctl.unplug < 5) then .next s
  else if !u.ready || zeroHeld s h || decide (p = .on) || decide (waitingAt s h ≠ 0) || lockedBank s h || !running s islH then .next s
  else .next (parkBank h p s)

/-- A bank that wakes from OFF has every word zero, with matching check bits (R255). -/
def clearHbank (h : Nat) (s : State) : State :=
  let p := physOf s 4 h
  { s with hay := { s.hay with mem := Memory.clear s.hay.mem (262144 * p) 262144, chk := Memory.clear s.hay.chk (32768 * p) 32768 } }

/-- In OFF a bank keeps nothing (R255): its contents are open until it is woken (log 1). -/
def loseHbank (h : Nat) (s : State) : State :=
  let p := physOf s 4 h
  let c := s.freeCtr
  { s with
    hay := { s.hay with
      mem := Memory.fill s.hay.mem (262144 * p) 262144 (fun i => Config.freeByte (c + i))
      chk := Memory.fill s.hay.chk (32768 * p) 32768 (fun i => Config.freeByte (c + 262144 + i)) }
    freeCtr := c + 294912 }

/-- HAYLOFT_BANK_STATE_DONE (R255, R353, R354): the bank is in the state it was entering, and goes on to the one asked for meanwhile; an access
that waits wakes it. The trace names the physical bank (R14, R378). Nothing proceeds while island H has no clock (R347). -/
def execHayloftBankStateDone (b : BitVec 4) (s : State) : Host.Outcome State Fault Refusal :=
  let h := b.toNat
  let u := hbankOf s h
  match u.entering with
  | none => .next s
  | some x =>
    if !running s islH then .next s
    else
      let s := if x = .on ∧ u.st = .off then clearHbank h s else if x = .off then loseHbank h s else s
      let u := u.arrive x
      let s := setHbank h (if u.ready || decide (waitingAt s h = 0) then u else u.wakeUp) s
      .next (traceEv 6 islH (physOf s 4 h) 0 (match x with | .off => 0 | .retention => 1 | .on => 2) s)

end Sys2Proof.Machine
end

