-- ==== Sys2Proof/WellFormed.lean ====
section
/-! DEFINITION. Which commands name units the fabric has (R13, R86, R342, R359). -/

namespace Sys2Proof

/-- Number of physical units of a kind of the repair map (R359, R373). -/
def physUnits (kind : Nat) : Nat :=
  match kind with
  | 0 => 72 | 1 => 5 | 2 => 3 | 3 => 264 | 4 => 17 | 5 => 528 | 6 => 16896 | _ => 0

/-- Every bank, island, lane of the self-test and failing unit that a command names exists. -/
def Instr.wf : Instr → Bool
  | .bankCycleGrant b _ _ => decide (b < 72)
  | .hayloftAccessGrant b _ => decide (b < 17)
  | .droopTrip i _ | .stretchStepBack i | .frequencyChangeDone i | .generatorLockLoss i => decide (i < 11)
  | .skewSelfTest k scale => decide (k < if scale then 2 else 32)
  | .lmpFsetWrite _ i _ | .lmpEnvWrite _ i _ => decide (i < 11)
  | .bistDone fs => fs.all fun f => decide (f.1 < 8) && decide (f.2 < physUnits f.1)
  | _ => true

end Sys2Proof
end

