-- ==== Sys2Proof/Machine/Boot.lean ====
section
/-! DEFINITION. Reset and boot (R28, R39, R131, R170-R172, R372-R374), the unplug sequence (R55, R56, R356), security events (R52, R258), fuses
(R53) and power (R2, R356). -/

namespace Sys2Proof.Machine

/-! ### Reset and power -/

/-- The state under reset (R28, R336, R389): storage, the shadow map and what mirrors an input keep their values, the unplug warning among them
(R56); the rest is as at first power. -/
def underReset (s : State) : State :=
  { State.reset with
    pending := s.pending
    shf := { State.reset.shf with mem := s.shf.mem, chk := s.shf.chk }
    hay := { State.reset.hay with mem := s.hay.mem, chk := s.hay.chk }
    tnk := { State.reset.tnk with shadow := s.tnk.shadow, fuseReady := s.tnk.fuseReady }
    arr := { State.reset.arr with nowMapv := s.arr.nowMapv, nowRow := s.arr.nowRow, nowCol := s.arr.nowCol }
    ctl := { State.reset.ctl with
      unplugWarn := s.ctl.unplugWarn
      tamper := s.ctl.tamper
      lcChange := s.ctl.lcChange
      lcDriven := s.ctl.lcDriven
      secLatch := s.ctl.secLatch
      svcPresent := s.ctl.svcPresent }
    freeCtr := s.freeCtr }

/-- PWR_RST_ASSERT (R28, R54, R336). -/
def execPwrRstAssert (s : State) : Host.Outcome State Fault Refusal := .next (if s.ctl.powered then underReset s else s)

/-- PWR_RST_RELEASE (R372); after an unplug warning during reset no packet is accepted (R56). -/
def execPwrRstRelease (s : State) : Host.Outcome State Fault Refusal :=
  if !s.ctl.powered || !s.ctl.inReset then .next s
  else
    let w := s.ctl.unplugWarn
    .next { s with ctl := { s.ctl with inReset := false, halted := w, unplug := b2n w } }

/-- POWER_LOST (R356): all volatile state is lost. -/
def execPowerLost (s : State) : Host.Outcome State Fault Refusal :=
  .next { State.reset with pending := s.pending, freeCtr := s.freeCtr, ctl := { State.reset.ctl with powered := false } }

/-- FABRIC_FIRST_POWERED (R2, R369): an unpowered fabric has power and is under reset; its shadow map is clear. -/
def execFabricFirstPowered (s : State) : Host.Outcome State Fault Refusal :=
  .next (if s.ctl.powered then s else { State.reset with pending := s.pending, freeCtr := s.freeCtr })

/-! ### Zeroisation -/

/-- Wake the banks that hold the partition (step 2 of R258). -/
def wakePartition (s : State) : State :=
  (List.range 16).foldl (fun s h => if zeroHeld s h then setHbank h (hbankOf s h).wakeUp s else s) s

/-- Begin, or begin again, the zeroisation of the secure partition (R52, R257, R258): a partition of size 0 erases nothing. -/
def zeroise (s : State) : State :=
  if (secRange s).2 = 0 then { s with pin := { s.pin with zeroDone := true } }
  else wakePartition { s with hay := { s.hay with zeroing := true } }

/-- Sample the life-cycle state that the input carries (R52, R374). -/
def sampleLc (s : State) : State :=
  { s with ctl := { s.ctl with lcValid := true, lcState := s.ctl.lcDriven, lcChanges := min 0xFFFF (s.ctl.lcChanges + 1) } }

/-- The events of R52 that island C finds as it leaves reset: those that came before, and inputs still asserted (log 70). -/
def lateEvents (s : State) : State :=
  if s.ctl.secLatch || s.ctl.tamper || s.ctl.lcChange then
    let s := zeroise { s with ctl := { s.ctl with secLatch := false } }
    if s.ctl.lcChange then sampleLc s else s
  else s

/-! ### Boot steps -/

/-- What a lock check finds of one island (R372): a generator 0 that has not locked is replaced by generator 1. -/
def checkLock (l0 l1 : BitVec 11) (s : State) (i : Nat) : State :=
  if bit l0 i then s
  else
    let s := logErr 0x13 i i 0xC100 0 (setPhys 7 i 1 s)
    updIsl i (fun x => { x with lock := bit l1 i }) s

/-- GENERATOR_LOCK_CHECK (R372): which generators have locked by 20 µs. -/
def execGeneratorLockCheck (locked0 locked1 : BitVec 11) (s : State) : Host.Outcome State Fault Refusal :=
  if !awake s || (islOf s islC).up then .next s
  else .next ((List.range 11).foldl (checkLock locked0 locked1) s)

/-- An island leaves reset, or stays in it for want of a locked generator (R372). -/
def exitReset (s : State) (i : Nat) : State :=
  if (islOf s i).lock then updIsl i (fun x => { x with up := true, cyc := 0 }) s
  else { s with tnk := { s.tnk with dead := s.tnk.dead + 2 ^ i } }

/-- The receivers inside the fabric grant their credits (R27, R130, R132): every read direction but those of V0, V1 and SF, every write
direction; the grants of V0, V1 and SF are driven on their credit lines. -/
def grantCredits (s : State) : State :=
  (List.range 16).foldl (fun s n =>
    let s := updStn n (fun x => { x with
      rHeld := if external n then 0 else x.rTotal
      wHeld := x.wTotal }) s
    if external n then drive n (fun p => { p with wcrd := true }) s else s) s

/-- The endpoint grants its 16 entries of each inbound channel (R27, R43). -/
def grantFlits (s : State) : State :=
  { s with noc := { s.noc with i0Out := 16, i1Out := 16 }, pin := { s.pin with i0crd := true, i1crd := true } }

/-- ISLAND_RESET_EXIT (R27, R43, R312, R372): each grant's run of credits is one step (log 2). -/
def execIslandResetExit (s : State) : Host.Outcome State Fault Refusal :=
  if !awake s || (islOf s islC).up || s.tnk.dead != 0 then .next s
  else
    let s := (List.range 11).foldl exitReset s
    .next (if running s islC then lateEvents (grantFlits s) else s)

/-- ARR_RST_RELEASE (R39, R132): 16 a-cycles after island A has left reset, when the credits of the Carters have been granted, and register
accesses are served by then (R389; log 93). -/
def execArrRstRelease (s : State) : Host.Outcome State Fault Refusal :=
  .next (if running s islA && decide (s.ctl.unplug < 4) && s.ctl.service && !s.ctl.arrRstN
    then grantCredits { s with ctl := { s.ctl with arrRstN := true } } else s)

/-- STATION_CREDIT_WINDOW_CLOSE (R131): the totals of V0, V1 and SF are what they have granted. -/
def execStationCreditWindowClose (s : State) : Host.Outcome State Fault Refusal :=
  if !s.ctl.arrRstN || s.ctl.winClosed then .next s
  else
    let s := [3, 4, 5].foldl (fun s n => updStn n (fun x => { x with rTotal := x.rHeld, oTotal := x.oHeld }) s) s
    .next { s with ctl := { s.ctl with winClosed := true } }

/-- BIST_DONE (R372, R373): storage and the ring table are zeroed with matching check bits; the failing units are listed. -/
def execBistDone (fails : List (Nat × Nat)) (s : State) : Host.Outcome State Fault Refusal :=
  if (Instr.bistDone fails).wf = false then .fault .noSuchUnit
  else if !running s islC || s.tnk.bistDone then .next s
  else .next { s with
    shf := { s.shf with mem := [], chk := [] }
    hay := { s.hay with mem := [], chk := [] }
    rng := { s.rng with ents := [] }
    tnk := { s.tnk with fails := fails, failCount := fails.length, bistDone := true } }

/-! ### Array maps and the skew self-test -/

/-- Bypassed physical rows below row `q` (R170). -/
def bypBelow (s : State) (q : Nat) : Nat := ((List.range q).filter fun r => bit s.arr.rowbyp r).length

/-- The base trim of row-feed lane `q` plus the bypassed rows below it (R170). -/
def afSum (s : State) (q : Nat) : Nat :=
  fld (rget s (0x3000 + 4 * (q / 16))) (2 * (q % 16) + 1) (2 * (q % 16)) + bypBelow s q

/-- TIL_AFEFFq from the maps and the base trims (R170, R173). -/
def setTrims (s : State) : State :=
  (List.range 3).foldl (fun s q =>
    let v := (List.range (if q = 2 then 2 else 16)).foldl (fun v m => v + min 3 (afSum s (16 * q + m)) * 4 ^ m) 0
    rset (0x3010 + 4 * q) (BitVec.ofNat 32 v) s) s

/-- GLN_LAT and GLN_SCLANE from the maps (R143, R171). -/
def setLatency (s : State) : State :=
  let b := bypBelow s (physRow s 31)
  rset 0x4004 (put (scaleLane s 1) 8 ||| put (scaleLane s 0) 0) (rset 0x4000 (put b 8 ||| put (32 + b) 0) s)

/-- ARR_MAPV (R41): the maps are sampled, once; the Tinker computes trims and latency from them. -/
def execArrMapv (rowbyp : BitVec 34) (colbyp : BitVec 33) (s : State) : Host.Outcome State Fault Refusal :=
  if !awake s || s.arr.mapSampled then .next s
  else
    let s := { s with arr := { s.arr with
      mapSampled := true
      mapv := true
      rowbyp := rowbyp
      colbyp := colbyp
      nowMapv := true
      nowRow := rowbyp
      nowCol := colbyp } }
    .next (setLatency (setTrims s))

/-- ARRAY_MAP_CHANGE (R41): the inputs carry other values than before. After boot the change is logged and has no other effect; before,
arr_mapv is followed (log 32). -/
def execArrayMapChange (mapv : Bool) (rowbyp : BitVec 34) (colbyp : BitVec 33) (s : State) : Host.Outcome State Fault Refusal :=
  let same := mapv == s.arr.nowMapv && rowbyp == s.arr.nowRow && colbyp == s.arr.nowCol
  let s := { s with arr := { s.arr with nowMapv := mapv, nowRow := rowbyp, nowCol := colbyp } }
  if !awake s || same then .next s
  else if booted s then .next (logErr 0x12 islA 0 0 (b2n mapv) s)
  else .next { s with arr := { s.arr with mapv := mapv } }

/-- Set bits of a map. -/
def popCount (n : Nat) (x : Nat) : Nat := ((List.range n).filter fun i => x.testBit i).length

/-- The maps bypass as many rows and columns as R143 wants. -/
def mapsOk (s : State) : Bool := popCount 34 s.arr.rowbyp.toNat == 2 && popCount 33 s.arr.colbyp.toNat == 1

/-- The row-feed lane whose trims add up to more than 3 (R170). -/
def trimBad (s : State) : Option Nat := (List.range 34).find? fun q => decide (3 < afSum s q)

/-- TIL_STATUS after the test (R172): MAPOK, the first failing lane by kind, the columns wrong for the first failing k, and whether a scale lane
failed. -/
def skewStatus (s : State) (bad : Option (Nat × BitVec 32)) (scaleBad : Bool) : Nat :=
  let fail : Option (Nat × Nat) :=
    match trimBad s, bad with
    | some q, _ => some (1, q)
    | none, some (k, cols) =>
      if cols = -1 then some (1, physRow s k) else ((List.range 32).find? fun j => bit cols j).map fun j => (3, physCol s j)
    | none, none => none
  if !mapsOk s then 1
  else match fail with
    | some (k, l) => 1 + 8 + 256 * k + 1024 * l
    | none => 1 + 2 + 8 + (if scaleBad then 0 else 4)

/-- The pass of step `k` of the skew self-test (R172): a front of 32 beats, 34 of MXFP4, and 40 rows. -/
def testPass (k : Nat) : Pass :=
  { uid := 0, test := some k, tag := 0, drives := true, isTwf := false, wtile := 0, flay := false, mask := none, ptag := none,
    lf := if k < 32 then 32 else 34, beats := 0, stile := 0, first := 0, count := 40, launched := 0, atile := 0, arow := 0, acol := 0,
    ncols := 32, flabel := 0 }

/-- Begin a step of the skew self-test. -/
def testStep (k : Nat) (scaleBad : Bool) (s : State) : State :=
  addPass (testPass k) { s with tnk := { s.tnk with skew := some ⟨k, 0, 0, scaleBad⟩ } }

/-- The pass of the step under way is still in the array. -/
def testRuns (s : State) : Bool := (s.arr.passes.any fun p => p.test.isSome) || s.arr.records.any fun r => r.test.isSome

/-- Record the outcome of the test (R172). -/
def endTest (bad : Option (Nat × BitVec 32)) (scaleBad : Bool) (s : State) : State :=
  rset 0x3030 (BitVec.ofNat 32 (skewStatus s bad scaleBad)) { s with tnk := { s.tnk with skew := none } }

/-- A step of the test has drained: the first logical row that fails ends the test (log 92); a scale lane that fails is noted (R172). -/
def nextTest (x : Skew) (s : State) : State :=
  if x.step < 32 then
    (if x.wrong = 0 then testStep (x.step + 1) false s else endTest (some (x.step, x.wrong)) false s)
  else
    let b := x.scaleBad || x.wrong != 0
    if x.step = 32 then testStep 33 b s else endTest none b s

/-- The test begins (R172): the check of the maps and trims, and, where they are good, the pass of row 0. -/
def beginTest (s : State) : State :=
  let s := setLatency (setTrims s)
  if !mapsOk s || (trimBad s).isSome then endTest none false s else testStep 0 false s

/-- SKEW_SELF_TEST (R172, R372): the test at logical row `lane`, or at scale lane `lane`. Once the maps are valid and SKEWGO is written, row 0
begins it with the check of the maps and trims; the lane under way, when its pass has drained, is judged, and the next one's pass begins. -/
def execSkewSelfTest (lane : Nat) (scale : Bool) (s : State) : Host.Outcome State Fault Refusal :=
  let k := if scale then 32 + lane else lane
  if (Instr.skewSelfTest lane scale).wf = false then .fault .noSuchUnit
  else if !s.arr.mapSampled || !s.arr.mapv || !s.tnk.skewGo || bit (rget s 0x3030) 0 || !running s islA || !running s islC then .next s
  else match s.tnk.skew with
    | some x => .next (if testRuns s || x.step != k then s else nextTest x s)
    | none => .next (if k = 0 then beginTest s else s)

/-! ### Unplug -/

/-- End a command that has not started, or a DRETIRE, under the unplug sequence (R55, R368). -/
def unplugEnd (t : Tag) (s : State) : State := finish t (outc .abortedPower 0 (tagOf s t).job.row) (dropAsks t true s)

/-- What step 2 of R55 does to one command: one that waits ends, a BKCLOSE under rank 1 of R275 (R276); transfers, array commands, BKADD and
BKCLOSE stop at their boundary; the rest run on. -/
def unplugOne (s : State) (p : Tag × TagEntry) : State :=
  let t := p.1
  match p.2.cmd with
  | none => s
  | some c =>
    if p.2.st = .waiting then
      (match c with
        | .bkclose .. => updTag t stopClose s
        | _ => unplugEnd t s)
    else
      let stops := stopsAtBoundary c || match c with | .bkadd .. | .bkclose .. => true | _ => false
      let s := if stops then updTag t (fun e => { e with stop := some .unplug }) s else s
      match c with
      | .dretire _ => unplugEnd t s
      | _ => if isArrayCmd c then arrayStop t s else s

/-- UNPLUG_WARN (R55, R56, R300, R368): an edge of `pwr_unplug_warn_n`; from deasserted it is the assertion. One out of reset starts the
sequence: no packet is accepted any more, and running work is told to stop. A deassertion stops nothing (log 53). -/
def execUnplugWarn (s : State) : Host.Outcome State Fault Refusal :=
  let s := { s with ctl := { s.ctl with unplugWarn := !s.ctl.unplugWarn } }
  if !s.ctl.unplugWarn || !s.ctl.powered || s.ctl.inReset || decide (1 ≤ s.ctl.unplug) then .next s
  else
    let s := { s with ctl := { s.ctl with halted := true, unplug := 1 } }
    let s := abandonCopy (dropLines (fun _ => true) s)
    .next (((allocTags s).filter fun p => p.2.inFlight).foldr insertAcc [] |>.foldl unplugOne s)

/-- UNPLUG_QUIESCED (R55): every response has arrived, every reply and notify is delivered. -/
def execUnplugQuiesced (s : State) : Host.Outcome State Fault Refusal :=
  let busy := (s.tly.tags.any fun p => p.2.alloc) || s.noc.tx.any fun p => p.2.isSome
  if s.ctl.unplug ≠ 1 ∨ busy = true then .next s
  else .next { s with ctl := { s.ctl with unplug := 2 }, pin := { s.pin with quiesced := true } }

/-- A group enters OFF whatever it holds (R109, R356), after the change it is in (R354). -/
def offGroup (s : State) (g : Nat) : State := setGroup g ((groupOf s g).goTo .off) s

/-- A Hayloft bank that is not zeroising enters RETENTION (R356), after the change it is in (R354). -/
def retainBank (s : State) (h : Nat) : State := if zeroHeld s h then s else setHbank h ((hbankOf s h).goTo .retention) s

/-- UNPLUG_POWER_DOWN (R356): the next step of the power side; LMP_UNPLUG.STEP counts them. The groups go OFF once every crossing that joins
them is empty (R355). -/
def execUnplugPowerDown (s : State) : Host.Outcome State Fault Refusal :=
  let k := s.ctl.unplug
  if k < 2 ∨ 6 ≤ k then .next s
  else if k = 2 ∧ (List.range 8).all (groupQuiet s) = false then .next s
  else
    let s := { s with ctl := { s.ctl with unplug := k + 1 } }
    .next (if k = 2 then (List.range 8).foldl offGroup s
      else if k = 3 then updIsl islA (fun x => { x with up := false }) { s with ctl := { s.ctl with arrRstN := false } }
      else if k = 4 then startFreq islH (envMin s islH) ((List.range 16).foldl retainBank s)
      else startFreq islC (envMin s islC) s)

/-! ### Security -/

/-- SECURE_EVENT (R52, R258, R374): a tamper assertion, or a rising life-cycle change with the state sampled. One that comes before island C
is up takes effect as C leaves reset (log 70). -/
def execSecureEvent (e : SecEvent) (s : State) : Host.Outcome State Fault Refusal :=
  let s := match e with
    | .tamper => { s with ctl := { s.ctl with tamper := true } }
    | .lifeCycle st => { s with ctl := { s.ctl with lcChange := true, lcDriven := st } }
  if !running s islC then .next { s with ctl := { s.ctl with secLatch := true } }
  else match e with
    | .tamper => .next (zeroise s)
    | .lifeCycle _ => .next (zeroise (sampleLc s))

/-- SECURE_EVENT_CLEAR (R52). -/
def execSecureEventClear (s : State) : Host.Outcome State Fault Refusal :=
  .next { s with ctl := { s.ctl with tamper := false, lcChange := false }, pin := { s.pin with zeroDone := false } }

/-- Zero the words of a logical bank that lie in a byte range of the Hayloft (R244, R258). -/
def zeroBank (base size : Nat) (s : State) (h : Nat) : State :=
  let q := 2 ^ 20 * (h / 4)
  let lo := (max base q - q) / 256
  let hi := (min (base + size) (q + 2 ^ 20) - q) / 256
  let p := physOf s 4 h
  if hi ≤ lo then s
  else { s with hay := { s.hay with
    mem := Memory.clear s.hay.mem (262144 * p + 64 * lo) (64 * (hi - lo))
    chk := Memory.clear s.hay.chk (32768 * p + 8 * lo) (8 * (hi - lo)) } }

/-- ZEROISATION_DONE (R52, R258): once every bank of the partition is ON, its words are zero, and the banks serve again. -/
def execZeroisationDone (s : State) : Host.Outcome State Fault Refusal :=
  let hs := (List.range 16).filter (zeroHeld s)
  if !s.hay.zeroing || !(hs.all fun h => (hbankOf s h).ready) || !running s islH then .next s
  else
    let r := secRange s
    let s := hs.foldl (zeroBank r.1 r.2) s
    .next { s with
      hay := { s.hay with zeroing := false, zcount := min 0xFFFF (s.hay.zcount + 1) }
      pin := { s.pin with zeroDone := true } }

/-! ### Fuses and the probe -/

/-- Present a fuse read (R26, R53). -/
def sendFuse (s : State) : State :=
  { s with pin := { s.pin with fuseReq := !s.pin.fuseReq, fuseAddr := (rget s 0xD018).extractLsb' 0 8 } }

/-- FUSE_READY (R53): a read that waited is sent. -/
def execFuseReady (s : State) : Host.Outcome State Fault Refusal :=
  let waiting := !s.tnk.fuseReady && s.tnk.fuseBusy
  let s := { s with tnk := { s.tnk with fuseReady := true } }
  .next (if waiting then sendFuse s else s)

/-- FUSE_ACK (R53, R361): the word is stored; a read of another word, started meanwhile, follows (log 33). -/
def execFuseAck (data : Reg) (s : State) : Host.Outcome State Fault Refusal :=
  if !s.tnk.fuseBusy || !s.tnk.fuseReady || !running s islC then .next s
  else
    let s := rset 0xD01C data s
    if fld (rget s 0xD018) 7 0 = s.pin.fuseAddr.toNat then .next { s with tnk := { s.tnk with fuseBusy := false } }
    else .next (sendFuse s)

/-- SVC_PRESENT_CHANGE (R51, R378). -/
def execSvcPresentChange (v : Bool) (s : State) : Host.Outcome State Fault Refusal :=
  if v = s.ctl.svcPresent then .next s
  else .next (traceEv 13 islC 0 0 (b2n v) { s with ctl := { s.ctl with svcPresent := v } })

end Sys2Proof.Machine
end

