-- ==== Sys2Proof/Machine/Registers.lean ====
section
/-! DEFINITION. Reads and writes of registers (R9-R11, R384-R393): the value of every register, the field rules of plain writes, and the registers
whose write acts. -/

namespace Sys2Proof.Machine

/-! ### What is read -/

/-- Sum of `f i` in fields of `w` bits, `n` of them. -/
def packed (w n : Nat) (f : Nat → Nat) : Nat := (List.range n).foldl (fun v i => v + f i * 2 ^ (w * i)) 0

/-- CRT_CRDs (R132): no write-buffer entry is free and ungranted, before the grants and after, but for beats on their way. -/
def crdReg (s : State) (n : Nat) : Nat :=
  let x := stnOf s n
  let free := if running s islA then x.wTotal - x.wHeld - x.wrQ.length else 0
  x.rTotal * 2 ^ 24 + x.rHeld * 2 ^ 16 + x.wTotal * 2 ^ 8 + free

/-- TIL_FLABEL (R159). -/
def flabelReg (s : State) : Nat :=
  match s.arr.resident with
  | some r => r.ptag.toNat * 2 ^ 9 + 2 ^ 8 + r.label % 256
  | none => 0

/-- COP_EBUSY (R242). -/
def ebusyReg (s : State) : Nat :=
  packed 1 8 (fun e => b2n !(startedOn s (6 + e)).isEmpty) + 256 * b2n (s.tly.bounceHeld.isSome || s.tly.bounceRec.isSome)

/-- ASY_HFREE (R242). -/
def hfreeReg (s : State) : Nat :=
  match (List.range 4096).find? fun h => (liveCrc s h).isNone with
  | some h => h
  | none => 2 ^ 31

/-- Live handles (R242). -/
def liveCount (s : State) : Nat := (s.asy.live.filter fun p => p.2.isSome).length

/-- The key of the conflict counter that HAY_CSEL selects for master `m`, none where it does not use that port (R247, R250). -/
def confKey (s : State) (m : Nat) : Option Nat :=
  let c := rget s 0x7100
  if onPortB m = bit c 5 then some (16 * portKey (fld c 4 0) (bit c 5) + m) else none

/-- Codes of TLY_TAGINFO.STATE (R344). -/
def TagSt.code : TagSt → Nat
  | .free => 0 | .waiting => 1 | .started => 2 | .replying => 3 | .notifying => 4

/-- TLY_TAGINFO (R344). -/
def tagInfoReg (s : State) : Nat :=
  let e := tagOf s (BitVec.ofNat 9 (fld (rget s 0x900C) 8 0))
  if e.alloc then hdrOp e.own * 2 ^ 24 + hdrStream e.own * 2 ^ 16 + e.st.code else 0

/-- HAB_OCC and HAB_REFS (R286, R287, R291). -/
def occReg (s : State) : Nat := pinnedRows s * 2 ^ 16 + (s.hab.rows.filter fun p => p.2.isSome).length
def refsReg (s : State) : Nat :=
  s.hab.fetches.length * 2 ^ 16 + min 0xFFFF (s.tly.tags.foldl (fun n p => n + p.2.refs.length) 0)

/-- The registers of bucket slot `b` (R280). -/
def bucketReg (s : State) (b k : Nat) : Nat :=
  let x := bucketOf s b
  match k with
  | 0 => x.size * 2 ^ 8 + x.base
  | 1 => x.step * 2 ^ 16 + 4 * b2n x.fault + x.st.code
  | 2 => x.nelem | 3 => x.cPlaced | 4 => x.cSent | 5 => x.cAcked | 6 => x.cFailed | _ => x.cNonf

/-- LMP_FCURi (R358). -/
def fcurReg (s : State) (i : Nat) : Nat :=
  let x := islOf s i
  b2n x.lock * 2 ^ 31 + x.stretch * 2 ^ 28 + b2n x.throt * 2 ^ 25 + b2n x.target.isSome * 2 ^ 24 + x.freq

/-- An island is switched off: a bank island with its group, A in the unplug sequence (R353, R356). -/
def islOff (s : State) (i : Nat) : Bool :=
  match islGroup i with
  | some g => (groupOf s g).st == .off
  | none => i == islA && decide (4 ≤ s.ctl.unplug)

/-- LMP_MONi (R352, R358). -/
def monReg (s : State) (i : Nat) : Nat :=
  (if islOff s i then 0 else (islOf s i).volt.toNat * 2 ^ 16) + (islOf s i).temp.toNat

/-- Kind and logical unit that TNK_RMSEL selects, when it names one (R380). -/
def rmSelected (s : State) : Option (Nat × Nat) :=
  let k := fld (rget s 0xD010) 31 24
  let l := fld (rget s 0xD010) 15 0
  if k < 8 ∧ l < kindSize k then some (k, l) else none

/-- TNK_RETST (R380). -/
def retstReg (s : State) : Nat :=
  s.tnk.used * 2 ^ 28 + (match s.tnk.copying with | some c => 256 + c.bank | none => s.tnk.lastBank)

/-- A failing unit serves a logical unit (R372). Physical lanes are numbered `33 * path + lane`. -/
def unitServes (s : State) (f : Nat × Nat) : Bool :=
  match f.1 with
  | 0 => (servedBank s f.2).isSome
  | 3 => (servedBy s 3 (32 * (f.2 / 33)) (f.2 % 33)).isSome
  | 7 => false
  | k => (servedBy s k 0 f.2).isSome

/-- TNK_BOOTST.MAPBAD (R372). -/
def mapBad (s : State) : Bool := s.tnk.fails.any (unitServes s)

/-- TNK_BOOTST (R373, R380). -/
def bootstReg (s : State) : Nat :=
  s.tnk.dead * 2 ^ 21 + min 8191 s.tnk.failCount * 2 ^ 8 + 8 * b2n s.tnk.fatal + 4 * b2n (decide (64 < s.tnk.failCount))
    + 2 * b2n (mapBad s) + b2n s.tnk.bistDone

/-- TNK_BFDATA (R373, R380). -/
def bfdataReg (s : State) : Nat :=
  match s.tnk.fails[fld (rget s 0xD028) 5 0]? with
  | some f => 2 ^ 31 + f.1 * 2 ^ 16 + f.2
  | none => 0

/-- Word `n` of a log or trace entry, zero where there is none (R377-R380). -/
def entryWord (e : Option LogEnt) (n : Nat) : Nat :=
  match e with
  | some e => ofBytes ((e.bytes.drop (4 * n)).take 4)
  | none => 0

/-- FAB_CAPS (R380). -/
def capsReg (s : State) : Nat :=
  let t := rget s 0x3030
  16 * b2n (present s 5) + 8 * b2n (present s 4) + 4 * b2n (present s 3) + 2 * b2n (bit t 2) + b2n (bit t 1)

/-- The entry that CHN_RSEL selects (R304). -/
def selRing (s : State) : Nat := fld (rget s 0x8008) 14 0

/-- The value of a register that reports state held elsewhere; none for a register that stores its value (R392). -/
def derivedReg (s : State) (off : Nat) : Option Nat :=
  match off with
  | 0x0008 => some (packed 2 8 fun g => (groupOf s g).code)
  | 0x1008 => some (packed 1 8 fun g => b2n !millersFree s g)
  | 0x2064 => some s.crt.slot
  | 0x3034 => some (flabelReg s)
  | 0x4008 => some (s.arr.nextTag.toNat * 2 ^ 16 + s.arr.records.length * 2 ^ 8 + s.arr.q)
  | 0x5004 => some (ebusyReg s)
  | 0x6004 => some (liveCount s)
  | 0x6008 => some (hfreeReg s)
  | 0x700C => some (s.hay.zcount * 2 ^ 16 + 2 * b2n s.pin.zeroDone + b2n s.hay.zeroing)
  | 0x7024 => some (packed 2 16 fun h => (hbankOf s h).code)
  | 0x8004 => some (min 0xFFFF (s.rng.bells.filter (·.2)).length * 2 ^ 16 + 2 * s.rng.ptr + b2n (bit (rget s 0x8004) 0))
  | 0x800C => some (fld (Ring.bits (ringOf s (selRing s))) 31 0)
  | 0x8010 => some (fld (Ring.bits (ringOf s (selRing s))) 63 32)
  | 0x8014 => some (ringWeight s (selRing s) * 2 ^ 20 + b2n (ringBell s (selRing s)) * 2 ^ 16 + ringOwner s (selRing s))
  | 0x9000 => some (fld (islOf s islC).cyc 31 0)
  | 0x9004 => some (fld (islOf s islC).cyc 63 32)
  | 0x9008 => some (freeTags s)
  | 0x9010 => some (tagInfoReg s)
  | 0x9014 => some (256 - (s.tly.recs.filter fun p => decide (p.2.st ≠ .free)).length)
  | 0xA00C => some (occReg s)
  | 0xA010 => some (refsReg s)
  | 0xB004 => some (raccOut s)
  | 0xC108 => some (packed 1 11 fun i => b2n (islOf s i).throt)
  | 0xC10C => some s.ctl.unplug
  | 0xD00C => some (retstReg s)
  | 0xD014 => some (match rmSelected s with | some (k, l) => physOf s k l | none => 0)
  | 0xD018 => some (b2n s.tnk.fuseBusy * 2 ^ 31 + b2n s.tnk.fuseReady * 2 ^ 30 + (rget s 0xD018).toNat)
  | 0xD020 => some (bootstReg s)
  | 0xD02C => some (bfdataReg s)
  | 0xD030 => some (b2n s.ctl.svcPresent * 2 ^ 31 + (rget s 0xD030).toNat)
  | 0xD038 => some (tget 0 s.tnk.ceTot (rget s 0xD034).toNat * 2 ^ 16 + tget 0 s.tnk.ceWin (rget s 0xD034).toNat)
  | 0xD060 => some (s.tnk.lost * 2 ^ 16 + s.tnk.log.length)
  | 0xE000 => some 0x0B121006
  | 0xE008 => some (s.ctl.lcChanges * 2 ^ 16 + 4 * b2n s.ctl.lcValid + s.ctl.lcState.toNat)
  | 0xE00C => some (capsReg s)
  | _ =>
    if 0x2140 ≤ off ∧ off < 0x2180 then some (crdReg s ((off - 0x2140) / 4))
    else if 0x2180 ≤ off ∧ off < 0x218C then
      some ((stnOf s (3 + (off - 0x2180) / 4)).oTotal * 2 ^ 8 + (stnOf s (3 + (off - 0x2180) / 4)).oHeld)
    else if 0x7140 ≤ off ∧ off < 0x7174 then
      some (match confKey s ((off - 0x7140) / 4) with | some k => tget 0 s.hay.conf k | none => 0)
    else if 0xB100 ≤ off ∧ off < 0xB200 then some (bucketReg s ((off - 0xB100) / 32) ((off - 0xB100) % 32 / 4))
    else if 0xC040 ≤ off ∧ off < 0xC06C then some (fcurReg s ((off - 0xC040) / 4))
    else if 0xC0C0 ≤ off ∧ off < 0xC0EC then some (monReg s ((off - 0xC0C0) / 4))
    else if 0xD040 ≤ off ∧ off < 0xD060 then some (tget 0 s.tnk.shadow ((off - 0xD040) / 4)).toNat
    else if 0xD064 ≤ off ∧ off < 0xD074 then some (entryWord s.tnk.log.head? ((off - 0xD064) / 4))
    else if 0xD088 ≤ off ∧ off < 0xD098 then
      some (entryWord s.tnk.trace[fld (rget s 0xD084) 9 0]? ((off - 0xD088) / 4))
    else if 0xD0A0 ≤ off ∧ off < 0xD0B0 then some (entryWord s.tnk.firstBad ((off - 0xD0A0) / 4))
    else none

/-- An offset that names a register: aligned, and in the tables of R392 (R9, R11). -/
def regExists (off : Nat) : Bool := off % 4 == 0 && (regSpec off).isSome

/-- The value of a register; zero where there is none (R9, R11). -/
def readReg (s : State) (off : Nat) : Reg :=
  if regExists off then
    match derivedReg s off with
    | some v => BitVec.ofNat 32 v
    | none => rget s off
  else 0

/-! ### Sources and captures -/

/-- The number of a source in the log: 0 `cmd_`, 1 the network, 2 the probe. -/
def regSrcCode : RegSrc → Nat
  | .cmd => 0 | .noc => 1 | .svc => 2

/-- The low registers of the 64-bit pairs (R390). -/
def pairHigh (off : Nat) : Option Nat :=
  match off with
  | 0x9000 => some 0x9004 | 0x800C => some 0x8010 | 0xA000 => some 0xA004 | 0x6018 => some 0x601C | 0x6020 => some 0x6024 | _ => none

/-- What a source has captured, and setting it. -/
def captured (src : RegSrc) (s : State) : Option (Nat × Reg) := tget none s.ctl.capture (regSrcCode src)
def setCapture (src : RegSrc) (x : Option (Nat × Reg)) (s : State) : State :=
  { s with ctl := { s.ctl with capture := tset none s.ctl.capture (regSrcCode src) x } }

/-- The generator of a register's island has lost lock (R388). -/
def regDead (s : State) (off : Nat) : Bool := regExists off && !(islOf s (regIsland off)).lock

/-- Log an access that R388 answers. -/
def logDead (off : Nat) (s : State) : State := logErr 0x13 (regIsland off) (regIsland off) off 0 s

/-- An access that reads: its value, and the capture it makes or uses (R390). -/
def accessRead (src : RegSrc) (off : Nat) (s : State) : Reg × State :=
  if regDead s off then (0, logDead off (setCapture src none s))
  else
    let v := match captured src s with
      | some (h, x) => if h = off then x else readReg s off
      | none => readReg s off
    (v, setCapture src ((pairHigh off).map fun h => (h, readReg s h)) s)

/-! ### Plain writes -/

/-- A slot byte of a wheel's shadow may be written: MODE not 3, and MODE 2 only for AF on a read wheel (R126). -/
def slotOk (writeWheel : Bool) (b : Nat) : Bool :=
  let mode := b / 64
  mode != 3 && (mode != 2 || (!writeWheel && b % 16 == 0))

/-- A wheel's shadow after a write: a byte that may not be written keeps its value (R126). -/
def shadowWrite (writeWheel : Bool) (old new : Reg) : Reg :=
  BitVec.ofNat 32 (packed 8 4 fun m =>
    let b := (byteAt new m).toNat
    if slotOk writeWheel b then b else (byteAt old m).toNat)

/-- Keep the bits of `m` as they were. -/
def keepBits (m old new : Reg) : Reg := (old &&& m) ||| (new &&& ~~~m)

/-- The backing table lies in its store (R285). -/
def tableFits (hay : Bool) (base : Nat) : Bool := decide (base + 2 ^ 20 ≤ (if hay then 2 ^ 22 else 2 ^ 48))

/-- What a plain write stores, by the field rules of each register (R112, R126, R177, R210, R235, R242, R246, R250, R257, R274, R285, R350, R362,
R364): `new` is `old` with the writable bits replaced. -/
def fieldRules (s : State) (off : Nat) (old new : Reg) : Reg :=
  match off with
  | 0x1000 => if 1 ≤ new.toNat ∧ new.toNat ≤ 7 then new else old
  | 0x5000 => if 16 < fld new 12 8 ∨ 64 < fld new 5 0 + fld new 12 8 then old else new
  | 0x6014 => if 2 ≤ fld new 2 1 then keepBits 6 old new else new
  | 0x7000 => if liveCount s = 0 then new else old
  | 0x7004 => if 64 < fld new 22 16 ∨ 1024 < fld new 9 0 + fld new 22 16 then old else new
  | 0x7008 => if 16 < fld new 20 16 ∨ 64 < fld new 5 0 + fld new 20 16 then old else new
  | 0x7100 => if 16 < fld new 4 0 then keepBits 31 old new else new
  | 0xA000 => if tableFits (btHay s) (new.toNat + 2 ^ 32 * (rget s 0xA004).toNat) then new else old
  | 0xA004 => if tableFits (btHay s) ((rget s 0xA000).toNat + 2 ^ 32 * new.toNat) then new else old
  | 0xA008 => if bit old 0 || !tableFits (bit new 1) (btBase s) then keepBits 2 old new else new
  | 0xB000 => if 1 ≤ new.toNat ∧ new.toNat ≤ 512 then new else old
  | 0xC104 => if fld new 7 0 = 0 ∨ fld new 15 8 ≤ fld new 7 0 then old else new
  | 0xD008 =>
    let x := if 8 < fld new 31 28 then keepBits 0xF0000000 old new else new
    if 16 ≤ fld x 5 0 ∧ fld x 5 0 ≤ 40 then x else keepBits 0x3F old x
  | 0xD034 => if 71 < new.toNat then old else new
  | _ => if 0x2000 ≤ off ∧ off < 0x2060 then shadowWrite (decide (0x2040 ≤ off)) old new else new

/-- FAB_BOOTLOCK.LOCK (R371). -/
def lockedDown (s : State) : Bool := bit (rget s 0xE004) 0

/-- Log an RWB write under LOCK (R10). -/
def logLocked (src : RegSrc) (off : Nat) (s : State) : State := logErr 0x08 islC 0 off (regSrcCode src) s

/-- Log a refused register write (R360, R371). -/
def logRefused (src : RegSrc) (off : Nat) (s : State) : State := logErr 0x11 islC 0 off (regSrcCode src) s

/-- A write to a register without behaviour of its own (R10). -/
def plainWrite (src : RegSrc) (off : Nat) (v : Reg) (s : State) : State :=
  match regSpec off with
  | none => s
  | some r =>
    if r.rwb ≠ 0 ∧ lockedDown s = true then logLocked src off s
    else if r.rw ||| r.rwb = 0 then s
    else
      let old := rget s off
      rset off (fieldRules s off old (keepBits (~~~(r.rw ||| r.rwb)) old v)) s

/-! ### Writes that act (R393) -/

/-- CRT_WHLCOMMIT (R126). -/
def writeWhlcommit (v : Reg) (s : State) : State := rset 0x2060 (rget s 0x2060 ||| (v &&& 0x3F)) s

/-- ASY_WSEL (R210). -/
def writeWsel (v : Reg) (s : State) : State := loadStaging (windowOf s (fld v 7 0)) (rset 0x6010 (v &&& 0xFF) s)

/-- ASY_WCOMMIT (R210). -/
def writeWcommit (v : Reg) (s : State) : State := if bit v 0 then commitWindow s else s

/-- MIL_SEED (R195, R387): groups that are ON reseed now, the others when they are next ON. -/
def writeSeed (v : Reg) (s : State) : State :=
  (List.range 8).foldl (fun s g => if (groupOf s g).ready then reseedGroup g s
    else { s with mil := { s.mil with reseed := tset false s.mil.reseed g true } }) (rset 0x1004 v s)

/-- CHN_DBELL (R296). -/
def writeDbell (v : Reg) (s : State) : State := ringDoorbell (fld v 30 16) (fld v 10 0) s

/-- TLY_RESDROP (R330): it frees the HELD or CANCELLED record that REF names; any other REF is ignored and logged. -/
def writeResdrop (v : Reg) (s : State) : State :=
  let i := fld v 7 0
  let r := recOf s i
  let held := match r.st with | .held => true | .cancelled _ => true | _ => false
  if held && r.gen == fld v 11 8 then freeRec i s else logErr 0x11 islC 0 0x9018 (fld v 11 0) s

/-- TNK_RMDATA (R360): boot code makes an assignment while CMDEN is 0. -/
def writeRmdata (src : RegSrc) (v : Reg) (s : State) : State :=
  if lockedDown s then logLocked src 0xD014 s
  else if booted s then logRefused src 0xD014 s
  else match rmSelected s with
    | none => logRefused src 0xD014 s
    | some (k, l) => match assignMap k l (fld v 15 0) s with
      | some s' => s'
      | none => logRefused src 0xD014 s

/-- TNK_FUSEADDR (R53, R361): a read starts, at once when the fuse block is ready. A read in progress is first answered (log 33). -/
def writeFuseaddr (v : Reg) (s : State) : State :=
  let wasBusy := s.tnk.fuseBusy
  let s := rset 0xD018 (v &&& 0xFF) { s with tnk := { s.tnk with fuseBusy := true } }
  if wasBusy || !s.tnk.fuseReady then s else sendFuse s

/-- TNK_BOOTCTL (R372). -/
def writeBootctl (v : Reg) (s : State) : State := if bit v 0 then { s with tnk := { s.tnk with skewGo := true } } else s

/-- TNK_LOGPOP (R377). -/
def writeLogpop (v : Reg) (s : State) : State := if bit v 0 then { s with tnk := { s.tnk with log := s.tnk.log.tail } } else s

/-- TNK_LOGCNT (R377). -/
def writeLogcnt (s : State) : State := { s with tnk := { s.tnk with lost := 0, firstBad := none } }

/-- TNK_TRCMARK (R378). -/
def writeTrcmark (v : Reg) (s : State) : State := traceEv 14 islC 0 0 v.toNat s

/-- TNK_SHADOWg (R10, R369): a 1 in bit 31 clears VALID. -/
def writeShadow (g : Nat) (v : Reg) (s : State) : State :=
  if bit v 31 then { s with tnk := { s.tnk with shadow := tset 0 s.tnk.shadow g (tget 0 s.tnk.shadow g &&& 0x7FFFFFFF) } } else s

/-- CHN_RINGERR (R10, R393): a 1 in bit 16 clears VALID. -/
def writeRingerr (v : Reg) (s : State) : State := if bit v 16 then rset 0x8018 (rget s 0x8018 &&& 0xFFFEFFFF) s else s

/-- FAB_BOOTLOCK.CMDEN (R371): set once BIST and the skew self-test are done and the map is good; otherwise refused and logged. -/
def writeCmden (src : RegSrc) (v : Reg) (s : State) : State :=
  if !bit v 1 then s
  else if s.tnk.bistDone && bit (rget s 0x3030) 0 && !mapBad s then rset 0xE004 (rget s 0xE004 ||| 2) s
  else logRefused src 0xE004 s

/-- FAB_BOOTLOCK.LOCK (R371). -/
def writeLock (v : Reg) (s : State) : State := if bit v 0 then rset 0xE004 (rget s 0xE004 ||| 1) s else s

/-- FAB_BOOTLOCK (R371): a 0 is ignored. -/
def writeBootlock (src : RegSrc) (v : Reg) (s : State) : State := writeLock v (writeCmden src v s)

/-- Make `f` the set frequency of an island and start the change; a throttled island does not rise (R346, R352). -/
def setFreq (i f : Nat) (s : State) : State :=
  let aim := if (islOf s i).throt then min (aimed s i) f else f
  startFreq i aim (rset (0xC000 + 4 * i) (BitVec.ofNat 32 f) s)

/-- LMP_FSETi (R346): a value outside LMP_ENVi leaves the field unchanged. -/
def writeFset (i : Nat) (v : Reg) (s : State) : State :=
  let f := fld v 7 0
  if envMin s i ≤ f ∧ f ≤ envMax s i then setFreq i f s else s

/-- The frequency range of an island in units of 25 MHz (R345). -/
def freqRange (i : Nat) : Nat × Nat := if i = islA then (0x28, 0xB0) else if i = islH then (0x10, 0x48) else (0x14, 0x58)

/-- LMP_ENVi (R346, R358): an island whose set frequency falls outside moves to the nearer limit. -/
def writeEnv (src : RegSrc) (i : Nat) (v : Reg) (s : State) : State :=
  let lo := fld v 7 0
  let hi := fld v 15 8
  let r := freqRange i
  if lockedDown s then logLocked src (0xC080 + 4 * i) s
  else if hi < lo ∨ lo < r.1 ∨ r.2 < lo ∨ hi < r.1 ∨ r.2 < hi then s
  else
    let s := rset (0xC080 + 4 * i) (v &&& 0xFFFF) s
    let f := fset s i
    let s := if f < lo then setFreq i lo s else if hi < f then setFreq i hi s else s
    if aimed s i < lo then startFreq i lo s else if hi < aimed s i then startFreq i hi s else s

/-- A group is in a state its policy forbids, or is entering one (R111). -/
def forbidden (s : State) (g : Nat) : Bool :=
  let u := groupOf s g
  match groupPol s g with
  | 1 => !u.ready
  | 2 => (u.st == .off && u.entering.isNone) || u.entering == some .off
  | _ => false

/-- SHF_GPOL (R111): a group whose state the policy forbids is woken; not once the unplug sequence has switched the groups off (R356). -/
def writeGpol (v : Reg) (s : State) : State :=
  let old := rget s 0x0000
  let s := rset 0x0000 (BitVec.ofNat 32 (packed 2 8 fun g =>
    let f := fld v (2 * g + 1) (2 * g)
    if f = 3 then fld old (2 * g + 1) (2 * g) else f)) s
  if 3 ≤ s.ctl.unplug then s else (List.range 8).foldl (fun s g => if forbidden s g then wakeGroup g s else s) s

/-- OFF is refused for a bank that holds a byte of the descriptor region or the secure partition (R256). -/
def offRefused (s : State) (h : Nat) : Bool :=
  bankInRange h (descBase s) 262144 || bankInRange h (secRange s).1 (secRange s).2

/-- A Hayloft bank whose field of HAY_BSET has changed from that of `old` follows it (R255). A bank that an access has woken stays ON until it
has been idle, and one that is zeroising until then as well. -/
def followSet (old : Reg) (s : State) (h : Nat) : State :=
  let u := hbankOf s h
  let was := setStateOf old h
  let p := setState s h
  if p = was ∨ zeroHeld s h = true ∨ 5 ≤ s.ctl.unplug then s
  else if p = .on then setHbank h u.wakeUp s
  else if was ≠ .on ∧ (u.ready = true ∨ u.entering = some .on ∨ u.after = some .on) then s
  else parkBank h p s

/-- HAY_BSET (R255, R256). -/
def writeBset (v : Reg) (s : State) : State :=
  let old := rget s 0x7020
  let s := rset 0x7020 (BitVec.ofNat 32 (packed 2 16 fun h =>
    let f := fld v (2 * h + 1) (2 * h)
    if f = 3 ∨ (f = 2 ∧ offRefused s h = true) then fld old (2 * h + 1) (2 * h) else f)) s
  (List.range 16).foldl (followSet old) s

/-- HAY_CCNTm (R250). -/
def writeCcnt (m : Nat) (v : Reg) (s : State) : State :=
  match confKey s m with
  | some k => { s with hay := { s.hay with conf := tset 0 s.hay.conf k (fld v 15 0) } }
  | none => s

/-- The effect of a write at a register (R10, R393). -/
def regEffect (src : RegSrc) (off : Nat) (v : Reg) (s : State) : State :=
  match off with
  | 0x0000 => writeGpol v s
  | 0x1004 => writeSeed v s
  | 0x2060 => writeWhlcommit v s
  | 0x6010 => writeWsel v s
  | 0x6028 => writeWcommit v s
  | 0x7020 => writeBset v s
  | 0x8000 => writeDbell v s
  | 0x8018 => writeRingerr v s
  | 0x9018 => writeResdrop v s
  | 0xD014 => writeRmdata src v s
  | 0xD018 => writeFuseaddr v s
  | 0xD024 => writeBootctl v s
  | 0xD030 => rset 0xD030 (v &&& 0x7FFFFFFF) s
  | 0xD060 => writeLogcnt s
  | 0xD074 => writeLogpop v s
  | 0xD098 => writeTrcmark v s
  | 0xE004 => writeBootlock src v s
  | _ =>
    if 0x7140 ≤ off ∧ off < 0x7174 then writeCcnt ((off - 0x7140) / 4) v s
    else if 0xC000 ≤ off ∧ off < 0xC02C then writeFset ((off - 0xC000) / 4) v s
    else if 0xC080 ≤ off ∧ off < 0xC0AC then writeEnv src ((off - 0xC080) / 4) v s
    else if 0xD040 ≤ off ∧ off < 0xD060 then writeShadow ((off - 0xD040) / 4) v s
    else plainWrite src off v s

/-- The island of a register has been switched off by the unplug sequence (R356). -/
def regSwitchedOff (s : State) (off : Nat) : Bool :=
  let i := regIsland off
  (i == islA && decide (4 ≤ s.ctl.unplug)) || ((islGroup i).isSome && decide (3 ≤ s.ctl.unplug))

/-- A write of a register (R9, R11, R356, R388, R390). -/
def accessWrite (src : RegSrc) (off : Nat) (v : Reg) (s : State) : State :=
  let s := setCapture src none s
  if !regExists off then s
  else if regDead s off then logDead off s
  else if regSwitchedOff s off then s
  else regEffect src off v s

/-- Register accesses are served (R51, R388). -/
def serving (s : State) : Bool := awake s && s.ctl.service && running s islC

/-- An access takes effect at its register (log 57). -/
def doAct (src : RegSrc) (a : RegAct) (s : State) : State :=
  match a.v with
  | some v => accessWrite src a.off.toNat v s
  | none => (accessRead src a.off.toNat s).2

/-- No access or packet of a source waits. -/
def srcIdle (src : RegSrc) (s : State) : Bool :=
  match src with
  | .cmd => s.tly.cmdHeld.isEmpty
  | .noc => s.noc.in1.isEmpty
  | .svc => s.tly.svcHeld.isEmpty

/-- An access waits behind what its source sent before it (R385). -/
def holdAct (src : RegSrc) (a : RegAct) (s : State) : State :=
  match src with
  | .cmd => { s with tly := { s.tly with cmdHeld := s.tly.cmdHeld ++ [.act a] } }
  | .noc => { s with noc := { s.noc with in1 := s.noc.in1 ++ [.inr a] } }
  | .svc => { s with tly := { s.tly with svcHeld := s.tly.svcHeld ++ [.inr a] } }

/-- An access that acts at its register: now, or once accesses are served and its source's earlier ones have been (R51, R385). -/
def act (src : RegSrc) (a : RegAct) (s : State) : State :=
  if !awake s then s else if serving s && srcIdle src s then doAct src a s else holdAct src a s

/-- A write that acts at its register. -/
def actWrite (src : RegSrc) (off : Nat) (v : Reg) (s : State) : State := act src ⟨BitVec.ofNat 16 off, some v⟩ s

/-! ### The rows -/

/-- PAIR_LOW_READ (R390): a read of the low register of a pair captures the high half for its source; of any other offset, nothing. -/
def execPairLowRead (src : RegSrc) (off : BitVec 16) (s : State) : Host.Outcome State Fault Refusal :=
  .next (if (pairHigh off.toNat).isSome then act src ⟨off, none⟩ s else s)

/-- CRT_WHLCOMMIT_WRITE (R126). -/
def execCrtWhlcommitWrite (src : RegSrc) (v : Reg) (s : State) : Host.Outcome State Fault Refusal := .next (actWrite src 0x2060 v s)

/-- ASY_WSEL_WRITE (R210). -/
def execAsyWselWrite (src : RegSrc) (v : Reg) (s : State) : Host.Outcome State Fault Refusal := .next (actWrite src 0x6010 v s)

/-- ASY_WCOMMIT_WRITE (R210). -/
def execAsyWcommitWrite (src : RegSrc) (v : Reg) (s : State) : Host.Outcome State Fault Refusal := .next (actWrite src 0x6028 v s)

/-- MIL_SEED_WRITE (R195, R387). -/
def execMilSeedWrite (src : RegSrc) (v : Reg) (s : State) : Host.Outcome State Fault Refusal := .next (actWrite src 0x1004 v s)

/-- CHN_DBELL_WRITE (R296). -/
def execChnDbellWrite (src : RegSrc) (v : Reg) (s : State) : Host.Outcome State Fault Refusal := .next (actWrite src 0x8000 v s)

/-- TLY_RESDROP_WRITE (R330). -/
def execTlyResdropWrite (src : RegSrc) (v : Reg) (s : State) : Host.Outcome State Fault Refusal := .next (actWrite src 0x9018 v s)

/-- TNK_RMDATA_WRITE (R360). -/
def execTnkRmdataWrite (src : RegSrc) (v : Reg) (s : State) : Host.Outcome State Fault Refusal := .next (actWrite src 0xD014 v s)

/-- TNK_FUSEADDR_WRITE (R53). -/
def execTnkFuseaddrWrite (src : RegSrc) (v : Reg) (s : State) : Host.Outcome State Fault Refusal := .next (actWrite src 0xD018 v s)

/-- SKEWGO_WRITE (R372). -/
def execSkewgoWrite (src : RegSrc) (v : Reg) (s : State) : Host.Outcome State Fault Refusal := .next (actWrite src 0xD024 v s)

/-- TNK_LOGPOP_WRITE (R377). -/
def execTnkLogpopWrite (src : RegSrc) (v : Reg) (s : State) : Host.Outcome State Fault Refusal := .next (actWrite src 0xD074 v s)

/-- TNK_LOGCNT_WRITE (R377). -/
def execTnkLogcntWrite (src : RegSrc) (v : Reg) (s : State) : Host.Outcome State Fault Refusal := .next (actWrite src 0xD060 v s)

/-- TNK_TRCMARK_WRITE (R378). -/
def execTnkTrcmarkWrite (src : RegSrc) (v : Reg) (s : State) : Host.Outcome State Fault Refusal := .next (actWrite src 0xD098 v s)

/-- SHADOW_VALID_CLEAR (R369, R393): a write of TNK_SHADOWg. -/
def execShadowValidClear (src : RegSrc) (g : BitVec 3) (v : Reg) (s : State) : Host.Outcome State Fault Refusal :=
  .next (actWrite src (0xD040 + 4 * g.toNat) v s)

/-- RINGERR_VALID_CLEAR (R393): a write of CHN_RINGERR. -/
def execRingerrValidClear (src : RegSrc) (v : Reg) (s : State) : Host.Outcome State Fault Refusal := .next (actWrite src 0x8018 v s)

/-- CMDEN_WRITE (R371): a write of FAB_BOOTLOCK. -/
def execCmdenWrite (src : RegSrc) (v : Reg) (s : State) : Host.Outcome State Fault Refusal := .next (actWrite src 0xE004 v s)

/-- LOCK_WRITE (R371): a write of FAB_BOOTLOCK. -/
def execLockWrite (src : RegSrc) (v : Reg) (s : State) : Host.Outcome State Fault Refusal := .next (actWrite src 0xE004 v s)

/-- LMP_FSET_WRITE (R346). -/
def execLmpFsetWrite (src : RegSrc) (isl : Nat) (v : Reg) (s : State) : Host.Outcome State Fault Refusal :=
  if 11 ≤ isl then .fault .noSuchUnit else .next (actWrite src (0xC000 + 4 * isl) v s)

/-- LMP_ENV_WRITE (R346, R358). -/
def execLmpEnvWrite (src : RegSrc) (isl : Nat) (v : Reg) (s : State) : Host.Outcome State Fault Refusal :=
  if 11 ≤ isl then .fault .noSuchUnit else .next (actWrite src (0xC080 + 4 * isl) v s)

/-- SHF_GPOL_WRITE (R111). -/
def execShfGpolWrite (src : RegSrc) (v : Reg) (s : State) : Host.Outcome State Fault Refusal := .next (actWrite src 0x0000 v s)

/-- HAY_BSET_WRITE (R255, R256). -/
def execHayBsetWrite (src : RegSrc) (v : Reg) (s : State) : Host.Outcome State Fault Refusal := .next (actWrite src 0x7020 v s)

end Sys2Proof.Machine
end

