-- ==== Sys2Proof/Machine/Boundary.lean ====
section
/-! DEFINITION. The inputs of the boundary: transfers on `cmd_` (R30-R33), flits (R42-R47), credits (R27, R43, R131), and the service port
(R50, R51, R379). -/

namespace Sys2Proof.Machine

/-! ### Transfers on `cmd_` -/

/-- Serve the transfer at the front of `cmd_`, when it is no packet that waits and nothing else holds it (R32, R51). -/
def serveCmd (s : State) : Option State :=
  match s.tly.cmdHeld with
  | .regRead off :: r =>
    if serving s then
      let (v, s) := accessRead .cmd off.toNat { s with tly := { s.tly with cmdHeld := r } }
      some (sendSts (.regData v) (ackCmd s))
    else none
  | .regWrite off v :: r =>
    if serving s then some (ackCmd (accessWrite .cmd off.toNat v { s with tly := { s.tly with cmdHeld := r } })) else none
  | .act a :: r => if serving s then some (doAct .cmd a { s with tly := { s.tly with cmdHeld := r } }) else none
  | .kind3 :: r =>
    if running s islC then some (unusable islC 0 0 3 (ackCmd { s with tly := { s.tly with cmdHeld := r } })) else none
  | _ => none

/-- Serve transfers on `cmd_` up to the next that waits. -/
def drainCmd : Nat → State → State
  | 0, s => s
  | n + 1, s => match serveCmd s with | some s' => drainCmd n s' | none => s

/-- Serve what can be served on `cmd_`. -/
def pumpCmd (s : State) : State := drainCmd s.tly.cmdHeld.length s

/-- A transfer arrives on `cmd_`, behind those that wait (R32). -/
def arriveCmd (x : CmdXfer) (s : State) : State :=
  if awake s then pumpCmd { s with tly := { s.tly with cmdHeld := s.tly.cmdHeld ++ [x] } } else s

/-- REGISTER_READ_CMD (R32, R33): answered by one register-data transfer on `sts_`. -/
def execRegisterReadCmd (off : BitVec 16) (s : State) : Host.Outcome State Fault Refusal := .next (arriveCmd (.regRead off) s)

/-- REGISTER_WRITE (R10, R30): a register write on `cmd_`. -/
def execRegisterWrite (off : BitVec 16) (v : Reg) (s : State) : Host.Outcome State Fault Refusal := .next (arriveCmd (.regWrite off v) s)

/-! ### Flits -/

/-- The kinds that an inbound channel carries (R45). -/
def kindOn (c : Chan) (k : Nat) : Bool :=
  match c with
  | .c0 => k == 8 || k == 9
  | .c1 => decide (8 ≤ k) && decide (k ≤ 14)

/-- The data of a CMD flit (R45). -/
def packetData (p : Packet) : Line :=
  BitVec.ofNat 1024 (ofWords [p.w0, p.w1, p.w2, p.w3, p.w4, p.w5, p.w6, p.w7])

/-- A credit goes back to the partner of an inbound channel (R27). -/
def creditIn (c : Chan) (s : State) : State :=
  match c with
  | .c0 => { s with pin := { s.pin with i0crd := true }, noc := { s.noc with i0Out := s.noc.i0Out + 1 } }
  | .c1 => { s with pin := { s.pin with i1crd := true }, noc := { s.noc with i1Out := s.noc.i1Out + 1 } }

/-- The window offset of a REGRD or REGWR, none where the header names one outside the window (R44, R47). -/
def flitOffset (h : Word) : Option Nat := if fld h 63 32 = 0 then some (fld h 31 16) else none

/-- Take a REGRD (R47). -/
def takeRegrd (h : Word) (s : State) : State :=
  match flitOffset h with
  | some off =>
    let (v, s) := accessRead .noc off s
    answer (hdrTxid h) 6 0 (put v.toNat 0) s
  | none => answer (hdrTxid h) 6 0 0 (unusable islC 1 (hdrTxid h).toNat 0xD (setCapture .noc none s))

/-- Take a REGWR (R47). -/
def takeRegwr (h : Word) (v : Reg) (s : State) : State :=
  match flitOffset h with
  | some off => answer (hdrTxid h) 5 0 0 (accessWrite .noc off v s)
  | none => answer (hdrTxid h) 5 0 0 (unusable islC 1 (hdrTxid h).toNat 0xE (setCapture .noc none s))

/-- Take a CMD, once it is the network's turn (R301, R47): accepted exactly when R31 would accept it, else answered RETRY. -/
def takeCmd (txid : Txid) (p : Packet) (s : State) : State :=
  if canAccept s p then answer txid 4 0 0 (accept .noc p s) else answer txid 4 1 0 s

/-- Take a flit out of the buffer of channel 1 (R43, R45). -/
def takeFlit (f : Flit) (s : State) : State :=
  let s := creditIn .c1 s
  let st := byteAt f.hdr 2
  match hdrKind f.hdr with
  | 0x8 => takeRdrsp .c1 (hdrTxid f.hdr) st f.data s
  | 0x9 => takeWrack .c1 (hdrTxid f.hdr) st s
  | 0xA => takeRaccack (hdrTxid f.hdr) st (fld f.data 15 0) s
  | 0xB => inH (takeIngwr f.hdr f.data f.be) s
  | 0xC => takeCmd (hdrTxid f.hdr) (Packet.ofBits f.data) s
  | 0xD => takeRegrd f.hdr s
  | 0xE => takeRegwr f.hdr (f.data.extractLsb' 0 32) s
  | k => unusable islC 1 (hdrTxid f.hdr).toNat k s

/-- Take a flit out of the buffer of channel 0 (R43, R45). -/
def takeFlit0 (f : Flit) (s : State) : State :=
  let s := creditIn .c0 s
  let st := byteAt f.hdr 2
  match hdrKind f.hdr with
  | 0x8 => takeRdrsp .c0 (hdrTxid f.hdr) st f.data s
  | 0x9 => takeWrack .c0 (hdrTxid f.hdr) st s
  | k => unusable islC 0 (hdrTxid f.hdr).toNat k s

/-- A flit is for a unit of island H that takes nothing more (R20). -/
def waitsH (s : State) (f : Flit) : Bool :=
  let k := hdrKind f.hdr
  blockedH s && (k == 0xB || (decide (8 ≤ k) && decide (k ≤ 0xA) && answersH s (hdrTxid f.hdr)))

/-- The flit at the head of the buffer of channel 1 waits: a request without a credit for its answer (R43), a register access before accesses
are served (R51), a packet when another source has the turn (R301), what island H cannot take. -/
def flitWaits (s : State) (f : Flit) : Bool :=
  let k := hdrKind f.hdr
  (decide (0xB ≤ k) && decide (k ≤ 0xE) && s.noc.o1.held == 0) || ((k == 0xD || k == 0xE) && !serving s)
  || (nocReady s && !hasTurn s 1) || waitsH s f

/-- Take flits from the buffer of channel 1 in arrival order, up to one that waits (R43), with the register accesses among them (R385). -/
def drainIn1 : Nat → State → State
  | 0, s => s
  | n + 1, s =>
    match s.noc.in1 with
    | .inl f :: r => if flitWaits s f then s else drainIn1 n (takeFlit f { s with noc := { s.noc with in1 := r } })
    | .inr a :: r => if serving s then drainIn1 n (doAct .noc a { s with noc := { s.noc with in1 := r } }) else s
    | [] => s

/-- Take flits from the buffer of channel 0 in arrival order, up to one that island H cannot take. -/
def drainIn0 : Nat → State → State
  | 0, s => s
  | n + 1, s =>
    match s.noc.in0 with
    | f :: r => if kindOn .c0 (hdrKind f.hdr) && waitsH s f then s else drainIn0 n (takeFlit0 f { s with noc := { s.noc with in0 := r } })
    | [] => s

/-- Take what can be taken from the buffer of channel 1. -/
def pumpIn1 (s : State) : State := drainIn1 s.noc.in1.length s

/-- A flit arrives on a channel, for one of the partner's credits (R27, R43); without one it is an input the fabric cannot use (R29). -/
def arriveFlit (c : Chan) (f : Flit) (s : State) : State :=
  if !awake s || !running s islC then s
  else match c with
    | .c0 =>
      if s.noc.i0Out = 0 then unusable islC 0 (hdrTxid f.hdr).toNat 0x11 s
      else
        let s := { s with noc := { s.noc with i0Out := s.noc.i0Out - 1, in0 := s.noc.in0 ++ [f] } }
        drainIn0 s.noc.in0.length s
    | .c1 =>
      if s.noc.i1Out = 0 then unusable islC 1 (hdrTxid f.hdr).toNat 0x11 s
      else pumpIn1 { s with noc := { s.noc with i1Out := s.noc.i1Out - 1, in1 := s.noc.in1 ++ [.inl f] } }

/-- COMMAND_PACKET (R31, R32): accepted now, or held behind what waits on `cmd_`, or until its turn comes (R301). -/
def execCommandPacket (p : Packet) (s : State) : Host.Outcome State Fault Refusal :=
  if !awake s then .next s
  else if s.tly.cmdHeld = [] ∧ canAccept s p ∧ hasTurn s 0 then .next (accept .cmd p (ackCmd s))
  else .next { s with tly := { s.tly with cmdHeld := s.tly.cmdHeld ++ [.packet p] } }

/-- HELD_PACKET_ACCEPT (R31, R301, R308): the packet that waits on `cmd_` is accepted once it can be and its turn has come; register accesses
behind it follow (R32), and a packet of the network whose turn this was not. -/
def execHeldPacketAccept (s : State) : Host.Outcome State Fault Refusal :=
  match s.tly.cmdHeld with
  | .packet p :: r =>
    .next (if canAccept s p && hasTurn s 0 then
        pumpIn1 (pumpCmd (accept .cmd p (ackCmd { s with tly := { s.tly with cmdHeld := r } })))
      else s)
  | _ => .next s

/-- RING_SCHEDULER_VISIT (R298, R301): a step of the scheduler; a packet of the network whose turn this was not follows. -/
def execRingSchedulerVisit (s : State) : Host.Outcome State Fault Refusal := .next (pumpIn1 (schedule s))

/-- CMD_KIND_RESERVED (R29, R32, R45): acknowledged or credited, and logged. -/
def execCmdKindReserved (b : BadInput) (s : State) : Host.Outcome State Fault Refusal :=
  match b with
  | .cmdKind3 _ => .next (arriveCmd .kind3 s)
  | .flit c h => .next (if kindOn c (hdrKind h) then s else arriveFlit c ⟨h, 0, 0⟩ s)

/-- NOC_CMD (R47). -/
def execNocCmd (txid : Txid) (p : Packet) (s : State) : Host.Outcome State Fault Refusal :=
  .next (arriveFlit .c1 ⟨flitHdr 0 txid.toNat 0xC, packetData p, 0⟩ s)

/-- The KIND of a header set to `k`. -/
def withKind (h : Word) (k : Nat) : Word := (h &&& ~~~0xF#64) ||| put k 0

/-- INGWR (R47, R254). -/
def execIngwr (hdr : Word) (data : Line) (be : BitVec 128) (s : State) : Host.Outcome State Fault Refusal :=
  .next (arriveFlit .c1 ⟨withKind hdr 0xB, data, be⟩ s)

/-- REGRD (R47, R51). -/
def execRegrd (hdr : Word) (s : State) : Host.Outcome State Fault Refusal := .next (arriveFlit .c1 ⟨withKind hdr 0xD, 0, 0⟩ s)

/-- REGWR (R47, R51). -/
def execRegwr (hdr : Word) (v : Reg) (s : State) : Host.Outcome State Fault Refusal :=
  .next (arriveFlit .c1 ⟨withKind hdr 0xE, put v.toNat 0, 0⟩ s)

/-- RDRSP (R43, R45, R46). -/
def execRdrsp (c : Chan) (txid : Txid) (status : Byte) (data : Line) (s : State) : Host.Outcome State Fault Refusal :=
  .next (arriveFlit c ⟨flitHdr status.toNat txid.toNat 8, data, 0⟩ s)

/-- WRACK (R43, R45, R46). -/
def execWrack (c : Chan) (txid : Txid) (status : Byte) (s : State) : Host.Outcome State Fault Refusal :=
  .next (arriveFlit c ⟨flitHdr status.toNat txid.toNat 9, 0, 0⟩ s)

/-- RACCACK (R273). -/
def execRaccack (txid : Txid) (status : Byte) (added : BitVec 16) (s : State) : Host.Outcome State Fault Refusal :=
  .next (arriveFlit .c1 ⟨flitHdr status.toNat txid.toNat 0xA, put added.toNat 0, 0⟩ s)

/-! ### Credits -/

/-- A credit that no total allows (R43, R131). -/
def badCredit (isl unit : Nat) (s : State) : State := unusable isl unit 0 0x10 s

/-- A read credit of V0, V1 or SF (R131, R132). -/
def stnReadCredit (n : Nat) (s : State) : State :=
  let x := stnOf s n
  if !s.ctl.arrRstN then badCredit islA n s
  else if !s.ctl.winClosed then (if x.rHeld < 32 then setStn n { x with rHeld := x.rHeld + 1 } s else badCredit islA n s)
  else if 0 < x.rFly then setStn n { x with rHeld := x.rHeld + 1, rFly := x.rFly - 1 } s
  else badCredit islA n s

/-- An operation credit of V0, V1 or SF (R131, R132). -/
def stnOpCredit (n : Nat) (s : State) : State :=
  let x := stnOf s n
  if !s.ctl.arrRstN then badCredit islA n s
  else if !s.ctl.winClosed then (if x.oHeld < 4 then setStn n { x with oHeld := x.oHeld + 1 } s else badCredit islA n s)
  else if 0 < x.oFly then setStn n { x with oHeld := x.oHeld + 1, oFly := x.oFly - 1 } s
  else badCredit islA n s

/-- A credit of an outbound channel (R43): the first run sets the total; a later one returns a flit's. Answers and requests that waited
for it follow. -/
def nocCredit (c : Chan) (s : State) : State :=
  let x := chanOf s c
  let s := if !x.fixed then setChan c { x with held := x.held + 1, total := x.total + 1 } s
    else if 0 < x.fly then setChan c { x with held := x.held + 1, fly := x.fly - 1 } s
    else badCredit islC (chanNum c) s
  match c with
  | .c0 => s
  | .c1 => pumpIn1 (pumpAnswers s.noc.answers.length s)

/-- CREDIT_RETURN (R27, R43, R131). -/
def execCreditReturn (c : CreditChan) (s : State) : Host.Outcome State Fault Refusal :=
  match c with
  | .stnRead n => .next (if awake s && running s islA then stnReadCredit (extNum n) s else s)
  | .stnOp n => .next (if awake s && running s islA then stnOpCredit (extNum n) s else s)
  | .noc c => .next (if awake s && running s islC then nocCredit c s else s)

/-! ### The service port and register service -/

/-- Serve the access at the front of the service port, once accesses are served (R51, R379): it is acknowledged and counted. A write leaves
`svc_rdata` as it was (log 78). -/
def serveSvc (s : State) : Option State :=
  match s.tly.svcHeld with
  | .inl (wr, off, v) :: r =>
    if serving s then
      let s := { s with tly := { s.tly with svcHeld := r } }
      let (d, s) := if wr then (s.pin.svcRdata, accessWrite .svc off.toNat v s) else accessRead .svc off.toNat s
      let s := rset 0xD030 (BitVec.ofNat 32 (min 0x7FFFFFFF ((rget s 0xD030).toNat + 1))) s
      some { s with pin := { s.pin with svcAck := !s.pin.svcAck, svcRdata := d } }
    else none
  | .inr a :: r => if serving s then some (doAct .svc a { s with tly := { s.tly with svcHeld := r } }) else none
  | [] => none

/-- Serve what waits at the service port. -/
def drainSvc : Nat → State → State
  | 0, s => s
  | n + 1, s => match serveSvc s with | some s' => drainSvc n s' | none => s

/-- Serve what can be served at the service port. -/
def pumpSvc (s : State) : State := drainSvc s.tly.svcHeld.length s

/-- SERVICE_ACCESS (R51, R379): whatever `cmd_` holds. -/
def execServiceAccess (wr : Bool) (addr : BitVec 16) (wdata : Reg) (s : State) : Host.Outcome State Fault Refusal :=
  .next (if awake s then pumpSvc { s with tly := { s.tly with svcHeld := s.tly.svcHeld ++ [.inl (wr, addr, wdata)] } } else s)

/-- REGISTER_SERVICE_START (R51): accesses are served, those that waited first. -/
def execRegisterServiceStart (s : State) : Host.Outcome State Fault Refusal :=
  if !awake s || !running s islC || s.ctl.service then .next s
  else .next (pumpIn1 (pumpSvc (pumpCmd { s with ctl := { s.ctl with service := true } })))

end Sys2Proof.Machine
end

