-- ==== Sys2Proof/Machine/Dispatch.lean ====
section
/-! DEFINITION. One arm for each command: a direct call of its meaning, or a rejection by name. -/

namespace Sys2Proof.Machine

/-- The effect of a command on everything but the queue. -/
def exec (i : Instr) (s : State) : Host.Outcome State Fault Refusal :=
  match i with
  | .tcfg tag => Sys2Proof.Machine.execTcfg tag s
  | .trel tag => Sys2Proof.Machine.execTrel tag s
  | .tqry tag => Sys2Proof.Machine.execTqry tag s
  | .tld tag => Sys2Proof.Machine.execTld tag s
  | .tst tag => Sys2Proof.Machine.execTst tag s
  | .tgat tag => Sys2Proof.Machine.execTgat tag s
  | .tsct tag => Sys2Proof.Machine.execTsct tag s
  | .tscta tag => Sys2Proof.Machine.execTscta tag s
  | .tperm tag => Sys2Proof.Machine.execTperm tag s
  | .dcre tag => Sys2Proof.Machine.execDcre tag s
  | .dfree tag => Sys2Proof.Machine.execDfree tag s
  | .twf tag => Sys2Proof.Machine.execTwf tag s
  | .tmma tag => Sys2Proof.Machine.execTmma tag s
  | .tmmas tag => Sys2Proof.Machine.execTmmas tag s
  | .tacc tag => Sys2Proof.Machine.execTacc tag s
  | .tred tag => Sys2Proof.Machine.execTred tag s
  | .tqnt tag => Sys2Proof.Machine.execTqnt tag s
  | .tscl tag => Sys2Proof.Machine.execTscl tag s
  | .taccc tag => Sys2Proof.Machine.execTaccc tag s
  | .tdq tag => Sys2Proof.Machine.execTdq tag s
  | .tzero tag => Sys2Proof.Machine.execTzero tag s
  | .tvop tag => Sys2Proof.Machine.execTvop tag s
  | .tsfu tag => Sys2Proof.Machine.execTsfu tag s
  | .bkopen tag => Sys2Proof.Machine.execBkopen tag s
  | .bkadd tag => Sys2Proof.Machine.execBkadd tag s
  | .bkclose tag => Sys2Proof.Machine.execBkclose tag s
  | .bkqry tag => Sys2Proof.Machine.execBkqry tag s
  | .ctxset tag => Sys2Proof.Machine.execCtxset tag s
  | .ctxget tag => Sys2Proof.Machine.execCtxget tag s
  | .ctxpin tag => Sys2Proof.Machine.execCtxpin tag s
  | .ctxevict tag => Sys2Proof.Machine.execCtxevict tag s
  | .ringset tag => Sys2Proof.Machine.execRingset tag s
  | .ringget tag => Sys2Proof.Machine.execRingget tag s
  | .fence tag => Sys2Proof.Machine.execFence tag s
  | .preempt tag => Sys2Proof.Machine.execPreempt tag s
  | .resume tag => Sys2Proof.Machine.execResume tag s
  | .audit tag => Sys2Proof.Machine.execAudit tag s
  | .nop tag => Sys2Proof.Machine.execNop tag s
  | .drdent tag => Sys2Proof.Machine.execDrdent tag s
  | .dwrent tag => Sys2Proof.Machine.execDwrent tag s
  | .drdhay tag => Sys2Proof.Machine.execDrdhay tag s
  | .dwrhay tag => Sys2Proof.Machine.execDwrhay tag s
  | .dscrub tag => Sys2Proof.Machine.execDscrub tag s
  | .dretire tag => Sys2Proof.Machine.execDretire tag s
  | .drepair tag => Sys2Proof.Machine.execDrepair tag s
  | .dtrace tag => Sys2Proof.Machine.execDtrace tag s
  | .commandPacket p => Sys2Proof.Machine.execCommandPacket p s
  | .heldPacketAccept => Sys2Proof.Machine.execHeldPacketAccept s
  | .packetDecode => Sys2Proof.Machine.execPacketDecode s
  | .registerReadCmd off => Sys2Proof.Machine.execRegisterReadCmd off s
  | .registerWrite off v => Sys2Proof.Machine.execRegisterWrite off v s
  | .cmdKindReserved b => Sys2Proof.Machine.execCmdKindReserved b s
  | .replyDelivered => Sys2Proof.Machine.execReplyDelivered s
  | .notifyDelivered => Sys2Proof.Machine.execNotifyDelivered s
  | .commandStart tag => Sys2Proof.Machine.execCommandStart tag s
  | .nocCmd txid p => Sys2Proof.Machine.execNocCmd txid p s
  | .ingwr hdr data be => Sys2Proof.Machine.execIngwr hdr data be s
  | .regrd hdr => Sys2Proof.Machine.execRegrd hdr s
  | .regwr hdr v => Sys2Proof.Machine.execRegwr hdr v s
  | .rdrsp c txid status data => Sys2Proof.Machine.execRdrsp c txid status data s
  | .wrack c txid status => Sys2Proof.Machine.execWrack c txid status s
  | .raccack txid status added => Sys2Proof.Machine.execRaccack txid status added s
  | .creditReturn c => Sys2Proof.Machine.execCreditReturn c s
  | .stationWriteBeat n wd wchk wtag wlast => Sys2Proof.Machine.execStationWriteBeat n wd wchk wtag wlast s
  | .stationDone n dtag dsts => Sys2Proof.Machine.execStationDone n dtag dsts s
  | .stationErr n etag => Sys2Proof.Machine.execStationErr n etag s
  | .drainBeat adv add adpt => Sys2Proof.Machine.execDrainBeat adv add adpt s
  | .drainWatchdogExpire => Sys2Proof.Machine.execDrainWatchdogExpire s
  | .drainRowRelease => Sys2Proof.Machine.execDrainRowRelease s
  | .rowLaunch => Sys2Proof.Machine.execRowLaunch s
  | .frontBeat => Sys2Proof.Machine.execFrontBeat s
  | .portSlotGrant => Sys2Proof.Machine.execPortSlotGrant s
  | .wheelCommit => Sys2Proof.Machine.execWheelCommit s
  | .bankCycleGrant bank mRead mWrite => Sys2Proof.Machine.execBankCycleGrant bank mRead mWrite s
  | .spillPathGrant => Sys2Proof.Machine.execSpillPathGrant s
  | .hayloftAccessGrant bank bFirst => Sys2Proof.Machine.execHayloftAccessGrant bank bFirst s
  | .raccSend => Sys2Proof.Machine.execRaccSend s
  | .raccResendDue slot => Sys2Proof.Machine.execRaccResendDue slot s
  | .ringSchedulerVisit => Sys2Proof.Machine.execRingSchedulerVisit s
  | .trnResponse sid spa ssize sflt scode => Sys2Proof.Machine.execTrnResponse sid spa ssize sflt scode s
  | .xlateTimeout sid => Sys2Proof.Machine.execXlateTimeout sid s
  | .pwrRstAssert => Sys2Proof.Machine.execPwrRstAssert s
  | .pwrRstRelease => Sys2Proof.Machine.execPwrRstRelease s
  | .generatorLockCheck locked0 locked1 => Sys2Proof.Machine.execGeneratorLockCheck locked0 locked1 s
  | .islandResetExit => Sys2Proof.Machine.execIslandResetExit s
  | .registerServiceStart => Sys2Proof.Machine.execRegisterServiceStart s
  | .arrRstRelease => Sys2Proof.Machine.execArrRstRelease s
  | .stationCreditWindowClose => Sys2Proof.Machine.execStationCreditWindowClose s
  | .bistDone fails => Sys2Proof.Machine.execBistDone fails s
  | .arrMapv rowbyp colbyp => Sys2Proof.Machine.execArrMapv rowbyp colbyp s
  | .arrayMapChange mapv rowbyp colbyp => Sys2Proof.Machine.execArrayMapChange mapv rowbyp colbyp s
  | .skewSelfTest lane scale => Sys2Proof.Machine.execSkewSelfTest lane scale s
  | .unplugWarn => Sys2Proof.Machine.execUnplugWarn s
  | .unplugQuiesced => Sys2Proof.Machine.execUnplugQuiesced s
  | .unplugPowerDown => Sys2Proof.Machine.execUnplugPowerDown s
  | .secureEvent e => Sys2Proof.Machine.execSecureEvent e s
  | .secureEventClear => Sys2Proof.Machine.execSecureEventClear s
  | .zeroisationDone => Sys2Proof.Machine.execZeroisationDone s
  | .fuseReady => Sys2Proof.Machine.execFuseReady s
  | .fuseAck data => Sys2Proof.Machine.execFuseAck data s
  | .serviceAccess wr addr wdata => Sys2Proof.Machine.execServiceAccess wr addr wdata s
  | .svcPresentChange v => Sys2Proof.Machine.execSvcPresentChange v s
  | .droopTrip isl x => Sys2Proof.Machine.execDroopTrip isl x s
  | .stretchStepBack isl => Sys2Proof.Machine.execStretchStepBack isl s
  | .thermalSample temps volts => Sys2Proof.Machine.execThermalSample temps volts s
  | .frequencyChangeDone isl => Sys2Proof.Machine.execFrequencyChangeDone isl s
  | .generatorLockLoss isl => Sys2Proof.Machine.execGeneratorLockLoss isl s
  | .groupIdleExpire g => Sys2Proof.Machine.execGroupIdleExpire g s
  | .groupStateChangeDone g => Sys2Proof.Machine.execGroupStateChangeDone g s
  | .hayloftBankIdleExpire b => Sys2Proof.Machine.execHayloftBankIdleExpire b s
  | .hayloftBankStateDone b => Sys2Proof.Machine.execHayloftBankStateDone b s
  | .scrubStep ctl => Sys2Proof.Machine.execScrubStep ctl s
  | .ceWindowReset => Sys2Proof.Machine.execCeWindowReset s
  | .retirementCopy => Sys2Proof.Machine.execRetirementCopy s
  | .retirementSwitch => Sys2Proof.Machine.execRetirementSwitch s
  | .pairLowRead src off => Sys2Proof.Machine.execPairLowRead src off s
  | .crtWhlcommitWrite src v => Sys2Proof.Machine.execCrtWhlcommitWrite src v s
  | .asyWselWrite src v => Sys2Proof.Machine.execAsyWselWrite src v s
  | .asyWcommitWrite src v => Sys2Proof.Machine.execAsyWcommitWrite src v s
  | .milSeedWrite src v => Sys2Proof.Machine.execMilSeedWrite src v s
  | .chnDbellWrite src v => Sys2Proof.Machine.execChnDbellWrite src v s
  | .tlyResdropWrite src v => Sys2Proof.Machine.execTlyResdropWrite src v s
  | .tnkRmdataWrite src v => Sys2Proof.Machine.execTnkRmdataWrite src v s
  | .tnkFuseaddrWrite src v => Sys2Proof.Machine.execTnkFuseaddrWrite src v s
  | .skewgoWrite src v => Sys2Proof.Machine.execSkewgoWrite src v s
  | .tnkLogpopWrite src v => Sys2Proof.Machine.execTnkLogpopWrite src v s
  | .tnkLogcntWrite src v => Sys2Proof.Machine.execTnkLogcntWrite src v s
  | .tnkTrcmarkWrite src v => Sys2Proof.Machine.execTnkTrcmarkWrite src v s
  | .shadowValidClear src g v => Sys2Proof.Machine.execShadowValidClear src g v s
  | .ringerrValidClear src v => Sys2Proof.Machine.execRingerrValidClear src v s
  | .cmdenWrite src v => Sys2Proof.Machine.execCmdenWrite src v s
  | .lockWrite src v => Sys2Proof.Machine.execLockWrite src v s
  | .lmpFsetWrite src isl v => Sys2Proof.Machine.execLmpFsetWrite src isl v s
  | .shfGpolWrite src v => Sys2Proof.Machine.execShfGpolWrite src v s
  | .hayBsetWrite src v => Sys2Proof.Machine.execHayBsetWrite src v s
  | .outboundFlitSend => Sys2Proof.Machine.execOutboundFlitSend s
  | .trnQueryAck => Sys2Proof.Machine.execTrnQueryAck s
  | .registerDataDelivered => Sys2Proof.Machine.execRegisterDataDelivered s
  | .lmpEnvWrite src isl v => Sys2Proof.Machine.execLmpEnvWrite src isl v s
  | .powerLost => Sys2Proof.Machine.execPowerLost s
  | .fabricFirstPowered => Sys2Proof.Machine.execFabricFirstPowered s

end Sys2Proof.Machine
end

