-- ==== Sys2Proof/Safety.lean ====
section
/-! DEFINITION. The terms in which the statements speak of a step: what a completion leaves behind, what a step leaves alone, and which
commands leave storage alone. -/

namespace Sys2Proof

open Sys2Proof.Machine

/-- A step that neither faults nor is refused. -/
def StepOk (s : State) : Prop := ∃ t, step s = .next t

/-- `t` is `s` but for tags, resume records, the bounce area, the transfers on `sts_` and what the trace buffer took. -/
structure OnlyTags (s t : State) : Prop where
  pending : t.pending = s.pending
  shf : t.shf = s.shf
  mil : t.mil = s.mil
  crt : t.crt = s.crt
  arr : t.arr = s.arr
  hay : t.hay = s.hay
  asy : t.asy = s.asy
  noc : t.noc = s.noc
  hab : t.hab = s.hab
  rng : t.rng = s.rng
  thr : t.thr = s.thr
  isl : t.isl = s.isl
  ctl : t.ctl = s.ctl
  freeCtr : t.freeCtr = s.freeCtr
  regs : ∀ k, k ≠ 0xD080 → rget t k = rget s k
  tnk : { t.tnk with trace := s.tnk.trace, traceOld := s.tnk.traceOld } = s.tnk
  traceOff : bit (rget s 0xD080) 0 = false → t.tnk = s.tnk ∧ t.regs = s.regs
  tly : { t.tly with tags := s.tly.tags, recs := s.tly.recs, bounceHeld := s.tly.bounceHeld, bounceRec := s.tly.bounceRec,
                     stsCur := s.tly.stsCur, stsQ := s.tly.stsQ } = s.tly
  pin : { t.pin with stsReq := s.pin.stsReq, stsKind := s.pin.stsKind, stsData := s.pin.stsData } = s.pin

/-- From `s` the command of `tag` has completed with outcome `o` (R311, R325): its tag is REPLYING and holds the reply, its touches and
references have ended, the reply has its place on `sts_`; other tags are as they were, but for the counts of the PREEMPTs that acted on
this command; nothing else has changed. -/
structure Completed (s t : State) (tag : Tag) (o : Outc) : Prop where
  replying : (tagOf t tag).st = .replying
  word0 : (tagOf t tag).w0 = replyW0 (hdrCtx (tagOf s tag).hdr) (hdrOp (tagOf s tag).own) tag o
  word1 : (tagOf t tag).w1 = replyW1 s o
  touches : (tagOf t tag).touches = []
  refs : (tagOf t tag).refs = []
  queued : t.tly.stsCur = some (.reply tag) ∨ StsXfer.reply tag ∈ t.tly.stsQ
  others : ∀ u, u ≠ tag → u ∉ (tagOf s tag).actedBy → tagOf t u = tagOf s u
  recs : (tagOf s tag).recSlot = none → t.tly.recs = s.tly.recs
  only : OnlyTags s t

/-- A command whose meaning reads storage at most, and never writes it nor the queue. -/
def Instr.keepsStorage : Instr → Bool
  | .bankCycleGrant .. | .bistDone _ | .fabricFirstPowered | .groupStateChangeDone _ | .hayloftAccessGrant .. | .hayloftBankStateDone _
  | .powerLost | .pwrRstAssert | .tacc _ | .taccc _ | .tcfg _ | .tdq _ | .tqnt _ | .tred _ | .tscl _ | .tzero _ | .zeroisationDone => false
  | _ => true

/-- A command touches a tile in class W, other than for ordering only. -/
def WritesTile (e : TagEntry) (n : Nat) : Prop := ∃ x ∈ e.touches, x.obj = .tile n ∧ x.cls = .w ∧ x.orderOnly = false

/-- From `s` to `u` every configured tile that the command of `tag` wrote has become VALID (R96); of the rest only that command's progress
may differ. -/
structure Landed (s u : State) (tag : Tag) : Prop where
  written : ∀ n, WritesTile (tagOf s tag) n → (tileOf s n).st ≠ .unconfigured → tileOf u n = { tileOf s n with st := .valid }
  others : ∀ n, ¬ (WritesTile (tagOf s tag) n ∧ (tileOf s n).st ≠ .unconfigured) → tileOf u n = tileOf s n
  mine : tagOf u tag = { tagOf s tag with job := (tagOf u tag).job }
  tags : ∀ x, x ≠ tag → tagOf u x = tagOf s x
  only : u = { s with shf := { s.shf with tiles := u.shf.tiles }, tly := { s.tly with tags := u.tly.tags } }

/-- A load has formed every row, every row is in its banks, and it waits for nothing (R238). -/
def LoadFinished (s : State) (tag : Tag) (v : Load) : Prop :=
  (tagOf s tag).job.stage ≠ 0 ∧ v.rows ≤ v.total ∧ v.rows ≤ (tagOf s tag).job.reqRow ∧ (tagOf s tag).job.row = v.total
  ∧ loadLanded s tag v = true ∧ outstanding s tag = false

/-- A store of `total` steps has formed every step, and every write is acknowledged or performed (R238). -/
def StoreFinished (s : State) (tag : Tag) (total : Nat) : Prop :=
  total ≤ (tagOf s tag).job.row ∧ (tagOf s tag).job.pend = [] ∧ (tagOf s tag).job.wrOut = 0 ∧ (tagOf s tag).job.wErr = none
  ∧ outstanding s tag = false

/-- The command of a bank-arithmetic opcode. -/
def bankInstr (op : Opcode) (tag : Tag) : Instr :=
  match op with
  | .tacc => .tacc tag | .tred => .tred tag | .tqnt => .tqnt tag | .tscl => .tscl tag | .taccc => .taccc tag | .tdq => .tdq tag
  | _ => .tzero tag

/-- The seven bank-arithmetic opcodes (R178). -/
def bankOpcodes : List Opcode := [.tacc, .tred, .tqnt, .tscl, .taccc, .tdq, .tzero]

/-- The place of byte `o` of Sheaf tile `n` in Sheaf storage (R94). -/
def tileByteAddr (s : State) (n o : Nat) : Nat :=
  shfAddr (segPlace s n (tileOf s n) (o / 128)).1 (segPlace s n (tileOf s n) (o / 128)).2 (o % 128)

/-- The four memories are in canonical form (log 3). -/
def StorageCanonical (s : State) : Prop :=
  Memory.wf s.shf.mem = true ∧ Memory.wf s.shf.chk = true ∧ Memory.wf s.hay.mem = true ∧ Memory.wf s.hay.chk = true

/-- From `s` to `t` nothing has changed but what the trace buffer took (R378). -/
structure OnlyTrace (s t : State) : Prop where
  regs : ∀ k, k ≠ 0xD080 → rget t k = rget s k
  only : t = { s with regs := t.regs, tnk := { s.tnk with trace := t.tnk.trace, traceOld := t.tnk.traceOld } }

/-- From `s` to `t` the error log took one entry, or counted it as lost (R377); nothing else has changed but the trace. -/
structure Logged (s t : State) (kind isl unit loc info : Nat) : Prop where
  entry : if s.tnk.log.length < 64 then t.tnk.log = s.tnk.log ++ [⟨stamp s isl, isl, kind, unit, loc, info⟩] ∧ t.tnk.lost = s.tnk.lost
    else t.tnk.log = s.tnk.log ∧ t.tnk.lost = min 0xFFFF (s.tnk.lost + 1)
  first : t.tnk.firstBad = if isBadKind kind = true ∧ s.tnk.firstBad = none then some ⟨stamp s isl, isl, kind, unit, loc, info⟩ else s.tnk.firstBad
  regs : ∀ k, k ≠ 0xD080 → rget t k = rget s k
  only : t = { s with
    regs := t.regs
    tnk := { s.tnk with
      log := t.tnk.log
      lost := t.tnk.lost
      firstBad := t.tnk.firstBad
      trace := t.tnk.trace
      traceOld := t.tnk.traceOld } }

/-- From `s` to `t` the writes of the bytes `bs`, from address `a` upwards, have been asked for in the name of `tag`: each byte is enabled in
one line of memory or one word of the Hayloft, and no other byte is enabled (R340, R376). -/
structure AskedWrites (s t : State) (tag : Tag) (inHay : Bool) (a : Nat) (bs : List Byte) : Prop where
  mem : inHay = false → ∃ rs, t.noc = { s.noc with outQ := s.noc.outQ ++ rs } ∧ t.hay = s.hay
    ∧ (∀ r ∈ rs, r.write = true ∧ r.use = .dump tag ∧ r.addr % 128 = 0)
    ∧ (∀ r ∈ rs, ∀ k, k < 128 → bit r.be k = true → a ≤ r.addr + k ∧ r.addr + k < a + bs.length)
    ∧ ∀ i, i < bs.length → ∃ r ∈ rs, r.addr = 128 * ((a + i) / 128) ∧ bit r.be ((a + i) % 128) = true
        ∧ byteAt r.data ((a + i) % 128) = bs.getD i 0
  hay : inHay = true → ∃ ws, t.hay.waiting = s.hay.waiting ++ ws ∧ t.noc = s.noc
    ∧ t.hay = { s.hay with waiting := t.hay.waiting, banks := t.hay.banks }
    ∧ (∀ w ∈ ws, w.write = true ∧ w.use = .dump tag ∧ w.addr % 64 = 0)
    ∧ (∀ w ∈ ws, ∀ k, k < 64 → bit w.be k = true → a ≤ w.addr + k ∧ w.addr + k < a + bs.length)
    ∧ ∀ i, i < bs.length → ∃ w ∈ ws, w.addr = 64 * ((a + i) / 64) ∧ bit w.be ((a + i) % 64) = true
        ∧ byteAt w.data ((a + i) % 64) = bs.getD i 0
  started : (tagOf t tag).st = (tagOf s tag).st ∧ 0 < (tagOf t tag).job.wrOut
  storage : t.shf = s.shf

/-- From `s` to `t` the packet has been accepted from `src`: its tag is allocated and waits, it has the next place in the acceptance order,
it has entered the input queue, and the turn passes to the next source (R31, R60, R301, R325). -/
structure Accepted (s t : State) (src : Origin) (p : Packet) : Prop where
  tag : tagOf t (hdrTag p.w0)
    = { TagEntry.free with st := .waiting, own := p.w0, hdr := p.w0, pkt := p, src := src, place := s.tly.accNext, acc := s.tly.accNext }
  others : ∀ u, u ≠ hdrTag p.w0 → tagOf t u = tagOf s u
  queue : t.tly = { s.tly with tags := t.tly.tags, inq := s.tly.inq ++ [hdrTag p.w0], accNext := s.tly.accNext + 1, turn := (src.code + 1) % 3 }
  regs : ∀ k, k ≠ 0xD080 → k ≠ 0x9040 → k ≠ 0x8040 + 4 * src.code → rget t k = rget s k
  only : t = { s with tly := t.tly, regs := t.regs, tnk := { s.tnk with trace := t.tnk.trace, traceOld := t.tnk.traceOld } }

/-- A 64-bit word of a Sheaf bank, with its check byte, tests as correctable. -/
def shfFixable (s : State) (bank entry w : Nat) : Bool :=
  decide ((eccTest (shfRaw s bank entry w).1 (shfRaw s bank entry w).2).2 = .corrected)

/-- A 64-bit word of a Hayloft bank, with its check byte, tests as correctable. -/
def hayFixable (s : State) (bank word w : Nat) : Bool :=
  decide ((eccTest (hayRaw s bank word w).1 (hayRaw s bank word w).2).2 = .corrected)

/-- A word after a scrub has corrected it (R362): one that tests as correctable gets its good data and check bits; any other stays. -/
def scrubbed (p : Word × Byte) : Word × Byte :=
  if (eccTest p.1 p.2).2 = .corrected then ((eccTest p.1 p.2).1, checkByte (eccTest p.1 p.2).1) else p

/-- The place in Hayloft storage of the byte at a Hayloft address (R244). -/
def hayByteCell (s : State) (a : Nat) : Nat := hayCell (physOf s 4 (hayBank a)) (hayWord a) (a % 64)

/-- The Reset column of R392: every register whose reset value is not 0, by offset. -/
def resetColumn : List (Nat × Reg) :=
  [(0x0004, 0x1000), (0x0008, 0xAAAA), (0x1000, 4), (0x1004, 1)]
  ++ (series 0x2000 4 4).map (·, 0x43804380) ++ (series 0x2010 4 4).map (·, 0x41444144)
  ++ [(0x2140, 0x08000000), (0x2144, 0x08000000)] ++ (series 0x214C 4 3).map (·, 0x800) ++ (series 0x2158 4 4).map (·, 0x08000800)
  ++ (series 0x2168 4 5).map (·, 0x08000000) ++ [(0x217C, 0x02000200), (0x4000, 0x20), (0x4004, 0x2120), (0x400C, 0x400)]
  ++ [(0x6000, 0x4000), (0x7000, 0xD), (0x7008, 0x00080038), (0x7024, 0xAAAAAAAA), (0x7028, 0x1000), (0x8004, 1), (0x8014, 0x00100000)]
  ++ [(0x9008, 0x200), (0x9014, 0x100), (0xB000, 0x200), (0xB100, 0x400), (0xB120, 0x410)]
  ++ [(0xC000, 0xA0)] ++ (series 0xC004 4 8).map (·, 0x50) ++ [(0xC024, 0x40), (0xC028, 0x50)]
  ++ [(0xC040, 0x800000A0)] ++ (series 0xC044 4 8).map (·, 0x80000050) ++ [(0xC064, 0x80000040), (0xC068, 0x80000050)]
  ++ [(0xC080, 0xB028)] ++ (series 0xC084 4 8).map (·, 0x5814) ++ [(0xC0A4, 0x4810), (0xC0A8, 0x5814), (0xC104, 0x4628)]
  ++ [(0xD000, 0x100), (0xD008, 0x0001001F), (0xE000, 0x0B121006)]

end Sys2Proof
end

