-- ==== Sys2Proof/Certificates/Slice0/Obligations.lean ====
section
/-! DEFINITION. The statements about the fabric, by family. `Completed s t tag o` (Safety) says that from `s` to `t` the command of `tag` has
completed with outcome `o` and that nothing else has changed; where a command also has an effect, the statement names the state `u` that
this effect leaves and says that the command completes from `u`. -/

open Sys2Proof Sys2Proof.Machine

/-! ### The queue, reset and storage -/

/-- A step takes the command at the front of the queue and runs it with the queue's rest. -/
def Obligations.StepTakesFront : Prop :=
  ∀ (c : Instr) (r : List Instr) (s : State), s.pending = c :: r → step s = exec c { s with pending := r }

/-- R9, R29, R43, R304, R312: with no command waiting a c-cycle passes (the model's choice, log 6). While the fabric is powered, out of
`pwr_rst_n` and island C runs, the cycle counter of island C adds one and that of every other island that is powered and clocked adds the
cycles it makes in a c-cycle, or one more (log 5), a run of credit returns ends on both outbound channels, and HAB_MISSWAIT counts when a
command waits on a context fetch; else nothing changes. -/
def Obligations.IdleCycle : Prop :=
  ∀ s : State, s.pending = [] → ∃ t, step s = .next t
    ∧ ((s.ctl.powered = false ∨ s.ctl.inReset = true ∨ running s islC = false) → t = s)
    ∧ (s.ctl.powered = true → s.ctl.inReset = false → running s islC = true →
        (islOf t islC).cyc = (islOf s islC).cyc + 1
        ∧ (∀ i, i < 11 → i ≠ islC → islActive s i = true → ∃ k, k ≤ 1 ∧ (islOf t i).cyc = (islOf s i).cyc + BitVec.ofNat 64 (cyclesPer s i + k))
        ∧ (∀ i, (11 ≤ i ∨ islActive s i = false) → (islOf t i).cyc = (islOf s i).cyc)
        ∧ (∀ i, islOf t i = { islOf s i with cyc := (islOf t i).cyc })
        ∧ t.noc = { s.noc with o0 := s.noc.o0.close, o1 := s.noc.o1.close }
        ∧ (∀ k, rget t k = rget (if s.tly.tags.any (fun p => !p.2.ctxWait.isEmpty) = true then cnt 0xA050 1 s else s) k)
        ∧ t = { s with regs := t.regs, isl := t.isl, noc := t.noc, freeCtr := t.freeCtr })

/-- Reset: no command waits, every tag and record is FREE with generation 15, every tile UNCONFIGURED, every register of R392 reads the
value of the Reset column and every other offset 0, every output is 0, no byte of storage is listed.
Model's choices: no byte of storage listed is the model's choice (log 3); so is the condition that State.reset stands for (log 4). -/
def Obligations.ResetState : Prop :=
  State.reset.pending = [] ∧ (∀ t, tagOf State.reset t = TagEntry.free) ∧ (∀ i, recOf State.reset i = ⟨.free, 15, TagEntry.free⟩)
  ∧ (∀ n, (tileOf State.reset n).st = .unconfigured)
  ∧ (∀ p ∈ resetColumn, readReg State.reset p.1 = p.2)
  ∧ (∀ off, off ∉ resetColumn.map (·.1) → readReg State.reset off = 0)
  ∧ State.reset.pin = Pins.reset
  ∧ State.reset.pin.cmdAck = false ∧ State.reset.pin.stsReq = false ∧ State.reset.pin.stsData = 0 ∧ State.reset.pin.ntfReq = false
  ∧ State.reset.pin.qreq = false ∧ State.reset.pin.afv = 0 ∧ State.reset.pin.wfv = 0 ∧ State.reset.pin.quiesced = false
  ∧ State.reset.pin.zeroDone = false ∧ State.reset.pin.fuseReq = false ∧ State.reset.pin.svcAck = false
  ∧ State.reset.pin.i0crd = false ∧ State.reset.pin.i1crd = false ∧ (∀ n, tget StnPins.zero State.reset.pin.stn n = StnPins.zero)
  ∧ (∀ i, (islOf State.reset i).cyc = 0) ∧ State.reset.shf.mem = [] ∧ State.reset.hay.mem = []

/-- Storage is in canonical form at reset.
Model's choices: the form is the model's (log 3). -/
def Obligations.StorageCanonicalAtReset : Prop := StorageCanonical State.reset

/-- Every step keeps the four memories in canonical form, and no command changes the queue of those that wait behind it.
Model's choices: the form is the model's (log 3). -/
def Obligations.StorageCanonicalKept : Prop :=
  ∀ s t : State, StorageCanonical s →
    (step s = .next t → StorageCanonical t) ∧ ∀ c : Instr, exec c s = .next t → t.pending = s.pending

/-- The frame of storage: a command that `keepsStorage` lists leaves every byte and every check byte of the Sheaf and of the Hayloft. -/
def Obligations.StorageFrame : Prop :=
  ∀ (c : Instr) (s t : State), c.keepsStorage = true → exec c s = .next t → ∀ a : Nat,
    Memory.read t.shf.mem a = Memory.read s.shf.mem a ∧ Memory.read t.shf.chk a = Memory.read s.shf.chk a
    ∧ Memory.read t.hay.mem a = Memory.read s.hay.mem a ∧ Memory.read t.hay.chk a = Memory.read s.hay.chk a

/-- No command that names units the fabric has ever stops the fabric; one that names a unit it does not have faults.
Model's choices: that an event which cannot occur changes nothing (log 7) and the fault (log 67). -/
def Obligations.WellFormedNeverStops : Prop :=
  ∀ (c : Instr) (s : State), if c.wf = true then ∃ t, exec c s = .next t else exec c s = .fault .noSuchUnit

/-- R311: where every field of the status reply of a completing command lies; with nothing on `sts_`, while island C runs, its two words are
driven there, word 0 lowest. -/
def Obligations.ReplyLayout : Prop :=
  ∀ (s : State) (tag : Tag) (o : Outc), let t := finish tag o s
    let e := tagOf t tag
    fld e.w0 63 48 = hdrCtx (tagOf s tag).hdr ∧ fld e.w0 47 32 = o.detail.toNat ∧ fld e.w0 31 24 = hdrOp (tagOf s tag).own
    ∧ fld e.w0 23 16 = o.status.code ∧ fld e.w0 15 9 = 0 ∧ fld e.w0 8 0 = tag.toNat
    ∧ fld e.w1 63 32 = (islOf s islC).cyc.toNat % 2 ^ 32 ∧ fld e.w1 31 0 = o.count.toNat
    ∧ (s.tly.stsCur = none → s.tly.stsQ = [] → running s islC = true →
        t.pin.stsReq = !s.pin.stsReq ∧ t.pin.stsKind = false ∧ t.pin.stsData = e.w1 ++ e.w0)

/-! ### Configuration: TQRY, TREL, TCFG -/

/-- R98: TQRY replies OK with the tile's configuration and state, all fields 0 of an UNCONFIGURED tile, and changes nothing.
Each field holds as many bits as R98 gives it. -/
def Obligations.TqryReports : Prop :=
  ∀ (s : State) (tag : Tag) (e : TagEntry) (n : Nat), started s tag .tqry = some e → e.cmd = some (.tqry n) →
    ∃ t o, exec (.tqry tag) s = .next t ∧ Completed s t tag o ∧ o.status = .ok
      ∧ ((tileOf s n).st = .unconfigured → o.detail = 0 ∧ o.count = 0)
      ∧ ((tileOf s n).st ≠ .unconfigured →
          fld o.detail 1 0 = (match (tileOf s n).st with | .unconfigured => 0 | .empty => 1 | .valid => 2 | .partialTo _ => 3)
          ∧ bit o.detail 2 = (tileOf s n).spill ∧ bit o.detail 3 = (tileOf s n).ty.isMx
          ∧ fld o.detail 11 4 = (match (tileOf s n).st with | .partialTo k => k % 256 | _ => 0)
          ∧ fld o.detail 15 12 = (tileOf s n).ty.code ∧ fld o.count 7 0 = ((tileOf s n).rows - 1) % 256
          ∧ fld o.count 14 8 = ((tileOf s n).rowBytes / 16 - 1) % 128
          ∧ fld o.count 17 15 = (if (tileOf s n).spill = true then 0 else (tileOf s n).group % 8)
          ∧ fld o.count 25 18 = (tileOf s n).base % 256 ∧ fld o.count 31 26 = (tileOf s n).pair % 64)

/-- R107: TREL returns every tile it names to UNCONFIGURED, all at once, and counts those that were configured; one that would leave a
configured value tile without its scale tile changes nothing and replies ORPHAN with the scale tile's number. Other tiles, all storage and
everything else stay; only references of stopped commands may be cancelled (R108). -/
def Obligations.TrelReleases : Prop :=
  ∀ (s : State) (tag : Tag) (e : TagEntry) (m : Word), started s tag .trel = some e → e.cmd = some (.trel m) →
    let orphans := fun n v : Nat => n < 64 ∧ v < 64 ∧ bit m n = true ∧ bit m v = false ∧ (tileOf s n).st ≠ .unconfigured
      ∧ (tileOf s v).st ≠ .unconfigured ∧ (tileOf s v).ty.isMx = true ∧ (tileOf s v).pair = n
    ((∀ n v, ¬ orphans n v) → ∃ u t, exec (.trel tag) s = .next t
      ∧ Completed u t tag (outc .ok 0 ((List.range 64).countP fun n => bit m n && decide ((tileOf s n).st ≠ .unconfigured)))
      ∧ (∀ n, tileOf u n = if n < 64 ∧ bit m n = true then Tile.none else tileOf s n)
      ∧ u = { s with shf := { s.shf with tiles := u.shf.tiles }, tly := { s.tly with recs := u.tly.recs, bounceRec := u.tly.bounceRec } })
    ∧ ((∃ n v, orphans n v) → ∃ n v t, orphans n v ∧ exec (.trel tag) s = .next t
        ∧ Completed s t tag (outc .cfgInconsistent (0x700 + n) 0))

/-- R100-R104: a TCFG none of whose entries fails applies whole, in one step: every tile is as its last entry says, the stream's table takes
its segment entries, and the command asks its banks to write zero into every stripe it has configured, in the Sheaf one bank write for each
bank and stripe and in the spill window every byte, waking the groups that are not ON. Once the last of those writes is done, with the
groups ON, every stripe of every Sheaf tile it configured reads zero and it replies OK with the number of entries in use. One of which an
entry fails changes nothing, and replies the reason and the index.
Model's choices: the bytes turn zero when the last write is done (log 8); which of two clashing entries fails (log 45). -/
def Obligations.TcfgAppliesWhole : Prop :=
  ∀ (s : State) (tag : Tag) (e : TagEntry) (es : List CfgEnt), started s tag .tcfg = some e → e.cmd = some (.tcfg es) →
    (e.job.stage = 0 → tcfgFail s es = none → ∃ t, exec (.tcfg tag) s = .next t
        ∧ (∀ n, tileOf t n = cfgAfter s es n)
        ∧ (∀ k, tget Seg.unused t.shf.segs k
            = es.foldl (fun v c => match c with | .seg i y => if k = 64 * hdrStream e.hdr + i then y else v | _ => v) (tget Seg.unused s.shf.segs k))
        ∧ (tagOf t tag).st = .started ∧ (tagOf t tag).job.stage = 1
        ∧ (∀ x, x ≠ tag → tagOf t x = { tagOf s x with segs := (tagOf t x).segs })
        ∧ t.mil.reqs = s.mil.reqs ++ (tcfgTiles t es).flatMap (zeroReqs tag)
        ∧ (∀ g, groupOf t g = if g ∈ tcfgGroups t es ∧ (groupOf s g).ready = false then (groupOf s g).wakeUp else groupOf s g)
        ∧ (∀ x ∈ tcfgTiles t es, x.spill = true → ∀ i, i < 1024 * x.stripes → ∃ w ∈ t.hay.waiting, w.write = true ∧ w.use = .store tag
            ∧ w.master = 12 ∧ w.addr = 64 * ((x.hayAddr + i) / 64) ∧ bit w.be ((x.hayAddr + i) % 64) = true
            ∧ byteAt w.data ((x.hayAddr + i) % 64) = 0)
        ∧ ((∀ x ∈ tcfgTiles t es, x.spill = false) → t.hay = s.hay ∧ t.regs = s.regs)
        ∧ t = { s with
            shf := { s.shf with tiles := t.shf.tiles, segs := t.shf.segs, groups := t.shf.groups }
            mil := { s.mil with reqs := t.mil.reqs }
            hay := { s.hay with waiting := t.hay.waiting, banks := t.hay.banks }
            regs := t.regs
            tly := { s.tly with tags := t.tly.tags, recs := t.tly.recs, bounceRec := t.tly.bounceRec } })
    ∧ (e.job.stage ≠ 0 → milBusy s tag = false → e.job.wrOut = 0 → (∀ g ∈ tcfgGroups s es, (groupOf s g).ready = true) →
        ∃ u t, exec (.tcfg tag) s = .next t ∧ Completed u t tag (outc .ok 0 (es.countP fun x => decide (x ≠ .unused)))
          ∧ (∀ x ∈ tcfgTiles s es, x.spill = false → ∀ k j b, k < x.stripes → j < 8 → b < 128 →
              Memory.read u.shf.mem (shfAddr (physOf s 0 (8 * x.group + j)) (x.base + k) b) = 0)
          ∧ u = { s with
              shf := { s.shf with mem := u.shf.mem, chk := u.shf.chk }
              tnk := { s.tnk with copying := u.tnk.copying } })
    ∧ ∀ i r, e.job.stage = 0 → tcfgFail s es = some (i, r) → ∃ t, exec (.tcfg tag) s = .next t
        ∧ Completed s t tag (outc (if r = 9 then .capacity else .cfgInconsistent) (256 * r + i) 0)

/-! ### Control: NOP, FENCE, PREEMPT, RESUME, AUDIT -/

/-- R72, R321: a NOP and a FENCE complete OK with count 0 as soon as they have started, and change nothing. -/
def Obligations.NopAndFenceComplete : Prop :=
  ∀ (s : State) (tag : Tag) (e : TagEntry),
    (started s tag .nop = some e → ∃ t, exec (.nop tag) s = .next t ∧ Completed s t tag (outc .ok 0 0))
    ∧ (started s tag .fence = some e → ∃ t, exec (.fence tag) s = .next t ∧ Completed s t tag (outc .ok 0 0))

/-- R333, R334: a PREEMPT that finds one command, which has not started and on which no other PREEMPT acts, stops it: that command replies
PREEMPTED with count 0. The PREEMPT, once what it acts on has completed and its fences allow, replies OK with the number it stopped.
R331: a RESUME whose reference names a FREE or CLAIMED slot or another generation replies DESC_INVALID with reason 0xB and the reference;
one that names a CANCELLED record replies as the cancelling event has it and frees the record; one that names a HELD record claims it, and
its tag is then the stopped command, waiting in that command's place with its touches and its header.
Model's choices: the context of a refused or cancelled RESUME (log 48). -/
def Obligations.PreemptAndResume : Prop :=
  (∀ (s : State) (tag : Tag) (scope ttag : Nat), (tagOf s tag).cmd = some (.preempt scope ttag) → running s islC = true →
    (∀ (u : Tag) (x : TagEntry), (tagOf s tag).st = .waiting → u ≠ tag → preemptTargets s (tagOf s tag) scope ttag = [(u, x)] → tagOf s u = x →
      x.st = .waiting → x.actedBy = [] → (tagOf s tag).job = Job.init →
      ∃ t, exec (.preempt tag) s = .next t ∧ (tagOf t u).st = .replying ∧ fld (tagOf t u).w0 23 16 = Status.preempted.code
        ∧ (tagOf t u).w1 = replyW1 s (outc .preempted 0 0) ∧ (tagOf t tag).st = .started ∧ (tagOf t tag).job.acted = 0
        ∧ (tagOf t tag).job.landed = 1 ∧ t.shf = s.shf ∧ t.hay = s.hay ∧ t.arr = s.arr ∧ t.crt = s.crt ∧ t.noc = s.noc)
    ∧ ((tagOf s tag).st = .started → (tagOf s tag).job.acted = 0 → heldBack s tag = false →
        ∃ t, exec (.preempt tag) s = .next t ∧ Completed s t tag (outc .ok 0 (tagOf s tag).job.landed)))
  ∧ ∀ (s : State) (tag : Tag) (ref : Nat), (tagOf s tag).cmd = some (.resume ref) → (tagOf s tag).st = .waiting → running s islC = true →
    let r := recOf s (ref % 256)
    (r.gen ≠ ref / 256 ∨ r.st = .free ∨ r.st = .claimed →
      ∃ t, exec (.resume tag) s = .next t ∧ Completed s t tag (outc .descInvalid (0xB000 + ref) 0))
    ∧ (∀ o, r.gen = ref / 256 → r.st = .cancelled o → ∃ u t, exec (.resume tag) s = .next t ∧ Completed s u tag o
        ∧ (recOf t (ref % 256)).st = .free ∧ (recOf t (ref % 256)).gen = r.gen ∧ (∀ i, i ≠ ref % 256 → recOf t i = recOf u i)
        ∧ t = { u with tly := { u.tly with recs := t.tly.recs, bounceRec := t.tly.bounceRec } })
    ∧ (r.gen = ref / 256 → r.st = .held → ∃ t, exec (.resume tag) s = .next t ∧ (recOf t (ref % 256)).st = .claimed
        ∧ (∀ i, i ≠ ref % 256 → recOf t i = recOf s i) ∧ (tagOf t tag).st = .waiting ∧ (tagOf t tag).cmd = r.cmd.cmd
        ∧ (tagOf t tag).hdr = r.cmd.hdr ∧ (tagOf t tag).touches = r.cmd.touches ∧ (tagOf t tag).place = r.cmd.place
        ∧ (tagOf t tag).job = r.cmd.job ∧ (tagOf t tag).own = (tagOf s tag).own ∧ (∀ u, u ≠ tag → tagOf t u = tagOf s u)
        ∧ t = { s with tly := { s.tly with tags := t.tly.tags, recs := t.tly.recs } })

/-- R343, R344: an AUDIT with MASK 0 replies OK with count 0; one without a dump replies OK with the number of sums evaluated when all pass,
else AUDIT_MISMATCH with the number that failed, the classes with a failure in detail [3:0] and the lowest failing sum in [15:8]; it logs
each failure and counts itself and the failures. The sums of MASK 0xF are 105.
R340, R342: an AUDIT with a dump asks for the writes of the dump's bytes and waits; it completes once all are acknowledged or performed, with
the reply of the sums it took, whatever the answers.
Model's choices: MASK 0 writes no dump (log 51). -/
def Obligations.AuditReplies : Prop :=
  (∀ (s : State) (tag : Tag) (e : TagEntry) (mask addr : Nat) (dump hay : Bool), started s tag .audit = some e →
    e.cmd = some (.audit mask dump hay addr) → e.job.stage = 0 → let xs := sumsOf s mask
    (mask = 0 → ∃ t, exec (.audit tag) s = .next t ∧ Completed (cnt 0x9050 1 s) t tag (outc .ok 0 0))
    ∧ (mask ≠ 0 → dump = false → (∀ x ∈ xs, x.fails = false) →
        ∃ t, exec (.audit tag) s = .next t ∧ Completed (cnt 0x9050 1 (cnt 0x9054 0 s)) t tag (outc .ok 0 xs.length))
    ∧ (mask ≠ 0 → dump = false → (∃ x ∈ xs, x.fails = true) →
        ∃ t o, exec (.audit tag) s = .next t
          ∧ Completed (cnt 0x9050 1 (cnt 0x9054 (xs.countP AuditSum.fails) (xs.foldl logSum s))) t tag o ∧ o = auditReply xs
          ∧ o.status = .auditMismatch ∧ o.count = BitVec.ofNat 32 (xs.countP AuditSum.fails)
          ∧ (∀ c, c < 4 → (bit o.detail c = true ↔ ∃ x ∈ xs, x.fails = true ∧ sumClass x.id = c))
          ∧ (∃ x ∈ xs, x.fails = true ∧ fld o.detail 15 8 = x.id % 256 ∧ ∀ y ∈ xs, y.fails = true → x.id ≤ y.id))
    ∧ (sumsOf s 15).length = 105)
  ∧ ∀ (s : State) (tag : Tag) (e : TagEntry) (mask addr : Nat) (hay : Bool), started s tag .audit = some e →
    e.cmd = some (.audit mask true hay addr) → mask ≠ 0 → let xs := sumsOf s mask
    (e.job.stage = 0 → ∃ t, exec (.audit tag) s = .next t
        ∧ AskedWrites (cnt 0x9054 (xs.countP AuditSum.fails) (xs.foldl logSum s)) t tag hay addr (auditDump s mask xs)
        ∧ (tagOf t tag).st = .started ∧ (tagOf t tag).job.stage = 1
        ∧ (tagOf t tag).job.landed = (auditReply xs).count.toNat
        ∧ (tagOf t tag).job.bad = (if (auditReply xs).status = .ok then none else some (auditReply xs).detail)
        ∧ t.hay.mem = s.hay.mem ∧ ∀ u, u ≠ tag → tagOf t u = tagOf s u)
    ∧ (e.job.stage ≠ 0 → e.job.wrOut = 0 → ∃ t, exec (.audit tag) s = .next t
        ∧ Completed (cnt 0x9050 1 s) t tag (match e.job.bad with
            | some d => outc .auditMismatch d.toNat e.job.landed | none => outc .ok 0 e.job.landed))

/-! ### Contexts and rings -/

/-- R292: a CTXSET without a backing table replies CTX_FETCH_FAIL with reason 3; else it asks for one write of exactly the 16 bytes, at
their address in the table, in memory or as master 9 in the Hayloft as HAB_BTCTL.LOC has it (R285), and waits; a write answered ERROR
replies reason 1; a write acknowledged replaces the entry of a resident row, keeps its pin bit, makes nothing resident, and replies OK
with count 1.
R290: a CTXGET of a resident context asks for one write of that entry at DADDR; one of a context that is not resident reads the entry from
the backing table, and without one replies CTX_FETCH_FAIL with reason 3; once the write is acknowledged it replies OK with the reference
count, the resident bit and the pin bit. It makes nothing resident.
Model's choices: an entry being fetched is replaced as well (R293). -/
def Obligations.CtxsetAndCtxget : Prop :=
  (∀ (s : State) (tag : Tag) (e : TagEntry) (c : Nat) (img : BitVec 128), started s tag .ctxset = some e → e.cmd = some (.ctxset c img) →
    let a := btBase s + 16 * c
    (e.job.stage = 0 → bit (rget s 0xA008) 0 = false →
      ∃ t, exec (.ctxset tag) s = .next t ∧ Completed s t tag (outc .ctxFetchFail 0x3000 0))
    ∧ (e.job.stage = 0 → bit (rget s 0xA008) 0 = true → bit (rget s 0xA008) 1 = false →
        ∃ t r, exec (.ctxset tag) s = .next t ∧ t.noc.outQ = s.noc.outQ ++ [r] ∧ r.write = true ∧ r.use = .ctxWrite tag
          ∧ r.addr = a - a % 128 ∧ (∀ k, k < 128 → (bit r.be k = true ↔ a % 128 ≤ k ∧ k < a % 128 + 16))
          ∧ (∀ i, i < 16 → a % 128 + i < 128 → byteAt r.data (a % 128 + i) = byteAt img i)
          ∧ t.hab = s.hab ∧ t.hay = s.hay ∧ (tagOf t tag).st = .started ∧ (tagOf t tag).job.wrOut = 1)
    ∧ (e.job.stage = 0 → bit (rget s 0xA008) 0 = true → bit (rget s 0xA008) 1 = true →
        ∃ t w, exec (.ctxset tag) s = .next t ∧ t.hay.waiting = s.hay.waiting ++ [w] ∧ w.write = true ∧ w.use = .ctxWrite tag ∧ w.master = 9
          ∧ w.phys = none ∧ w.addr = a - a % 64 ∧ (∀ k, k < 64 → (bit w.be k = true ↔ a % 64 ≤ k ∧ k < a % 64 + 16))
          ∧ (∀ i, i < 16 → a % 64 + i < 64 → byteAt w.data (a % 64 + i) = byteAt img i)
          ∧ t.hab = s.hab ∧ t.noc = s.noc ∧ t.hay.mem = s.hay.mem ∧ (tagOf t tag).st = .started ∧ (tagOf t tag).job.wrOut = 1)
    ∧ (e.job.stage ≠ 0 → e.job.wrOut = 0 → e.job.wErr.isSome = true →
        ∃ t, exec (.ctxset tag) s = .next t ∧ Completed s t tag (outc .ctxFetchFail 0x1000 0))
    ∧ (e.job.stage ≠ 0 → e.job.wrOut = 0 → e.job.wErr = none → ∃ u t, exec (.ctxset tag) s = .next t ∧ Completed u t tag (outc .ok 0 1)
          ∧ (residentRow s c = none → ∀ k, tget none u.hab.rows k = tget none s.hab.rows k)
          ∧ (∀ l r, residentRow s c = some (l, r) →
              ∀ k, tget none u.hab.rows k = if k = l then some { r with entry := img } else tget none s.hab.rows k)
          ∧ u.hab.fetches = s.hab.fetches.map (fun f => if f.ctx = c then { f with fresh := some img } else f)
          ∧ u = { s with hab := { s.hab with rows := u.hab.rows, fetches := u.hab.fetches } }))
  ∧ ∀ (s : State) (tag : Tag) (e : TagEntry) (c addr : Nat) (hay : Bool), started s tag .ctxget = some e → e.cmd = some (.ctxget c hay addr) →
    (e.job.stage = 0 → residentRow s c = none → bit (rget s 0xA008) 0 = false →
      ∃ t, exec (.ctxget tag) s = .next t ∧ Completed s t tag (outc .ctxFetchFail 0x3000 0))
    ∧ (e.job.stage = 0 → residentRow s c = none → bit (rget s 0xA008) 0 = true → bit (rget s 0xA008) 1 = false → let a := btBase s + 16 * c
        ∃ t, exec (.ctxget tag) s = .next t ∧ t.noc.outQ = s.noc.outQ ++ [⟨false, a - a % 128, 0, 0, .image tag⟩] ∧ t.hab = s.hab)
    ∧ (∀ l r, e.job.stage = 0 → residentRow s c = some (l, r) → hay = false → ∃ t q, exec (.ctxget tag) s = .next t
        ∧ t.noc.outQ = s.noc.outQ ++ [q] ∧ q.write = true ∧ q.addr = addr - addr % 128
        ∧ q.data = BitVec.ofNat 1024 (r.entry.toNat * 2 ^ (8 * (addr % 128)))
        ∧ q.be = BitVec.ofNat 128 ((2 ^ 16 - 1) * 2 ^ (addr % 128)) ∧ t.hab = s.hab)
    ∧ (∀ l r, e.job.stage = 0 → residentRow s c = some (l, r) → hay = true → ∃ t w, exec (.ctxget tag) s = .next t
        ∧ t.hay.waiting = s.hay.waiting ++ [w] ∧ w.write = true ∧ w.master = 9 ∧ w.addr = addr - addr % 64
        ∧ w.data = BitVec.ofNat 512 (r.entry.toNat * 2 ^ (8 * (addr % 64))) ∧ w.be = beRange (addr % 64) 16 ∧ t.hab = s.hab)
    ∧ (3 ≤ e.job.stage → e.job.wrOut = 0 → e.job.wErr = none → e.bits = 0 → residentRow s c = none →
        ∃ t, exec (.ctxget tag) s = .next t ∧ Completed s t tag (outc .ok 0 0))
    ∧ (∀ l r, 3 ≤ e.job.stage → e.job.wrOut = 0 → e.job.wErr = none → e.bits = 0 → residentRow s c = some (l, r) →
        ∃ t, exec (.ctxget tag) s = .next t ∧ Completed s t tag (outc .ok (1 + 2 * b2n r.pin) (refCount s c)))

/-- R291: CTXPIN with PIN 1 on a resident, valid context sets the pin bit, with count 1 if it changed; the pin that would leave more than
16,256 rows pinned replies CAPACITY with reason 8 and changes nothing; PIN 0 clears the bit, with count 1 if it changed, and completes OK
with count 0 for a context that is not resident.
R293: CTXEVICT frees the row of a resident context with count 1, and completes with count 0 where there is none. -/
def Obligations.CtxpinAndCtxevict : Prop :=
  (∀ (s : State) (tag : Tag) (e : TagEntry) (c : Nat) (pin : Bool), started s tag .ctxpin = some e → e.cmd = some (.ctxpin c pin) →
    (∀ l r, pin = true → residentRow s c = some (l, r) → r.pin = true → ∃ t, exec (.ctxpin tag) s = .next t ∧ Completed s t tag (outc .ok 0 0))
    ∧ (∀ l r, pin = true → residentRow s c = some (l, r) → r.pin = false → ctxValid r.entry = true → pinnedRows s < 16256 →
        e.ctxWait = [] → e.ctxBad = [] → ∃ u t, exec (.ctxpin tag) s = .next t ∧ Completed u t tag (outc .ok 0 1)
          ∧ (∀ k, tget none u.hab.rows k = if k = l then some { r with pin := true } else tget none s.hab.rows k)
          ∧ u.shf = s.shf ∧ u.hay = s.hay ∧ u.hab.fetches = s.hab.fetches ∧ u.rng = s.rng)
    ∧ (pin = true → (∀ l r, residentRow s c = some (l, r) → r.pin = false) → 16256 ≤ pinnedRows s →
        ∃ t, exec (.ctxpin tag) s = .next t ∧ Completed s t tag (outc .capacity 0x8000 0))
    ∧ (pin = false → residentRow s c = none → ∃ t, exec (.ctxpin tag) s = .next t ∧ Completed s t tag (outc .ok 0 0))
    ∧ (∀ l r, pin = false → residentRow s c = some (l, r) →
        ∃ u t, exec (.ctxpin tag) s = .next t ∧ Completed u t tag (outc .ok 0 (b2n r.pin))
          ∧ (∀ k, tget none u.hab.rows k = if k = l then some { r with pin := false } else tget none s.hab.rows k)
          ∧ u = { s with hab := { s.hab with rows := u.hab.rows } }))
  ∧ ∀ (s : State) (tag : Tag) (e : TagEntry) (c : Nat), started s tag .ctxevict = some e → e.cmd = some (.ctxevict c) →
    (residentRow s c = none → ∃ t, exec (.ctxevict tag) s = .next t ∧ Completed s t tag (outc .ok 0 0))
    ∧ (∀ l r, residentRow s c = some (l, r) → ∃ u t, exec (.ctxevict tag) s = .next t ∧ Completed u t tag (outc .ok 0 1)
        ∧ (∀ k, tget none u.hab.rows k = if k = l then none else tget none s.hab.rows k)
        ∧ u = { s with hab := { s.hab with rows := u.hab.rows } })

/-- R302: a RINGSET of form 0 sets EN and WEIGHT and clears ERR where CLRERR says so; of form 1 it also sets SZLOG, BASE, HEAD, TAIL and the
pair's OWNER and clears the doorbell bit, and on an enabled ring it replies RING_STATE with reason 1 and changes nothing. -/
def Obligations.RingsetApplies : Prop :=
  ∀ (s : State) (tag : Tag) (e : TagEntry) (x : RingSet), started s tag .ringset = some e → e.cmd = some (.ringset x) →
    (x.full = true → (ringOf s x.ring).en = true →
      ∃ t, exec (.ringset tag) s = .next t ∧ Completed s t tag (outc .ringState 0x1000 0))
    ∧ (¬ (x.full = true ∧ (ringOf s x.ring).en = true) → ∃ u t, exec (.ringset tag) s = .next t ∧ Completed u t tag (outc .ok 0 1)
        ∧ (ringOf u x.ring).en = x.en ∧ (ringOf u x.ring).err = ((ringOf s x.ring).err && !x.clrErr) ∧ ringWeight u x.ring = x.weight
        ∧ (x.full = true → (ringOf u x.ring).szlog = x.szlog ∧ (ringOf u x.ring).base = x.base ∧ (ringOf u x.ring).head = x.ptr
            ∧ (ringOf u x.ring).tail = x.ptr ∧ ringBell u x.ring = false ∧ ringOwner u x.ring = x.owner)
        ∧ (x.full = false → (ringOf u x.ring).szlog = (ringOf s x.ring).szlog ∧ (ringOf u x.ring).base = (ringOf s x.ring).base
            ∧ (ringOf u x.ring).head = (ringOf s x.ring).head ∧ (ringOf u x.ring).tail = (ringOf s x.ring).tail
            ∧ ringBell u x.ring = ringBell s x.ring ∧ ringOwner u x.ring = ringOwner s x.ring)
        ∧ (∀ n, n ≠ x.ring → ringOf u n = ringOf s n ∧ ringWeight u n = ringWeight s n ∧ ringBell u n = ringBell s n)
        ∧ u = { s with rng := u.rng, noc := { s.noc with outQ := u.noc.outQ } })

/-- R303: RINGGET replies the ring's entry, its weight and its doorbell bit, and changes nothing. Each field holds as many bits as R303
gives it. -/
def Obligations.RinggetReports : Prop :=
  ∀ (s : State) (tag : Tag) (e : TagEntry) (n : Nat), started s tag .ringget = some e → e.cmd = some (.ringget n) →
    ∃ t o, exec (.ringget tag) s = .next t ∧ Completed s t tag o ∧ o.status = .ok ∧ fld o.count 10 0 = (ringOf s n).head % 2 ^ 11
      ∧ fld o.count 21 11 = (ringOf s n).tail % 2 ^ 11 ∧ fld o.count 25 22 = (ringOf s n).szlog % 16 ∧ bit o.count 26 = (ringOf s n).en
      ∧ bit o.count 27 = (ringOf s n).err ∧ fld o.count 31 28 = ringWeight s n % 16 ∧ o.detail = BitVec.ofNat 16 (b2n (ringBell s n))

/-! ### Descriptors and transfers -/

/-- R212: a DCRE of a live handle replies DESC_INVALID with reason 7 and stores nothing. One whose image has arrived whole and passes every
check asks for one write of all its 64 bytes, as master 9, at the handle's slot, and waits; once that is performed the CRC-32 of the image
is recorded, the handle is live, ASY_DCREOK counts, and it replies OK with the handle and count 1. -/
def Obligations.DcreMakesLive : Prop :=
  ∀ (s : State) (tag : Tag) (e : TagEntry) (h addr : Nat) (hay : Bool), started s tag .dcre = some e → e.cmd = some (.dcre h hay addr) →
    (e.job.stage = 0 → (liveCrc s h).isSome = true → ∃ u t, exec (.dcre tag) s = .next t
      ∧ Completed u t tag (outc .descInvalid (0x7000 + h) 0) ∧ u.shf = s.shf ∧ u.hay = s.hay ∧ u.asy = s.asy ∧ u.tly = s.tly)
    ∧ (∀ img, e.job.stage = 2 → e.job.imgs = [img] → e.job.lim = none → e.job.bad = none → imgCheck img = none →
        windowCheck s (Desc.ofImage img) = none → ∃ t, exec (.dcre tag) s = .next t
          ∧ t.hay.waiting = s.hay.waiting ++ [⟨9, slotAddr s h, none, true, -1, img, none, false, .store tag⟩]
          ∧ tagOf t tag = { e with job := { e.job with stage := 3, wrOut := e.job.wrOut + 1 } } ∧ (∀ k, liveCrc t k = liveCrc s k)
          ∧ t.hay.mem = s.hay.mem ∧ t.shf = s.shf ∧ t.noc = s.noc ∧ (∀ x, x ≠ tag → tagOf t x = tagOf s x))
    ∧ (∀ img, e.job.stage = 3 → e.job.imgs = [img] → e.job.wrOut = 0 → e.bits = 0 → ∃ u t, exec (.dcre tag) s = .next t
          ∧ Completed u t tag (outc .ok h 1) ∧ liveCrc u h = some (crc32 (bytes 64 img)) ∧ (∀ k, k ≠ h → liveCrc u k = liveCrc s k)
          ∧ rget u 0x6040 = BitVec.ofNat 32 (min 0xFFFFFFFF ((rget s 0x6040).toNat + 1)) ∧ (∀ k, k ≠ 0x6040 → rget u k = rget s k)
          ∧ u = { s with
              regs := u.regs
              asy := { s.asy with live := u.asy.live }
              tly := { s.tly with recs := u.tly.recs, bounceRec := u.tly.bounceRec } })

/-- R213: DFREE makes a live handle free with count 1; on a free handle it completes OK with count 0. The slot's bytes stay. -/
def Obligations.DfreeFrees : Prop :=
  ∀ (s : State) (tag : Tag) (e : TagEntry) (h : Nat), started s tag .dfree = some e → e.cmd = some (.dfree h) →
    (liveCrc s h = none → ∃ t, exec (.dfree tag) s = .next t ∧ Completed s t tag (outc .ok 0 0))
    ∧ ((liveCrc s h).isSome = true → ∃ u t, exec (.dfree tag) s = .next t ∧ Completed u t tag (outc .ok 0 1) ∧ liveCrc u h = none
        ∧ (∀ k, k ≠ h → liveCrc u k = liveCrc s k)
        ∧ u = { s with asy := { s.asy with live := u.asy.live }, tly := { s.tly with recs := u.tly.recs, bounceRec := u.tly.bounceRec } })

/-- R96, R204, R220, R226, R238: a TLD and a TGAT whose last tile row is in its banks complete, their tiles VALID, with the status their words
give and the number of tile rows written, zero rows of ZPAD included; one with no rows moves nothing and completes with count 0.
Model's choices: a transfer without rows makes its tile VALID (log 38). -/
def Obligations.LoadsComplete : Prop :=
  ∀ (s : State) (tag : Tag) (e : TagEntry),
    (∀ x : Inline, started s tag .tld = some e → e.cmd = some (.inline false x) → x.nr ≠ 0 → LoadFinished s tag (inlineLoad x) →
      ∃ u t, exec (.tld tag) s = .next t ∧ Landed s u tag ∧ Completed u t tag (formStatus e x.nr))
    ∧ (∀ x : DescXfer, let v := descLoad s x (e.job.imgs.headD 0) (jobPair s tag x.tile)
        started s tag .tld = some e → e.cmd = some (.desc false x) → noRows (.desc false x) = false → LoadFinished s tag v →
        ∃ u t, exec (.tld tag) s = .next t ∧ Landed s u tag
          ∧ Completed u t tag (formStatus e (if x.zpad then (tileOf s x.tile).rows else x.rows)))
    ∧ (∀ x : Gather, let n := if x.zpad then (tileOf s x.tile).rows else x.nidx
        started s tag .tgat = some e → e.cmd = some (.gather .tgat x) → x.nidx ≠ 0 → x.e0 ≠ 0 →
        LoadFinished s tag ⟨sideOf (e.job.imgs.headD 0) false, x.nidx, n, x.tile, jobPair s tag x.tile⟩ →
        ∃ u t, exec (.tgat tag) s = .next t ∧ Landed s u tag ∧ Completed u t tag (formStatus e n))
    ∧ (∀ c, started s tag .tld = some e → e.cmd = some c → noRows c = true →
        ∃ u t, exec (.tld tag) s = .next t ∧ Landed s u tag ∧ Completed u t tag (formStatus e 0))
    ∧ (∀ x : Gather, started s tag .tgat = some e → e.cmd = some (.gather .tgat x) → x.nidx = 0 ∨ x.e0 = 0 →
        ∃ u t, exec (.tgat tag) s = .next t ∧ Landed s u tag ∧ Completed u t tag (formStatus e 0))

/-- R238: a TST, a TSCT and a TSCTA whose every write is acknowledged or performed complete with the status their words give and the rows
stored or index positions handled; one with no rows moves nothing and replies OK with count 0.
R232-R234, R238: a TPERM completes once its last destination row is in its banks (KIND 0), or its last write is acknowledged or performed
(KIND 1), with the destination's rows as its count. -/
def Obligations.StoresAndTpermComplete : Prop :=
  (∀ (s : State) (tag : Tag) (e : TagEntry),
    (∀ x : Inline, started s tag .tst = some e → e.cmd = some (.inline true x) → x.nr ≠ 0 → e.job.stage ≠ 0 → StoreFinished s tag x.nr →
      ∃ u t, exec (.tst tag) s = .next t ∧ Landed s u tag ∧ Completed u t tag (formStatus e x.nr))
    ∧ (∀ x : DescXfer, started s tag .tst = some e → e.cmd = some (.desc true x) → noRows (.desc true x) = false → e.job.stage ≠ 0 →
        StoreFinished s tag x.rows → ∃ u t, exec (.tst tag) s = .next t ∧ Landed s u tag ∧ Completed u t tag (formStatus e x.rows))
    ∧ (∀ x : Gather, started s tag .tsct = some e → e.cmd = some (.gather .tsct x) → x.nidx ≠ 0 → x.e0 ≠ 0 → e.job.stage = 2 →
        StoreFinished s tag (scatWindows x) → ∃ u t, exec (.tsct tag) s = .next t ∧ Landed s u tag ∧ Completed u t tag (formStatus e x.nidx))
    ∧ (∀ x : Gather, started s tag .tscta = some e → e.cmd = some (.gather .tscta x) → x.nidx ≠ 0 → x.e0 ≠ 0 → e.job.stage = 2 →
        StoreFinished s tag (scatWindows x) → ∃ u t, exec (.tscta tag) s = .next t ∧ Landed s u tag ∧ Completed u t tag (formStatus e x.nidx))
    ∧ (∀ c, started s tag .tst = some e → e.cmd = some c → noRows c = true →
        ∃ t, exec (.tst tag) s = .next t ∧ Completed s t tag (outc .ok 0 0))
    ∧ (∀ x : Gather, x.nidx = 0 ∨ x.e0 = 0 →
        (started s tag .tsct = some e → e.cmd = some (.gather .tsct x) → ∃ t, exec (.tsct tag) s = .next t ∧ Completed s t tag (outc .ok 0 0))
        ∧ (started s tag .tscta = some e → e.cmd = some (.gather .tscta x) → ∃ t, exec (.tscta tag) s = .next t ∧ Completed s t tag (outc .ok 0 0))))
  ∧ ∀ (s : State) (tag : Tag) (e : TagEntry) (x : Perm), started s tag .tperm = some e → e.cmd = some (.tperm x) →
    (x.tensor = false → e.job.stage = 2 → let d := jobTile s tag x.dtile
      d.rows ≤ e.job.row → beatsSent e.job.wIdx (e.job.landed * d.rowBytes) (e.job.row * d.rowBytes) = true → e.job.wrOut = 0 →
      ∃ u t, exec (.tperm tag) s = .next t ∧ Landed s u tag ∧ Completed u t tag (formStatus e d.rows))
    ∧ (x.tensor = true → (e.job.stage = 1 ∨ e.job.stage = 3) → let n := permRows (Desc.ofImage (e.job.imgs.getD 1 0))
      n ≤ e.job.reqRow → StoreFinished s tag n →
      ∃ u t, exec (.tperm tag) s = .next t ∧ Landed s u tag ∧ Completed u t tag (formStatus e n))

/-- R204: the next row of an inline load whose bytes have all arrived with good words is formed of the bytes at BASE + row × STRIDE and up, in
order, and joins the words that wait to be written; nothing else of the command's progress changes but that its last request is known to be
made. The premise that the beats are not sent says that the row is not already in its banks. -/
def Obligations.InlineLoadFormsRow : Prop :=
  ∀ (s : State) (tag : Tag) (e : TagEntry) (x : Inline), started s tag .tld = some e → e.cmd = some (.inline false x) → e.job.stage ≠ 0 →
    e.job.row < x.nr → e.job.reqRow = x.nr → e.stop = none → e.job.lim = none → unitsReady e.job e.job.row = true →
    (stnOf s (e.job.stn.getD 6)).wHeld = 0 →
    let d := Side.of x.hay false false
    let rb := (jobTile s tag x.tile).rowBytes
    beatsSent e.job.wIdx (e.job.landed * rb) ((e.job.row + 1) * rb) = false →
    (∀ b, b < rb → (byteIn e.job d e.job.row (e.job.base + e.job.row * x.stride + b)).2 = false) →
    ∃ t, exec (.tld tag) s = .next t
      ∧ tagOf t tag = { e with job := { e.job with
          row := e.job.row + 1
          issued := true
          staged := e.job.staged ++ rowWords rb (ofBytes ((List.range rb).map fun b =>
            (byteIn e.job d e.job.row (e.job.base + e.job.row * x.stride + b)).1)) } }
      ∧ (∀ u, u ≠ tag → tagOf t u = tagOf s u)
      ∧ t = { s with regs := t.regs, tly := { s.tly with tags := t.tly.tags } }

/-! ### The array -/

/-- R151, R158, R159, R162, R163: a TWF, a TMMA with rows and a TMMAS whose tiles allow it, that pass their checks while the array is usable,
its feeders are free and it is their turn, start, and as they start enter the sequence of fronts and passes at its end, with the operands of
their packets; they change no pass before theirs, no routing record and no byte. A TMMAS enters one pass for each entry in use, in ascending
order of INDEX, those that landed before it was stopped left out: of an unmasked one the rows of the entry's segment against the entry's tile
as front, of a masked one every row of OTILE against the rows of its front tile that the entry names, into the entry's accumulator. -/
def Obligations.ArrayCommandsEnterSequence : Prop :=
  ∀ (s : State) (tag : Tag) (e : TagEntry) (c : Command), tagOf s tag = e → e.st = .waiting → e.cmd = some c → heldBack s tag = false →
    s.ctl.unplug = 0 → running s islC = true → arrayOk s = true → judgeCmd s e c = .go → arrayChecks s e false = none →
    takesFirst s 1 tag = true → feedersFree s c = true → canCross s 62 = true →
    (∀ (w : Nat) (flay : Bool) (label : Nat) (nw : Bool), c = .twf w flay label nw → ∃ t p, exec (.commandStart tag) s = .next t
        ∧ (tagOf t tag).st = .started ∧ (tagOf t tag).job.stage = 1 ∧ t.arr.passes = s.arr.passes ++ [p] ∧ p.tag = tag ∧ p.isTwf = true
        ∧ p.wtile = w ∧ p.flay = flay ∧ p.flabel = label ∧ p.drives = true ∧ p.beats = 0 ∧ p.lf = frontBeats (tileOf s w)
        ∧ t.arr.records = s.arr.records ∧ t.arr.resident = s.arr.resident ∧ t.shf.mem = s.shf.mem)
    ∧ (∀ x : Mma, c = .tmma x → x.count ≠ 0 → x.res = false → ∃ t p, exec (.commandStart tag) s = .next t
        ∧ (tagOf t tag).st = .started ∧ (tagOf t tag).job.stage = 1 ∧ t.arr.passes = s.arr.passes ++ [p] ∧ p.tag = tag ∧ p.isTwf = false
        ∧ p.wtile = x.wtile ∧ p.flay = x.flay ∧ p.stile = x.stile ∧ p.first = x.first ∧ p.count = x.count ∧ p.atile = x.atile
        ∧ p.arow = x.arow ∧ p.acol = x.acol ∧ p.launched = 0 ∧ p.drives = true ∧ p.beats = 0 ∧ p.lf = frontBeats (tileOf s x.wtile)
        ∧ t.arr.records = s.arr.records ∧ t.arr.resident = s.arr.resident ∧ t.shf.mem = s.shf.mem)
    ∧ (∀ x : Mmas, c = .tmmas x → segsBad s e x.stile = none → (∀ p ∈ mmasUse e, p.2.ctx ∈ e.refs ∧ p.2.ctx ∉ e.ctxWait) →
        mmasCtxBad s e x = none → e.hintsLate = false → ∃ t ps, exec (.commandStart tag) s = .next t
        ∧ (tagOf t tag).st = .started ∧ (tagOf t tag).job.stage = 1 ∧ t.arr.passes = s.arr.passes ++ ps
        ∧ ps.length = (mmasUse e).length - e.job.landed
        ∧ (∀ i k g, (mmasUse e)[e.job.landed + i]? = some (k, g) → ∃ p, ps[i]? = some p ∧ p.tag = tag ∧ p.isTwf = false
            ∧ p.arow = x.arow ∧ p.acol = x.acol ∧ p.launched = 0 ∧ p.drives = true ∧ p.beats = 0
            ∧ (x.masked = false → p.wtile = g.tile ∧ p.flay = x.flay ∧ p.mask = none ∧ p.stile = x.stile ∧ p.first = g.first
                ∧ p.count = g.count ∧ p.atile = x.atile)
            ∧ (x.masked = true → p.wtile = x.stile ∧ p.flay = true ∧ p.mask = some (g.first, g.count) ∧ p.stile = x.otile ∧ p.first = 0
                ∧ p.count = (tileOf s x.otile).rows ∧ p.atile = (mmasAcc e x (k, g)).getD 0))
        ∧ t.arr.records = s.arr.records ∧ t.arr.resident = s.arr.resident ∧ t.shf.mem = s.shf.mem)

/-- R158, R159, R161, R168, R169: a TWF, a TMMA with rows and a TMMAS complete once their passes have landed and none is left, their reads
dropped, with the status their words give and the number of passes (fronts of a TWF) as their count; a TMMA with COUNT 0 replies OK with
count 0 and changes nothing. -/
def Obligations.ArrayCommandsComplete : Prop :=
  ∀ (s : State) (tag : Tag) (e : TagEntry),
    (∀ (w : Nat) (flay : Bool) (label : Nat) (nw : Bool), started s tag .twf = some e → e.cmd = some (.twf w flay label nw) →
      arrayIdle s tag = true → e.job.landed = 1 →
      ∃ u t, exec (.twf tag) s = .next t ∧ Landed (purgeReads tag s) u tag ∧ Completed u t tag (formStatus e 1))
    ∧ (∀ x : Mma, started s tag .tmma = some e → e.cmd = some (.tmma x) → x.count ≠ 0 → arrayIdle s tag = true → e.job.landed = 1 →
        ∃ u t, exec (.tmma tag) s = .next t ∧ Landed (purgeReads tag s) u tag ∧ Completed u t tag (formStatus e 1))
    ∧ (∀ x : Mma, started s tag .tmma = some e → e.cmd = some (.tmma x) → x.count = 0 →
        ∃ t, exec (.tmma tag) s = .next t ∧ Completed s t tag (outc .ok 0 0))
    ∧ (∀ x : Mmas, started s tag .tmmas = some e → e.cmd = some (.tmmas x) → arrayIdle s tag = true → e.job.landed = (mmasUse e).length →
        ∃ u t, exec (.tmmas tag) s = .next t ∧ Landed (purgeReads tag s) u tag ∧ Completed u t tag (formStatus e (mmasUse e).length))

/-! ### Bank arithmetic -/

/-- R178, R180, R182: a bank-arithmetic command with COUNT 0 moves nothing and completes; one that fails a check of R180 replies and changes
nothing; one that passes asks for its bank cycles, each read before the write it feeds, and wakes its group. Once every one of them has been
granted, with the group ON, its arithmetic takes effect and it completes, its tiles VALID, with COUNT as its count and the status its words
give; while one is waiting it changes nothing.
Model's choices: the bytes change when the last cycle is granted (log 8); COUNT 0 makes the written tile VALID (log 38). -/
def Obligations.BankCommandsComplete : Prop :=
  ∀ (op : Opcode) (s : State) (tag : Tag) (e : TagEntry) (x : BankOp), op ∈ bankOpcodes → started s tag op = some e →
    e.cmd = some (.bank op x) → let g := (tileOf s x.dtile).group
    (x.count = 0 → ∃ u t, exec (bankInstr op tag) s = .next t ∧ Landed s u tag ∧ Completed u t tag (formStatus e 0))
    ∧ (∀ o, x.count ≠ 0 → e.job.stage = 0 → bankChecks s op x = some o → ∃ t, exec (bankInstr op tag) s = .next t ∧ Completed s t tag o)
    ∧ (x.count ≠ 0 → e.job.stage = 0 → bankChecks s op x = none → ∃ t, exec (bankInstr op tag) s = .next t
        ∧ groupOf t g = (groupOf s g).wakeUp ∧ (∀ k, k ≠ g → groupOf t k = groupOf s k)
        ∧ t.mil.reqs = s.mil.reqs ++ bankReqs s op tag x ∧ tagOf t tag = { e with job := { e.job with stage := 1 } }
        ∧ (∀ u, u ≠ tag → tagOf t u = tagOf s u)
        ∧ t = { s with
            shf := { s.shf with groups := t.shf.groups }
            mil := { s.mil with reqs := t.mil.reqs }
            tly := { s.tly with tags := t.tly.tags } })
    ∧ (x.count ≠ 0 → e.job.stage ≠ 0 → milBusy s tag = true → exec (bankInstr op tag) s = .next s)
    ∧ (x.count ≠ 0 → e.job.stage ≠ 0 → milBusy s tag = false → (groupOf s g).ready = false →
        ∃ t, exec (bankInstr op tag) s = .next t ∧ groupOf t g = (groupOf s g).wakeUp ∧ (∀ k, k ≠ g → groupOf t k = groupOf s k)
          ∧ t = { s with shf := { s.shf with groups := t.shf.groups } })
    ∧ (x.count ≠ 0 → e.job.stage ≠ 0 → milBusy s tag = false → (groupOf s g).ready = true → running s (1 + g) = true →
        ∃ u t, exec (bankInstr op tag) s = .next t ∧ Landed (runBank op tag x s) u tag
          ∧ Completed u t tag (formStatus (tagOf (runBank op tag x s) tag) x.count))

/-- R197: TZERO, its bank cycles granted, writes zero into every byte of rows FIRST to FIRST + COUNT − 1 of its tile, whose ROWBYTES is a
multiple of 16 (R89); no byte of the Sheaf elsewhere changes, but that a retirement's copy takes the same writes while one runs. Of an MX
value tile these are the value bytes alone. -/
def Obligations.TzeroZeroesRows : Prop :=
  ∀ (s : State) (tag : Tag) (e : TagEntry) (x : BankOp), started s tag .tzero = some e → e.cmd = some (.bank .tzero x) → x.count ≠ 0 →
    e.job.stage ≠ 0 → milBusy s tag = false → (groupOf s (tileOf s x.dtile).group).ready = true →
    running s (1 + (tileOf s x.dtile).group) = true →
    let lo := x.first * (tileOf s x.dtile).rowBytes
    let hi := (x.first + x.count) * (tileOf s x.dtile).rowBytes
    ∃ t, exec (.tzero tag) s = .next t ∧ t.hay = s.hay ∧ (tagOf t tag).st = .replying
      ∧ ((tileOf s x.dtile).rowBytes % 16 = 0 →
          (∀ o, lo ≤ o → o < hi → Memory.read t.shf.mem (tileByteAddr s x.dtile o) = 0)
          ∧ (s.tnk.copying = none → ∀ a, (∀ o, lo ≤ o → o < hi → a ≠ tileByteAddr s x.dtile o) →
              Memory.read t.shf.mem a = Memory.read s.shf.mem a))

/-! ### Stations -/

/-- R36, R63, R96, R110, R320: a TVOP or TSFU, a check of R320 failing, replies; one that passes while a group of its tiles is not ON wakes it
and spends no credit; with the groups ON, while its station holds an operation credit, it sends its operation; and once done and the last
write beat have been seen and every beat has moved, it completes with the status that its words, its write beats and the station give, and
COUNT: the tiles it still holds as destinations become VALID, a PARTIAL one only if all was written and the command did not abort. -/
def Obligations.StationCommandsRun : Prop :=
  ∀ (s : State) (tag : Tag) (e : TagEntry) (op : Opcode) (x : StnOp) (n : Nat), (op = .tvop ∨ op = .tsfu) → started s tag op = some e →
    e.cmd = some (.station op x) → e.job.stn = some n → let c : Instr := if op = .tvop then .tvop tag else .tsfu tag
    (∀ o, e.job.stage = 0 → stationChecks s x = some o → ∃ t, exec c s = .next t ∧ Completed s t tag o)
    ∧ (e.job.stage = 0 → stationChecks s x = none → (∃ g ∈ opGroups s x, (groupOf s g).ready = false) → ∃ t, exec c s = .next t
        ∧ (∀ g, groupOf t g = if g ∈ opGroups s x ∧ (groupOf s g).ready = false then (groupOf s g).wakeUp else groupOf s g)
        ∧ t = { s with shf := { s.shf with groups := t.shf.groups } })
    ∧ (e.job.stage = 0 → stationChecks s x = none → (∀ g ∈ opGroups s x, (groupOf s g).ready = true) → 0 < (stnOf s n).oHeld →
        ∃ t, exec c s = .next t ∧ (tget StnPins.zero t.pin.stn n).ov = true ∧ (tget StnPins.zero t.pin.stn n).op = x.body
          ∧ (tget StnPins.zero t.pin.stn n).otag = tag ∧ (stnOf t n).oHeld + 1 = (stnOf s n).oHeld ∧ (stnOf t n).oFly = (stnOf s n).oFly + 1
          ∧ (tagOf t tag).job.opSent = true ∧ (tagOf t tag).job.stage = 1 ∧ (tagOf t tag).st = .started
          ∧ (∀ u, u ≠ tag → tagOf t u = tagOf s u) ∧ (∀ k, k ≠ n → stnOf t k = stnOf s k)
          ∧ t.shf = s.shf ∧ t.hay = s.hay ∧ t.arr = s.arr)
    ∧ (e.job.stage ≠ 0 → stationDone e x = true → let full := (formStatus e x.count).status ≠ .aborted ∧ e.job.wIdx = (opWrites s tag x).length
        ∃ u t, exec c s = .next t ∧ Completed u t tag (formStatus e x.count)
        ∧ (∀ k, k ∉ x.dsts ∨ e.writes k = false ∨ (tileOf s k).st = .unconfigured → tileOf u k = tileOf s k)
        ∧ (∀ k, k ∈ x.dsts → e.writes k = true → (tileOf s k).st ≠ .unconfigured → (full ∨ ∀ m, (tileOf s k).st ≠ .partialTo m) →
            tileOf u k = { tileOf s k with st := .valid })
        ∧ (∀ k m, (tileOf s k).st = .partialTo m → ¬ full → tileOf u k = tileOf s k)
        ∧ u = { s with shf := { s.shf with tiles := u.shf.tiles } })

/-! ### Buckets -/

/-- R264-R266: a BKOPEN with NELEM 0 replies OK and changes nothing. While no other copies its scale array, one that fails a check of R265
replies and changes nothing, and one that passes records its base, size, elements, remote base and step with every count 0, in a slot that
is not yet OPEN, and asks for its scale bytes as master 8. Once they are read it asks for their writes, in order, from the end of its
elements up; once those are performed the slot is OPEN and it replies with the number of elements, or, where a word read was uncorrectable,
stays CLOSED and it replies ECC_UNCORR.
Model's choices: one BKOPEN copies at a time (log 88). -/
def Obligations.BkopenOpens : Prop :=
  ∀ (s : State) (tag : Tag) (e : TagEntry) (x : BkOpen), started s tag .bkopen = some e → e.cmd = some (.bkopen x) →
    let src := scaleArray s e x
    let n := openedSlot s x
    let b := bucketOf s x.bucket
    (x.nelem = 0 → ∃ t, exec (.bkopen tag) s = .next t ∧ Completed s t tag (outc .ok 0 0))
    ∧ (x.nelem ≠ 0 → e.job.stage = 0 → bkopenBusy s = true → exec (.bkopen tag) s = .next s)
    ∧ (∀ o, x.nelem ≠ 0 → e.job.stage = 0 → bkopenBusy s = false → bkopenChecks s x src = some o →
        ∃ t, exec (.bkopen tag) s = .next t ∧ Completed s t tag o)
    ∧ (x.nelem ≠ 0 → e.job.stage = 0 → bkopenBusy s = false → bkopenChecks s x src = none → ∃ t, exec (.bkopen tag) s = .next t
        ∧ bucketOf t x.bucket = n ∧ (∀ k, k ≠ x.bucket → bucketOf t k = bucketOf s k)
        ∧ t.hay.waiting = s.hay.waiting ++ (haySplit src n.blocks).map (fun p => hayRd 8 p.1 (beRange p.2.1 p.2.2) (.unitFor tag 0 p.1))
        ∧ (tagOf t tag).job.stage = 1 ∧ (tagOf t tag).job.base = src
        ∧ (tagOf t tag).job.want = (haySplit src n.blocks).map (fun p => (0, p.1)) ∧ t.shf = s.shf ∧ t.hay.mem = s.hay.mem
        ∧ ∀ u, u ≠ tag → tagOf t u = tagOf s u)
    ∧ (x.nelem ≠ 0 → e.job.stage = 1 → e.job.want = [] → ∃ t, exec (.bkopen tag) s = .next t
        ∧ t.hay.waiting = s.hay.waiting ++ writeAccs 8 (b.lo + b.nelem) (scalesRead e.job b.blocks) (.store tag)
        ∧ (tagOf t tag).job.stage = 2 ∧ (∀ k, bucketOf t k = bucketOf s k) ∧ t.shf = s.shf ∧ t.hay.mem = s.hay.mem
        ∧ ∀ u, u ≠ tag → tagOf t u = tagOf s u)
    ∧ (x.nelem ≠ 0 → 2 ≤ e.job.stage → e.job.wrOut = 0 → (∃ u ∈ e.job.units, u.bad ≠ 0) →
        ∃ t, exec (.bkopen tag) s = .next t ∧ Completed s t tag (outc .eccUncorr x.bucket 0))
    ∧ (x.nelem ≠ 0 → 2 ≤ e.job.stage → e.job.wrOut = 0 → (∀ u ∈ e.job.units, u.bad = 0) → ∃ u t, exec (.bkopen tag) s = .next t
        ∧ Completed u t tag (formStatus e b.nelem) ∧ bucketOf u x.bucket = { b with st := .opened }
        ∧ (∀ k, k ≠ x.bucket → bucketOf u k = bucketOf s k) ∧ u.shf = s.shf ∧ u.hay = s.hay ∧ u.tly = s.tly)

/-- R268-R271, R276: a BKADD with no entry replies OK with count 0; one that fails a check of R268 replies and places nothing; one that
passes reserves its blocks, wakes the groups of its tiles and asks for its rows, one entry after the other, as station 14. Block by block it
asks for the scale byte of the block, and, once that and the block's data are here, writes the 32 codes of R269 to the block's place, one
after the other, as master 8, counting nonfinite and saturated elements. Once every block is written it completes with 32 elements to a
block, and its bucket begins to drain where that was its last block. -/
def Obligations.BkaddPlacesBlocks : Prop :=
  ∀ (s : State) (tag : Tag) (e : TagEntry) (b : Nat) (nw : Bool) (es : List BkEnt), started s tag .bkadd = some e →
    e.cmd = some (.bkadd b nw es) →
    (es = [] → ∃ t, exec (.bkadd tag) s = .next t ∧ Completed s t tag (outc .ok 0 0))
    ∧ (∀ o, es ≠ [] → e.job.stage = 0 → e.stop ≠ some .unplug → bkaddChecks s e b es = some o →
        ∃ t, exec (.bkadd tag) s = .next t ∧ Completed s t tag o)
    ∧ (es ≠ [] → e.job.stage = 0 → e.stop ≠ some .unplug → bkaddChecks s e b es = none → let bl := bkaddBlocks s (tileOf s) e b es
        let k := bkaddSlot s e b
        ∃ t, exec (.bkadd tag) s = .next t ∧ (bucketOf t k).cPlaced = (bucketOf s k).cPlaced + 32 * bl.length
          ∧ (∀ i, (bucketOf t k).placed.testBit i = ((bucketOf s k).placed.testBit i || bl.any fun p => p.2.2 == i))
          ∧ bucketOf t k = { bucketOf s k with cPlaced := (bucketOf t k).cPlaced, placed := (bucketOf t k).placed }
          ∧ (∀ j, j ≠ k → bucketOf t j = bucketOf s j) ∧ (tagOf t tag).st = .started ∧ (tagOf t tag).job.stage = 1
          ∧ (tagOf t tag).job.base = k
          ∧ (stnOf t 14).rdQ = (stnOf s 14).rdQ ++ es.zipIdx.flatMap (fun p =>
              let rb := (tileOf s p.1.tile).rowBytes
              let js := beatsOf (p.1.first * rb) ((p.1.first + p.1.count) * rb)
              js.zipIdx.map fun q => ⟨tag, p.1.tile, q.1, p.2 + 1 == es.length && q.2 + 1 == js.length⟩)
          ∧ (∀ g, groupOf t g = if (∃ x ∈ es, (tileOf s x.tile).spill = false ∧ (tileOf s x.tile).group = g) ∧ (groupOf s g).ready = false
              then (groupOf s g).wakeUp else groupOf s g)
          ∧ (∀ u, u ≠ tag → tagOf t u = tagOf s u) ∧ t.hay = s.hay)
    ∧ (es ≠ [] → e.job.stage ≠ 0 → e.stop ≠ some .unplug → ∀ tl o blk, (bkaddBlocks s (jobTile s tag) e b es)[e.job.row]? = some (tl, o, blk) →
        let k := e.job.base
        let x := bucketOf s k
        let sa := x.lo + x.nelem + blk
        let a := x.lo + 32 * blk
        (e.job.reqRow ≤ e.job.row → ∃ t, exec (.bkadd tag) s = .next t
          ∧ t.hay.waiting = s.hay.waiting ++ [hayRd 8 (sa - sa % 64) (beRange (sa % 64) 1) (.unitFor tag e.job.row (sa - sa % 64))]
          ∧ (tagOf t tag).job.reqRow = e.job.row + 1 ∧ (∀ j, bucketOf t j = bucketOf s j) ∧ t.shf = s.shf)
        ∧ (∀ v, e.job.row < e.job.reqRow → rxBytes e.job.rx tl o 128 = some v → unitsReady e.job e.job.row = true →
            let sc := byteIn e.job (Side.of true false false) e.job.row sa
            let cs := (unpackElems 32 32 v).map fun y => encode sc.1.toNat (BitVec.ofNat 32 y)
            ∃ t, exec (.bkadd tag) s = .next t
              ∧ t.hay.waiting = s.hay.waiting ++ [hayWr 8 (a - a % 64) (beRange (a % 64) 32)
                  (BitVec.ofNat 512 (packElems 8 (cs.map (·.1)) * 2 ^ (8 * (a % 64)))) (.store tag)]
              ∧ bucketOf t k = { x with cNonf := x.cNonf + cs.countP (·.2.1), cSat := x.cSat + cs.countP (·.2.2) }
              ∧ (∀ j, j ≠ k → bucketOf t j = bucketOf s j) ∧ (tagOf t tag).job.row = e.job.row + 1
              ∧ (tagOf t tag).job.wrOut = e.job.wrOut + 1 ∧ t.shf = s.shf ∧ t.hay.mem = s.hay.mem))
    ∧ (es ≠ [] → e.job.stage ≠ 0 → let bl := bkaddBlocks s (jobTile s tag) e b es
        let k := e.job.base
        bl.length ≤ e.job.row → e.job.wrOut = 0 →
        ∃ u t, exec (.bkadd tag) s = .next t ∧ Completed u t tag (formStatus e (32 * bl.length))
          ∧ bucketOf u k = { bucketOf s k with
              written := (bucketOf s k).written + bl.length
              st := if (bucketOf s k).st = .opened ∧ (bucketOf s k).written + bl.length = (bucketOf s k).blocks then .draining
                else (bucketOf s k).st }
          ∧ (∀ j, j ≠ k → bucketOf u j = bucketOf s j) ∧ u.shf = s.shf ∧ u.hay = s.hay ∧ u.tly = s.tly)

/-- R275-R277: BKCLOSE of a CLOSED bucket replies BUCKET_STATE with reason 1; of an OPEN one, with FORCE 0, reason 5, and with FORCE 1 it begins
to drain; of a drained one it closes the bucket and replies by the reconciliation; one that the unplug sequence found waiting closes it, once
every earlier command on the bucket has ended and every RACC is answered, with ABORTED_POWER and the elements not acknowledged. BKQRY replies
the bucket's state, its nonfinite and saturated marks and its RACC outstanding in its detail and ACKED as its count, and changes nothing. -/
def Obligations.BkcloseAndBkqry : Prop :=
  ∀ (s : State) (tag : Tag) (e : TagEntry) (k : Nat),
    (∀ force, started s tag .bkclose = some e → e.cmd = some (.bkclose k force) →
      (e.stop ≠ some .unplug → (bucketOf s k).st = .closed →
          ∃ t, exec (.bkclose tag) s = .next t ∧ Completed s t tag (outc .bucketState (0x1000 + k) 0))
      ∧ (e.stop ≠ some .unplug → (bucketOf s k).st = .opened → force = false →
          ∃ t, exec (.bkclose tag) s = .next t ∧ Completed s t tag (outc .bucketState (0x5000 + k) 0))
      ∧ (e.stop ≠ some .unplug → (bucketOf s k).st = .opened → force = true → ∃ t, exec (.bkclose tag) s = .next t
          ∧ bucketOf t k = { bucketOf s k with st := .draining } ∧ (∀ j, j ≠ k → bucketOf t j = bucketOf s j) ∧ t.tly = s.tly
          ∧ t.shf = s.shf ∧ t.hay = s.hay)
      ∧ (e.stop ≠ some .unplug → (bucketOf s k).st = .draining → (bucketOf s k).drained = false → exec (.bkclose tag) s = .next s)
      ∧ (e.stop ≠ some .unplug → (bucketOf s k).st = .draining → (bucketOf s k).drained = true →
          ∃ u t, exec (.bkclose tag) s = .next t ∧ Completed u t tag (bkcloseReply k (bucketOf s k)) ∧ (bucketOf u k).st = .closed
            ∧ (∀ j, j ≠ k → bucketOf u j = bucketOf s j) ∧ u.shf = s.shf ∧ u.hay = { s.hay with waiting := u.hay.waiting } ∧ u.tly = s.tly)
      ∧ (e.stop = some .unplug → behindStarted s e = false → (bucketOf s k).raccs = 0 →
          ∃ u t, exec (.bkclose tag) s = .next t
            ∧ Completed u t tag (outc .abortedPower k ((bucketOf s k).cPlaced - (bucketOf s k).cAcked)) ∧ (bucketOf u k).st = .closed
            ∧ (∀ j, j ≠ k → bucketOf u j = bucketOf s j) ∧ u.shf = s.shf ∧ u.hay = { s.hay with waiting := u.hay.waiting } ∧ u.tly = s.tly))
    ∧ (started s tag .bkqry = some e → e.cmd = some (.bkqry k) → ∃ t, exec (.bkqry tag) s = .next t
        ∧ Completed s t tag (outc .ok ((bucketOf s k).st.code + 4 * b2n (decide (0 < (bucketOf s k).cNonf))
            + 8 * b2n (decide (0 < (bucketOf s k).cSat)) + 16 * (bucketOf s k).raccs) (bucketOf s k).cAcked))

/-! ### Diagnostics and repair -/

/-- R247, R375, R376: a DRDENT asks its Sheaf bank, and a DRDHAY its Hayloft bank as master 11, for the raw entry or word; once it has come they
ask for the write of the data bytes and then the check bytes, as stored, and complete with count 1 once every write is acknowledged or
performed. A DWRENT and a DWRHAY ask for the bytes of their image; once it is here they ask for its write, and complete with count 1 once
that is performed. (The bank's own part is in `BankCycleServes` and `HayloftAccessesServed`.)
R362, R375: a DSCRUB asks for the scrub of one entry or word of its bank after the other, each once the last is done, and after the last
completes with the number of words corrected.
Model's choices: bytes of a source answered ERROR are free (log 1). -/
def Obligations.RawAccessAndDscrub : Prop :=
  (∀ (s : State) (tag : Tag) (e : TagEntry) (b n : Nat) (hay : Bool) (addr : Nat),
    (started s tag .drdent = some e → e.cmd = some (.drdent b n hay addr) →
      (e.job.stage = 0 → canTink s b = true → ∃ t, exec (.drdent tag) s = .next t
        ∧ t.mil = { s.mil with tinker := s.mil.tinker ++ [⟨b, n, false, .raw tag, 0⟩] } ∧ (tagOf t tag).job.stage = 1
        ∧ (tagOf t tag).job.wrOut = e.job.wrOut + 1 ∧ t.hay = s.hay ∧ t.tnk = s.tnk ∧ t.shf.mem = s.shf.mem)
      ∧ (e.job.stage = 1 → e.job.wrOut = 0 → e.job.raw ≠ [] → ∃ t, exec (.drdent tag) s = .next t ∧ AskedWrites s t tag hay addr e.job.raw
        ∧ (tagOf t tag).job.stage = 2 ∧ t.tnk = s.tnk)
      ∧ (2 ≤ e.job.stage → e.job.wrOut = 0 → ∃ t, exec (.drdent tag) s = .next t ∧ Completed s t tag (outc .ok 0 1)))
    ∧ (started s tag .drdhay = some e → e.cmd = some (.drdhay b n hay addr) →
      (e.job.stage = 0 → ∃ t, exec (.drdhay tag) s = .next t ∧ t.hay.waiting = s.hay.waiting ++ [tinkHay b n false [] (.raw tag)]
        ∧ (tagOf t tag).job.stage = 1 ∧ (tagOf t tag).job.wrOut = e.job.wrOut + 1 ∧ t.hay.mem = s.hay.mem ∧ t.tnk = s.tnk ∧ t.shf = s.shf)
      ∧ (e.job.stage = 1 → e.job.wrOut = 0 → e.job.raw ≠ [] → ∃ t, exec (.drdhay tag) s = .next t ∧ AskedWrites s t tag hay addr e.job.raw
        ∧ (tagOf t tag).job.stage = 2 ∧ t.tnk = s.tnk)
      ∧ (2 ≤ e.job.stage → e.job.wrOut = 0 → ∃ t, exec (.drdhay tag) s = .next t ∧ Completed s t tag (outc .ok 0 1)))
    ∧ (started s tag .dwrent = some e → e.cmd = some (.dwrent b n hay addr) →
      (e.job.stage = 0 → ∃ t, exec (.dwrent tag) s = .next t ∧ (tagOf t tag).job.stage = 1
        ∧ (hay = false → t.noc.outQ = s.noc.outQ ++ ((Side.of false false false).units ((List.range 144).map (addr + ·))).map
            (fun u => ⟨false, u, 0, 0, .unitFor tag 0 u⟩) ∧ t.hay = s.hay)
        ∧ (hay = true → t.hay.waiting = s.hay.waiting ++ (haySplit addr 144).map (fun p => hayRd 11 p.1 (beRange p.2.1 p.2.2) (.unitFor tag 0 p.1))
            ∧ t.noc = s.noc))
      ∧ (e.job.stage = 1 → e.job.want = [] → canTink s b = true → ∃ t, exec (.dwrent tag) s = .next t
        ∧ t.mil = { s.mil with tinker := s.mil.tinker ++ [⟨b, n, true, .raw tag, 0⟩] } ∧ (tagOf t tag).job.stage = 2
        ∧ (tagOf t tag).job.raw = readBytes s e.job hay addr 144 ∧ (tagOf t tag).job.wrOut = e.job.wrOut + 1 ∧ t.shf.mem = s.shf.mem)
      ∧ (2 ≤ e.job.stage → e.job.wrOut = 0 → ∃ t, exec (.dwrent tag) s = .next t ∧ Completed s t tag (outc .ok 0 1)))
    ∧ (started s tag .dwrhay = some e → e.cmd = some (.dwrhay b n hay addr) →
      (e.job.stage = 0 → ∃ t, exec (.dwrhay tag) s = .next t ∧ (tagOf t tag).job.stage = 1
        ∧ (hay = false → t.noc.outQ = s.noc.outQ ++ ((Side.of false false false).units ((List.range 72).map (addr + ·))).map
            (fun u => ⟨false, u, 0, 0, .unitFor tag 0 u⟩) ∧ t.hay = s.hay)
        ∧ (hay = true → t.hay.waiting = s.hay.waiting ++ (haySplit addr 72).map (fun p => hayRd 11 p.1 (beRange p.2.1 p.2.2) (.unitFor tag 0 p.1))
            ∧ t.noc = s.noc))
      ∧ (e.job.stage = 1 → e.job.want = [] → ∃ t, exec (.dwrhay tag) s = .next t
        ∧ t.hay.waiting = s.hay.waiting ++ [tinkHay b n true (readBytes s e.job hay addr 72) (.raw tag)] ∧ (tagOf t tag).job.stage = 2
        ∧ (tagOf t tag).job.wrOut = e.job.wrOut + 1 ∧ t.hay.mem = s.hay.mem)
      ∧ (2 ≤ e.job.stage → e.job.wrOut = 0 → ∃ t, exec (.dwrhay tag) s = .next t ∧ Completed s t tag (outc .ok 0 1))))
  ∧ ∀ (s : State) (tag : Tag) (e : TagEntry) (hay : Bool) (b : Nat), started s tag .dscrub = some e → e.cmd = some (.dscrub hay b) →
    let n := if hay = true then 4096 else 64
    (e.job.wrOut ≠ 0 → exec (.dscrub tag) s = .next s)
    ∧ (e.job.wrOut = 0 → e.job.row = n → ∃ t, exec (.dscrub tag) s = .next t ∧ Completed s t tag (outc .ok 0 e.job.landed))
    ∧ (e.job.wrOut = 0 → e.job.row ≠ n → (hay = false → canTink s b = true) → ∃ t, exec (.dscrub tag) s = .next t
        ∧ (hay = false → t.mil = { s.mil with tinker := s.mil.tinker ++ [⟨b, e.job.row, false, .scrub (some tag), 0⟩] } ∧ t.hay = s.hay)
        ∧ (hay = true → t.hay.waiting = s.hay.waiting ++ [tinkHay b e.job.row false [] (.scrub (some tag))] ∧ t.mil = s.mil)
        ∧ (tagOf t tag).job.row = e.job.row + 1 ∧ (tagOf t tag).job.wrOut = 1 ∧ (tagOf t tag).job.landed = e.job.landed
        ∧ t.shf.mem = s.shf.mem ∧ t.hay.mem = s.hay.mem)

/-- R360, R364, R365, R375: a DRETIRE of a bank that serves no position replies CFG_INCONSISTENT; of any other it wakes the bank's group, and
then replies CAPACITY where a retirement may not begin, or else waits in the order of arrival. A DREPAIR under LOCK or before boot completes
replies BOOTLOCKED; one that names no unit, a Sheaf bank that is retired, a group of configured tiles or one whose copy runs replies
CFG_INCONSISTENT; one that makes an assignment swaps the two logical units and replies OK with count 1. DTRACE 0 clears RUN, 1 sets it, 3
empties the buffer, each with count 0, and 2 asks for the write of the dump and completes with the number of entries dumped.
Model's choices: a DRETIRE wakes its group (log 24); no assignment in a group whose copy runs (log 71). -/
def Obligations.RetireRepairTrace : Prop :=
  ∀ (s : State) (tag : Tag) (e : TagEntry),
    (∀ b, started s tag .dretire = some e → e.cmd = some (.dretire b) → e.job.stage = 0 →
      let woken := fun (u : State) => ∀ g, groupOf u g = if g = b / 9 ∧ (groupOf s g).ready = false then (groupOf s g).wakeUp else groupOf s g
      (servedBank s b = none → ∃ t, exec (.dretire tag) s = .next t ∧ Completed s t tag (outc .cfgInconsistent (0xB00 + b) 0))
      ∧ ((servedBank s b).isSome = true → s.tnk.copying = none → mayRetire s (b / 9) = false →
          ∃ u t, exec (.dretire tag) s = .next t ∧ Completed u t tag (outc .capacity (0xA000 + b) 0) ∧ u.tnk = s.tnk
            ∧ u.shf.mem = s.shf.mem ∧ woken u)
      ∧ ((servedBank s b).isSome = true → s.tnk.copying.isSome = true ∨ mayRetire s (b / 9) = true →
          ∃ t, exec (.dretire tag) s = .next t ∧ t.tnk = { s.tnk with trigs := s.tnk.trigs ++ [(b, some tag)] } ∧ woken t
            ∧ tagOf t tag = { e with job := { e.job with stage := 1 } } ∧ (∀ x, x ≠ tag → tagOf t x = tagOf s x)
            ∧ t.shf.mem = s.shf.mem ∧ t.hay = s.hay))
    ∧ (∀ k l p, started s tag .drepair = some e → e.cmd = some (.drepair k l p) →
      let inUse := k = 0 ∧ ∃ x, x < 64 ∧ (tileOf s x).st ≠ .unconfigured ∧ (tileOf s x).spill = false ∧ (tileOf s x).group = l / 8
      (bit (rget s 0xE004) 0 = true ∨ booted s = false → ∃ t, exec (.drepair tag) s = .next t ∧ Completed s t tag (outc .bootLocked 0 0))
      ∧ (bit (rget s 0xE004) 0 = false → booted s = true →
          kindSize k ≤ l ∨ physOk k l p = false ∨ (k = 0 ∧ (p ∈ s.tnk.retired ∨ copyingIn s (l / 8) = true)) ∨ inUse →
          ∃ t, exec (.drepair tag) s = .next t ∧ Completed s t tag (outc .cfgInconsistent (0xA00 + l % 64) 0))
      ∧ (bit (rget s 0xE004) 0 = false → booted s = true → l < kindSize k → physOk k l p = true →
          (k = 0 → p ∉ s.tnk.retired ∧ copyingIn s (l / 8) = false) → ¬ inUse →
          ∃ u t, exec (.drepair tag) s = .next t ∧ Completed u t tag (outc .ok 0 1) ∧ physOf u k l = p
            ∧ (∀ m, m < kindSize k → m ≠ l → physOf u k m = if servedBy s k l p = some m then physOf s k l else physOf s k m)
            ∧ u = { s with regs := u.regs, tnk := { s.tnk with map := u.tnk.map } }))
    ∧ (∀ a hay addr, started s tag .dtrace = some e → e.cmd = some (.dtrace a hay addr) →
      (e.job.stage ≠ 1 → a = 0 → ∃ u t, exec (.dtrace tag) s = .next t ∧ Completed u t tag (outc .ok 0 0) ∧ bit (rget u 0xD080) 0 = false
        ∧ (∀ i, i ≠ 0 → bit (rget u 0xD080) i = bit (rget s 0xD080) i) ∧ (∀ k, k ≠ 0xD080 → rget u k = rget s k) ∧ u = { s with regs := u.regs })
      ∧ (e.job.stage ≠ 1 → a = 1 → ∃ u t, exec (.dtrace tag) s = .next t ∧ Completed u t tag (outc .ok 0 0) ∧ bit (rget u 0xD080) 0 = true
        ∧ (∀ i, i ≠ 0 → bit (rget u 0xD080) i = bit (rget s 0xD080) i) ∧ (∀ k, k ≠ 0xD080 → rget u k = rget s k) ∧ u = { s with regs := u.regs })
      ∧ (e.job.stage ≠ 1 → a = 2 → ∃ t, exec (.dtrace tag) s = .next t ∧ AskedWrites s t tag hay addr (traceDump s)
        ∧ (tagOf t tag).job.landed = s.tnk.trace.length ∧ (tagOf t tag).job.stage = 1)
      ∧ (e.job.stage ≠ 1 → a = 3 → ∃ u t, exec (.dtrace tag) s = .next t ∧ Completed u t tag (outc .ok 0 0)
        ∧ u = { s with tnk := { s.tnk with trace := [], traceOld := 0 } })
      ∧ (e.job.stage = 1 → e.job.wrOut = 0 → ∃ t, exec (.dtrace tag) s = .next t ∧ Completed s t tag (outc .ok 0 e.job.landed)))

/-! ### Packets -/

/-- R31, R84, R301, R308: the conditions of acceptance. A packet on `cmd_` that meets them, with nothing ahead of it and its turn come, is
accepted and acknowledged; one that does not waits behind what waits there; a held one is accepted once it meets them in its turn, and what
waits behind it is then served (R32). A CMD flit that finds nothing ahead, a credit for its answer and R31's conditions is accepted in its
turn and answered CMDACK with OK; where R31 would not accept it, it is answered RETRY and accepted not at all (R47).
Model's choices: the rotating order (log 91). -/
def Obligations.PacketsAccepted : Prop :=
  ∀ (s : State) (p : Packet),
    (canAccept s p = true ↔ s.ctl.powered = true ∧ s.ctl.inReset = false ∧ running s islC = true ∧ bit (rget s 0xE004) 1 = true
      ∧ s.ctl.halted = false ∧ (tagOf s (hdrTag p.w0)).st = .free ∧ s.tly.inq.length < 8
      ∧ (if (hdrFmt p.w0 = 1 ∨ hdrFmt p.w0 = 2) ∧ hdrOp p.w0 / 16 = 7 then 1 else 9) ≤ freeTags s)
    ∧ (s.tly.cmdHeld = [] → canAccept s p = true → hasTurn s 0 = true → ∃ u t, exec (.commandPacket p) s = .next t ∧ Accepted u t .cmd p
        ∧ u = { s with pin := { s.pin with cmdAck := !s.pin.cmdAck } })
    ∧ (awake s = true → s.tly.cmdHeld ≠ [] ∨ canAccept s p = false ∨ hasTurn s 0 = false →
        exec (.commandPacket p) s = .next { s with tly := { s.tly with cmdHeld := s.tly.cmdHeld ++ [.packet p] } })
    ∧ (∀ r, s.tly.cmdHeld = .packet p :: r → canAccept s p = true → hasTurn s 0 = true →
        ∃ u t, exec .heldPacketAccept s = .next (pumpIn1 (pumpCmd t)) ∧ Accepted u t .cmd p
          ∧ u = { s with tly := { s.tly with cmdHeld := r }, pin := { s.pin with cmdAck := !s.pin.cmdAck } }
          ∧ (r = [] → s.noc.in1 = [] → pumpIn1 (pumpCmd t) = t))
    ∧ (∀ r, s.tly.cmdHeld = .packet p :: r → canAccept s p = false ∨ hasTurn s 0 = false → exec .heldPacketAccept s = .next s)
    ∧ (∀ txid : Txid, awake s = true → running s islC = true → 0 < s.noc.i1Out → s.noc.in1 = [] → s.noc.answers = [] → 0 < s.noc.o1.held →
        canAccept s p = false ∨ hasTurn s 1 = true →
        ∃ t, exec (.nocCmd txid p) s = .next t ∧ t.noc.in1 = [] ∧ t.pin.i1crd = true ∧ t.noc.i1Out = s.noc.i1Out
          ∧ t.noc.o1.held + 1 = s.noc.o1.held ∧ t.noc.o1.fly = s.noc.o1.fly + 1 ∧ t.shf = s.shf ∧ t.hay = s.hay
          ∧ (canAccept s p = true → t.pin.o1 = some ⟨flitHdr 0 txid.toNat 4, 0, 0⟩ ∧ (tagOf t (hdrTag p.w0)).st = .waiting
              ∧ (tagOf t (hdrTag p.w0)).pkt = p ∧ (tagOf t (hdrTag p.w0)).src = .noc ∧ t.tly.inq = s.tly.inq ++ [hdrTag p.w0])
          ∧ (canAccept s p = false → t.pin.o1 = some ⟨flitHdr 1 txid.toNat 4, 0, 0⟩ ∧ t.tly = s.tly))
    ∧ (∀ txid : Txid, awake s = true → running s islC = true → 0 < s.noc.i1Out → s.noc.in1 = [] →
        s.noc.o1.held = 0 ∨ (canAccept s p = true ∧ hasTurn s 1 = false) →
        ∃ t f, exec (.nocCmd txid p) s = .next t ∧ t = { s with noc := { s.noc with i1Out := s.noc.i1Out - 1, in1 := [.inl f] } }
          ∧ f.data = packetData p)

/-- R55, R65, R276, R309, R395: the oldest queued packet, with no RESUME before its look-up, becomes the command it carries, with the touches
that its acceptance fixes, or ends at once with the reply that its decode gives; every other tag is as it was. The order of the checks: FMT,
OPCODE, the owner of the ring's pair, then reserved bits and values, of which the lowest word and bit is reported. Under the unplug sequence
a decoded command ends with ABORTED_POWER, but a BKCLOSE, which goes to its end under that sequence. -/
def Obligations.PacketDecodes : Prop :=
  (∀ (s : State) (t : Tag) (r : List Tag), s.tly.inq = t :: r → resumePending s = false → running s islC = true →
    let owner := match (tagOf s t).src with | .ring _ o => some o | _ => none
    let u : State := { s with tly := { s.tly with inq := r } }
    (∀ o, decodePacket owner (tagOf s t).pkt = .inl o → ∃ v, exec .packetDecode s = .next v ∧ Completed u v t o)
    ∧ (∀ c, decodePacket owner (tagOf s t).pkt = .inr c → 1 ≤ s.ctl.unplug → (∀ b f, c ≠ .bkclose b f) →
        ∃ v, exec .packetDecode s = .next v ∧ Completed u v t (outc .abortedPower 0 0))
    ∧ (∀ b f, decodePacket owner (tagOf s t).pkt = .inr (.bkclose b f) → 1 ≤ s.ctl.unplug → ∃ v, exec .packetDecode s = .next v
        ∧ tagOf v t = { decodeTouches u (tagOf s t) (.bkclose b f) with st := .started, stop := some .unplug }
        ∧ (∀ x, x ≠ t → tagOf v x = tagOf s x) ∧ v = { u with tly := { u.tly with tags := v.tly.tags } })
    ∧ (∀ c, decodePacket owner (tagOf s t).pkt = .inr c → s.ctl.unplug = 0 → ∃ v, exec .packetDecode s = .next v
        ∧ tagOf v t = decodeTouches u (tagOf s t) c ∧ (tagOf v t).cmd = some c ∧ (tagOf v t).st = (tagOf s t).st
        ∧ (tagOf v t).hdr = (tagOf s t).hdr ∧ (∀ x, x ≠ t → tagOf v x = tagOf s x) ∧ v = { u with tly := { u.tly with tags := v.tly.tags } }))
  ∧ ∀ (owner : Option Nat) (p : Packet), let bl1 := hdrFmt p.w0 == 1
    (hdrFmt p.w0 ≠ 1 → hdrFmt p.w0 ≠ 2 → decodePacket owner p = .inl (outc .unsupported (0x1000 + hdrFmt p.w0) 0))
    ∧ ((hdrFmt p.w0 = 1 ∨ hdrFmt p.w0 = 2) → Opcode.ofCode (hdrOp p.w0) = none → decodePacket owner p = .inl (outc .unsupported 0x2000 0))
    ∧ (∀ op, hdrFmt p.w0 = 1 → Opcode.ofCode (hdrOp p.w0) = some op → op.inBl1 = false → decodePacket owner p = .inl (outc .unsupported 0x2000 0))
    ∧ (∀ op, (hdrFmt p.w0 = 2 ∨ (hdrFmt p.w0 = 1 ∧ op.inBl1 = true)) → Opcode.ofCode (hdrOp p.w0) = some op →
        (∀ o, owner = some o → o ≠ hdrCtx p.w0 → decodePacket owner p = .inl (outc .ctxInvalid 0x3000 0))
        ∧ ((∀ o, owner = some o → o = hdrCtx p.w0) →
            let fs := hdrFields ++ bodyFields op bl1 p
            let bad := fun w b : Nat => ((p.word w).toNat.testBit b = true ∧ ∀ f ∈ fs, ¬ (f.word = w ∧ f.lo ≤ b ∧ b ≤ f.hi))
              ∨ ∃ f ∈ fs, f.word = w ∧ f.lo = b ∧ f.ok = false
            (∀ w b, w < 8 → b < 64 → bad w b → (∀ w' b', w' < 8 → b' < 64 → bad w' b' → w < w' ∨ (w = w' ∧ b ≤ b')) →
              decodePacket owner p = .inl (outc .reservedField (w + 8 * b) 0))
            ∧ ((∀ w b, w < 8 → b < 64 → ¬ bad w b) → decodePacket owner p = .inr (bodyCmd op bl1 p))))

/-- R20, R64, R67, R79: a waiting command that an earlier one holds back goes on waiting. One that nothing holds back is replied to, waits or
starts as the checks of its start give; what starts, once the crossing to its island takes it, is STARTED on its station, and no other
command changes but in what the start's own reads note. A NOP and every other command without checks of its own starts at once; a
diagnostic starts on station 15 in its turn, the one before it being under way.
Model's choices: the order on a station (log 46), what occupies a crossing (log 50). -/
def Obligations.CommandStarts : Prop :=
  ∀ (s : State) (tag : Tag) (c : Command), (tagOf s tag).cmd = some c → (tagOf s tag).st = .waiting → startsHere c = true → s.ctl.unplug = 0 →
    running s islC = true →
    (heldBack s tag = true → exec (.commandStart tag) s = .next s)
    ∧ (heldBack s tag = false → ∀ (st : Start) (u : State), tryStart tag c s = (st, u) →
      match st with
      | .wait => exec (.commandStart tag) s = .next u
      | .reply o => ∃ t, exec (.commandStart tag) s = .next t ∧ Completed u t tag o
      | .go n f =>
        ((∀ k, dispatchCross u c = some k → canCross u k = true) → ∃ t, exec (.commandStart tag) s = .next t ∧ (tagOf t tag).st = .started
          ∧ (tagOf t tag).job.stn = n ∧ (tagOf t tag).cmd = (f (tagOf u tag)).cmd ∧ (∀ x, x ≠ tag → tagOf t x = tagOf u x)
          ∧ t.shf = { u.shf with groups := t.shf.groups } ∧ t.hay = u.hay ∧ t.noc = u.noc)
        ∧ (∀ k, dispatchCross u c = some k → canCross u k = false → exec (.commandStart tag) s = .next u))
    ∧ (heldBack s tag = false → (∀ k, dispatchCross s c = some k → canCross s k = true) → (match c with
        | .tcfg _ | .trel _ | .tqry _ | .dcre .. | .dfree _ | .bkclose .. | .bkqry _ | .ctxset .. | .ctxget .. | .ctxpin _ false | .ctxevict _
        | .ringset _ | .ringget _ | .fence _ | .audit .. | .nop => True
        | _ => False) →
      ∃ t, exec (.commandStart tag) s = .next t ∧ (tagOf t tag).st = .started ∧ (tagOf t tag).job.stn = none ∧ (tagOf t tag).cmd = some c
        ∧ (∀ x, x ≠ tag → tagOf t x = tagOf s x) ∧ t.shf = s.shf ∧ t.hay = s.hay)
    ∧ (heldBack s tag = false → c.isDiag = true →
        (takesFirst s 15 tag = true → underWay s 15 = true →
          ∃ t, exec (.commandStart tag) s = .next t ∧ (tagOf t tag).st = .started ∧ (tagOf t tag).job.stn = some 15 ∧ (tagOf t tag).cmd = some c
            ∧ (∀ x, x ≠ tag → tagOf t x = tagOf s x) ∧ t.shf = s.shf ∧ t.hay = s.hay)
        ∧ (takesFirst s 15 tag = false ∨ underWay s 15 = false → exec (.commandStart tag) s = .next s))
    ∧ (∀ op x o, heldBack s tag = false → c = .bank op x → x.count ≠ 0 → judgeCmd s (tagOf s tag) c = .reply o →
        ∃ t, exec (.commandStart tag) s = .next t ∧ Completed s t tag o)

/-- R34, R325: a reply acknowledged on `sts_`, while island C runs, is counted and its tag released, or its notify becomes due; register data
acknowledged end their transfer; the next transfer that waits is presented. A notify acknowledged releases its tag, and the next is
presented. -/
def Obligations.DeliveriesReleaseTags : Prop :=
  ∀ s : State, running s islC = true →
    (∀ t, s.tly.stsCur = some (.reply t) → ∃ u, exec .replyDelivered s = .next u ∧ u.tly.delivered = s.tly.delivered + 1
      ∧ u.tly.stsCur = s.tly.stsQ.head? ∧ u.tly.stsQ = s.tly.stsQ.tail
      ∧ u.pin.stsReq = (if s.tly.stsQ = [] then s.pin.stsReq else !s.pin.stsReq)
      ∧ rget u 0x9044 = BitVec.ofNat 32 (min 0xFFFFFFFF ((rget s 0x9044).toNat + 1)) ∧ (∀ x, x ≠ t → tagOf u x = tagOf s x)
      ∧ (hdrNotify (tagOf s t).own = false → tagOf u t = TagEntry.free ∧ u.tly.ntfCur = s.tly.ntfCur ∧ u.tly.ntfQ = s.tly.ntfQ)
      ∧ (hdrNotify (tagOf s t).own = true → tagOf u t = { tagOf s t with st := .notifying }
          ∧ (s.tly.ntfCur = none → s.tly.ntfQ = [] → u.tly.ntfCur = some t ∧ u.tly.ntfQ = [] ∧ u.pin.ntfReq = !s.pin.ntfReq ∧ u.pin.ntfTag = t)
          ∧ (∀ x, s.tly.ntfCur = some x → u.tly.ntfCur = some x ∧ u.tly.ntfQ = s.tly.ntfQ ++ [t]))
      ∧ u.shf = s.shf ∧ u.hay = s.hay)
    ∧ (∀ v, s.tly.stsCur = some (.regData v) → ∃ u, exec .registerDataDelivered s = .next u ∧ u.tly.stsCur = s.tly.stsQ.head?
      ∧ u.tly.stsQ = s.tly.stsQ.tail ∧ u.pin.stsReq = (if s.tly.stsQ = [] then s.pin.stsReq else !s.pin.stsReq)
      ∧ u = { s with tly := { s.tly with stsCur := u.tly.stsCur, stsQ := u.tly.stsQ },
                     pin := { s.pin with stsReq := u.pin.stsReq, stsKind := u.pin.stsKind, stsData := u.pin.stsData } })
    ∧ (∀ t, s.tly.ntfCur = some t → ∃ u, exec .notifyDelivered s = .next u ∧ tagOf u t = TagEntry.free
      ∧ (∀ x, x ≠ t → tagOf u x = tagOf s x) ∧ u.tly.ntfCur = s.tly.ntfQ.head? ∧ u.tly.ntfQ = s.tly.ntfQ.tail
      ∧ u.pin.ntfReq = (if s.tly.ntfQ = [] then s.pin.ntfReq else !s.pin.ntfReq)
      ∧ u = { s with tly := { s.tly with tags := u.tly.tags, ntfCur := u.tly.ntfCur, ntfQ := u.tly.ntfQ },
                     pin := { s.pin with ntfReq := u.pin.ntfReq, ntfTag := u.pin.ntfTag } })

/-! ### Register accesses and unusable inputs -/

/-- R9-R11, R26, R32, R33, R47, R51, R379, R388, R390: while accesses are served and nothing is ahead, a register read on `cmd_` answers one
register-data transfer with what the access reads and is acknowledged; a register write on `cmd_` has the write's effect and is acknowledged;
a REGRD is answered REGRSP and a REGWR INGACK, both OK; a service access is acknowledged and counted. What an access reads: nothing of a
register that is not there; zero, logged, of one whose island has no lock; else the captured half or the register. A read of the low
register of a pair captures the high half for its source and changes nothing else. A write of a counter sets it and no other register; one
of no register is ignored. While accesses are not served yet, each of these waits at its interface.
Model's choices: the log's source codes (log 12), the service port's read data at a write (log 78). -/
def Obligations.RegisterAccessesServed : Prop :=
  (∀ s : State, serving s = true →
    (∀ off : BitVec 16, s.tly.cmdHeld = [] → s.tly.stsCur = none → s.tly.stsQ = [] → ∃ t, exec (.registerReadCmd off) s = .next t
      ∧ t.tly.stsCur = some (.regData (accessRead .cmd off.toNat s).1) ∧ t.pin.stsKind = true ∧ t.pin.stsReq = !s.pin.stsReq
      ∧ t.pin.cmdAck = !s.pin.cmdAck ∧ fld t.pin.stsData 31 0 = (accessRead .cmd off.toNat s).1.toNat
      ∧ t = { (accessRead .cmd off.toNat s).2 with tly := { s.tly with stsCur := t.tly.stsCur }, pin := t.pin })
    ∧ (∀ (off : BitVec 16) (v : Reg), s.tly.cmdHeld = [] → exec (.registerWrite off v) s = .next (ackCmd (accessWrite .cmd off.toNat v s)))
    ∧ (∀ (h : Word) (v : Reg), 0 < s.noc.i1Out → s.noc.in1 = [] → s.noc.answers = [] → 0 < s.noc.o1.held → fld h 63 32 = 0 →
        (∃ t, exec (.regrd h) s = .next t ∧ t.pin.i1crd = true ∧ t.noc.o1.held + 1 = s.noc.o1.held
          ∧ t.pin.o1 = some ⟨flitHdr 0 (hdrTxid h).toNat 6, put (accessRead .noc (fld h 31 16) s).1.toNat 0, 0⟩)
        ∧ ∃ u t, exec (.regwr h v) s = .next t ∧ u = { s with pin := { s.pin with i1crd := true } }
          ∧ t.pin.o1 = some ⟨flitHdr 0 (hdrTxid h).toNat 5, 0, 0⟩ ∧ t.regs = (accessWrite .noc (fld h 31 16) v u).regs
          ∧ t.tnk = (accessWrite .noc (fld h 31 16) v u).tnk ∧ t.ctl = (accessWrite .noc (fld h 31 16) v u).ctl)
    ∧ (∀ (wr : Bool) (off : BitVec 16) (v : Reg), s.tly.svcHeld = [] → ∃ t, exec (.serviceAccess wr off v) s = .next t
        ∧ t.pin.svcAck = !s.pin.svcAck
        ∧ (wr = false → t.pin.svcRdata = (accessRead .svc off.toNat s).1
            ∧ rget t 0xD030 = BitVec.ofNat 32 (min 0x7FFFFFFF ((rget s 0xD030).toNat + 1)))
        ∧ (wr = true → t.pin.svcRdata = s.pin.svcRdata ∧ (∀ k, k ≠ 0xD030 → rget t k = rget (accessWrite .svc off.toNat v s) k)
            ∧ rget t 0xD030 = BitVec.ofNat 32 (min 0x7FFFFFFF ((rget (accessWrite .svc off.toNat v s) 0xD030).toNat + 1))))
    ∧ (∀ (src : RegSrc) (off : Nat),
        (regExists off = false → (captured src s = none → (accessRead src off s).1 = 0) ∧ ∀ v, accessWrite src off v s = setCapture src none s)
        ∧ (regDead s off = true → (accessRead src off s).1 = 0
            ∧ Logged (setCapture src none s) (accessRead src off s).2 0x13 (regIsland off) (regIsland off) off 0)
        ∧ (regDead s off = false → captured src s = none → (accessRead src off s).1 = readReg s off)
        ∧ (∀ x, regDead s off = false → captured src s = some (off, x) → (accessRead src off s).1 = x)
        ∧ (∀ v : Reg, off ∈ counterOffs → regDead s off = false → regSwitchedOff s off = false →
            rget (accessWrite src off v s) off = v ∧ (∀ k, k ≠ off → rget (accessWrite src off v s) k = rget s k)
            ∧ accessWrite src off v s = { setCapture src none s with regs := (accessWrite src off v s).regs }))
    ∧ (∀ (src : RegSrc) (off : BitVec 16) (h : Nat), srcIdle src s = true → pairHigh off.toNat = some h → regDead s off.toNat = false →
        ∃ t, exec (.pairLowRead src off) s = .next t ∧ captured src t = some (h, readReg s h)
          ∧ (∀ x, x ≠ src → captured x t = captured x s) ∧ t = { s with ctl := { s.ctl with capture := t.ctl.capture } }))
  ∧ ∀ s : State, awake s = true → s.ctl.service = false → s.tly.cmdHeld = [] → s.tly.svcHeld = [] → s.noc.in1 = [] → 0 < s.noc.i1Out →
    running s islC = true →
    (∀ (off : BitVec 16) (v : Reg) (wr : Bool),
      exec (.registerReadCmd off) s = .next { s with tly := { s.tly with cmdHeld := [.regRead off] } }
      ∧ exec (.registerWrite off v) s = .next { s with tly := { s.tly with cmdHeld := [.regWrite off v] } }
      ∧ exec (.serviceAccess wr off v) s = .next { s with tly := { s.tly with svcHeld := [.inl (wr, off, v)] } })
    ∧ ∀ (h : Word) (v : Reg), ∃ f g,
      exec (.regrd h) s = .next { s with noc := { s.noc with i1Out := s.noc.i1Out - 1, in1 := [.inl f] } } ∧ hdrKind f.hdr = 0xD
      ∧ exec (.regwr h v) s = .next { s with noc := { s.noc with i1Out := s.noc.i1Out - 1, in1 := [.inl g] } } ∧ hdrKind g.hdr = 0xE

/-- R27, R29, R43, R45, R131: a `cmd_` transfer of kind 3 with nothing ahead is acknowledged and logged, and changes nothing else; a flit whose
kind its channel does not carry has its credit returned and is logged, and changes nothing else; one that comes without a credit is logged
and changes nothing else. A credit returned on a channel is held; one that its total does not allow is ignored and logged. Before the total
is fixed, each credit of the first run adds to it. A credit for which an answer waits sends it.
Model's choices: the end of the first run of credits (log 11), UNIT, WHERE and INFO of the entries (log 12). -/
def Obligations.UnusableInputsAndCredits : Prop :=
  ∀ s : State, awake s = true →
    (∀ d, running s islC = true → s.tly.cmdHeld = [] → ∃ u t, exec (.cmdKindReserved (.cmdKind3 d)) s = .next t
      ∧ u = { s with pin := { s.pin with cmdAck := !s.pin.cmdAck } } ∧ Logged u t 7 islC 0 0 3)
    ∧ (∀ h, running s islC = true → 0 < s.noc.i0Out → s.noc.in0 = [] → kindOn .c0 (hdrKind h) = false →
        ∃ u t, exec (.cmdKindReserved (.flit .c0 h)) s = .next t
          ∧ u = { s with pin := { s.pin with i0crd := true } } ∧ Logged u t 7 islC 0 (hdrTxid h).toNat (hdrKind h))
    ∧ (∀ h, running s islC = true → 0 < s.noc.i1Out → s.noc.in1 = [] → kindOn .c1 (hdrKind h) = false →
        ∃ u t, exec (.cmdKindReserved (.flit .c1 h)) s = .next t
          ∧ u = { s with pin := { s.pin with i1crd := true } } ∧ Logged u t 7 islC 1 (hdrTxid h).toNat (hdrKind h))
    ∧ (∀ h, running s islC = true → s.noc.i0Out = 0 → kindOn .c0 (hdrKind h) = false →
        ∃ t, exec (.cmdKindReserved (.flit .c0 h)) s = .next t ∧ Logged s t 7 islC 0 (hdrTxid h).toNat 0x11)
    ∧ (∀ txid p, running s islC = true → s.noc.i1Out = 0 → ∃ t, exec (.nocCmd txid p) s = .next t ∧ Logged s t 7 islC 1 txid.toNat 0x11)
    ∧ (running s islC = true →
        (s.noc.o0.fixed = false → exec (.creditReturn (.noc .c0)) s
          = .next { s with noc := { s.noc with o0 := { s.noc.o0 with held := s.noc.o0.held + 1, total := s.noc.o0.total + 1 } } })
        ∧ (s.noc.o0.fixed = true → 0 < s.noc.o0.fly → exec (.creditReturn (.noc .c0)) s
          = .next { s with noc := { s.noc with o0 := { s.noc.o0 with held := s.noc.o0.held + 1, fly := s.noc.o0.fly - 1 } } })
        ∧ (s.noc.o0.fixed = true → s.noc.o0.fly = 0 → ∃ t, exec (.creditReturn (.noc .c0)) s = .next t ∧ Logged s t 7 islC 0 0 0x10)
        ∧ (s.noc.in1 = [] → s.noc.answers = [] → s.noc.o1.fixed = false → exec (.creditReturn (.noc .c1)) s
          = .next { s with noc := { s.noc with o1 := { s.noc.o1 with held := s.noc.o1.held + 1, total := s.noc.o1.total + 1 } } })
        ∧ (s.noc.in1 = [] → s.noc.answers = [] → s.noc.o1.fixed = true → 0 < s.noc.o1.fly → exec (.creditReturn (.noc .c1)) s
          = .next { s with noc := { s.noc with o1 := { s.noc.o1 with held := s.noc.o1.held + 1, fly := s.noc.o1.fly - 1 } } })
        ∧ (s.noc.in1 = [] → s.noc.answers = [] → s.noc.o1.fixed = true → s.noc.o1.fly = 0 →
            ∃ t, exec (.creditReturn (.noc .c1)) s = .next t ∧ Logged s t 7 islC 1 0 0x10)
        ∧ (∀ f, s.noc.in1 = [] → s.noc.answers = [f] → s.noc.o1.fixed = true → s.noc.o1.held = 0 → 0 < s.noc.o1.fly →
            ∃ t, exec (.creditReturn (.noc .c1)) s = .next t ∧ t.pin.o1 = some f ∧ t.noc.answers = [] ∧ t.noc.o1 = s.noc.o1))
    ∧ (running s islA = true → ∀ n : ExtStn, let k := extNum n
        (s.ctl.arrRstN = false → ∃ t, exec (.creditReturn (.stnRead n)) s = .next t ∧ Logged s t 7 islA k 0 0x10)
        ∧ (s.ctl.arrRstN = true → s.ctl.winClosed = false → (stnOf s k).rHeld < 32 → ∃ t, exec (.creditReturn (.stnRead n)) s = .next t
          ∧ stnOf t k = { stnOf s k with rHeld := (stnOf s k).rHeld + 1 }
          ∧ (∀ j, j ≠ k → stnOf t j = stnOf s j) ∧ t = { s with crt := { s.crt with stns := t.crt.stns } })
        ∧ (s.ctl.arrRstN = true → s.ctl.winClosed = false → 32 ≤ (stnOf s k).rHeld →
            ∃ t, exec (.creditReturn (.stnRead n)) s = .next t ∧ Logged s t 7 islA k 0 0x10)
        ∧ (s.ctl.arrRstN = true → s.ctl.winClosed = false → (stnOf s k).oHeld < 4 → ∃ t, exec (.creditReturn (.stnOp n)) s = .next t
          ∧ stnOf t k = { stnOf s k with oHeld := (stnOf s k).oHeld + 1 }
          ∧ (∀ j, j ≠ k → stnOf t j = stnOf s j) ∧ t = { s with crt := { s.crt with stns := t.crt.stns } })
        ∧ (s.ctl.arrRstN = true → s.ctl.winClosed = false → 4 ≤ (stnOf s k).oHeld →
            ∃ t, exec (.creditReturn (.stnOp n)) s = .next t ∧ Logged s t 7 islA k 0 0x10)
        ∧ (s.ctl.arrRstN = true → s.ctl.winClosed = true → 0 < (stnOf s k).rFly → ∃ t, exec (.creditReturn (.stnRead n)) s = .next t
          ∧ stnOf t k = { stnOf s k with rHeld := (stnOf s k).rHeld + 1, rFly := (stnOf s k).rFly - 1 }
          ∧ (∀ j, j ≠ k → stnOf t j = stnOf s j) ∧ t = { s with crt := { s.crt with stns := t.crt.stns } })
        ∧ (s.ctl.arrRstN = true → s.ctl.winClosed = true → (stnOf s k).rFly = 0 →
            ∃ t, exec (.creditReturn (.stnRead n)) s = .next t ∧ Logged s t 7 islA k 0 0x10)
        ∧ (s.ctl.arrRstN = true → s.ctl.winClosed = true → 0 < (stnOf s k).oFly → ∃ t, exec (.creditReturn (.stnOp n)) s = .next t
          ∧ stnOf t k = { stnOf s k with oHeld := (stnOf s k).oHeld + 1, oFly := (stnOf s k).oFly - 1 }
          ∧ (∀ j, j ≠ k → stnOf t j = stnOf s j) ∧ t = { s with crt := { s.crt with stns := t.crt.stns } })
        ∧ (s.ctl.arrRstN = true → s.ctl.winClosed = true → (stnOf s k).oFly = 0 →
            ∃ t, exec (.creditReturn (.stnOp n)) s = .next t ∧ Logged s t 7 islA k 0 0x10))

/-! ### The network endpoint -/

/-- R47, R251: an INGWR that meets both requirements becomes an access of master 10 to each of its 64-byte words that has a byte enabled, with
its data and byte enables, and waits; with no byte enabled it is answered INGACK OK at once. One that breaks a requirement writes nothing,
is logged and is answered ERROR. (What the Hayloft's ports make of the accesses is in `HayloftAccessesServed`.)
Model's choices: UNIT, WHERE and INFO of the entry (log 12). -/
def Obligations.IngressWrites : Prop :=
  ∀ (s : State) (h : Word) (d : Line) (be : BitVec 128), awake s = true → running s islC = true → running s islH = true → 0 < s.noc.i1Out →
    s.noc.in1 = [] → s.noc.answers = [] → 0 < s.noc.o1.held →
    (fld h 63 38 = 0 → fld h 22 16 = 0 → be ≠ 0 → let a := hdrAddr h
        let accs := (if be.extractLsb' 0 64 = 0 then []
            else [hayWr 10 a (be.extractLsb' 0 64) (d.extractLsb' 0 512) (.ingress s.hay.ingId)])
          ++ (if be.extractLsb' 64 64 = 0 then []
            else [hayWr 10 (a + 64) (be.extractLsb' 64 64) (d.extractLsb' 512 512) (.ingress s.hay.ingId)])
        ∃ t, exec (.ingwr h d be) s = .next t ∧ t.hay.waiting = s.hay.waiting ++ accs
          ∧ t.hay.ingress = s.hay.ingress ++ [⟨s.hay.ingId, hdrTxid h, accs.length, false⟩] ∧ t.hay.ingId = s.hay.ingId + 1
          ∧ t.hay.mem = s.hay.mem ∧ t.hay.chk = s.hay.chk ∧ t.noc = s.noc ∧ t.pin = { s.pin with i1crd := true } ∧ t.tly = s.tly ∧ t.shf = s.shf)
    ∧ (fld h 63 38 = 0 → fld h 22 16 = 0 → be = 0 → ∃ t, exec (.ingwr h d be) s = .next t
        ∧ t.pin.o1 = some ⟨flitHdr 0 (hdrTxid h).toNat 5, 0, 0⟩ ∧ t = { s with noc := t.noc, pin := t.pin })
    ∧ (fld h 63 38 ≠ 0 ∨ fld h 22 16 ≠ 0 → ∃ u v t, exec (.ingwr h d be) s = .next t ∧ u = { s with pin := { s.pin with i1crd := true } }
        ∧ Logged u v 7 islC 1 (hdrTxid h).toNat 0xB ∧ t = { v with noc := t.noc, pin := t.pin }
        ∧ t.pin.o1 = some ⟨flitHdr 2 (hdrTxid h).toNat 5, 0, 0⟩)

/-- R45, R46, R237, R240, R273, R300: a response, with nothing ahead of it, frees its TXID and no other, and returns its channel's credit. The
data of a read join the units of the command that asked, or the ring line; an ERROR stops the command before that step. A write acknowledged
OK takes one from the writes its command waits for; an ERROR is logged with its address and noted, and the command's writes for that step
and later ones are not sent. An RACC acknowledged OK with every element added counts them acknowledged; RETRY with none added takes them back
and waits to be sent again; any other listed answer counts them failed and is logged. An answer that R45 does not list, and a response that
matches no outstanding request, is logged and changes nothing else.
Model's choices: WHERE and INFO of the entry (log 12). -/
def Obligations.ResponsesTaken : Prop :=
  ∀ (s : State) (txid : Txid) (o : TxOwner), awake s = true → running s islC = true → running s islH = true → 0 < s.noc.i0Out → 0 < s.noc.i1Out →
    s.noc.in0 = [] → s.noc.in1 = [] → tget none s.noc.tx txid.toNat = some o →
    (∀ d, o.ch = .c0 → o.use.isRead = true → ∃ t, exec (.rdrsp .c0 txid 0 d) s = .next t ∧ tget none t.noc.tx txid.toNat = none
      ∧ (∀ i, i ≠ txid.toNat → tget none t.noc.tx i = tget none s.noc.tx i) ∧ t.pin.i0crd = true ∧ t.shf = s.shf ∧ t.hay.mem = s.hay.mem
      ∧ (∀ tag row u, o.use = .unitFor tag row u →
          (tagOf t tag).job.units = (tagOf s tag).job.units ++ [⟨row, u, BitVec.ofNat 1024 (d.toNat / 2 ^ (8 * (u % 128))), 0⟩]
          ∧ (tagOf t tag).job.want = (tagOf s tag).job.want.erase (row, u) ∧ ∀ x, x ≠ tag → tagOf t x = tagOf s x)
      ∧ (∀ ring seq, o.use = .ring ring seq → ∀ l ∈ s.rng.lines, l.seq = seq → l.ring = ring →
          { l with data := some d } ∈ t.rng.lines))
    ∧ (∀ d tag row u, o.ch = .c0 → o.use = .unitFor tag row u → ∃ t, exec (.rdrsp .c0 txid 2 d) s = .next t
      ∧ tget none t.noc.tx txid.toNat = none ∧ (tagOf t tag).job.lim = limMin (tagOf s tag).job.lim row .rdErr
      ∧ (tagOf t tag).job.units = (tagOf s tag).job.units)
    ∧ (∀ tag row, o.ch = .c0 → o.use = .store tag row → (tagOf s tag).job.wErr = none →
      ∃ t, exec (.wrack .c0 txid 0) s = .next t ∧ tget none t.noc.tx txid.toNat = none
      ∧ (tagOf t tag).job.wrOut = (tagOf s tag).job.wrOut - 1 ∧ (tagOf t tag).job.wErr = none ∧ t.tnk = s.tnk
      ∧ t.pin.i0crd = true ∧ ∀ x, x ≠ tag → tagOf t x = tagOf s x)
    ∧ (∀ tag row, o.ch = .c0 → o.use = .store tag row →
      let k := match (tagOf s tag).job.wErr with | some k => min k row | none => row
      let late := fun (r : OutReq) => match r.use with | .store x n => x == tag && decide (k ≤ n) | _ => false
      ∃ t, exec (.wrack .c0 txid 2) s = .next t ∧ tget none t.noc.tx txid.toNat = none
      ∧ (tagOf t tag).job.wrOut = (tagOf s tag).job.wrOut - 1 - (s.noc.outQ.filter late).length
      ∧ t.noc.outQ = s.noc.outQ.filter (fun r => !late r) ∧ (tagOf t tag).job.wErr = some k
      ∧ (s.tnk.log.length < 64 → t.tnk.log = s.tnk.log ++ [⟨stamp s islC, islC, 0x14, 0, o.addr % 2 ^ 32, 2⟩]))
    ∧ (∀ b p n, o.use = .racc b p n → n < 2 ^ 16 →
        (∃ t, exec (.raccack txid 0 (BitVec.ofNat 16 n)) s = .next t ∧ tget none t.noc.tx txid.toNat = none
          ∧ bucketOf t b = { bucketOf s b with cAcked := (bucketOf s b).cAcked + n, cOut := (bucketOf s b).cOut - n, raccs := (bucketOf s b).raccs - 1 }
          ∧ ∀ k, k ≠ b → bucketOf t k = bucketOf s k)
        ∧ (∃ t, exec (.raccack txid 1 0) s = .next t ∧ tget none t.noc.tx txid.toNat = none ∧ bucketOf t b
            = { bucketOf s b with
                cSent := (bucketOf s b).cSent - n
                cOut := (bucketOf s b).cOut - n
                raccs := (bucketOf s b).raccs - 1
                retried := (bucketOf s b).retried ++ [p] })
        ∧ (∀ (st : Byte) (added : BitVec 16), st.toNat < 4 → ¬ (st = 0 ∧ added.toNat = n) → ¬ (st = 1 ∧ added = 0) →
            ∃ t, exec (.raccack txid st added) s = .next t ∧ tget none t.noc.tx txid.toNat = none
              ∧ bucketOf t b
                = { bucketOf s b with cFailed := (bucketOf s b).cFailed + n, cOut := (bucketOf s b).cOut - n, raccs := (bucketOf s b).raccs - 1 }
              ∧ rget t 0xB048 = BitVec.ofNat 32 (min 0xFFFFFFFF ((rget s 0xB048).toNat + 1))
              ∧ (s.tnk.log.length < 64 → t.tnk.log = s.tnk.log ++ [⟨stamp s islC, islC, 7, 1, txid.toNat, st.toNat⟩]))
        ∧ (∀ (st : Byte) (added : BitVec 16), 4 ≤ st.toNat → ∃ u t, exec (.raccack txid st added) s = .next t
            ∧ u = { s with pin := { s.pin with i1crd := true } } ∧ Logged u t 7 islC 1 txid.toNat st.toNat))
    ∧ (∀ (x : Txid) d st, tget none s.noc.tx x.toNat = none → ∃ u t, exec (.rdrsp .c0 x st d) s = .next t
        ∧ u = { s with pin := { s.pin with i0crd := true } } ∧ Logged u t 7 islC 0 x.toNat 8)

/-- R43, R46, R202: the first RD or WR that waits and that the limits of R202 allow goes out on channel 0 for a credit of it, unless channel 1
has its turn and can send; on channel 1 the RD, the WR and the RACC that wait share in rotating order, an answer before any of them, and the
first of the kind whose turn it is goes out for a credit. Each takes a TXID that no outstanding request uses; the others keep their order,
and the next turn is the other channel's, and on channel 1 the next kind's.
R272-R274, R278: the codes of the next packet of the one draining bucket, its page translated, are read as master 8; once they are here it
goes out as an RACC on channel 1 in its turn while a credit, a TXID and room under THR_RACCMAX are there, and no answer waits, with the
codes, the mask and the step; SENT and OUT both gain the elements that its mask marks present. A packet answered RETRY becomes due again,
behind those due before it.
Model's choices: the TXID is free (log 1). -/
def Obligations.FlitsSent : Prop :=
  (∀ (s : State) (c : Chan) (pre post : List OutReq) (r : OutReq), s.ctl.unplug < 2 → running s islC = true → s.noc.outQ = pre ++ r :: post →
    0 < (chanOf s c).held → reqAllowed s r = true →
    (match c with
      | .c0 => (∀ x ∈ pre, reqAllowed s x = false)
          ∧ (s.noc.turn = false ∨ s.noc.o1.held = 0 ∨ s.noc.answers ≠ [] ∨ shareTurn s (raccGo s) = some 0)
      | .c1 => s.noc.answers = [] ∧ shareTurn s (raccGo s) = some r.kind ∧ (∀ x ∈ pre, reqAllowed s x = false ∨ x.kind ≠ r.kind)
          ∧ (s.noc.turn = true ∨ s.noc.o0.held = 0)) →
    (∃ i, i < 4096 ∧ tget none s.noc.tx i = none) →
    ∃ t i, exec .outboundFlitSend s = .next t ∧ i < 4096 ∧ tget none s.noc.tx i = none ∧ tget none t.noc.tx i = some ⟨c, r.use, r.addr⟩
      ∧ (∀ j, j ≠ i → tget none t.noc.tx j = tget none s.noc.tx j) ∧ t.noc.outQ = pre ++ post ∧ t.noc.turn = decide (c = .c0)
      ∧ t.noc.share = (if c = .c1 then (r.kind + 1) % 3 else s.noc.share)
      ∧ chanOf t c = { chanOf s c with held := (chanOf s c).held - 1, fly := (chanOf s c).fly + 1 }
      ∧ (∀ d, d ≠ c → chanOf t d = chanOf s d) ∧ (match c with | .c0 => t.pin.o0 | .c1 => t.pin.o1)
        = some ⟨flitHdr r.addr i (if r.write then 2 else 1), if r.write then r.data else 0, if r.write then r.be else 0⟩
      ∧ t.tly = s.tly ∧ t.shf = s.shf ∧ t.hay = s.hay ∧ t.tnk = s.tnk)
  ∧ (∀ (s : State) (b p : Nat) (resend : Bool) (g : BkPage) (pa : Nat), s.ctl.unplug = 0 → running s islH = true → running s islC = true →
    b < 8 → (∀ k, k < 8 → k ≠ b → (bucketOf s k).st ≠ .draining) → (bucketOf s b).st = .draining → (bucketOf s b).stopped = false →
    (bucketOf s b).nextPkt = some (p, resend) → (bucketOf s b).page ((bucketOf s b).va p) = some g → g.res = some pa →
    let a := pa + ((bucketOf s b).va p - g.va)
    let n := (bucketOf s b).elemsOf p
    (codesFor s b p = none → (∀ x ∈ s.hay.waiting, x.use ≠ .racc b p) → ∃ t, exec .raccSend s = .next t
      ∧ t.hay.waiting = s.hay.waiting ++ [hayRd 8 ((bucketOf s b).lo + 64 * p) (-1) (.racc b p)] ∧ t.thr.slots = s.thr.slots
      ∧ t.noc = s.noc ∧ t.hay.mem = s.hay.mem ∧ t.shf = s.shf)
    ∧ (∀ f, codesFor s b p = some f → (∃ i, i < 4096 ∧ tget none s.noc.tx i = none) → raccOut s < fld (rget s 0xB000) 9 0 →
      0 < s.noc.o1.held → s.noc.answers = [] → shareTurn s true = some 0 →
      ∃ t i, exec .raccSend s = .next t ∧ i < 4096 ∧ tget none s.noc.tx i = none ∧ tget none t.noc.tx i = some ⟨.c1, .racc b p n, a⟩
      ∧ (bucketOf t b).cSent = (bucketOf s b).cSent + n ∧ (bucketOf t b).cOut = (bucketOf s b).cOut + n
      ∧ (bucketOf t b).raccs = (bucketOf s b).raccs + 1 ∧ (bucketOf t b).cAcked = (bucketOf s b).cAcked
      ∧ (bucketOf t b).cFailed = (bucketOf s b).cFailed ∧ (bucketOf t b).cPlaced = (bucketOf s b).cPlaced
      ∧ (∀ k, k ≠ b → bucketOf t k = bucketOf s k)
      ∧ t.pin.o1 = some ⟨flitHdr (a - a % 256) i 3,
          BitVec.ofNat 1024 (f.codes.toNat + (bucketOf s b).mask p * 2 ^ 512 + (bucketOf s b).step * 2 ^ 528), 0⟩
      ∧ t.noc.o1.held + 1 = s.noc.o1.held ∧ t.noc.share = 1 ∧ t.hay = s.hay ∧ t.shf = s.shf))
  ∧ ∀ (s : State) (k : BitVec 3) (q : Nat) (r : List Nat), running s islH = true → (bucketOf s k.toNat).retried = q :: r →
      ∃ t, exec (.raccResendDue k) s = .next t
        ∧ bucketOf t k.toNat = { bucketOf s k.toNat with retried := r, due := (bucketOf s k.toNat).due ++ [q] }
        ∧ (∀ j, j ≠ k.toNat → bucketOf t j = bucketOf s j) ∧ t = { s with thr := { s.thr with slots := t.thr.slots } }

/-! ### Station channels -/

/-- R35-R37, R93, R117, R134, R135: a result beat of good words, for a command at the station and in its place, takes a write credit and enters
the write buffer with the tile, beat index and mask that R117 gives that place, its bits unchanged but that a scale tile's bytes beyond its
last scale are zero; a done pulse is noted with its status; an error pulse notes the word the fabric sent as uncorrectable. A pulse or beat
for a tag the station has no command for is logged.
Model's choices: INFO of the entries (log 12), every word tested (log 16). -/
def Obligations.StationSignalsTaken : Prop :=
  ∀ (s : State) (n : ExtStn) (tag : Tag), awake s = true → running s islA = true →
    (∀ x p wd wchk wlast, 0 < (stnOf s (extNum n)).wHeld → atStation s (extNum n) tag = some x → (tagOf s tag).job.wLast = false →
        (opWrites s tag x)[(tagOf s tag).job.wIdx]? = some p →
        (∀ w, w < 32 → (eccTest (wordAt wd w) (byteAt wchk w)).2 = .good) →
        ∃ t b, exec (.stationWriteBeat n wd wchk tag wlast) s = .next t ∧ b = cutBeat s ⟨tag, p.1, p.2.1, p.2.2, wd, wchk⟩
          ∧ (scaleUse s p.1 = none → b = ⟨tag, p.1, p.2.1, p.2.2, wd, wchk⟩)
          ∧ stnOf t (extNum n) = { stnOf s (extNum n) with
              wrQ := (stnOf s (extNum n)).wrQ ++ [b], wHeld := (stnOf s (extNum n)).wHeld - 1 }
          ∧ (tagOf t tag).job = { (tagOf s tag).job with
              wIdx := (tagOf s tag).job.wIdx + 1
              wrOut := (tagOf s tag).job.wrOut + 1
              wLast := wlast
              wBad := (tagOf s tag).job.wBad || (wlast && decide ((tagOf s tag).job.wIdx + 1 ≠ (opWrites s tag x).length)) }
          ∧ (tagOf t tag).ecc = (tagOf s tag).ecc ∧ (tagOf t tag).bits = (tagOf s tag).bits ∧ t.shf = s.shf ∧ t.tnk = s.tnk
          ∧ ∀ y, y ≠ tag → tagOf t y = tagOf s y)
    ∧ (∀ wd wchk wlast, 0 < (stnOf s (extNum n)).wHeld → atStation s (extNum n) tag = none →
        ∃ u t, exec (.stationWriteBeat n wd wchk tag wlast) s = .next t ∧ Logged s u 7 islA (extNum n) tag.toNat 0x22
          ∧ (tget StnPins.zero t.pin.stn (extNum n)).wcrd = true ∧ t = { u with pin := { u.pin with stn := t.pin.stn } })
    ∧ (∀ dsts, (atStation s (extNum n) tag).isSome = true → (tagOf s tag).job.dn = none → bit dsts 7 = true ∨ fld dsts 6 3 = 0 →
        ∃ t, exec (.stationDone n tag dsts) s = .next t
          ∧ tagOf t tag = { tagOf s tag with job := { (tagOf s tag).job with dn := some dsts }, bits := (tagOf s tag).bits ||| dstsBits dsts }
          ∧ (∀ y, y ≠ tag → tagOf t y = tagOf s y) ∧ t = { s with tly := { s.tly with tags := t.tly.tags } })
    ∧ (∀ dsts, atStation s (extNum n) tag = none → ∃ t, exec (.stationDone n tag dsts) s = .next t ∧ Logged s t 7 islA (extNum n) tag.toNat 0x23)
    ∧ (∀ d, (atStation s (extNum n) tag).isSome = true → (tagOf s tag).ecc = none → (tagOf s tag).job.bad = some d →
        ∃ t, exec (.stationErr n tag) s = .next t ∧ tagOf t tag = { tagOf s tag with ecc := some d }
          ∧ (∀ y, y ≠ tag → tagOf t y = tagOf s y) ∧ t = { s with tly := { s.tly with tags := t.tly.tags } })
    ∧ (atStation s (extNum n) tag = none → ∃ t, exec (.stationErr n tag) s = .next t ∧ Logged s t 7 islA (extNum n) tag.toNat 0x24)

/-! ### Array lanes -/

/-- R146, R147, R153, R168: with no hold, a row of the first pass whose operands have arrived, while Q is below 40 and, for the pass's first row,
a record can be placed, is launched: Q and the rows launched count it, the pass goes on or leaves the sequence, its record is placed or
counts it, and its 32 slices and two scale slices join the delay lines; while the operands are missing it counts TIL_FEEDWAIT and launches
nothing. Each lane is driven in the a-cycle in which its slice is due, and on no other.
R149, R151, R159, R170: the next beat of the front at the head of the sequence, once its tag is assigned and its data are there, joins the
delay lines and counts; the last one makes the front the one in use, and a TWF's front the resident one, with the TWF's landing.
Model's choices: one command is one a-cycle (log 2). -/
def Obligations.ArrayLanesDriven : Prop :=
  (∀ (s : State) (p : Pass) (rest : List Pass), running s islA = true → s.arr.passes = p :: rest → p.isTwf = false → p.lf ≤ p.beats →
    s.arr.hold = 0 →
    (∀ d sc, passRow s p = some (d, sc) → s.arr.q < 40 → (p.launched ≠ 0 ∨ s.arr.records.length < 16) →
      let new := rowSlices s (passLane s p) d sc
      ∃ t, exec .rowLaunch s = .next t ∧ t.arr.q = s.arr.q + 1
      ∧ t.arr.passes = (if p.launched + 1 = p.count then rest else { p with launched := p.launched + 1 } :: rest)
      ∧ (p.launched = 0 → t.arr.records = s.arr.records ++ [recordOf p])
      ∧ (p.launched ≠ 0 → t.arr.records = s.arr.records.map fun r => if r.uid = p.uid then { r with launched := r.launched + 1 } else r)
      ∧ t.arr.afPipe = ((s.arr.afPipe ++ new).filter fun x => decide (x.1 ≠ 0)).map (fun x => (x.1 - 1, x.2))
      ∧ (∀ q, q < 34 → (bit t.pin.afv q = true ↔ ∃ x ∈ s.arr.afPipe ++ new, x.1 = 0 ∧ x.2.1 = q))
      ∧ rget t 0x3050 = BitVec.ofNat 32 (min 0xFFFFFFFF ((rget s 0x3050).toNat + 1)) ∧ (∀ k, k ≠ 0x3050 → rget t k = rget s k)
      ∧ t = { s with arr := { s.arr with q := t.arr.q, passes := t.arr.passes, records := t.arr.records, afPipe := t.arr.afPipe },
                     regs := t.regs, pin := { s.pin with afv := t.pin.afv, afd := t.pin.afd } })
    ∧ (passRow s p = none → ∃ t, exec .rowLaunch s = .next t ∧ t.arr.q = s.arr.q ∧ t.arr.passes = s.arr.passes ∧ t.arr.records = s.arr.records
      ∧ t.arr.afPipe = (s.arr.afPipe.filter fun x => decide (x.1 ≠ 0)).map (fun x => (x.1 - 1, x.2))
      ∧ (∀ q, q < 34 → (bit t.pin.afv q = true ↔ ∃ x ∈ s.arr.afPipe, x.1 = 0 ∧ x.2.1 = q))
      ∧ rget t 0x3040 = BitVec.ofNat 32 (min 0xFFFFFFFF ((rget s 0x3040).toNat + 1)) ∧ (∀ k, k ≠ 0x3040 → rget t k = rget s k)))
  ∧ ∀ (s : State) (p : Pass) (rest : List Pass) (tg : BitVec 4) (lanes : List Nat), running s islA = true → s.arr.passes = p :: rest →
    p.drives = true → p.beats < p.lf → p.ptag = some tg → frontLanes s p p.beats = some lanes →
    let new := lanes.zipIdx.map fun x => (wfTrim s (physCol s x.2), physCol s x.2, BitVec.ofNat 32 x.1, tg)
    ∃ t, exec .frontBeat s = .next t
      ∧ t.arr.wfPipe = ((s.arr.wfPipe ++ new).filter fun x => decide (x.1 ≠ 0)).map (fun x => (x.1 - 1, x.2))
      ∧ (∀ q, q < 33 → (bit t.pin.wfv q = true ↔ ∃ x ∈ s.arr.wfPipe ++ new, x.1 = 0 ∧ x.2.1 = q))
      ∧ (p.beats + 1 < p.lf → t.arr.passes = { p with beats := p.beats + 1 } :: rest ∧ t.arr.frontTag = s.arr.frontTag
          ∧ t.arr.resident = s.arr.resident ∧ t.tly = s.tly ∧ t.regs = s.regs)
      ∧ (p.beats + 1 = p.lf → t.arr.frontTag = some tg ∧ (p.isTwf = false → t.arr.resident = none ∧ t.arr.passes = { p with beats := p.lf } :: rest)
          ∧ (p.isTwf = true → t.arr.passes = rest ∧ (tagOf t p.tag).job.landed = (tagOf s p.tag).job.landed + 1
              ∧ t.arr.resident = some ⟨p.flabel, tg, (jobTile s p.tag p.wtile).ty, p.ncols⟩))
      ∧ t.arr.records = s.arr.records ∧ t.arr.q = s.arr.q ∧ t.shf = s.shf ∧ t.hay = s.hay

/-- R20, R154, R155, R165, R166: values on the drain lanes that match their records join the FIFOs of their logical lanes; one that does not is
a drain fault. A drain fault, or the watchdog while Q is above 0, is logged, discards the deskew buffer, retires every record, ends every
command that had one, clears the resident front and holds the feed for GLN_WDOG.CYCLES. A complete row of the oldest record, with its group
ON and an entry of its crossing free, goes onto the drain bus for the segment at row AROW + m and column block ACOL of its tile.
Model's choices: INFO of the entry (log 12), rows on the drain bus are dropped (log 27). -/
def Obligations.DrainLanesCollect : Prop :=
  ∀ s : State, running s islA = true →
    let faulted := fun (t : State) (info : Nat) => t.arr.fifos = [] ∧ t.arr.q = 0 ∧ t.arr.records = [] ∧ t.arr.resident = none
      ∧ t.arr.hold = fld (rget s 0x400C) 15 0
      ∧ (∀ r ∈ s.arr.records, r.test = none → (tagOf s r.tag).st ≠ .free → (tagOf t r.tag).st = .replying)
      ∧ (s.tnk.log.length < 64 → t.tnk.log = s.tnk.log ++ [⟨stamp s islA, islA, 9, 2, 0, info⟩])
      ∧ t.shf = s.shf ∧ t.hay.mem = s.hay.mem
    (∀ adv add adpt, s.arr.hold = 0 → (∀ j, j < 32 → bit adv (physCol s j) = true → ∃ r,
          recordAt s.arr.records (tget [] s.arr.fifos j).length = some r ∧ r.ptag = adpt.extractLsb' (4 * physCol s j) 4) →
        ∃ t, exec (.drainBeat adv add adpt) s = .next t ∧ t = { s with arr := { s.arr with fifos := t.arr.fifos } }
          ∧ ∀ j, j < 32 → tget [] t.arr.fifos j
            = if bit adv (physCol s j) = true then tget [] s.arr.fifos j ++ [add.extractLsb' (32 * physCol s j) 32] else tget [] s.arr.fifos j)
    ∧ (∀ adv add adpt, s.arr.hold = 0 → bit adv (physCol s 0) = true → recordAt s.arr.records (tget [] s.arr.fifos 0).length = none →
        ∃ t, exec (.drainBeat adv add adpt) s = .next t ∧ faulted t 0)
    ∧ (0 < s.arr.q → fld (rget s 0x400C) 15 0 ≠ 0 → ∃ t, exec .drainWatchdogExpire s = .next t ∧ faulted t 1)
    ∧ (∀ r, s.arr.records.find? (fun r => decide (r.released < r.launched)) = some r → r.test = none →
        (∀ j, j < 32 → tget [] s.arr.fifos j ≠ []) → (groupOf s (tileOf s r.tile).group).ready = true →
        (s.arr.drainQ.filter fun d => d.lbank / 8 == (tileOf s r.tile).group).length < 8 →
        let seg := ((r.arow + r.first + r.released) * (tileOf s r.tile).rowBytes + 128 * r.acol) / 128
        ∃ t d, exec .drainRowRelease s = .next t ∧ t.arr.drainQ = s.arr.drainQ ++ [d] ∧ d.uid = r.uid ∧ d.tag = r.tag ∧ d.tile = r.tile
          ∧ d.seg = seg ∧ d.lbank = segBank r.tile (tileOf s r.tile) seg ∧ d.entry = segEntry (tileOf s r.tile) seg ∧ d.ncols = r.ncols
          ∧ (∀ j, j < 32 → d.vals.extractLsb' (32 * j) 32 = (tget [] s.arr.fifos j).headD 0 ∧ tget [] t.arr.fifos j = (tget [] s.arr.fifos j).tail)
          ∧ t.arr.q = s.arr.q - 1
          ∧ t.arr.records = s.arr.records.map (fun x => if x.uid = r.uid then { x with released := x.released + 1 } else x)
          ∧ rget t 0x4010 = BitVec.ofNat 32 (min 0xFFFFFFFF ((rget s 0x4010).toNat + 1)) ∧ t.shf = s.shf ∧ t.tly = s.tly)

/-! ### Ports, banks and the Hayloft -/

/-- R116, R118, R121, R123, R126: a pending shadow is copied into its working wheel at slot 0 and only there, and its bit clears. In one a-cycle of
the ports the slot moves on by one; the owner of an OWNED slot of read port 0 whose first read beat may be granted has that beat granted: it
is on its way, its credit is spent, and two requests, one for each half, are at the banks and entry of its segments; and no byte of storage
and no tile changes.
Model's choices: one command is one a-cycle (log 2). -/
def Obligations.PortsGrant : Prop :=
  ∀ s : State, running s islA = true →
    (s.crt.slot ≠ 0 → exec .wheelCommit s = .next s)
    ∧ (s.crt.slot = 0 → ∃ t, exec .wheelCommit s = .next t
        ∧ (∀ i q, i < 6 → q < 4 → tget 0 t.crt.wheels (4 * i + q)
            = if bit (rget s 0x2060) i = true then rget s (0x2000 + 0x10 * i + 4 * q) else tget 0 s.crt.wheels (4 * i + q))
        ∧ rget t 0x2060 = 0 ∧ (∀ k, k ≠ 0x2060 → rget t k = rget s k)
        ∧ t = { s with crt := { s.crt with wheels := t.crt.wheels }, regs := t.regs })
    ∧ (∃ t, exec .portSlotGrant s = .next t ∧ t.crt.slot = (s.crt.slot + 1) % 16 ∧ t.crt.age = s.crt.age + 1 ∧ t.shf.mem = s.shf.mem
        ∧ t.shf.chk = s.shf.chk ∧ t.shf.tiles = s.shf.tiles ∧ t.hay = s.hay ∧ t.arr = s.arr ∧ t.noc = s.noc)
    ∧ (∀ (n g : Nat) (d : RdDemand) (r : List RdDemand), rget s 0x2060 = 0 → s.crt.latches = [] → (∀ k, k < 16 → (stnOf s k).fly = []) →
        slotByte s 0 s.crt.slot = 64 + n → n < 16 → (stnOf s n).rdQ = d :: r → nextBeat s false n = some g → portOut s 0 g < 4 →
        ∃ t, exec .portSlotGrant s = .next t ∧ (stnOf t n).rdQ = r ∧ (stnOf t n).rHeld + 1 = (stnOf s n).rHeld
          ∧ (stnOf t n).fly = [⟨d, latchOn s d.tag, 0xF, 0, 0⟩]
          ∧ ∀ h : Bool, (⟨0, false, s.crt.age, segBank d.tile (tileOf s d.tile) (2 * d.j + b2n h), segEntry (tileOf s d.tile) (2 * d.j + b2n h),
              .read n d h⟩ : PortReq) ∈ t.crt.reqs)

/-- R24, R88, R117, R128, R153, R176, R184, R362, R375, R376: in one b-cycle of a bank whose group is ON, with no copy: a port's write that is
served stores the words of its mask with the check bits they carry at its entry and changes no other byte; a drained row that is served adds
its elements into the words of its entry that hold one of its columns, with good check bits, and changes no other byte; a command's request
that waits there alone is served, whatever place the grant gives the Miller; a raw write of the Tinker stores exactly the words and check bits of its image, a raw read takes them as
they are stored, and a scrub corrects the words of its entry that test as correctable and counts them; a cycle that serves neither a port's
write, nor a drained row, nor the Tinker changes no byte.
Model's choices: one command is one b-cycle (log 2). -/
def Obligations.BankCycleServes : Prop :=
  ∀ (s : State) (b : Nat) (mr mw : Bool), b < 72 → (groupOf s (b / 9)).ready = true → running s (1 + b / 9) = true → s.tnk.copying = none →
    let noPort := fun wr : Bool => s.crt.reqs.filter (portAt s b wr) = []
    let noMil := ∀ q ∈ s.mil.reqs, physOf s 0 q.lbank ≠ b
    (∀ r w half, s.mil.tinker = [] → noMil → drainAt s b = none → noPort false → pickReq (beginBank b s) (b / 9) (portAt s b true) = some r →
        r.act = .write w half → ∃ t, exec (.bankCycleGrant b mr mw) s = .next t ∧ r ∉ t.crt.reqs
          ∧ (∀ i, i < 16 → shfRaw t b r.entry i = if bit w.mask (16 * b2n half + i) = true
              then (wordAt w.data (16 * b2n half + i), byteAt w.chk (16 * b2n half + i)) else shfRaw s b r.entry i)
          ∧ (∀ a, a < shfAddr b r.entry 0 ∨ shfAddr b r.entry 128 ≤ a → Memory.read t.shf.mem a = Memory.read s.shf.mem a)
          ∧ t.hay = s.hay ∧ ∀ k, k ≠ w.tile → tileOf t k = tileOf s k)
    ∧ (∀ i row, s.mil.tinker = [] → drainAt s b = some i → s.arr.drainQ[i]? = some row →
        (∀ r ∈ s.crt.reqs, portAt s b false r = true → r.reserved = false) →
        ∃ t, exec (.bankCycleGrant b mr mw) s = .next t ∧ t.arr.drainQ = dropAt i s.arr.drainQ
          ∧ (∀ w, w < 16 → let x := (eccTest (shfRaw s b row.entry w).1 (shfRaw s b row.entry w).2).1
              let v : Word := BitVec.ofNat 64 ((accElem row x w 0).1.toNat + 2 ^ 32 * (accElem row x w 1).1.toNat)
              shfRaw t b row.entry w = if 2 * w < row.ncols then (v, checkByte v) else shfRaw s b row.entry w)
          ∧ (∀ a, a < shfAddr b row.entry 0 ∨ shfAddr b row.entry 128 ≤ a → Memory.read t.shf.mem a = Memory.read s.shf.mem a) ∧ t.hay = s.hay)
    ∧ (∀ q, s.mil.tinker = [] → s.mil.reqs = [q] → physOf s 0 q.lbank = b → drainAt s b = none → noPort false → noPort true →
        ∃ t, exec (.bankCycleGrant b mr mw) s = .next t ∧ t.mil.reqs = [] ∧ t.shf = s.shf ∧ t.hay = s.hay ∧ t.tly = s.tly)
    ∧ (∀ q, s.mil.tinker = [q] → q.bank = b → noMil → drainAt s b = none → noPort false → noPort true →
        (∀ tag, q.use = .raw tag → q.write = true → ∃ t, exec (.bankCycleGrant b mr mw) s = .next t ∧ t.mil.tinker = []
          ∧ (∀ w, w < 16 → shfRaw t b q.entry w = imageWord 16 w (tagOf s tag).job.raw)
          ∧ (∀ a, a < shfAddr b q.entry 0 ∨ shfAddr b q.entry 128 ≤ a → Memory.read t.shf.mem a = Memory.read s.shf.mem a)
          ∧ (tagOf t tag).job.wrOut = (tagOf s tag).job.wrOut - 1 ∧ t.hay = s.hay ∧ t.tnk = s.tnk)
        ∧ (∀ tag, q.use = .raw tag → q.write = false → ∃ t, exec (.bankCycleGrant b mr mw) s = .next t ∧ t.mil.tinker = []
          ∧ (tagOf t tag).job.raw = rawBytes (entryWords s b q.entry) ∧ (tagOf t tag).job.wrOut = (tagOf s tag).job.wrOut - 1
          ∧ t.shf = s.shf ∧ t.hay = s.hay ∧ t.tnk = s.tnk)
        ∧ (∀ tag, q.use = .scrub (some tag) → q.write = false → ∃ t, exec (.bankCycleGrant b mr mw) s = .next t ∧ t.mil.tinker = []
          ∧ (∀ w, w < 16 → shfRaw t b q.entry w = scrubbed (shfRaw s b q.entry w))
          ∧ (∀ a, a < shfAddr b q.entry 0 ∨ shfAddr b q.entry 128 ≤ a → Memory.read t.shf.mem a = Memory.read s.shf.mem a)
          ∧ (tagOf t tag).job.wrOut = (tagOf s tag).job.wrOut - 1
          ∧ (tagOf t tag).job.landed = (tagOf s tag).job.landed + (List.range 16).countP (fun w => shfFixable s b q.entry w) ∧ t.hay = s.hay))
    ∧ (s.mil.tinker = [] → drainAt s b = none → noPort true → ∃ t, exec (.bankCycleGrant b mr mw) s = .next t
        ∧ (∀ a, Memory.read t.shf.mem a = Memory.read s.shf.mem a ∧ Memory.read t.shf.chk a = Memory.read s.shf.chk a) ∧ t.hay = s.hay
        ∧ t.shf.tiles = s.shf.tiles)

/-- R47, R136, R137, R248, R252-R254, R362, R375, R376: the spill path, while it holds no access, takes one beat of the station whose turn it is:
four reads of master 12, or a write for each 64 bytes that hold a word of it with the check bits R137 gives. An access that waits alone at an
open bank whose ports are free is performed: what it enables is written and no 64-bit word of which it enables no byte changes, a write of
part of such a word holding its port for one more h-cycle; a read changes no byte and reaches whom it serves; a raw write stores the check
bits it carries, a raw read takes what is stored, and a scrub corrects what tests as correctable and counts it. The last word of an INGWR
answers INGACK OK. Of a read and a write of one word in one h-cycle, the later receives busy: it is issued again, but an INGWR that has
written nothing is answered RETRY and writes nothing.
Model's choices: one command is one h-cycle (log 2). -/
def Obligations.HayloftAccessesServed : Prop :=
  ∀ s : State, running s islH = true →
    (∀ n d r, running s islA = true → spillBusy s = false → canCross s 56 = true →
        rotFind 16 s.crt.spillRot (fun n => (spillReady s n).isSome) = some n → spillReady s n = some false → (stnOf s n).rdQ = d :: r →
        ∃ t, exec .spillPathGrant s = .next t ∧ (stnOf t n).rdQ = r ∧ (stnOf t n).fly = (stnOf s n).fly ++ [⟨d, false, 0xF, 0, 0⟩]
          ∧ (stnOf t n).rHeld + 1 = (stnOf s n).rHeld
          ∧ t.hay.waiting = s.hay.waiting
            ++ (List.range 4).map (fun q => hayRd 12 ((tileOf s d.tile).hayAddr + 256 * d.j + 64 * q) (-1) (.spillRead n d q))
          ∧ t.hay.mem = s.hay.mem ∧ t.shf = s.shf)
    ∧ (∀ n w r, running s islA = true → spillBusy s = false → canCross s 56 = true →
        rotFind 16 s.crt.spillRot (fun n => (spillReady s n).isSome) = some n → spillReady s n = some true → (stnOf s n).wrQ = w :: r →
        let chk : BitVec 256 := BitVec.ofNat 256 (ofBytes ((List.range 32).map fun i => spillChk (wordAt w.data i) (byteAt w.chk i)))
        ∃ t, exec .spillPathGrant s = .next t ∧ (stnOf t n).wrQ = w :: r
          ∧ t.hay.waiting = s.hay.waiting ++ ((List.range 4).filter fun q => quarterBe w.mask q != 0).map (fun q =>
            ⟨12, (tileOf s w.tile).hayAddr + 256 * w.j + 64 * q, none, true, quarterBe w.mask q, w.data.extractLsb' (512 * q) 512,
              some (chk.extractLsb' (64 * q) 64), false, .spillWrite n w.tag⟩)
          ∧ t.hay.mem = s.hay.mem ∧ t.shf = s.shf)
    ∧ (∀ (b wd : Nat) (bf : Bool) (x : HayAcc), b < 17 → physOpen s b = true → s.hay.waiting = [x] → accPlace s x = (b, wd) → x.master < 13 →
        (lockOf s b false).left = 0 → (lockOf s b true).left = 0 →
        (x.write = true → ∃ t, exec (.hayloftAccessGrant b bf) s = .next t ∧ t.hay.waiting = []
          ∧ (∀ i, i < 64 → bit x.be i = true → Memory.read t.hay.mem (hayCell b wd i) = byteAt x.data i)
          ∧ (∀ a, (∀ i, i < 64 → bit x.be i = true → a / 8 ≠ hayCell b wd i / 8) → Memory.read t.hay.mem a = Memory.read s.hay.mem a)
          ∧ (∀ c i, x.chk = some c → x.be = -1 → i < 8 → hayRaw t b wd i = (wordAt x.data i, byteAt c i))
          ∧ (lockOf t b (onPortB x.master)).left = (if partWrite x.be = true then 1 else 0)
          ∧ (∀ tag, x.use = .store tag ∨ x.use = .ctxWrite tag ∨ x.use = .dump tag ∨ x.use = .raw tag →
              (tagOf t tag).job.wrOut = (tagOf s tag).job.wrOut - 1)
          ∧ (∀ id txid w, x.use = .ingress id → s.hay.ingress = [⟨id, txid, 1, w⟩] → s.noc.answers = [] → 0 < s.noc.o1.held →
              t.hay.ingress = [] ∧ t.pin.o1 = some ⟨flitHdr 0 txid.toNat 5, 0, 0⟩)
          ∧ t.shf.mem = s.shf.mem)
        ∧ (∀ tag row u, x.write = false → x.use = .unitFor tag row u → ∃ t v, exec (.hayloftAccessGrant b bf) s = .next t ∧ t.hay.waiting = []
          ∧ t.hay.mem = s.hay.mem ∧ t.hay.chk = s.hay.chk ∧ t.shf.mem = s.shf.mem
          ∧ (tagOf t tag).job.units = (tagOf s tag).job.units ++ [v] ∧ v.row = row ∧ v.addr = u)
        ∧ (∀ tag, x.write = false → x.use = .raw tag → ∃ t, exec (.hayloftAccessGrant b bf) s = .next t ∧ t.hay.waiting = []
          ∧ (tagOf t tag).job.raw = rawBytes ((List.range 8).map (hayRaw s b wd)) ∧ (tagOf t tag).job.wrOut = (tagOf s tag).job.wrOut - 1
          ∧ t.hay.mem = s.hay.mem ∧ t.hay.chk = s.hay.chk ∧ t.tnk = s.tnk)
        ∧ (∀ tag, x.write = false → x.use = .scrub (some tag) → ∃ t, exec (.hayloftAccessGrant b bf) s = .next t ∧ t.hay.waiting = []
          ∧ (∀ i, i < 8 → hayRaw t b wd i = scrubbed (hayRaw s b wd i))
          ∧ (∀ a, a < hayCell b wd 0 ∨ hayCell b wd 64 ≤ a → Memory.read t.hay.mem a = Memory.read s.hay.mem a)
          ∧ (tagOf t tag).job.wrOut = (tagOf s tag).job.wrOut - 1
          ∧ (tagOf t tag).job.landed = (tagOf s tag).job.landed + (List.range 8).countP (fun i => hayFixable s b wd i)
          ∧ (lockOf t b false).left = (if (∃ i ∈ List.range 8, hayFixable s b wd i = true) ∧ onPortB x.master = false then 2 else 0)))
    ∧ (∀ (b wd : Nat) (x y : HayAcc), b < 17 → physOpen s b = true → s.hay.waiting = [x, y] → accPlace s x = (b, wd) → accPlace s y = (b, wd) →
        (lockOf s b false).left = 0 → (lockOf s b true).left = 0 → x.master < 13 → y.master < 13 → onPortB x.master = false →
        onPortB y.master = true → x.retry = false → y.retry = false →
        (∀ tag, x.write = true → y.write = false → x.use = .store tag → ∃ t, exec (.hayloftAccessGrant b false) s = .next t
          ∧ t.hay.waiting = [{ y with retry := true }] ∧ (tagOf t tag).job.wrOut = (tagOf s tag).job.wrOut - 1)
        ∧ (∀ tag row u id txid n, x.write = false → y.write = true → x.use = .unitFor tag row u → y.use = .ingress id →
            s.hay.ingress = [⟨id, txid, n, false⟩] → s.noc.answers = [] → 0 < s.noc.o1.held → ∃ t, exec (.hayloftAccessGrant b false) s = .next t
          ∧ t.hay.waiting = [] ∧ t.hay.ingress = [] ∧ t.hay.mem = s.hay.mem ∧ t.pin.o1 = some ⟨flitHdr 1 txid.toNat 5, 0, 0⟩))

/-! ### Egress, rings and translation -/

/-- R298, R299, R301: with no visit under way, a visit that finds no ring changes nothing; one of a ring that holds no packets clears its doorbell
bit and passes it; one whose owner is suspended or not valid is passed, its bit left set; one of a ring of WEIGHT 1 whose packet has been read
takes it, once it can be accepted and the scheduler has its turn: HEAD advances by one, the packet is accepted from that ring, and the
pointer passes the ring; until its turn comes the visit goes on.
Model's choices: lines read ahead (log 49), the rotating order (log 91). -/
def Obligations.SchedulerVisits : Prop :=
  ∀ s : State, awake s = true → booted s = true → s.ctl.halted = false → running s islC = true → s.rng.visit = none → s.noc.in1 = [] →
    (nextRing s = none → exec .ringSchedulerVisit s = .next s)
    ∧ ∀ n, nextRing s = some n →
      ((ringOf s n).count = 0 → ∃ t, exec .ringSchedulerVisit s = .next t ∧ ringBell t n = false ∧ (∀ k, k ≠ n → ringBell t k = ringBell s k)
          ∧ t.rng.ptr = (n + 1) % 32768 ∧ t = { s with rng := { s.rng with bells := t.rng.bells, ptr := t.rng.ptr } })
      ∧ (∀ x, (ringOf s n).count ≠ 0 → residentEntry s (ringOwner s n) = some x → ctxSuspend x = true ∨ ctxValid x = false →
          ∃ t, exec .ringSchedulerVisit s = .next t ∧ t.rng = { s.rng with ptr := (n + 1) % 32768 } ∧ t.tly = s.tly ∧ t.hab = s.hab)
      ∧ (∀ x p, (ringOf s n).count ≠ 0 → residentEntry s (ringOwner s n) = some x → ctxSuspend x = false → ctxValid x = true → ringWeight s n = 1 →
          bit (rget s 0x8004) 0 = true → ringPacket s n (ringOf s n).head = some p → canAccept s p = true →
          (hasTurn s 2 = true → ∃ t, exec .ringSchedulerVisit s = .next t
            ∧ (ringOf t n) = { ringOf s n with head := ((ringOf s n).head + 1) % 2048 }
            ∧ (∀ k, k ≠ n → ringOf t k = ringOf s k) ∧ t.rng.ptr = (n + 1) % 32768 ∧ t.rng.visit = none ∧ t.tly.inq = s.tly.inq ++ [hdrTag p.w0]
            ∧ (tagOf t (hdrTag p.w0)).pkt = p ∧ (tagOf t (hdrTag p.w0)).src = .ring n (ringOwner s n)
            ∧ (tagOf t (hdrTag p.w0)).st = .waiting ∧ ∀ u, u ≠ hdrTag p.w0 → tagOf t u = tagOf s u)
          ∧ (hasTurn s 2 = false → exec .ringSchedulerVisit s = .next { s with rng := { s.rng with visit := some (n, 0) } }))

/-- R48, R49, R217, R274: an acknowledged query is sent; its response frees the identifier and gives the asking command or bucket the
physical page, or a translation fault from its unit on; a late response is discarded; one that answers no outstanding query, or one not
acknowledged, is logged and has no other effect; 65,536 h-cycles without a response are a fault with code 0xF.
Model's choices: a response before its query's acknowledge (log 77). -/
def Obligations.TranslationsAnswered : Prop :=
  ∀ s : State, awake s = true → running s islH = true →
    (∀ i q, s.asy.sending = some i → tget none s.asy.queries i = some q → s.asy.waiting = [] → ∃ t, exec .trnQueryAck s = .next t
      ∧ tget none t.asy.queries i = some { q with acked := true } ∧ (∀ j, j ≠ i → tget none t.asy.queries j = tget none s.asy.queries j)
      ∧ t.asy.sending = none ∧ t = { s with asy := { s.asy with queries := t.asy.queries, sending := none } })
    ∧ (∀ (sid : BitVec 4) spa ssize scode q, tget none s.asy.queries sid.toNat = some q → q.acked = true → q.timedOut = false →
        s.asy.waiting = [] → let size := pageSize (BitVec.toNat ssize)
        let page := (spa.toNat + 2 ^ 48 - q.va % size) % 2 ^ 48
        (∀ tag, q.use = .job tag →
          (∃ t, exec (.trnResponse sid spa ssize false scode) s = .next t ∧ tget none t.asy.queries sid.toNat = none ∧ t.pin.sack = !s.pin.sack
            ∧ (tagOf t tag).job = { (tagOf s tag).job with
                xlWait := false, xl := (tagOf s tag).job.xl ++ [⟨q.va - q.va % size, size, page⟩] }
            ∧ ∀ x, x ≠ tag → tagOf t x = tagOf s x)
          ∧ ∃ t, exec (.trnResponse sid spa ssize true scode) s = .next t ∧ tget none t.asy.queries sid.toNat = none
            ∧ (tagOf t tag).job = { (tagOf s tag).job with
                xlWait := false, lim := limMin (tagOf s tag).job.lim (tagOf s tag).job.xlRow (.xlate scode.toNat) }
            ∧ rget t 0x604C = BitVec.ofNat 32 (min 0xFFFFFFFF ((rget s 0x604C).toNat + 1)))
        ∧ (∀ b, q.use = .bucket b →
          (∃ t, exec (.trnResponse sid spa ssize false scode) s = .next t ∧ tget none t.asy.queries sid.toNat = none
            ∧ bucketOf t b = { bucketOf s b with pages := (bucketOf s b).pages ++ [⟨q.va - q.va % size, size, some page, 0⟩] }
            ∧ t.tly = s.tly)
          ∧ ∃ t, exec (.trnResponse sid spa ssize true scode) s = .next t ∧ tget none t.asy.queries sid.toNat = none
            ∧ bucketOf t b = { bucketOf s b with
                pages := (bucketOf s b).pages ++ [⟨q.va - q.va % size, size, none, scode.toNat⟩], fault := true } ∧ t.tly = s.tly))
    ∧ (∀ (sid : BitVec 4) spa ssize sflt scode q, tget none s.asy.queries sid.toNat = some q → q.acked = true → q.timedOut = true → s.asy.waiting = [] →
        ∃ t, exec (.trnResponse sid spa ssize sflt scode) s = .next t ∧ tget none t.asy.queries sid.toNat = none ∧ t.pin.sack = !s.pin.sack
          ∧ t = { s with asy := { s.asy with queries := t.asy.queries }, pin := { s.pin with sack := t.pin.sack } })
    ∧ (∀ (sid : BitVec 4) spa ssize sflt scode,
        (tget none s.asy.queries sid.toNat = none ∨ ∃ q, tget none s.asy.queries sid.toNat = some q ∧ q.acked = false) → ∃ u t,
        exec (.trnResponse sid spa ssize sflt scode) s = .next t ∧ u = { s with pin := { s.pin with sack := !s.pin.sack } }
          ∧ Logged u t 7 islH 0 sid.toNat 0x30)
    ∧ (∀ (sid : BitVec 4) q tag, tget none s.asy.queries sid.toNat = some q → q.acked = true → q.timedOut = false → q.use = .job tag →
        ∃ t, exec (.xlateTimeout sid) s = .next t ∧ tget none t.asy.queries sid.toNat = some { q with timedOut := true }
          ∧ (tagOf t tag).job = { (tagOf s tag).job with
              xlWait := false, lim := limMin (tagOf s tag).job.lim (tagOf s tag).job.xlRow (.xlate 0xF) }
          ∧ ∀ x, x ≠ tag → tagOf t x = tagOf s x)

/-! ### Reset, boot, unplug, security -/

/-- R2, R28, R54, R56, R336, R356, R369, R372: assertion of `pwr_rst_n` leaves the fabric under reset as at first power, but for storage, the shadow
map, the inputs it mirrors, and what waits to be taken; its release ends reset, and under an unplug warning begins the sequence; loss of power
leaves nothing, and power brings the reset state.
Model's choices: storage is kept across reset (log 56). -/
def Obligations.ResetAndPower : Prop :=
  ∀ s : State,
    (s.ctl.powered = true → ∃ t, exec .pwrRstAssert s = .next t ∧ t.shf.mem = s.shf.mem ∧ t.shf.chk = s.shf.chk ∧ t.hay.mem = s.hay.mem
      ∧ t.hay.chk = s.hay.chk ∧ t.tnk = { State.reset.tnk with shadow := s.tnk.shadow, fuseReady := s.tnk.fuseReady } ∧ t.pin = Pins.reset
      ∧ t.ctl.inReset = true ∧ t.ctl.powered = true ∧ t.ctl.service = false ∧ t.ctl.halted = false
      ∧ t.ctl.unplugWarn = s.ctl.unplugWarn ∧ t.ctl.tamper = s.ctl.tamper ∧ t.ctl.lcChange = s.ctl.lcChange ∧ t.ctl.svcPresent = s.ctl.svcPresent
      ∧ (∀ i, islOf t i = islOf State.reset i ∧ (islOf t i).cyc = 0)
      ∧ (∀ x, tagOf t x = TagEntry.free) ∧ (∀ i, recOf t i = Rec.init) ∧ (∀ n, tileOf t n = Tile.none) ∧ (∀ k, rget t k = rget State.reset k)
      ∧ t.thr = State.reset.thr ∧ t.noc = State.reset.noc
      ∧ t.arr = { State.reset.arr with nowMapv := s.arr.nowMapv, nowRow := s.arr.nowRow, nowCol := s.arr.nowCol }
      ∧ t.crt = State.reset.crt ∧ t.mil = State.reset.mil ∧ t.asy = State.reset.asy ∧ t.hab = State.reset.hab ∧ t.rng = State.reset.rng
      ∧ t.tly = State.reset.tly ∧ t.pending = s.pending)
    ∧ (s.ctl.powered = true → s.ctl.inReset = true → exec .pwrRstRelease s
        = .next { s with ctl := { s.ctl with inReset := false, halted := s.ctl.unplugWarn, unplug := b2n s.ctl.unplugWarn } })
    ∧ (∃ t, exec .powerLost s = .next t ∧ t.ctl.powered = false ∧ t.shf.mem = [] ∧ t.hay.mem = [] ∧ t.tnk.shadow = [] ∧ t.tly = State.reset.tly
        ∧ t.pin = Pins.reset ∧ t.pending = s.pending)
    ∧ (s.ctl.powered = false → exec .fabricFirstPowered s = .next { State.reset with pending := s.pending, freeCtr := s.freeCtr })

/-- R27, R131, R143, R170-R172, R372, R373: the steps of boot. An island whose generator 0 has not locked goes to generator 1, with its LMP_GENSEL bit
set and the event logged; an island with a locked generator leaves reset with its cycle counter at zero, and the endpoint then grants its
entries; access service starts; `arr_rst_n` is released, the receivers inside the fabric having granted their credits; the window's totals are what the stations have granted; BIST zeroes all
storage and the ring table and lists what failed; the maps are sampled once, and give trims and latency; a change of them after boot is
logged and has no other effect; the self-test checks the maps, then drives a front and rows for each logical row and for each scale lane, and
records what failed.
Model's choices: the credits are granted after access service has started (log 93), when trims appear (log 55), arr_mapv before boot (log 32), the self-test ends at the first row that fails (log 92). -/
def Obligations.BootSteps : Prop :=
  ∀ s : State, awake s = true →
    ((islOf s islC).up = false → ∀ l0 l1, ∃ t, exec (.generatorLockCheck l0 l1) s = .next t
      ∧ (∀ i, i < 11 → bit l0 i = true → islOf t i = islOf s i ∧ bit (rget t 0xC100) i = bit (rget s 0xC100) i)
      ∧ (∀ i, i < 11 → bit l0 i = false → (islOf t i).lock = bit l1 i ∧ bit (rget t 0xC100) i = true) ∧ t.shf = s.shf ∧ t.hay = s.hay)
    ∧ ((islOf s islC).up = false → s.tnk.dead = 0 → ∃ t, exec .islandResetExit s = .next t
      ∧ (∀ i, i < 11 → (islOf s i).lock = true → islOf t i = { islOf s i with up := true, cyc := 0 })
      ∧ (∀ i, i < 11 → (islOf s i).lock = false → islOf t i = islOf s i ∧ t.tnk.dead.testBit i = true)
      ∧ (∀ n, stnOf t n = stnOf s n)
      ∧ ((islOf s islC).lock = true → t.noc.i0Out = 16 ∧ t.noc.i1Out = 16 ∧ t.pin.i0crd = true ∧ t.pin.i1crd = true)
      ∧ (s.ctl.secLatch = false → s.ctl.tamper = false → s.ctl.lcChange = false → t.ctl = s.ctl ∧ t.hay = s.hay)
      ∧ ((islOf s islC).lock = true → s.ctl.secLatch = true ∨ s.ctl.tamper = true ∨ s.ctl.lcChange = true → (secRange s).2 ≠ 0 →
          t.hay.zeroing = true ∧ t.ctl.secLatch = false ∧ (s.ctl.lcChange = true → t.ctl.lcValid = true ∧ t.ctl.lcState = s.ctl.lcDriven))
      ∧ t.shf = s.shf ∧ t.hay.mem = s.hay.mem)
    ∧ (running s islC = true → s.ctl.service = false → s.tly.cmdHeld = [] → s.tly.svcHeld = [] → s.noc.in1 = [] →
        exec .registerServiceStart s = .next { s with ctl := { s.ctl with service := true } })
    ∧ (running s islA = true → s.ctl.unplug < 4 → s.ctl.service = true → s.ctl.arrRstN = false → ∃ t, exec .arrRstRelease s = .next t
      ∧ t.ctl = { s.ctl with arrRstN := true }
      ∧ (∀ n, n < 16 → stnOf t n = { stnOf s n with wHeld := (stnOf s n).wTotal, rHeld := if external n = true then 0 else (stnOf s n).rTotal }
          ∧ (external n = true → (tget StnPins.zero t.pin.stn n).wcrd = true))
      ∧ t = { s with ctl := t.ctl, crt := { s.crt with stns := t.crt.stns }, pin := { s.pin with stn := t.pin.stn } })
    ∧ (s.ctl.service = false → exec .arrRstRelease s = .next s)
    ∧ (s.ctl.arrRstN = true → s.ctl.winClosed = false → ∃ t, exec .stationCreditWindowClose s = .next t ∧ t.ctl = { s.ctl with winClosed := true }
      ∧ (∀ n, external n = true → stnOf t n = { stnOf s n with rTotal := (stnOf s n).rHeld, oTotal := (stnOf s n).oHeld })
      ∧ (∀ n, external n = false → stnOf t n = stnOf s n) ∧ t = { s with ctl := t.ctl, crt := { s.crt with stns := t.crt.stns } })
    ∧ (∀ fs, (Instr.bistDone fs).wf = true → running s islC = true → s.tnk.bistDone = false → ∃ t, exec (.bistDone fs) s = .next t
      ∧ (∀ a, Memory.read t.shf.mem a = 0 ∧ Memory.read t.shf.chk a = 0 ∧ Memory.read t.hay.mem a = 0 ∧ Memory.read t.hay.chk a = 0)
      ∧ checkByte 0 = 0 ∧ t.rng.ents = [] ∧ t.tnk = { s.tnk with fails := fs, failCount := fs.length, bistDone := true })
    ∧ (s.arr.mapSampled = false → ∀ rb cb, ∃ t, exec (.arrMapv rb cb) s = .next t
      ∧ t.arr = { s.arr with mapSampled := true, mapv := true, rowbyp := rb, colbyp := cb, nowMapv := true, nowRow := rb, nowCol := cb }
      ∧ (∀ q, q < 34 → afTrim t q = min 3 (afSum t q))
      ∧ fld (rget t 0x4000) 7 0 = 32 + bypBelow t (physRow t 31) ∧ fld (rget t 0x4000) 15 8 = bypBelow t (physRow t 31)
      ∧ t.shf = s.shf ∧ t.tly = s.tly)
    ∧ (∀ mv rb cb, let u := { s with arr := { s.arr with nowMapv := mv, nowRow := rb, nowCol := cb } }
        (mv = s.arr.nowMapv → rb = s.arr.nowRow → cb = s.arr.nowCol → exec (.arrayMapChange mv rb cb) s = .next s)
        ∧ (mv ≠ s.arr.nowMapv ∨ rb ≠ s.arr.nowRow ∨ cb ≠ s.arr.nowCol → booted s = true →
            ∃ t, exec (.arrayMapChange mv rb cb) s = .next t ∧ Logged u t 0x12 islA 0 0 (b2n mv))
        ∧ (mv ≠ s.arr.nowMapv ∨ rb ≠ s.arr.nowRow ∨ cb ≠ s.arr.nowCol → booted s = false →
            exec (.arrayMapChange mv rb cb) s = .next { u with arr := { u.arr with mapv := mv } }))
    ∧ (running s islA = true → running s islC = true → s.arr.mapSampled = true → s.arr.mapv = true → s.tnk.skewGo = true →
        bit (rget s 0x3030) 0 = false →
        let good := popCount 34 s.arr.rowbyp.toNat = 2 ∧ popCount 33 s.arr.colbyp.toNat = 1 ∧ ∀ q, q < 34 → afSum s q ≤ 3
        (s.tnk.skew = none → good → ∃ t, exec (.skewSelfTest 0 false) s = .next t ∧ t.tnk = { s.tnk with skew := some ⟨0, 0, 0, false⟩ }
          ∧ t.arr = { s.arr with passes := s.arr.passes ++ [{ testPass 0 with uid := s.arr.nextUid }], nextUid := s.arr.nextUid + 1 }
          ∧ bit (rget t 0x3030) 0 = false ∧ t.tly = s.tly ∧ t.shf = s.shf)
        ∧ (s.tnk.skew = none → popCount 34 s.arr.rowbyp.toNat ≠ 2 ∨ popCount 33 s.arr.colbyp.toNat ≠ 1 → ∃ t, exec (.skewSelfTest 0 false) s = .next t
          ∧ rget t 0x3030 = 1 ∧ t.tnk = s.tnk ∧ t.arr = s.arr)
        ∧ (∀ x k b, s.tnk.skew = some x → (Instr.skewSelfTest k b).wf = true → testRuns s = true ∨ x.step ≠ (if b = true then 32 + k else k) →
          exec (.skewSelfTest k b) s = .next s)
        ∧ (∀ x, s.tnk.skew = some x → testRuns s = false → x.step < 32 → x.wrong = 0 → ∃ t, exec (.skewSelfTest x.step false) s = .next t
          ∧ t.tnk = { s.tnk with skew := some ⟨x.step + 1, 0, 0, false⟩ }
          ∧ t.arr = { s.arr with passes := s.arr.passes ++ [{ testPass (x.step + 1) with uid := s.arr.nextUid }], nextUid := s.arr.nextUid + 1 })
        ∧ (∀ x, s.tnk.skew = some x → testRuns s = false → x.step < 32 → x.wrong = -1 → good → ∃ t, exec (.skewSelfTest x.step false) s = .next t
          ∧ rget t 0x3030 = BitVec.ofNat 32 (1 + 8 + 256 + 1024 * physRow s x.step) ∧ arrayOk t = false ∧ t.tnk = { s.tnk with skew := none })
        ∧ (∀ x, s.tnk.skew = some x → testRuns s = false → x.step = 32 → ∃ t, exec (.skewSelfTest 0 true) s = .next t
          ∧ t.tnk = { s.tnk with skew := some ⟨33, 0, 0, x.scaleBad || x.wrong != 0⟩ }
          ∧ t.arr = { s.arr with passes := s.arr.passes ++ [{ testPass 33 with uid := s.arr.nextUid }], nextUid := s.arr.nextUid + 1 })
        ∧ (∀ x, s.tnk.skew = some x → testRuns s = false → x.step = 33 → good → ∃ t, exec (.skewSelfTest 1 true) s = .next t
          ∧ rget t 0x3030 = (if x.scaleBad = true ∨ x.wrong ≠ 0 then 0xB else 0xF) ∧ arrayOk t = true
          ∧ (mxOk t = true ↔ x.scaleBad = false ∧ x.wrong = 0) ∧ t.tnk = { s.tnk with skew := none } ∧ t.arr = s.arr ∧ t.tly = s.tly))

/-- R55, R56, R276, R301, R355, R356, R368: the unplug warning stops acceptance, and every waiting command but a BKCLOSE replies ABORTED_POWER; a
warning that ends stops nothing; quiescence is reached once no tag is allocated and nothing is outstanding at the endpoint; the power side then
switches the groups OFF once nothing is on its way to one, resets and switches off island A, puts the Hayloft banks in RETENTION with H at its
FMIN, and takes C to its FMIN, counting its steps. A unit that is changing state first ends that change (R354).
Model's choices: one step for each UNPLUG_POWER_DOWN (log 53). -/
def Obligations.UnplugSequence : Prop :=
  ∀ s : State, s.ctl.powered = true → s.ctl.inReset = false →
    (s.ctl.unplug = 0 → s.ctl.unplugWarn = false → ∃ t, exec .unplugWarn s = .next t ∧ t.ctl = { s.ctl with unplugWarn := true, halted := true, unplug := 1 }
      ∧ t.tnk.copying = none ∧ t.tnk.trigs = [] ∧ t.mil.tinker = s.mil.tinker.filter (fun q => q.use != .copy) ∧ t.rng.lines = []
      ∧ t.shf.mem = s.shf.mem ∧ t.hay.mem = s.hay.mem ∧ ∀ p, canAccept t p = false)
    ∧ (s.ctl.unplugWarn = true → exec .unplugWarn s = .next { s with ctl := { s.ctl with unplugWarn := false } })
    ∧ (1 ≤ s.ctl.unplug → exec .unplugWarn s = .next { s with ctl := { s.ctl with unplugWarn := !s.ctl.unplugWarn } })
    ∧ (s.ctl.unplug = 0 → s.ctl.unplugWarn = false → ∀ (u : Tag) (e : TagEntry) (c : Command), s.tly.tags = [(u.toNat, e)] → e.st = .waiting → e.cmd = some c → e.actedBy = [] →
        ((∀ b f, c ≠ .bkclose b f) → ∃ t, exec .unplugWarn s = .next t ∧ (tagOf t u).st = .replying
          ∧ fld (tagOf t u).w0 23 16 = Status.abortedPower.code)
        ∧ (∀ b f, c = .bkclose b f → ∃ t, exec .unplugWarn s = .next t ∧ tagOf t u = { e with st := .started, stop := some .unplug }))
    ∧ (s.ctl.unplug = 1 → (∀ p ∈ s.tly.tags, p.2.st = .free) → (∀ p ∈ s.noc.tx, p.2 = none) →
        exec .unplugQuiesced s = .next { s with ctl := { s.ctl with unplug := 2 }, pin := { s.pin with quiesced := true } })
    ∧ (s.ctl.unplug = 1 → (∃ p ∈ s.tly.tags, p.2.st ≠ .free) → exec .unplugQuiesced s = .next s)
    ∧ (s.ctl.unplug = 2 → (∃ g, g < 8 ∧ groupQuiet s g = false) → exec .unplugPowerDown s = .next s)
    ∧ (s.ctl.unplug = 2 → (∀ g, g < 8 → groupQuiet s g = true) → ∃ t, exec .unplugPowerDown s = .next t ∧ t.ctl = { s.ctl with unplug := 3 }
      ∧ (∀ g, g < 8 → (groupOf s g).entering = none → (groupOf s g).st ≠ .off → groupOf t g = ⟨(groupOf s g).st, some .off, none⟩)
      ∧ (∀ g x, g < 8 → (groupOf s g).entering = some x → x ≠ .off → groupOf t g = { groupOf s g with after := some .off })
      ∧ t.shf.mem = s.shf.mem ∧ t.hay = s.hay)
    ∧ (s.ctl.unplug = 3 → ∃ t, exec .unplugPowerDown s = .next t ∧ t.ctl = { s.ctl with arrRstN := false, unplug := 4 }
      ∧ islOf t islA = { islOf s islA with up := false } ∧ ∀ i, i ≠ islA → islOf t i = islOf s i)
    ∧ (s.ctl.unplug = 4 → ∃ t, exec .unplugPowerDown s = .next t ∧ t.ctl = { s.ctl with unplug := 5 }
      ∧ islOf t islH = { islOf s islH with target := some (envMin s islH) }
      ∧ (∀ h, h < 16 → zeroHeld s h = false → (hbankOf s h).entering = none → (hbankOf s h).st ≠ .retention →
          hbankOf t h = ⟨(hbankOf s h).st, some .retention, none⟩)
      ∧ (∀ h x, h < 16 → zeroHeld s h = false → (hbankOf s h).entering = some x → x ≠ .retention →
          hbankOf t h = { hbankOf s h with after := some .retention })
      ∧ ∀ h, h < 16 → zeroHeld s h = true → hbankOf t h = hbankOf s h)
    ∧ (s.ctl.unplug = 5 → ∃ t, exec .unplugPowerDown s = .next t ∧ t.ctl = { s.ctl with unplug := 6 }
      ∧ islOf t islC = { islOf s islC with target := some (envMin s islC) })

/-- R51-R53, R257, R258, R361, R374, R378: a tamper event, or a life-cycle change with its state, starts the zeroisation of the secure partition,
whose banks then grant nothing; one that comes before island C is up is held for it; once those banks are ON, every byte of the partition is zero
with good check bits, every other byte is as it was, the banks serve again and `sec_zero_done` rises, to fall when the inputs clear. A fuse
read waits for `fuse_ready`, is answered into TNK_FUSEDATA, and ends. A change of `svc_present` is traced.
Model's choices: sec_zero_done (log 54), a second fuse address (log 33), events before island C is up (log 70). -/
def Obligations.SecurityAndFuses : Prop :=
  ∀ s : State,
    (running s islC = true → (secRange s).2 ≠ 0 → ∃ t, exec (.secureEvent .tamper) s = .next t ∧ t.ctl = { s.ctl with tamper := true }
      ∧ t.hay = { s.hay with zeroing := true, banks := t.hay.banks } ∧ (∀ h, bankInRange h (secRange s).1 (secRange s).2 = true → hayOpen t h = false)
      ∧ t = { s with ctl := t.ctl, hay := t.hay })
    ∧ (running s islC = true → (secRange s).2 = 0 → ∃ t, exec (.secureEvent .tamper) s = .next t ∧ t.pin.zeroDone = true ∧ t.hay = s.hay)
    ∧ (∀ st, running s islC = true → (secRange s).2 ≠ 0 → ∃ t, exec (.secureEvent (.lifeCycle st)) s = .next t ∧ t.hay.zeroing = true
      ∧ t.ctl = { s.ctl with
          lcChange := true, lcDriven := st, lcValid := true, lcState := st, lcChanges := min 0xFFFF (s.ctl.lcChanges + 1) }
      ∧ t.hay.mem = s.hay.mem)
    ∧ (running s islC = false → exec (.secureEvent .tamper) s = .next { s with ctl := { s.ctl with tamper := true, secLatch := true } })
    ∧ (∀ st, running s islC = false → exec (.secureEvent (.lifeCycle st)) s
        = .next { s with ctl := { s.ctl with lcChange := true, lcDriven := st, secLatch := true } })
    ∧ exec .secureEventClear s
        = .next { s with ctl := { s.ctl with tamper := false, lcChange := false }, pin := { s.pin with zeroDone := false } }
    ∧ (s.hay.zeroing = true → running s islH = true →
        (∀ h, h < 16 → bankInRange h (secRange s).1 (secRange s).2 = true → (hbankOf s h).ready = true) →
        (secRange s).1 + (secRange s).2 ≤ 2 ^ 22 → ∃ t, exec .zeroisationDone s = .next t ∧ t.pin.zeroDone = true ∧ t.hay.zeroing = false
          ∧ t.hay.zcount = min 0xFFFF (s.hay.zcount + 1)
          ∧ (∀ a, (secRange s).1 ≤ a → a < (secRange s).1 + (secRange s).2 → hayRaw t (physOf s 4 (hayBank a)) (hayWord a) (a % 64 / 8) = (0, checkByte 0))
          ∧ (∀ c, (∀ a, (secRange s).1 ≤ a → a < (secRange s).1 + (secRange s).2 → c ≠ hayByteCell s a) →
              Memory.read t.hay.mem c = Memory.read s.hay.mem c) ∧ t.shf = s.shf)
    ∧ (s.tnk.fuseReady = false → s.tnk.fuseBusy = true → ∃ t, exec .fuseReady s = .next t ∧ t.tnk = { s.tnk with fuseReady := true }
        ∧ t.pin = { s.pin with fuseReq := !s.pin.fuseReq, fuseAddr := (rget s 0xD018).extractLsb' 0 8 })
    ∧ (∀ d, s.tnk.fuseBusy = true → s.tnk.fuseReady = true → running s islC = true → fld (rget s 0xD018) 7 0 = s.pin.fuseAddr.toNat →
        ∃ t, exec (.fuseAck d) s = .next t ∧ rget t 0xD01C = d ∧ (∀ k, k ≠ 0xD01C → rget t k = rget s k) ∧ t.tnk = { s.tnk with fuseBusy := false }
          ∧ t.pin = s.pin)
    ∧ (∀ v, v ≠ s.ctl.svcPresent → ∃ t, exec (.svcPresentChange v) s = .next t
        ∧ OnlyTrace { s with ctl := { s.ctl with svcPresent := v } } t)

/-! ### Clocks, power and reliability -/

/-- R346, R347, R350-R352, R356: a detector that senses its supply more than TH1 or TH2 of LMP_DROOP below the average stretches an active island's
clock to level 1 or 2, and never lessens it; a stretch begun is counted; once no detector trips the level in force it goes back one level; a
frequency change that is done is in force; a generator that loses lock stops its island, and is logged; a reading of the sensors is held for each
island, and an island above 100 °C and above its FMIN is throttled by one sixteenth of its set frequency, to come back by as much when it and
its neighbours are cool, but for an island that the unplug sequence holds at FMIN.
Model's choices: the throttle step rounded down (log 52), what a crossing holds (log 50). -/
def Obligations.ClocksFollow : Prop :=
  ∀ (s : State) (i : Nat), i < 11 →
    (∀ det avg sensed, islActive s i = true → let d := BitVec.toNat avg - BitVec.toNat sensed
      let lvl := if fld (rget s 0xC104) 15 8 < d then 2 else if fld (rget s 0xC104) 7 0 < d then 1 else 0
      ∃ t, exec (.droopTrip i ⟨det, avg, sensed⟩) s = .next t
        ∧ islOf t i = { islOf s i with
            stretch := max (islOf s i).stretch lvl, volt := avg, drops := tset 0 (islOf s i).drops det.toNat d }
        ∧ (∀ k, k ≠ i → islOf t k = islOf s k)
        ∧ ((islOf s i).stretch = 0 → 0 < lvl → rget t (0xC140 + 4 * i) = BitVec.ofNat 32 (min 0xFFFFFFFF ((rget s (0xC140 + 4 * i)).toNat + 1)))
        ∧ ((islOf s i).stretch ≠ 0 ∨ lvl = 0 → rget t (0xC140 + 4 * i) = rget s (0xC140 + 4 * i))
        ∧ t.shf = s.shf ∧ t.tly = s.tly)
    ∧ (∀ det avg sensed, islActive s i = false → exec (.droopTrip i ⟨det, avg, sensed⟩) s = .next s)
    ∧ (islActive s i = true → tripLevel s i < (islOf s i).stretch → ∃ t, exec (.stretchStepBack i) s = .next t
      ∧ islOf t i = { islOf s i with stretch := (islOf s i).stretch - 1 }
      ∧ (∀ k, k ≠ i → islOf t k = islOf s k) ∧ OnlyTrace { s with isl := t.isl } t)
    ∧ (islActive s i = false ∨ (islOf s i).stretch ≤ tripLevel s i → exec (.stretchStepBack i) s = .next s)
    ∧ (∀ f, (islOf s i).target = some f → ∃ t, exec (.frequencyChangeDone i) s = .next t
      ∧ islOf t i = { islOf s i with freq := f, target := none } ∧ (∀ k, k ≠ i → islOf t k = islOf s k) ∧ t = { s with isl := t.isl })
    ∧ (running s i = true → ∃ u t, exec (.generatorLockLoss i) s = .next t ∧ islOf t i = { islOf s i with lock := false } ∧ running t i = false
      ∧ (∀ k, k ≠ i → islOf t k = islOf s k)
      ∧ u = { s with isl := t.isl, crt := { s.crt with cross := s.crt.cross.filter fun p => crossRx p.1 != i } } ∧ Logged u t 0x13 i i 0 0)
    ∧ (∀ temps volts, running s islC = true → let deg := fun j : Nat => signed 8 (BitVec.toNat (BitVec.extractLsb' (8 * j) 8 temps))
      ∃ t, exec (.thermalSample temps volts) s = .next t
      ∧ (islOf t i).temp = temps.extractLsb' (8 * i) 8 ∧ (islOf t i).volt = volts.extractLsb' (16 * i) 16
      ∧ (100 < deg i → envMin s i < aimed s i → (islOf t i).throt = true
          ∧ (islOf t i).target = some (if heldLow s i = true then envMin s i else max (envMin s i) (aimed s i - fset s i / 16)))
      ∧ (100 < deg i → aimed s i ≤ envMin s i → (islOf t i).throt = true ∧ (islOf t i).target = (islOf s i).target)
      ∧ (deg i ≤ 95 → (∀ j, j < 11 → neighbours i j = true → deg i - deg j ≤ 20) → (islOf t i).throt = false
          ∧ (islOf t i).target = if aimed s i < fset s i ∧ heldLow s i = false then some (min (fset s i) (aimed s i + fset s i / 16))
              else (islOf s i).target)
      ∧ t.shf = s.shf ∧ t.hay = s.hay ∧ t.tly = s.tly)

/-- R110, R111, R255, R353, R354, R357, R387: an idle group enters RETENTION, or OFF under AUTO with no tile in it, and an idle woken Hayloft bank its
set state; a change that is done puts the unit in the state it was entering, and it goes on to the state asked for meanwhile. A group that comes ON
from OFF may hold anything in its own banks and nothing else changes; one that comes ON takes a seed written meanwhile; a Hayloft bank that
comes ON from OFF reads zero, and the other banks keep every byte.
Model's choices: power is kept by logical bank (log 65), what a unit holds after OFF (log 1). -/
def Obligations.PowerStatesFollow : Prop :=
  ∀ s : State,
    (∀ g : BitVec 3, running s islC = true → fld (rget s 0x0004) 15 0 ≠ 0 → groupQuiet s g.toNat = true →
        (groupOf s g.toNat).entering = none →
        (groupPol s g.toNat = 0 → tileIn s g.toNat = false → (groupOf s g.toNat).st ≠ .off → ∃ t, exec (.groupIdleExpire g) s = .next t
          ∧ groupOf t g.toNat = { groupOf s g.toNat with entering := some .off } ∧ (∀ k, k ≠ g.toNat → groupOf t k = groupOf s k)
          ∧ t = { s with shf := { s.shf with groups := t.shf.groups } })
        ∧ ((groupOf s g.toNat).st = .on → groupPol s g.toNat = 2 ∨ (groupPol s g.toNat = 0 ∧ tileIn s g.toNat = true) →
          ∃ t, exec (.groupIdleExpire g) s = .next t
          ∧ groupOf t g.toNat = { groupOf s g.toNat with entering := some .retention } ∧ t = { s with shf := { s.shf with groups := t.shf.groups } })
        ∧ (groupPol s g.toNat = 1 → exec (.groupIdleExpire g) s = .next s))
    ∧ (∀ (g : BitVec 3) (x : PState), (groupOf s g.toNat).entering = some x → ∃ t, exec (.groupStateChangeDone g) s = .next t
        ∧ groupOf t g.toNat = (match (groupOf s g.toNat).after with
            | none => ⟨x, none, none⟩
            | some y => if x = y then ⟨x, none, none⟩ else ⟨x, some y, none⟩)
        ∧ (∀ k, k ≠ g.toNat → groupOf t k = groupOf s k)
        ∧ (∀ a, a < 73728 * g.toNat ∨ 73728 * (g.toNat + 1) ≤ a ∨ x ≠ .on ∨ (groupOf s g.toNat).st ≠ .off →
            Memory.read t.shf.mem a = Memory.read s.shf.mem a)
        ∧ (x = .on → tget false s.mil.reseed g.toNat = true → tget 1 t.mil.seeds g.toNat = rget s 0x1004 ∧ tget false t.mil.reseed g.toNat = false)
        ∧ t.shf.tiles = s.shf.tiles ∧ t.hay = s.hay ∧ t.tly = s.tly)
    ∧ (∀ h : BitVec 4, running s islH = true → (hbankOf s h.toNat).ready = true → zeroHeld s h.toNat = false → lockedBank s h.toNat = false →
        waitingAt s h.toNat = 0 → ∀ p : PState,
        (s.ctl.unplug < 5 ∧ fld (rget s 0x7028) 15 0 ≠ 0 ∧ p = setState s h.toNat ∧ p ≠ .on) ∨ (5 ≤ s.ctl.unplug ∧ p = .retention) →
        ∃ t, exec (.hayloftBankIdleExpire h) s = .next t
          ∧ hbankOf t h.toNat = ⟨.on, some p, none⟩
          ∧ (∀ k, k ≠ h.toNat → hbankOf t k = hbankOf s k) ∧ (∀ k, rget t k = rget s k)
          ∧ t = { s with regs := t.regs, hay := { s.hay with banks := t.hay.banks } })
    ∧ (∀ h : BitVec 4, running s islH = true → (hbankOf s h.toNat).entering = some .on → (hbankOf s h.toNat).after = none →
        ∃ t, exec (.hayloftBankStateDone h) s = .next t
        ∧ hbankOf t h.toNat = PwrUnit.on ∧ (∀ k, k ≠ h.toNat → hbankOf t k = hbankOf s k)
        ∧ (∀ a, Memory.read t.hay.mem a = if (hbankOf s h.toNat).st = .off ∧ hayCell (physOf s 4 h.toNat) 0 0 ≤ a ∧ a < hayCell (physOf s 4 h.toNat) 4096 0
            then 0 else Memory.read s.hay.mem a)
        ∧ t.shf = s.shf ∧ t.tly = s.tly)
    ∧ (∀ h : BitVec 4, running s islH = true → (hbankOf s h.toNat).entering = some .off → (hbankOf s h.toNat).after = none → waitingAt s h.toNat = 0 →
        ∃ t, exec (.hayloftBankStateDone h) s = .next t
        ∧ hbankOf t h.toNat = ⟨.off, none, none⟩ ∧ (∀ k, k ≠ h.toNat → hbankOf t k = hbankOf s k)
        ∧ (∀ a, a < hayCell (physOf s 4 h.toNat) 0 0 ∨ hayCell (physOf s 4 h.toNat) 4096 0 ≤ a → Memory.read t.hay.mem a = Memory.read s.hay.mem a)
        ∧ t.shf = s.shf ∧ t.tly = s.tly)
    ∧ (∀ h : BitVec 4, running s islH = true → (hbankOf s h.toNat).entering = some .retention → (hbankOf s h.toNat).after = some .on →
        ∃ t, exec (.hayloftBankStateDone h) s = .next t ∧ hbankOf t h.toNat = ⟨.retention, some .on, none⟩ ∧ t.hay.mem = s.hay.mem)
    ∧ (∀ h : BitVec 4, running s islH = false → exec (.hayloftBankStateDone h) s = .next s)

/-- R362-R368: a scrub step asks the Hayloft word and the Sheaf entry it visits for a read, as the Tinker, and moves on; nothing is stored yet; a
control-store entry found uncorrectable, by a scrub or by any read, is FATAL and stops acceptance. A window's end clears the corrected
counts. The earliest trigger that may begin starts the copy of its bank to the group's spare, entry 0 first, and the map does not change;
one that may not begin is dropped; when the last entry is written the spare takes the position, USED counts it, the shadow records it, and every
DRETIRE of the bank completes OK with count 1.
Model's choices: what a read of the control stores finds is the operand of SCRUB_STEP (log 66). -/
def Obligations.ReliabilitySteps : Prop :=
  ∀ s : State, running s islC = true →
    (∀ b, fld (rget s 0xD000) 15 0 ≠ 0 → s.tnk.scrubH / 4096 = b → b < 17 → wordOpen s b = true → (∀ a ∈ s.hay.waiting, a.use ≠ .scrub none) →
        ∃ t a, exec (.scrubStep .good) s = .next t ∧ t.tnk.scrubH = (s.tnk.scrubH + 1) % 69632 ∧ t.tnk.scrubC = (s.tnk.scrubC + 1) % controlEntries
        ∧ t.hay.waiting = s.hay.waiting ++ [a] ∧ a.master = 11 ∧ a.phys = some (b, s.tnk.scrubH % 4096) ∧ a.write = false ∧ a.use = .scrub none
        ∧ t.hay.mem = s.hay.mem ∧ t.shf.mem = s.shf.mem ∧ t.tly = s.tly)
    ∧ (∀ g, fld (rget s 0xD000) 15 0 ≠ 0 → s.tnk.scrubS / 576 = g → g < 8 → scrubbable s g = true → canTink s (s.tnk.scrubS / 64) = true →
        (∀ q ∈ s.mil.tinker, q.use ≠ .scrub none) → ∃ t, exec (.scrubStep .good) s = .next t ∧ t.tnk.scrubS = (s.tnk.scrubS + 1) % 4608
        ∧ t.mil.tinker = s.mil.tinker ++ [⟨s.tnk.scrubS / 64, s.tnk.scrubS % 64, false, .scrub none, 0⟩]
        ∧ t.hay.mem = s.hay.mem ∧ t.shf.mem = s.shf.mem ∧ t.tly = s.tly)
    ∧ (∃ t, exec (.scrubStep .uncorr) s = .next t ∧ t.tnk.fatal = true ∧ t.ctl.halted = true ∧ t.tly = s.tly ∧ ∀ p, canAccept t p = false)
    ∧ (fld (rget s 0xD000) 15 0 = 0 → ∃ t, exec (.scrubStep .good) s = .next t ∧ t = { s with freeCtr := t.freeCtr })
    ∧ exec .ceWindowReset s = .next { s with tnk := { s.tnk with ceWin := [], noSpare := [] } }
    ∧ (∀ b by_ r l, s.tnk.copying = none → s.tnk.trigs = (b, by_) :: r → servedBank s b = some l → mayRetire s (b / 9) = true →
        (groupOf s (b / 9)).ready = true → canTink s b = true → ∃ t, exec .retirementCopy s = .next t
          ∧ t.tnk.copying = some ⟨b, l, 9 * (b / 9) + 8, 0, none, by_⟩
          ∧ t.tnk.trigs = r ∧ t.tnk.map = s.tnk.map ∧ t.mil.tinker = s.mil.tinker ++ [⟨b, 0, false, .copy, 0⟩] ∧ t.shf = s.shf ∧ t.tly = s.tly)
    ∧ (∀ b by_ r l, s.tnk.copying = none → s.tnk.trigs = (b, by_) :: r → servedBank s b = some l → mayRetire s (b / 9) = false →
        ∃ u t, exec .retirementCopy s = .next t ∧ u = { s with tnk := { s.tnk with trigs := r } } ∧ t.tnk.copying = none
          ∧ (∀ tag, by_ = some tag → Completed u t tag (outc .capacity (0xA000 + b) 0)) ∧ t.shf = s.shf)
    ∧ (∀ c, s.tnk.copying = some c → 64 ≤ c.entry → c.lbank < 64 → ∃ u t, exec .retirementSwitch s = .next t ∧ physOf u 0 c.lbank = c.spare
        ∧ (∀ l, l < 64 → l ≠ c.lbank → physOf u 0 l = physOf s 0 l) ∧ u.tnk.copying = none ∧ u.tnk.used = s.tnk.used + 1
        ∧ u.tnk.retired = s.tnk.retired ++ [c.bank] ∧ u.tnk.trigs = s.tnk.trigs.filter (fun x => x.1 != c.bank)
        ∧ (c.bank < 72 → tget 0 u.tnk.shadow (c.bank / 9) = BitVec.ofNat 32 (2 ^ 31 + 256 * (c.lbank % 8) + c.bank))
        ∧ u.shf = s.shf ∧ u.hay = s.hay ∧ u.tly = s.tly ∧ t.shf = s.shf ∧ t.hay.mem = s.hay.mem
        ∧ (retirers s c = [] → t = u) ∧ (∀ tag, retirers s c = [tag] → Completed u t tag (outc .ok 0 1))
        ∧ (∀ tag, c.by_ = some tag ∨ (c.bank, some tag) ∈ s.tnk.trigs → (tagOf t tag).st = .replying
            ∧ fld (tagOf t tag).w0 23 16 = Status.ok.code))

/-! ### Writes that act -/

/-- R126, R210, R195, R296, R330, R346, R358, R385, R387: what the acting writes of the datapath and control registers do, from any of the three
sources, while accesses are served, none of the source's earlier ones waits, and the register's island has its lock and is not switched off;
otherwise the write waits behind what its source sent before. `quiet` is the state with the source's capture ended (R390), from which everything
not named is unchanged.
Model's choices: the rows act at the register (log 57), WHERE and INFO of the entries (log 12). -/
def Obligations.ActingWritesApply : Prop :=
  ∀ (s : State) (src : RegSrc) (v : Reg),
    (awake s = true → serving s = false ∨ srcIdle src s = false →
      ∀ p ∈ [(Instr.crtWhlcommitWrite src v, 0x2060), (.asyWselWrite src v, 0x6010), (.asyWcommitWrite src v, 0x6028), (.milSeedWrite src v, 0x1004),
        (.chnDbellWrite src v, 0x8000), (.tlyResdropWrite src v, 0x9018), (.shfGpolWrite src v, 0x0000), (.hayBsetWrite src v, 0x7020)],
        exec p.1 s = .next (holdAct src ⟨BitVec.ofNat 16 p.2, some v⟩ s))
    ∧ (serving s = true → srcIdle src s = true → let quiet := setCapture src none s
    let ok := fun off : Nat => regDead s off = false ∧ regSwitchedOff s off = false
    (ok 0x2060 → ∃ t, exec (.crtWhlcommitWrite src v) s = .next t ∧ rget t 0x2060 = rget s 0x2060 ||| (v &&& 0x3F)
      ∧ (∀ k, k ≠ 0x2060 → rget t k = rget s k) ∧ t = { quiet with regs := t.regs })
    ∧ (ok 0x6010 → ∃ t, exec (.asyWselWrite src v) s = .next t ∧ rget t 0x6010 = v &&& 0xFF
      ∧ (let w := windowOf s (fld v 7 0); w.base < 2 ^ 64 → w.size < 2 ^ 64 → stagedWindow t = w)
      ∧ (∀ k, ¬ (0x6010 ≤ k ∧ k ≤ 0x6024) → rget t k = rget s k) ∧ t = { quiet with regs := t.regs })
    ∧ (ok 0x6028 → bit v 0 = true → let w := stagedWindow s
      let sel := fld (rget s 0x6010) 7 0
      (w.base + w.size ≤ 2 ^ 22 → ∃ t, exec (.asyWcommitWrite src v) s = .next t ∧ windowOf t sel = w ∧ (∀ k, k ≠ sel → windowOf t k = windowOf s k)
        ∧ t = { quiet with asy := { s.asy with windows := t.asy.windows } })
      ∧ (2 ^ 64 < w.base + w.size → ∃ t, exec (.asyWcommitWrite src v) s = .next t ∧ Logged quiet t 7 islH 0 0x6028 sel))
    ∧ (ok 0x1004 → ∃ t, exec (.milSeedWrite src v) s = .next t ∧ rget t 0x1004 = v ∧ (∀ k, k ≠ 0x1004 → rget t k = rget s k)
      ∧ (∀ g, g < 8 → (groupOf s g).ready = true → tget 1 t.mil.seeds g = v ∧ ∀ b l, b / 9 = g → l < 32 → genOf t b l = genSeed v.toNat b l)
      ∧ (∀ g, g < 8 → (groupOf s g).ready = false → tget false t.mil.reseed g = true ∧ tget 1 t.mil.seeds g = tget 1 s.mil.seeds g)
      ∧ t = { quiet with regs := t.regs, mil := t.mil })
    ∧ (ok 0x8000 → let n := fld v 30 16
      let r := ringOf s n
      (r.count ≤ r.countTo (fld v 10 0) → r.countTo (fld v 10 0) ≤ r.size → ∃ t, exec (.chnDbellWrite src v) s = .next t ∧ ringBell t n = true
        ∧ ringOf t n = { r with tail := fld v 10 0 } ∧ (∀ k, k ≠ n → ringOf t k = ringOf s k ∧ ringBell t k = ringBell s k)
        ∧ OnlyTrace { quiet with rng := t.rng } t)
      ∧ (r.countTo (fld v 10 0) < r.count ∨ r.size < r.countTo (fld v 10 0) → ∃ t, exec (.chnDbellWrite src v) s = .next t
        ∧ ringOf t n = { r with err := true } ∧ ringBell t n = ringBell s n ∧ (∀ k, k ≠ n → ringOf t k = ringOf s k)
        ∧ rget t 0x8018 = BitVec.ofNat 32 (n + 2 ^ 16 + 2 ^ 17)))
    ∧ (ok 0x9018 → let i := fld v 7 0
      ((recOf s i).gen = fld v 11 8 → (recOf s i).st = .held ∨ (∃ o, (recOf s i).st = .cancelled o) → ∃ t, exec (.tlyResdropWrite src v) s = .next t
        ∧ (recOf t i).st = .free ∧ (recOf t i).gen = (recOf s i).gen ∧ (∀ k, k ≠ i → recOf t k = recOf s k)
        ∧ t = { quiet with tly := { s.tly with recs := t.tly.recs, bounceRec := t.tly.bounceRec } })
      ∧ ((recOf s i).gen ≠ fld v 11 8 ∨ (recOf s i).st = .free ∨ (recOf s i).st = .claimed → ∃ t, exec (.tlyResdropWrite src v) s = .next t
        ∧ Logged quiet t 0x11 islC 0 0x9018 (fld v 11 0)))
    ∧ (∀ i, i < 11 → ok (0xC000 + 4 * i) →
      (envMin s i ≤ fld v 7 0 → fld v 7 0 ≤ envMax s i → ∃ t, exec (.lmpFsetWrite src i v) s = .next t
        ∧ fset t i = fld v 7 0 ∧ (islOf t i).target = some (if heldLow s i = true then envMin s i
            else if (islOf s i).throt = true then min (aimed s i) (fld v 7 0) else fld v 7 0)
        ∧ (∀ k, k ≠ i → islOf t k = islOf s k)
        ∧ (∀ k, k ≠ 0xC000 + 4 * i → rget t k = rget s k) ∧ t = { quiet with regs := t.regs, isl := t.isl })
      ∧ (fld v 7 0 < envMin s i ∨ envMax s i < fld v 7 0 → exec (.lmpFsetWrite src i v) s = .next quiet))
    ∧ (∀ i, i < 11 → ok (0xC080 + 4 * i) →
      (lockedDown s = true → ∃ t, exec (.lmpEnvWrite src i v) s = .next t ∧ Logged quiet t 8 islC 0 (0xC080 + 4 * i) (regSrcCode src))
      ∧ (lockedDown s = false → (freqRange i).1 ≤ fld v 7 0 → fld v 7 0 ≤ fld v 15 8 → fld v 15 8 ≤ (freqRange i).2 →
          ∃ t, exec (.lmpEnvWrite src i v) s = .next t ∧ envMin t i = fld v 7 0 ∧ envMax t i = fld v 15 8
            ∧ (fset s i < fld v 7 0 → fset t i = fld v 7 0) ∧ (fld v 15 8 < fset s i → fset t i = fld v 15 8)
            ∧ (fld v 7 0 ≤ fset s i → fset s i ≤ fld v 15 8 → fset t i = fset s i)
            ∧ fld v 7 0 ≤ aimed t i ∧ aimed t i ≤ fld v 15 8 ∧ t = { quiet with regs := t.regs, isl := t.isl }))
    ∧ (ok 0x0000 → s.ctl.unplug < 3 → ∃ t, exec (.shfGpolWrite src v) s = .next t
      ∧ (∀ g, g < 8 → groupPol t g = if fld v (2 * g + 1) (2 * g) = 3 then groupPol s g else fld v (2 * g + 1) (2 * g))
      ∧ (∀ g, g < 8 → groupPol t g = 1 → (groupOf s g).ready = false → groupOf t g = (groupOf s g).wakeUp)
      ∧ (∀ g, g < 8 → groupPol t g = 2 → (groupOf s g).st = .off → (groupOf s g).entering = none → groupOf t g = (groupOf s g).wakeUp)
      ∧ (∀ g, g < 8 → (groupOf s g).ready = true → groupOf t g = groupOf s g)
      ∧ t = { quiet with regs := t.regs, shf := { s.shf with groups := t.shf.groups } })
    ∧ (ok 0x7020 → s.ctl.unplug < 5 → s.hay.zeroing = false → ∃ t, exec (.hayBsetWrite src v) s = .next t
      ∧ (∀ h, h < 16 → fld (rget t 0x7020) (2 * h + 1) (2 * h) = if fld v (2 * h + 1) (2 * h) = 3
          ∨ (fld v (2 * h + 1) (2 * h) = 2 ∧ offRefused s h = true) then fld (rget s 0x7020) (2 * h + 1) (2 * h) else fld v (2 * h + 1) (2 * h))
      ∧ (∀ h, h < 16 → setState t h = setState s h → hbankOf t h = hbankOf s h)
      ∧ (∀ h, h < 16 → setState t h = .on → setState s h ≠ .on → hbankOf t h = (hbankOf s h).wakeUp)
      ∧ (∀ h, h < 16 → setState t h ≠ .on → setState s h = .on → waitingAt s h = 0 → hbankOf t h = (hbankOf s h).goTo (setState t h))
      ∧ t = { quiet with regs := t.regs, hay := { s.hay with banks := t.hay.banks } }))

/-- R10, R53, R360, R369, R371, R372, R377, R378: what the acting writes of the Tinker's and the window's registers do, from any source, while
accesses are served, none of the source's earlier ones waits and island C has its lock; otherwise the write waits (R385).
Model's choices: the rows act at the register (log 57), WHERE and INFO of the entries (log 12), an assignment while a copy runs (log 71). -/
def Obligations.TinkerWritesApply : Prop :=
  ∀ (s : State) (src : RegSrc) (v : Reg),
    (awake s = true → serving s = false ∨ srcIdle src s = false →
      ∀ p ∈ [(Instr.tnkLogpopWrite src v, 0xD074), (.tnkLogcntWrite src v, 0xD060), (.tnkTrcmarkWrite src v, 0xD098), (.ringerrValidClear src v, 0x8018),
        (.skewgoWrite src v, 0xD024), (.tnkFuseaddrWrite src v, 0xD018), (.cmdenWrite src v, 0xE004), (.lockWrite src v, 0xE004),
        (.tnkRmdataWrite src v, 0xD014)], exec p.1 s = .next (holdAct src ⟨BitVec.ofNat 16 p.2, some v⟩ s))
    ∧ (serving s = true → srcIdle src s = true → let quiet := setCapture src none s
    (∃ t, exec (.tnkLogpopWrite src v) s = .next t
      ∧ t = { quiet with tnk := { s.tnk with log := if bit v 0 = true then s.tnk.log.tail else s.tnk.log } })
    ∧ exec (.tnkLogcntWrite src v) s = .next { quiet with tnk := { s.tnk with lost := 0, firstBad := none } }
    ∧ (∃ t, exec (.tnkTrcmarkWrite src v) s = .next t ∧ OnlyTrace quiet t
      ∧ (bit (rget s 0xD080) 0 = true → bit (rget s 0xD080) 31 = true → s.tnk.trace.length < 1024 →
          t.tnk.trace = s.tnk.trace ++ [⟨stamp s islC, islC, 14, 0, 0, v.toNat⟩]))
    ∧ (∀ g : BitVec 3, ∃ t, exec (.shadowValidClear src g v) s = .next t
      ∧ tget 0 t.tnk.shadow g.toNat = (if bit v 31 = true then tget 0 s.tnk.shadow g.toNat &&& 0x7FFFFFFF else tget 0 s.tnk.shadow g.toNat)
      ∧ (∀ k, k ≠ g.toNat → tget 0 t.tnk.shadow k = tget 0 s.tnk.shadow k) ∧ t = { quiet with tnk := { s.tnk with shadow := t.tnk.shadow } })
    ∧ (∃ t, exec (.ringerrValidClear src v) s = .next t
      ∧ rget t 0x8018 = (if bit v 16 = true then rget s 0x8018 &&& 0xFFFEFFFF else rget s 0x8018)
      ∧ (∀ k, k ≠ 0x8018 → rget t k = rget s k) ∧ t = { quiet with regs := t.regs })
    ∧ (∃ t, exec (.skewgoWrite src v) s = .next t ∧ t = { quiet with tnk := { s.tnk with skewGo := s.tnk.skewGo || bit v 0 } })
    ∧ (s.tnk.fuseBusy = false → s.tnk.fuseReady = true → ∃ t, exec (.tnkFuseaddrWrite src v) s = .next t ∧ rget t 0xD018 = v &&& 0xFF
      ∧ t.tnk = { s.tnk with fuseBusy := true } ∧ t.pin = { s.pin with fuseReq := !s.pin.fuseReq, fuseAddr := v.extractLsb' 0 8 })
    ∧ (s.tnk.fuseReady = false → ∃ t, exec (.tnkFuseaddrWrite src v) s = .next t ∧ rget t 0xD018 = v &&& 0xFF
      ∧ t.tnk = { s.tnk with fuseBusy := true } ∧ t.pin = s.pin)
    ∧ (bit v 0 = false → bit v 1 = true → s.tnk.bistDone = true → bit (rget s 0x3030) 0 = true → mapBad s = false →
        ∃ t, exec (.cmdenWrite src v) s = .next t ∧ booted t = true ∧ bit (rget t 0xE004) 0 = bit (rget s 0xE004) 0
          ∧ (∀ k, k ≠ 0xE004 → rget t k = rget s k) ∧ t = { quiet with regs := t.regs })
    ∧ (bit v 0 = false → bit v 1 = true → s.tnk.bistDone = false ∨ bit (rget s 0x3030) 0 = false ∨ mapBad s = true →
        ∃ t, exec (.cmdenWrite src v) s = .next t ∧ Logged quiet t 0x11 islC 0 0xE004 (regSrcCode src))
    ∧ (bit v 0 = true → bit v 1 = false → ∃ t, exec (.lockWrite src v) s = .next t ∧ lockedDown t = true ∧ booted t = booted s
        ∧ (∀ k, k ≠ 0xE004 → rget t k = rget s k) ∧ t = { quiet with regs := t.regs })
    ∧ (bit v 0 = false → bit v 1 = false → exec (.lockWrite src v) s = .next quiet)
    ∧ (lockedDown s = true → ∃ t, exec (.tnkRmdataWrite src v) s = .next t ∧ Logged quiet t 8 islC 0 0xD014 (regSrcCode src))
    ∧ (lockedDown s = false → booted s = true → ∃ t, exec (.tnkRmdataWrite src v) s = .next t ∧ Logged quiet t 0x11 islC 0 0xD014 (regSrcCode src))
    ∧ (∀ k l, lockedDown s = false → booted s = false → rmSelected s = some (k, l) →
        (physOk k l (fld v 15 0) = true → (k = 0 → fld v 15 0 ∉ s.tnk.retired ∧ copyingIn s (l / 8) = false) →
          ∃ t, exec (.tnkRmdataWrite src v) s = .next t ∧ physOf t k l = fld v 15 0
            ∧ (∀ m, m < kindSize k → m ≠ l → physOf t k m = if servedBy s k l (fld v 15 0) = some m then physOf s k l else physOf s k m)
            ∧ t = { quiet with regs := t.regs, tnk := { s.tnk with map := t.tnk.map } })
        ∧ (physOk k l (fld v 15 0) = false ∨ (k = 0 ∧ (fld v 15 0 ∈ s.tnk.retired ∨ copyingIn s (l / 8) = true)) →
          ∃ t, exec (.tnkRmdataWrite src v) s = .next t ∧ Logged quiet t 0x11 islC 0 0xD014 (regSrcCode src))))

/-! ### The check code -/

/-- R394: the check byte of a word tests good; a word or check byte with any one bit changed tests as correctable, and the word comes back; one
with any two bits changed tests as uncorrectable. -/
def Obligations.CheckCodeCorrectsOneDetectsTwo : Prop :=
  ∀ d : Word,
    let flip := fun (i : Nat) (x : Word × Byte) => if i < 64 then (x.1 ^^^ (1#64 <<< i), x.2) else (x.1, x.2 ^^^ (1#8 <<< (i - 64)))
    let good := (d, checkByte d)
    eccTest d (checkByte d) = (d, .good)
    ∧ (∀ i, i < 72 → eccTest (flip i good).1 (flip i good).2 = (d, .corrected))
    ∧ ∀ i j, i < j → j < 72 → (eccTest (flip j (flip i good)).1 (flip j (flip i good)).2).2 = .uncorr
end

