-- ==== Sys2Proof/Laws/Tables.lean ====
section
/-! SUPPORT. Sparse tables and storage: what a read finds after a write, and that every operation keeps the canonical form. -/

namespace Sys2Proof.Laws

open Sys2Proof.Machine

variable {α : Type}

/-! ### Reads after writes -/

@[simp] theorem tget_tput_self (d v : α) (k : Nat) (t : Tbl α) : tget d (tput k v t) k = v := by
  induction t with
  | nil => simp [tput, tget]
  | cons p r ih =>
    obtain ⟨a, w⟩ := p
    simp only [tput]
    split
    · simp [tget]
    · split
      · simp [tget]
      · simp [tget, *]

theorem tget_tput_ne (d v : α) {k j : Nat} (h : j ≠ k) (t : Tbl α) : tget d (tput k v t) j = tget d t j := by
  induction t with
  | nil => simp [tput, tget, Ne.symm h]
  | cons p r ih =>
    obtain ⟨a, w⟩ := p
    simp only [tput]
    split
    · simp [tget, Ne.symm h]
    · split
      · subst_vars; simp [tget, Ne.symm h]
      · simp [tget, ih]

@[simp] theorem tget_tdel_self (d : α) (k : Nat) (t : Tbl α) : tget d (tdel k t) k = d := by
  induction t with
  | nil => rfl
  | cons p r ih =>
    obtain ⟨a, w⟩ := p
    simp only [tdel]
    split
    · exact ih
    · simp [tget, *]

theorem tget_tdel_ne (d : α) {k j : Nat} (h : j ≠ k) (t : Tbl α) : tget d (tdel k t) j = tget d t j := by
  induction t with
  | nil => rfl
  | cons p r ih =>
    obtain ⟨a, w⟩ := p
    simp only [tdel]
    split
    · subst_vars; simp [tget, Ne.symm h, ih]
    · simp [tget, ih]

@[simp] theorem tget_tset_self [DecidableEq α] (d v : α) (k : Nat) (t : Tbl α) : tget d (tset d t k v) k = v := by
  unfold tset
  split
  · subst_vars; simp
  · simp

theorem tget_tset_ne [DecidableEq α] {c : α} (d v : α) {k j : Nat} (h : j ≠ k) (t : Tbl α) : tget c (tset d t k v) j = tget c t j := by
  unfold tset
  split
  · exact tget_tdel_ne c h t
  · exact tget_tput_ne c v h t

/-! ### The canonical form -/

/-- Every key of a table lies above `a`. -/
def above (a : Nat) (t : Tbl α) : Prop := ∀ p ∈ t, a < p.1

theorem twf_cons [DecidableEq α] (d : α) (a : Nat) (v : α) (r : Tbl α) :
    twf d ((a, v) :: r) = true ↔ v ≠ d ∧ above a r ∧ twf d r = true := by
  induction r generalizing a v with
  | nil => simp [twf, above]
  | cons p r ih =>
    obtain ⟨b, w⟩ := p
    simp only [twf, Bool.and_eq_true, decide_eq_true_eq]
    constructor
    · rintro ⟨⟨h1, h2⟩, h3⟩
      refine ⟨h2, ?_, h3⟩
      have := (ih b w).1 h3
      intro q hq
      rcases List.mem_cons.1 hq with rfl | hq
      · exact h1
      · exact lt_trans h1 (this.2.1 q hq)
    · rintro ⟨h1, h2, h3⟩
      exact ⟨⟨h2 (b, w) (by simp), h1⟩, h3⟩

theorem above_tput {a k : Nat} (v : α) (t : Tbl α) (h : above a t) (hk : a < k) : above a (tput k v t) := by
  induction t with
  | nil => intro p hp; simp [tput] at hp; subst hp; exact hk
  | cons q r ih =>
    obtain ⟨b, w⟩ := q
    have hr : above a r := fun p hp => h p (by simp [hp])
    have hb : a < b := h (b, w) (by simp)
    simp only [tput]
    split
    · intro p hp; simp only [List.mem_cons] at hp
      rcases hp with rfl | rfl | hp
      · exact hk
      · exact hb
      · exact hr p hp
    · split
      · intro p hp; simp only [List.mem_cons] at hp
        rcases hp with rfl | hp
        · exact hk
        · exact hr p hp
      · intro p hp; simp only [List.mem_cons] at hp
        rcases hp with rfl | hp
        · exact hb
        · exact ih hr p hp

theorem twf_tput [DecidableEq α] {d v : α} (hv : v ≠ d) (k : Nat) (t : Tbl α) (h : twf d t = true) : twf d (tput k v t) = true := by
  induction t with
  | nil => simp [tput, twf, hv]
  | cons q r ih =>
    obtain ⟨b, w⟩ := q
    have h' := (twf_cons d b w r).1 h
    simp only [tput]
    split
    · refine (twf_cons d k v _).2 ⟨hv, ?_, h⟩
      intro p hp; simp only [List.mem_cons] at hp
      rcases hp with rfl | hp
      · assumption
      · exact lt_trans ‹k < b› (h'.2.1 p hp)
    · split
      · subst_vars; exact (twf_cons d _ v r).2 ⟨hv, h'.2.1, h'.2.2⟩
      · exact (twf_cons d b w _).2 ⟨h'.1, above_tput v r h'.2.1 (by omega), ih h'.2.2⟩

theorem above_tdel {a : Nat} (k : Nat) (t : Tbl α) (h : above a t) : above a (tdel k t) := by
  induction t with
  | nil => exact h
  | cons q r ih =>
    obtain ⟨b, w⟩ := q
    have hr : above a r := fun p hp => h p (by simp [hp])
    simp only [tdel]
    split
    · exact ih hr
    · intro p hp; simp only [List.mem_cons] at hp
      rcases hp with rfl | hp
      · exact h (b, w) (by simp)
      · exact ih hr p hp

theorem twf_tdel [DecidableEq α] (d : α) (k : Nat) (t : Tbl α) (h : twf d t = true) : twf d (tdel k t) = true := by
  induction t with
  | nil => exact h
  | cons q r ih =>
    obtain ⟨b, w⟩ := q
    have h' := (twf_cons d b w r).1 h
    simp only [tdel]
    split
    · exact ih h'.2.2
    · exact (twf_cons d b w _).2 ⟨h'.1, above_tdel k r h'.2.1, ih h'.2.2⟩

/-- Setting an entry keeps the canonical form. -/
theorem twf_tset [DecidableEq α] (d v : α) (k : Nat) (t : Tbl α) (h : twf d t = true) : twf d (tset d t k v) = true := by
  unfold tset
  split
  · exact twf_tdel d k t h
  · exact twf_tput ‹_› k t h

/-- A part of a table in canonical form is in canonical form. -/
theorem twf_filter [DecidableEq α] (d : α) (p : Nat × α → Bool) (t : Tbl α) (h : twf d t = true) : twf d (t.filter p) = true := by
  induction t with
  | nil => exact h
  | cons q r ih =>
    obtain ⟨b, w⟩ := q
    have h' := (twf_cons d b w r).1 h
    by_cases hp : p (b, w) = true
    · rw [List.filter_cons_of_pos hp]
      exact (twf_cons d b w _).2 ⟨h'.1, fun x hx => h'.2.1 x (List.mem_of_mem_filter hx), ih h'.2.2⟩
    · rw [List.filter_cons_of_neg hp]
      exact ih h'.2.2

/-- Two tables in canonical form, every key of the first below every key of the second. -/
theorem twf_append [DecidableEq α] (d : α) (t u : Tbl α) (ht : twf d t = true) (hu : twf d u = true)
    (h : ∀ p ∈ t, ∀ q ∈ u, p.1 < q.1) : twf d (t ++ u) = true := by
  induction t with
  | nil => exact hu
  | cons q r ih =>
    obtain ⟨b, w⟩ := q
    have h' := (twf_cons d b w r).1 ht
    refine (twf_cons d b w _).2 ⟨h'.1, ?_, ih h'.2.2 fun p hp q hq => h p (by simp [hp]) q hq⟩
    intro p hp
    rcases List.mem_append.1 hp with hp | hp
    · exact h'.2.1 p hp
    · exact h (b, w) (by simp) p hp

/-! ### Storage -/

/-- A byte written is read back. -/
@[simp] theorem read_write_self (m : Memory) (a : Nat) (b : Byte) : (m.write a b).read a = b := tget_tset_self _ _ _ _

/-- A write leaves every other byte as it was. -/
theorem read_write_ne (m : Memory) {a c : Nat} (b : Byte) (h : c ≠ a) : (m.write a b).read c = m.read c := tget_tset_ne _ _ h _

/-- A write keeps the canonical form. -/
theorem wf_write (m : Memory) (a : Nat) (b : Byte) (h : m.wf = true) : (m.write a b).wf = true := twf_tset _ _ _ _ h

/-- Writing a list of bytes keeps the canonical form. -/
theorem wf_writeList (m : Memory) (a : Nat) (l : List Byte) (h : m.wf = true) : (m.writeList a l).wf = true := by
  induction l generalizing m a with
  | nil => exact h
  | cons b r ih => exact ih _ _ (wf_write m a b h)

/-- Writing a word keeps the canonical form. -/
theorem wf_write64 (m : Memory) (a : Nat) (w : Word) (h : m.wf = true) : (m.write64 a w).wf = true := wf_writeList m a _ h

/-- Clearing a range keeps the canonical form. -/
theorem wf_clear (m : Memory) (a n : Nat) (h : m.wf = true) : (m.clear a n).wf = true := twf_filter _ _ _ h

/-- The non-zero bytes of a range, in order. -/
theorem wf_range (a n : Nat) (f : Nat → Byte) :
    twf (0 : Byte) ((List.range n).filterMap fun i => if f i = 0 then none else some (a + i, f i)) = true := by
  induction n with
  | zero => rfl
  | succ n ih =>
    rw [List.range_succ, List.filterMap_append]
    refine twf_append _ _ _ ih ?_ ?_
    · by_cases hz : f n = 0
      · rw [List.filterMap_cons_none (by simp [hz])]; rfl
      · rw [List.filterMap_cons_some (b := (a + n, f n)) (by simp only [if_neg hz])]
        simpa only [List.filterMap_nil, twf, decide_eq_true_eq] using hz
    · intro p hp q hq
      simp only [List.mem_filterMap, List.mem_range, Option.ite_none_left_eq_some, Option.some.injEq, List.mem_singleton] at hp hq
      obtain ⟨i, hi, -, rfl⟩ := hp
      obtain ⟨j, rfl, -, rfl⟩ := hq
      simp only
      omega

/-- Filling a range keeps the canonical form. -/
theorem wf_fill (m : Memory) (a n : Nat) (f : Nat → Byte) (h : m.wf = true) : (m.fill a n f).wf = true := by
  unfold Memory.fill Memory.wf
  refine twf_append _ _ _ (twf_append _ _ _ (twf_filter _ _ _ h) (wf_range a n f) ?_) (twf_filter _ _ _ h) ?_
  · intro p hp q hq
    simp only [List.mem_filter, decide_eq_true_eq, List.mem_filterMap, List.mem_range, Option.ite_none_left_eq_some, Option.some.injEq] at hp hq
    obtain ⟨i, hi, -, rfl⟩ := hq
    have := hp.2
    simp only
    omega
  · intro p hp q hq
    simp only [List.mem_append, List.mem_filter, decide_eq_true_eq, List.mem_filterMap, List.mem_range, Option.ite_none_left_eq_some,
      Option.some.injEq] at hp hq
    have := hq.2
    rcases hp with hp | ⟨i, hi, -, rfl⟩
    · have := hp.2; omega
    · simp only; omega

/-- Bytes outside a cleared range are as they were. -/
theorem read_clear_out (m : Memory) {a n c : Nat} (h : c < a ∨ a + n ≤ c) : (m.clear a n).read c = m.read c := by
  unfold Memory.clear Memory.read
  induction m with
  | nil => rfl
  | cons p r ih =>
    obtain ⟨b, w⟩ := p
    by_cases hb : (!(decide (a ≤ b) && decide (b < a + n))) = true
    · rw [List.filter_cons_of_pos (by simpa using hb)]
      simp only [tget, ih]
    · rw [List.filter_cons_of_neg (by simpa using hb)]
      have : ¬ b = c := by intro e; subst e; simp at hb; omega
      simp only [tget, this, if_false, ih]

/-- Every byte of a cleared range reads as zero. -/
theorem read_clear_in (m : Memory) {a n c : Nat} (h : a ≤ c) (h' : c < a + n) : (m.clear a n).read c = 0 := by
  unfold Memory.clear Memory.read
  induction m with
  | nil => rfl
  | cons p r ih =>
    obtain ⟨b, w⟩ := p
    by_cases hb : (!(decide (a ≤ b) && decide (b < a + n))) = true
    · rw [List.filter_cons_of_pos (by simpa using hb)]
      have : ¬ b = c := by intro e; subst e; simp [h, h'] at hb
      simp only [tget, this, if_false, ih]
    · rw [List.filter_cons_of_neg (by simpa using hb)]
      exact ih

end Sys2Proof.Laws
end

