-- ==== Sys2Proof/Laws/State.lean ====
section
/-! SUPPORT. What each named update leaves of the state: one lemma per field, and what it changes read back. -/

namespace Sys2Proof.Laws

open Sys2Proof.Machine

/-! ### rset -/

@[simp] theorem rset_pending (off : Nat) (v : Reg) (s : State) : (rset off v s).pending = s.pending := rfl
@[simp] theorem rset_shf (off : Nat) (v : Reg) (s : State) : (rset off v s).shf = s.shf := rfl
@[simp] theorem rset_mil (off : Nat) (v : Reg) (s : State) : (rset off v s).mil = s.mil := rfl
@[simp] theorem rset_crt (off : Nat) (v : Reg) (s : State) : (rset off v s).crt = s.crt := rfl
@[simp] theorem rset_arr (off : Nat) (v : Reg) (s : State) : (rset off v s).arr = s.arr := rfl
@[simp] theorem rset_hay (off : Nat) (v : Reg) (s : State) : (rset off v s).hay = s.hay := rfl
@[simp] theorem rset_asy (off : Nat) (v : Reg) (s : State) : (rset off v s).asy = s.asy := rfl
@[simp] theorem rset_noc (off : Nat) (v : Reg) (s : State) : (rset off v s).noc = s.noc := rfl
@[simp] theorem rset_hab (off : Nat) (v : Reg) (s : State) : (rset off v s).hab = s.hab := rfl
@[simp] theorem rset_rng (off : Nat) (v : Reg) (s : State) : (rset off v s).rng = s.rng := rfl
@[simp] theorem rset_thr (off : Nat) (v : Reg) (s : State) : (rset off v s).thr = s.thr := rfl
@[simp] theorem rset_tly (off : Nat) (v : Reg) (s : State) : (rset off v s).tly = s.tly := rfl
@[simp] theorem rset_isl (off : Nat) (v : Reg) (s : State) : (rset off v s).isl = s.isl := rfl
@[simp] theorem rset_tnk (off : Nat) (v : Reg) (s : State) : (rset off v s).tnk = s.tnk := rfl
@[simp] theorem rset_ctl (off : Nat) (v : Reg) (s : State) : (rset off v s).ctl = s.ctl := rfl
@[simp] theorem rset_pin (off : Nat) (v : Reg) (s : State) : (rset off v s).pin = s.pin := rfl
@[simp] theorem rset_freeCtr (off : Nat) (v : Reg) (s : State) : (rset off v s).freeCtr = s.freeCtr := rfl

/-! ### cnt -/

@[simp] theorem cnt_pending (off n : Nat) (s : State) : (cnt off n s).pending = s.pending := rfl
@[simp] theorem cnt_shf (off n : Nat) (s : State) : (cnt off n s).shf = s.shf := rfl
@[simp] theorem cnt_mil (off n : Nat) (s : State) : (cnt off n s).mil = s.mil := rfl
@[simp] theorem cnt_crt (off n : Nat) (s : State) : (cnt off n s).crt = s.crt := rfl
@[simp] theorem cnt_arr (off n : Nat) (s : State) : (cnt off n s).arr = s.arr := rfl
@[simp] theorem cnt_hay (off n : Nat) (s : State) : (cnt off n s).hay = s.hay := rfl
@[simp] theorem cnt_asy (off n : Nat) (s : State) : (cnt off n s).asy = s.asy := rfl
@[simp] theorem cnt_noc (off n : Nat) (s : State) : (cnt off n s).noc = s.noc := rfl
@[simp] theorem cnt_hab (off n : Nat) (s : State) : (cnt off n s).hab = s.hab := rfl
@[simp] theorem cnt_rng (off n : Nat) (s : State) : (cnt off n s).rng = s.rng := rfl
@[simp] theorem cnt_thr (off n : Nat) (s : State) : (cnt off n s).thr = s.thr := rfl
@[simp] theorem cnt_tly (off n : Nat) (s : State) : (cnt off n s).tly = s.tly := rfl
@[simp] theorem cnt_isl (off n : Nat) (s : State) : (cnt off n s).isl = s.isl := rfl
@[simp] theorem cnt_tnk (off n : Nat) (s : State) : (cnt off n s).tnk = s.tnk := rfl
@[simp] theorem cnt_ctl (off n : Nat) (s : State) : (cnt off n s).ctl = s.ctl := rfl
@[simp] theorem cnt_pin (off n : Nat) (s : State) : (cnt off n s).pin = s.pin := rfl
@[simp] theorem cnt_freeCtr (off n : Nat) (s : State) : (cnt off n s).freeCtr = s.freeCtr := rfl

/-! ### setTag -/

@[simp] theorem setTag_pending (t : Tag) (e : TagEntry) (s : State) : (setTag t e s).pending = s.pending := rfl
@[simp] theorem setTag_regs (t : Tag) (e : TagEntry) (s : State) : (setTag t e s).regs = s.regs := rfl
@[simp] theorem setTag_shf (t : Tag) (e : TagEntry) (s : State) : (setTag t e s).shf = s.shf := rfl
@[simp] theorem setTag_mil (t : Tag) (e : TagEntry) (s : State) : (setTag t e s).mil = s.mil := rfl
@[simp] theorem setTag_crt (t : Tag) (e : TagEntry) (s : State) : (setTag t e s).crt = s.crt := rfl
@[simp] theorem setTag_arr (t : Tag) (e : TagEntry) (s : State) : (setTag t e s).arr = s.arr := rfl
@[simp] theorem setTag_hay (t : Tag) (e : TagEntry) (s : State) : (setTag t e s).hay = s.hay := rfl
@[simp] theorem setTag_asy (t : Tag) (e : TagEntry) (s : State) : (setTag t e s).asy = s.asy := rfl
@[simp] theorem setTag_noc (t : Tag) (e : TagEntry) (s : State) : (setTag t e s).noc = s.noc := rfl
@[simp] theorem setTag_hab (t : Tag) (e : TagEntry) (s : State) : (setTag t e s).hab = s.hab := rfl
@[simp] theorem setTag_rng (t : Tag) (e : TagEntry) (s : State) : (setTag t e s).rng = s.rng := rfl
@[simp] theorem setTag_thr (t : Tag) (e : TagEntry) (s : State) : (setTag t e s).thr = s.thr := rfl
@[simp] theorem setTag_isl (t : Tag) (e : TagEntry) (s : State) : (setTag t e s).isl = s.isl := rfl
@[simp] theorem setTag_tnk (t : Tag) (e : TagEntry) (s : State) : (setTag t e s).tnk = s.tnk := rfl
@[simp] theorem setTag_ctl (t : Tag) (e : TagEntry) (s : State) : (setTag t e s).ctl = s.ctl := rfl
@[simp] theorem setTag_pin (t : Tag) (e : TagEntry) (s : State) : (setTag t e s).pin = s.pin := rfl
@[simp] theorem setTag_freeCtr (t : Tag) (e : TagEntry) (s : State) : (setTag t e s).freeCtr = s.freeCtr := rfl

/-! ### updTag -/

@[simp] theorem updTag_pending (t : Tag) (f : TagEntry → TagEntry) (s : State) : (updTag t f s).pending = s.pending := rfl
@[simp] theorem updTag_regs (t : Tag) (f : TagEntry → TagEntry) (s : State) : (updTag t f s).regs = s.regs := rfl
@[simp] theorem updTag_shf (t : Tag) (f : TagEntry → TagEntry) (s : State) : (updTag t f s).shf = s.shf := rfl
@[simp] theorem updTag_mil (t : Tag) (f : TagEntry → TagEntry) (s : State) : (updTag t f s).mil = s.mil := rfl
@[simp] theorem updTag_crt (t : Tag) (f : TagEntry → TagEntry) (s : State) : (updTag t f s).crt = s.crt := rfl
@[simp] theorem updTag_arr (t : Tag) (f : TagEntry → TagEntry) (s : State) : (updTag t f s).arr = s.arr := rfl
@[simp] theorem updTag_hay (t : Tag) (f : TagEntry → TagEntry) (s : State) : (updTag t f s).hay = s.hay := rfl
@[simp] theorem updTag_asy (t : Tag) (f : TagEntry → TagEntry) (s : State) : (updTag t f s).asy = s.asy := rfl
@[simp] theorem updTag_noc (t : Tag) (f : TagEntry → TagEntry) (s : State) : (updTag t f s).noc = s.noc := rfl
@[simp] theorem updTag_hab (t : Tag) (f : TagEntry → TagEntry) (s : State) : (updTag t f s).hab = s.hab := rfl
@[simp] theorem updTag_rng (t : Tag) (f : TagEntry → TagEntry) (s : State) : (updTag t f s).rng = s.rng := rfl
@[simp] theorem updTag_thr (t : Tag) (f : TagEntry → TagEntry) (s : State) : (updTag t f s).thr = s.thr := rfl
@[simp] theorem updTag_isl (t : Tag) (f : TagEntry → TagEntry) (s : State) : (updTag t f s).isl = s.isl := rfl
@[simp] theorem updTag_tnk (t : Tag) (f : TagEntry → TagEntry) (s : State) : (updTag t f s).tnk = s.tnk := rfl
@[simp] theorem updTag_ctl (t : Tag) (f : TagEntry → TagEntry) (s : State) : (updTag t f s).ctl = s.ctl := rfl
@[simp] theorem updTag_pin (t : Tag) (f : TagEntry → TagEntry) (s : State) : (updTag t f s).pin = s.pin := rfl
@[simp] theorem updTag_freeCtr (t : Tag) (f : TagEntry → TagEntry) (s : State) : (updTag t f s).freeCtr = s.freeCtr := rfl

/-! ### updJob -/

@[simp] theorem updJob_pending (t : Tag) (f : Job → Job) (s : State) : (updJob t f s).pending = s.pending := rfl
@[simp] theorem updJob_regs (t : Tag) (f : Job → Job) (s : State) : (updJob t f s).regs = s.regs := rfl
@[simp] theorem updJob_shf (t : Tag) (f : Job → Job) (s : State) : (updJob t f s).shf = s.shf := rfl
@[simp] theorem updJob_mil (t : Tag) (f : Job → Job) (s : State) : (updJob t f s).mil = s.mil := rfl
@[simp] theorem updJob_crt (t : Tag) (f : Job → Job) (s : State) : (updJob t f s).crt = s.crt := rfl
@[simp] theorem updJob_arr (t : Tag) (f : Job → Job) (s : State) : (updJob t f s).arr = s.arr := rfl
@[simp] theorem updJob_hay (t : Tag) (f : Job → Job) (s : State) : (updJob t f s).hay = s.hay := rfl
@[simp] theorem updJob_asy (t : Tag) (f : Job → Job) (s : State) : (updJob t f s).asy = s.asy := rfl
@[simp] theorem updJob_noc (t : Tag) (f : Job → Job) (s : State) : (updJob t f s).noc = s.noc := rfl
@[simp] theorem updJob_hab (t : Tag) (f : Job → Job) (s : State) : (updJob t f s).hab = s.hab := rfl
@[simp] theorem updJob_rng (t : Tag) (f : Job → Job) (s : State) : (updJob t f s).rng = s.rng := rfl
@[simp] theorem updJob_thr (t : Tag) (f : Job → Job) (s : State) : (updJob t f s).thr = s.thr := rfl
@[simp] theorem updJob_isl (t : Tag) (f : Job → Job) (s : State) : (updJob t f s).isl = s.isl := rfl
@[simp] theorem updJob_tnk (t : Tag) (f : Job → Job) (s : State) : (updJob t f s).tnk = s.tnk := rfl
@[simp] theorem updJob_ctl (t : Tag) (f : Job → Job) (s : State) : (updJob t f s).ctl = s.ctl := rfl
@[simp] theorem updJob_pin (t : Tag) (f : Job → Job) (s : State) : (updJob t f s).pin = s.pin := rfl
@[simp] theorem updJob_freeCtr (t : Tag) (f : Job → Job) (s : State) : (updJob t f s).freeCtr = s.freeCtr := rfl

/-! ### setRec -/

@[simp] theorem setRec_pending (i : Nat) (r : Rec) (s : State) : (setRec i r s).pending = s.pending := rfl
@[simp] theorem setRec_regs (i : Nat) (r : Rec) (s : State) : (setRec i r s).regs = s.regs := rfl
@[simp] theorem setRec_shf (i : Nat) (r : Rec) (s : State) : (setRec i r s).shf = s.shf := rfl
@[simp] theorem setRec_mil (i : Nat) (r : Rec) (s : State) : (setRec i r s).mil = s.mil := rfl
@[simp] theorem setRec_crt (i : Nat) (r : Rec) (s : State) : (setRec i r s).crt = s.crt := rfl
@[simp] theorem setRec_arr (i : Nat) (r : Rec) (s : State) : (setRec i r s).arr = s.arr := rfl
@[simp] theorem setRec_hay (i : Nat) (r : Rec) (s : State) : (setRec i r s).hay = s.hay := rfl
@[simp] theorem setRec_asy (i : Nat) (r : Rec) (s : State) : (setRec i r s).asy = s.asy := rfl
@[simp] theorem setRec_noc (i : Nat) (r : Rec) (s : State) : (setRec i r s).noc = s.noc := rfl
@[simp] theorem setRec_hab (i : Nat) (r : Rec) (s : State) : (setRec i r s).hab = s.hab := rfl
@[simp] theorem setRec_rng (i : Nat) (r : Rec) (s : State) : (setRec i r s).rng = s.rng := rfl
@[simp] theorem setRec_thr (i : Nat) (r : Rec) (s : State) : (setRec i r s).thr = s.thr := rfl
@[simp] theorem setRec_isl (i : Nat) (r : Rec) (s : State) : (setRec i r s).isl = s.isl := rfl
@[simp] theorem setRec_tnk (i : Nat) (r : Rec) (s : State) : (setRec i r s).tnk = s.tnk := rfl
@[simp] theorem setRec_ctl (i : Nat) (r : Rec) (s : State) : (setRec i r s).ctl = s.ctl := rfl
@[simp] theorem setRec_pin (i : Nat) (r : Rec) (s : State) : (setRec i r s).pin = s.pin := rfl
@[simp] theorem setRec_freeCtr (i : Nat) (r : Rec) (s : State) : (setRec i r s).freeCtr = s.freeCtr := rfl

/-! ### freeRec -/

@[simp] theorem freeRec_pending (i : Nat) (s : State) : (freeRec i s).pending = s.pending := rfl
@[simp] theorem freeRec_regs (i : Nat) (s : State) : (freeRec i s).regs = s.regs := rfl
@[simp] theorem freeRec_shf (i : Nat) (s : State) : (freeRec i s).shf = s.shf := rfl
@[simp] theorem freeRec_mil (i : Nat) (s : State) : (freeRec i s).mil = s.mil := rfl
@[simp] theorem freeRec_crt (i : Nat) (s : State) : (freeRec i s).crt = s.crt := rfl
@[simp] theorem freeRec_arr (i : Nat) (s : State) : (freeRec i s).arr = s.arr := rfl
@[simp] theorem freeRec_hay (i : Nat) (s : State) : (freeRec i s).hay = s.hay := rfl
@[simp] theorem freeRec_asy (i : Nat) (s : State) : (freeRec i s).asy = s.asy := rfl
@[simp] theorem freeRec_noc (i : Nat) (s : State) : (freeRec i s).noc = s.noc := rfl
@[simp] theorem freeRec_hab (i : Nat) (s : State) : (freeRec i s).hab = s.hab := rfl
@[simp] theorem freeRec_rng (i : Nat) (s : State) : (freeRec i s).rng = s.rng := rfl
@[simp] theorem freeRec_thr (i : Nat) (s : State) : (freeRec i s).thr = s.thr := rfl
@[simp] theorem freeRec_isl (i : Nat) (s : State) : (freeRec i s).isl = s.isl := rfl
@[simp] theorem freeRec_tnk (i : Nat) (s : State) : (freeRec i s).tnk = s.tnk := rfl
@[simp] theorem freeRec_ctl (i : Nat) (s : State) : (freeRec i s).ctl = s.ctl := rfl
@[simp] theorem freeRec_pin (i : Nat) (s : State) : (freeRec i s).pin = s.pin := rfl
@[simp] theorem freeRec_freeCtr (i : Nat) (s : State) : (freeRec i s).freeCtr = s.freeCtr := rfl

/-! ### cancelRecs -/

@[simp] theorem cancelRecs_pending (p : TagEntry → Bool) (o : Outc) (s : State) : (cancelRecs p o s).pending = s.pending := rfl
@[simp] theorem cancelRecs_regs (p : TagEntry → Bool) (o : Outc) (s : State) : (cancelRecs p o s).regs = s.regs := rfl
@[simp] theorem cancelRecs_shf (p : TagEntry → Bool) (o : Outc) (s : State) : (cancelRecs p o s).shf = s.shf := rfl
@[simp] theorem cancelRecs_mil (p : TagEntry → Bool) (o : Outc) (s : State) : (cancelRecs p o s).mil = s.mil := rfl
@[simp] theorem cancelRecs_crt (p : TagEntry → Bool) (o : Outc) (s : State) : (cancelRecs p o s).crt = s.crt := rfl
@[simp] theorem cancelRecs_arr (p : TagEntry → Bool) (o : Outc) (s : State) : (cancelRecs p o s).arr = s.arr := rfl
@[simp] theorem cancelRecs_hay (p : TagEntry → Bool) (o : Outc) (s : State) : (cancelRecs p o s).hay = s.hay := rfl
@[simp] theorem cancelRecs_asy (p : TagEntry → Bool) (o : Outc) (s : State) : (cancelRecs p o s).asy = s.asy := rfl
@[simp] theorem cancelRecs_noc (p : TagEntry → Bool) (o : Outc) (s : State) : (cancelRecs p o s).noc = s.noc := rfl
@[simp] theorem cancelRecs_hab (p : TagEntry → Bool) (o : Outc) (s : State) : (cancelRecs p o s).hab = s.hab := rfl
@[simp] theorem cancelRecs_rng (p : TagEntry → Bool) (o : Outc) (s : State) : (cancelRecs p o s).rng = s.rng := rfl
@[simp] theorem cancelRecs_thr (p : TagEntry → Bool) (o : Outc) (s : State) : (cancelRecs p o s).thr = s.thr := rfl
@[simp] theorem cancelRecs_isl (p : TagEntry → Bool) (o : Outc) (s : State) : (cancelRecs p o s).isl = s.isl := rfl
@[simp] theorem cancelRecs_tnk (p : TagEntry → Bool) (o : Outc) (s : State) : (cancelRecs p o s).tnk = s.tnk := rfl
@[simp] theorem cancelRecs_ctl (p : TagEntry → Bool) (o : Outc) (s : State) : (cancelRecs p o s).ctl = s.ctl := rfl
@[simp] theorem cancelRecs_pin (p : TagEntry → Bool) (o : Outc) (s : State) : (cancelRecs p o s).pin = s.pin := rfl
@[simp] theorem cancelRecs_freeCtr (p : TagEntry → Bool) (o : Outc) (s : State) : (cancelRecs p o s).freeCtr = s.freeCtr := rfl

/-! ### addBits -/

@[simp] theorem addBits_pending (t : Tag) (b : BitVec 16) (s : State) : (addBits t b s).pending = s.pending := rfl
@[simp] theorem addBits_regs (t : Tag) (b : BitVec 16) (s : State) : (addBits t b s).regs = s.regs := rfl
@[simp] theorem addBits_shf (t : Tag) (b : BitVec 16) (s : State) : (addBits t b s).shf = s.shf := rfl
@[simp] theorem addBits_mil (t : Tag) (b : BitVec 16) (s : State) : (addBits t b s).mil = s.mil := rfl
@[simp] theorem addBits_crt (t : Tag) (b : BitVec 16) (s : State) : (addBits t b s).crt = s.crt := rfl
@[simp] theorem addBits_arr (t : Tag) (b : BitVec 16) (s : State) : (addBits t b s).arr = s.arr := rfl
@[simp] theorem addBits_hay (t : Tag) (b : BitVec 16) (s : State) : (addBits t b s).hay = s.hay := rfl
@[simp] theorem addBits_asy (t : Tag) (b : BitVec 16) (s : State) : (addBits t b s).asy = s.asy := rfl
@[simp] theorem addBits_noc (t : Tag) (b : BitVec 16) (s : State) : (addBits t b s).noc = s.noc := rfl
@[simp] theorem addBits_hab (t : Tag) (b : BitVec 16) (s : State) : (addBits t b s).hab = s.hab := rfl
@[simp] theorem addBits_rng (t : Tag) (b : BitVec 16) (s : State) : (addBits t b s).rng = s.rng := rfl
@[simp] theorem addBits_thr (t : Tag) (b : BitVec 16) (s : State) : (addBits t b s).thr = s.thr := rfl
@[simp] theorem addBits_isl (t : Tag) (b : BitVec 16) (s : State) : (addBits t b s).isl = s.isl := rfl
@[simp] theorem addBits_tnk (t : Tag) (b : BitVec 16) (s : State) : (addBits t b s).tnk = s.tnk := rfl
@[simp] theorem addBits_ctl (t : Tag) (b : BitVec 16) (s : State) : (addBits t b s).ctl = s.ctl := rfl
@[simp] theorem addBits_pin (t : Tag) (b : BitVec 16) (s : State) : (addBits t b s).pin = s.pin := rfl
@[simp] theorem addBits_freeCtr (t : Tag) (b : BitVec 16) (s : State) : (addBits t b s).freeCtr = s.freeCtr := rfl

/-! ### addUncorr -/

@[simp] theorem addUncorr_pending (t : Tag) (tile : Nat) (wr : Bool) (seg : Nat) (s : State) : (addUncorr t tile wr seg s).pending = s.pending := rfl
@[simp] theorem addUncorr_regs (t : Tag) (tile : Nat) (wr : Bool) (seg : Nat) (s : State) : (addUncorr t tile wr seg s).regs = s.regs := rfl
@[simp] theorem addUncorr_shf (t : Tag) (tile : Nat) (wr : Bool) (seg : Nat) (s : State) : (addUncorr t tile wr seg s).shf = s.shf := rfl
@[simp] theorem addUncorr_mil (t : Tag) (tile : Nat) (wr : Bool) (seg : Nat) (s : State) : (addUncorr t tile wr seg s).mil = s.mil := rfl
@[simp] theorem addUncorr_crt (t : Tag) (tile : Nat) (wr : Bool) (seg : Nat) (s : State) : (addUncorr t tile wr seg s).crt = s.crt := rfl
@[simp] theorem addUncorr_arr (t : Tag) (tile : Nat) (wr : Bool) (seg : Nat) (s : State) : (addUncorr t tile wr seg s).arr = s.arr := rfl
@[simp] theorem addUncorr_hay (t : Tag) (tile : Nat) (wr : Bool) (seg : Nat) (s : State) : (addUncorr t tile wr seg s).hay = s.hay := rfl
@[simp] theorem addUncorr_asy (t : Tag) (tile : Nat) (wr : Bool) (seg : Nat) (s : State) : (addUncorr t tile wr seg s).asy = s.asy := rfl
@[simp] theorem addUncorr_noc (t : Tag) (tile : Nat) (wr : Bool) (seg : Nat) (s : State) : (addUncorr t tile wr seg s).noc = s.noc := rfl
@[simp] theorem addUncorr_hab (t : Tag) (tile : Nat) (wr : Bool) (seg : Nat) (s : State) : (addUncorr t tile wr seg s).hab = s.hab := rfl
@[simp] theorem addUncorr_rng (t : Tag) (tile : Nat) (wr : Bool) (seg : Nat) (s : State) : (addUncorr t tile wr seg s).rng = s.rng := rfl
@[simp] theorem addUncorr_thr (t : Tag) (tile : Nat) (wr : Bool) (seg : Nat) (s : State) : (addUncorr t tile wr seg s).thr = s.thr := rfl
@[simp] theorem addUncorr_isl (t : Tag) (tile : Nat) (wr : Bool) (seg : Nat) (s : State) : (addUncorr t tile wr seg s).isl = s.isl := rfl
@[simp] theorem addUncorr_tnk (t : Tag) (tile : Nat) (wr : Bool) (seg : Nat) (s : State) : (addUncorr t tile wr seg s).tnk = s.tnk := rfl
@[simp] theorem addUncorr_ctl (t : Tag) (tile : Nat) (wr : Bool) (seg : Nat) (s : State) : (addUncorr t tile wr seg s).ctl = s.ctl := rfl
@[simp] theorem addUncorr_pin (t : Tag) (tile : Nat) (wr : Bool) (seg : Nat) (s : State) : (addUncorr t tile wr seg s).pin = s.pin := rfl
@[simp] theorem addUncorr_freeCtr (t : Tag) (tile : Nat) (wr : Bool) (seg : Nat) (s : State) : (addUncorr t tile wr seg s).freeCtr = s.freeCtr := rfl

/-! ### endTouch -/

@[simp] theorem endTouch_pending (t : Tag) (o : Obj) (s : State) : (endTouch t o s).pending = s.pending := rfl
@[simp] theorem endTouch_regs (t : Tag) (o : Obj) (s : State) : (endTouch t o s).regs = s.regs := rfl
@[simp] theorem endTouch_shf (t : Tag) (o : Obj) (s : State) : (endTouch t o s).shf = s.shf := rfl
@[simp] theorem endTouch_mil (t : Tag) (o : Obj) (s : State) : (endTouch t o s).mil = s.mil := rfl
@[simp] theorem endTouch_crt (t : Tag) (o : Obj) (s : State) : (endTouch t o s).crt = s.crt := rfl
@[simp] theorem endTouch_arr (t : Tag) (o : Obj) (s : State) : (endTouch t o s).arr = s.arr := rfl
@[simp] theorem endTouch_hay (t : Tag) (o : Obj) (s : State) : (endTouch t o s).hay = s.hay := rfl
@[simp] theorem endTouch_asy (t : Tag) (o : Obj) (s : State) : (endTouch t o s).asy = s.asy := rfl
@[simp] theorem endTouch_noc (t : Tag) (o : Obj) (s : State) : (endTouch t o s).noc = s.noc := rfl
@[simp] theorem endTouch_hab (t : Tag) (o : Obj) (s : State) : (endTouch t o s).hab = s.hab := rfl
@[simp] theorem endTouch_rng (t : Tag) (o : Obj) (s : State) : (endTouch t o s).rng = s.rng := rfl
@[simp] theorem endTouch_thr (t : Tag) (o : Obj) (s : State) : (endTouch t o s).thr = s.thr := rfl
@[simp] theorem endTouch_isl (t : Tag) (o : Obj) (s : State) : (endTouch t o s).isl = s.isl := rfl
@[simp] theorem endTouch_tnk (t : Tag) (o : Obj) (s : State) : (endTouch t o s).tnk = s.tnk := rfl
@[simp] theorem endTouch_ctl (t : Tag) (o : Obj) (s : State) : (endTouch t o s).ctl = s.ctl := rfl
@[simp] theorem endTouch_pin (t : Tag) (o : Obj) (s : State) : (endTouch t o s).pin = s.pin := rfl
@[simp] theorem endTouch_freeCtr (t : Tag) (o : Obj) (s : State) : (endTouch t o s).freeCtr = s.freeCtr := rfl

/-! ### setTile -/

@[simp] theorem setTile_pending (t : Nat) (x : Tile) (s : State) : (setTile t x s).pending = s.pending := rfl
@[simp] theorem setTile_regs (t : Nat) (x : Tile) (s : State) : (setTile t x s).regs = s.regs := rfl
@[simp] theorem setTile_mil (t : Nat) (x : Tile) (s : State) : (setTile t x s).mil = s.mil := rfl
@[simp] theorem setTile_crt (t : Nat) (x : Tile) (s : State) : (setTile t x s).crt = s.crt := rfl
@[simp] theorem setTile_arr (t : Nat) (x : Tile) (s : State) : (setTile t x s).arr = s.arr := rfl
@[simp] theorem setTile_hay (t : Nat) (x : Tile) (s : State) : (setTile t x s).hay = s.hay := rfl
@[simp] theorem setTile_asy (t : Nat) (x : Tile) (s : State) : (setTile t x s).asy = s.asy := rfl
@[simp] theorem setTile_noc (t : Nat) (x : Tile) (s : State) : (setTile t x s).noc = s.noc := rfl
@[simp] theorem setTile_hab (t : Nat) (x : Tile) (s : State) : (setTile t x s).hab = s.hab := rfl
@[simp] theorem setTile_rng (t : Nat) (x : Tile) (s : State) : (setTile t x s).rng = s.rng := rfl
@[simp] theorem setTile_thr (t : Nat) (x : Tile) (s : State) : (setTile t x s).thr = s.thr := rfl
@[simp] theorem setTile_tly (t : Nat) (x : Tile) (s : State) : (setTile t x s).tly = s.tly := rfl
@[simp] theorem setTile_isl (t : Nat) (x : Tile) (s : State) : (setTile t x s).isl = s.isl := rfl
@[simp] theorem setTile_tnk (t : Nat) (x : Tile) (s : State) : (setTile t x s).tnk = s.tnk := rfl
@[simp] theorem setTile_ctl (t : Nat) (x : Tile) (s : State) : (setTile t x s).ctl = s.ctl := rfl
@[simp] theorem setTile_pin (t : Nat) (x : Tile) (s : State) : (setTile t x s).pin = s.pin := rfl
@[simp] theorem setTile_freeCtr (t : Nat) (x : Tile) (s : State) : (setTile t x s).freeCtr = s.freeCtr := rfl

/-! ### setGroup -/

@[simp] theorem setGroup_pending (g : Nat) (u : PwrUnit) (s : State) : (setGroup g u s).pending = s.pending := rfl
@[simp] theorem setGroup_regs (g : Nat) (u : PwrUnit) (s : State) : (setGroup g u s).regs = s.regs := rfl
@[simp] theorem setGroup_mil (g : Nat) (u : PwrUnit) (s : State) : (setGroup g u s).mil = s.mil := rfl
@[simp] theorem setGroup_crt (g : Nat) (u : PwrUnit) (s : State) : (setGroup g u s).crt = s.crt := rfl
@[simp] theorem setGroup_arr (g : Nat) (u : PwrUnit) (s : State) : (setGroup g u s).arr = s.arr := rfl
@[simp] theorem setGroup_hay (g : Nat) (u : PwrUnit) (s : State) : (setGroup g u s).hay = s.hay := rfl
@[simp] theorem setGroup_asy (g : Nat) (u : PwrUnit) (s : State) : (setGroup g u s).asy = s.asy := rfl
@[simp] theorem setGroup_noc (g : Nat) (u : PwrUnit) (s : State) : (setGroup g u s).noc = s.noc := rfl
@[simp] theorem setGroup_hab (g : Nat) (u : PwrUnit) (s : State) : (setGroup g u s).hab = s.hab := rfl
@[simp] theorem setGroup_rng (g : Nat) (u : PwrUnit) (s : State) : (setGroup g u s).rng = s.rng := rfl
@[simp] theorem setGroup_thr (g : Nat) (u : PwrUnit) (s : State) : (setGroup g u s).thr = s.thr := rfl
@[simp] theorem setGroup_tly (g : Nat) (u : PwrUnit) (s : State) : (setGroup g u s).tly = s.tly := rfl
@[simp] theorem setGroup_isl (g : Nat) (u : PwrUnit) (s : State) : (setGroup g u s).isl = s.isl := rfl
@[simp] theorem setGroup_tnk (g : Nat) (u : PwrUnit) (s : State) : (setGroup g u s).tnk = s.tnk := rfl
@[simp] theorem setGroup_ctl (g : Nat) (u : PwrUnit) (s : State) : (setGroup g u s).ctl = s.ctl := rfl
@[simp] theorem setGroup_pin (g : Nat) (u : PwrUnit) (s : State) : (setGroup g u s).pin = s.pin := rfl
@[simp] theorem setGroup_freeCtr (g : Nat) (u : PwrUnit) (s : State) : (setGroup g u s).freeCtr = s.freeCtr := rfl

/-! ### wakeGroup -/

@[simp] theorem wakeGroup_pending (g : Nat) (s : State) : (wakeGroup g s).pending = s.pending := rfl
@[simp] theorem wakeGroup_regs (g : Nat) (s : State) : (wakeGroup g s).regs = s.regs := rfl
@[simp] theorem wakeGroup_mil (g : Nat) (s : State) : (wakeGroup g s).mil = s.mil := rfl
@[simp] theorem wakeGroup_crt (g : Nat) (s : State) : (wakeGroup g s).crt = s.crt := rfl
@[simp] theorem wakeGroup_arr (g : Nat) (s : State) : (wakeGroup g s).arr = s.arr := rfl
@[simp] theorem wakeGroup_hay (g : Nat) (s : State) : (wakeGroup g s).hay = s.hay := rfl
@[simp] theorem wakeGroup_asy (g : Nat) (s : State) : (wakeGroup g s).asy = s.asy := rfl
@[simp] theorem wakeGroup_noc (g : Nat) (s : State) : (wakeGroup g s).noc = s.noc := rfl
@[simp] theorem wakeGroup_hab (g : Nat) (s : State) : (wakeGroup g s).hab = s.hab := rfl
@[simp] theorem wakeGroup_rng (g : Nat) (s : State) : (wakeGroup g s).rng = s.rng := rfl
@[simp] theorem wakeGroup_thr (g : Nat) (s : State) : (wakeGroup g s).thr = s.thr := rfl
@[simp] theorem wakeGroup_tly (g : Nat) (s : State) : (wakeGroup g s).tly = s.tly := rfl
@[simp] theorem wakeGroup_isl (g : Nat) (s : State) : (wakeGroup g s).isl = s.isl := rfl
@[simp] theorem wakeGroup_tnk (g : Nat) (s : State) : (wakeGroup g s).tnk = s.tnk := rfl
@[simp] theorem wakeGroup_ctl (g : Nat) (s : State) : (wakeGroup g s).ctl = s.ctl := rfl
@[simp] theorem wakeGroup_pin (g : Nat) (s : State) : (wakeGroup g s).pin = s.pin := rfl
@[simp] theorem wakeGroup_freeCtr (g : Nat) (s : State) : (wakeGroup g s).freeCtr = s.freeCtr := rfl

/-! ### setHbank -/

@[simp] theorem setHbank_pending (b : Nat) (u : PwrUnit) (s : State) : (setHbank b u s).pending = s.pending := rfl
@[simp] theorem setHbank_regs (b : Nat) (u : PwrUnit) (s : State) : (setHbank b u s).regs = s.regs := rfl
@[simp] theorem setHbank_shf (b : Nat) (u : PwrUnit) (s : State) : (setHbank b u s).shf = s.shf := rfl
@[simp] theorem setHbank_mil (b : Nat) (u : PwrUnit) (s : State) : (setHbank b u s).mil = s.mil := rfl
@[simp] theorem setHbank_crt (b : Nat) (u : PwrUnit) (s : State) : (setHbank b u s).crt = s.crt := rfl
@[simp] theorem setHbank_arr (b : Nat) (u : PwrUnit) (s : State) : (setHbank b u s).arr = s.arr := rfl
@[simp] theorem setHbank_asy (b : Nat) (u : PwrUnit) (s : State) : (setHbank b u s).asy = s.asy := rfl
@[simp] theorem setHbank_noc (b : Nat) (u : PwrUnit) (s : State) : (setHbank b u s).noc = s.noc := rfl
@[simp] theorem setHbank_hab (b : Nat) (u : PwrUnit) (s : State) : (setHbank b u s).hab = s.hab := rfl
@[simp] theorem setHbank_rng (b : Nat) (u : PwrUnit) (s : State) : (setHbank b u s).rng = s.rng := rfl
@[simp] theorem setHbank_thr (b : Nat) (u : PwrUnit) (s : State) : (setHbank b u s).thr = s.thr := rfl
@[simp] theorem setHbank_tly (b : Nat) (u : PwrUnit) (s : State) : (setHbank b u s).tly = s.tly := rfl
@[simp] theorem setHbank_isl (b : Nat) (u : PwrUnit) (s : State) : (setHbank b u s).isl = s.isl := rfl
@[simp] theorem setHbank_tnk (b : Nat) (u : PwrUnit) (s : State) : (setHbank b u s).tnk = s.tnk := rfl
@[simp] theorem setHbank_ctl (b : Nat) (u : PwrUnit) (s : State) : (setHbank b u s).ctl = s.ctl := rfl
@[simp] theorem setHbank_pin (b : Nat) (u : PwrUnit) (s : State) : (setHbank b u s).pin = s.pin := rfl
@[simp] theorem setHbank_freeCtr (b : Nat) (u : PwrUnit) (s : State) : (setHbank b u s).freeCtr = s.freeCtr := rfl

/-! ### askMem -/

@[simp] theorem askMem_pending (r : OutReq) (s : State) : (askMem r s).pending = s.pending := rfl
@[simp] theorem askMem_regs (r : OutReq) (s : State) : (askMem r s).regs = s.regs := rfl
@[simp] theorem askMem_shf (r : OutReq) (s : State) : (askMem r s).shf = s.shf := rfl
@[simp] theorem askMem_mil (r : OutReq) (s : State) : (askMem r s).mil = s.mil := rfl
@[simp] theorem askMem_crt (r : OutReq) (s : State) : (askMem r s).crt = s.crt := rfl
@[simp] theorem askMem_arr (r : OutReq) (s : State) : (askMem r s).arr = s.arr := rfl
@[simp] theorem askMem_hay (r : OutReq) (s : State) : (askMem r s).hay = s.hay := rfl
@[simp] theorem askMem_asy (r : OutReq) (s : State) : (askMem r s).asy = s.asy := rfl
@[simp] theorem askMem_hab (r : OutReq) (s : State) : (askMem r s).hab = s.hab := rfl
@[simp] theorem askMem_rng (r : OutReq) (s : State) : (askMem r s).rng = s.rng := rfl
@[simp] theorem askMem_thr (r : OutReq) (s : State) : (askMem r s).thr = s.thr := rfl
@[simp] theorem askMem_tly (r : OutReq) (s : State) : (askMem r s).tly = s.tly := rfl
@[simp] theorem askMem_isl (r : OutReq) (s : State) : (askMem r s).isl = s.isl := rfl
@[simp] theorem askMem_tnk (r : OutReq) (s : State) : (askMem r s).tnk = s.tnk := rfl
@[simp] theorem askMem_ctl (r : OutReq) (s : State) : (askMem r s).ctl = s.ctl := rfl
@[simp] theorem askMem_pin (r : OutReq) (s : State) : (askMem r s).pin = s.pin := rfl
@[simp] theorem askMem_freeCtr (r : OutReq) (s : State) : (askMem r s).freeCtr = s.freeCtr := rfl

/-! ### Readers past updates -/

@[simp] theorem tagOf_rset (off : Nat) (v : Reg) (k : Tag) (s : State) : tagOf (rset off v s) k = tagOf s k := rfl
@[simp] theorem recOf_rset (off : Nat) (v : Reg) (k : Nat) (s : State) : recOf (rset off v s) k = recOf s k := rfl
@[simp] theorem tileOf_rset (off : Nat) (v : Reg) (k : Nat) (s : State) : tileOf (rset off v s) k = tileOf s k := rfl
@[simp] theorem groupOf_rset (off : Nat) (v : Reg) (k : Nat) (s : State) : groupOf (rset off v s) k = groupOf s k := rfl
@[simp] theorem hbankOf_rset (off : Nat) (v : Reg) (k : Nat) (s : State) : hbankOf (rset off v s) k = hbankOf s k := rfl
@[simp] theorem islOf_rset (off : Nat) (v : Reg) (k : Nat) (s : State) : islOf (rset off v s) k = islOf s k := rfl
@[simp] theorem running_rset (off : Nat) (v : Reg) (k : Nat) (s : State) : running (rset off v s) k = running s k := rfl
@[simp] theorem stamp_rset (off : Nat) (v : Reg) (s : State) : stamp (rset off v s) = stamp s := rfl
@[simp] theorem tagOf_cnt (off n : Nat) (k : Tag) (s : State) : tagOf (cnt off n s) k = tagOf s k := rfl
@[simp] theorem recOf_cnt (off n : Nat) (k : Nat) (s : State) : recOf (cnt off n s) k = recOf s k := rfl
@[simp] theorem tileOf_cnt (off n : Nat) (k : Nat) (s : State) : tileOf (cnt off n s) k = tileOf s k := rfl
@[simp] theorem groupOf_cnt (off n : Nat) (k : Nat) (s : State) : groupOf (cnt off n s) k = groupOf s k := rfl
@[simp] theorem hbankOf_cnt (off n : Nat) (k : Nat) (s : State) : hbankOf (cnt off n s) k = hbankOf s k := rfl
@[simp] theorem islOf_cnt (off n : Nat) (k : Nat) (s : State) : islOf (cnt off n s) k = islOf s k := rfl
@[simp] theorem running_cnt (off n : Nat) (k : Nat) (s : State) : running (cnt off n s) k = running s k := rfl
@[simp] theorem stamp_cnt (off n : Nat) (s : State) : stamp (cnt off n s) = stamp s := rfl
@[simp] theorem rget_setTag (t : Tag) (e : TagEntry) (k : Nat) (s : State) : rget (setTag t e s) k = rget s k := rfl
@[simp] theorem tileOf_setTag (t : Tag) (e : TagEntry) (k : Nat) (s : State) : tileOf (setTag t e s) k = tileOf s k := rfl
@[simp] theorem groupOf_setTag (t : Tag) (e : TagEntry) (k : Nat) (s : State) : groupOf (setTag t e s) k = groupOf s k := rfl
@[simp] theorem hbankOf_setTag (t : Tag) (e : TagEntry) (k : Nat) (s : State) : hbankOf (setTag t e s) k = hbankOf s k := rfl
@[simp] theorem islOf_setTag (t : Tag) (e : TagEntry) (k : Nat) (s : State) : islOf (setTag t e s) k = islOf s k := rfl
@[simp] theorem running_setTag (t : Tag) (e : TagEntry) (k : Nat) (s : State) : running (setTag t e s) k = running s k := rfl
@[simp] theorem stamp_setTag (t : Tag) (e : TagEntry) (s : State) : stamp (setTag t e s) = stamp s := rfl
@[simp] theorem rget_updTag (t : Tag) (f : TagEntry → TagEntry) (k : Nat) (s : State) : rget (updTag t f s) k = rget s k := rfl
@[simp] theorem tileOf_updTag (t : Tag) (f : TagEntry → TagEntry) (k : Nat) (s : State) : tileOf (updTag t f s) k = tileOf s k := rfl
@[simp] theorem groupOf_updTag (t : Tag) (f : TagEntry → TagEntry) (k : Nat) (s : State) : groupOf (updTag t f s) k = groupOf s k := rfl
@[simp] theorem hbankOf_updTag (t : Tag) (f : TagEntry → TagEntry) (k : Nat) (s : State) : hbankOf (updTag t f s) k = hbankOf s k := rfl
@[simp] theorem islOf_updTag (t : Tag) (f : TagEntry → TagEntry) (k : Nat) (s : State) : islOf (updTag t f s) k = islOf s k := rfl
@[simp] theorem running_updTag (t : Tag) (f : TagEntry → TagEntry) (k : Nat) (s : State) : running (updTag t f s) k = running s k := rfl
@[simp] theorem stamp_updTag (t : Tag) (f : TagEntry → TagEntry) (s : State) : stamp (updTag t f s) = stamp s := rfl
@[simp] theorem rget_updJob (t : Tag) (f : Job → Job) (k : Nat) (s : State) : rget (updJob t f s) k = rget s k := rfl
@[simp] theorem tileOf_updJob (t : Tag) (f : Job → Job) (k : Nat) (s : State) : tileOf (updJob t f s) k = tileOf s k := rfl
@[simp] theorem groupOf_updJob (t : Tag) (f : Job → Job) (k : Nat) (s : State) : groupOf (updJob t f s) k = groupOf s k := rfl
@[simp] theorem hbankOf_updJob (t : Tag) (f : Job → Job) (k : Nat) (s : State) : hbankOf (updJob t f s) k = hbankOf s k := rfl
@[simp] theorem islOf_updJob (t : Tag) (f : Job → Job) (k : Nat) (s : State) : islOf (updJob t f s) k = islOf s k := rfl
@[simp] theorem running_updJob (t : Tag) (f : Job → Job) (k : Nat) (s : State) : running (updJob t f s) k = running s k := rfl
@[simp] theorem stamp_updJob (t : Tag) (f : Job → Job) (s : State) : stamp (updJob t f s) = stamp s := rfl
@[simp] theorem rget_setRec (i : Nat) (r : Rec) (k : Nat) (s : State) : rget (setRec i r s) k = rget s k := rfl
@[simp] theorem tileOf_setRec (i : Nat) (r : Rec) (k : Nat) (s : State) : tileOf (setRec i r s) k = tileOf s k := rfl
@[simp] theorem groupOf_setRec (i : Nat) (r : Rec) (k : Nat) (s : State) : groupOf (setRec i r s) k = groupOf s k := rfl
@[simp] theorem hbankOf_setRec (i : Nat) (r : Rec) (k : Nat) (s : State) : hbankOf (setRec i r s) k = hbankOf s k := rfl
@[simp] theorem islOf_setRec (i : Nat) (r : Rec) (k : Nat) (s : State) : islOf (setRec i r s) k = islOf s k := rfl
@[simp] theorem running_setRec (i : Nat) (r : Rec) (k : Nat) (s : State) : running (setRec i r s) k = running s k := rfl
@[simp] theorem stamp_setRec (i : Nat) (r : Rec) (s : State) : stamp (setRec i r s) = stamp s := rfl
@[simp] theorem rget_freeRec (i : Nat) (k : Nat) (s : State) : rget (freeRec i s) k = rget s k := rfl
@[simp] theorem tileOf_freeRec (i : Nat) (k : Nat) (s : State) : tileOf (freeRec i s) k = tileOf s k := rfl
@[simp] theorem groupOf_freeRec (i : Nat) (k : Nat) (s : State) : groupOf (freeRec i s) k = groupOf s k := rfl
@[simp] theorem hbankOf_freeRec (i : Nat) (k : Nat) (s : State) : hbankOf (freeRec i s) k = hbankOf s k := rfl
@[simp] theorem islOf_freeRec (i : Nat) (k : Nat) (s : State) : islOf (freeRec i s) k = islOf s k := rfl
@[simp] theorem running_freeRec (i : Nat) (k : Nat) (s : State) : running (freeRec i s) k = running s k := rfl
@[simp] theorem stamp_freeRec (i : Nat) (s : State) : stamp (freeRec i s) = stamp s := rfl
@[simp] theorem rget_cancelRecs (p : TagEntry → Bool) (o : Outc) (k : Nat) (s : State) : rget (cancelRecs p o s) k = rget s k := rfl
@[simp] theorem tileOf_cancelRecs (p : TagEntry → Bool) (o : Outc) (k : Nat) (s : State) : tileOf (cancelRecs p o s) k = tileOf s k := rfl
@[simp] theorem groupOf_cancelRecs (p : TagEntry → Bool) (o : Outc) (k : Nat) (s : State) : groupOf (cancelRecs p o s) k = groupOf s k := rfl
@[simp] theorem hbankOf_cancelRecs (p : TagEntry → Bool) (o : Outc) (k : Nat) (s : State) : hbankOf (cancelRecs p o s) k = hbankOf s k := rfl
@[simp] theorem islOf_cancelRecs (p : TagEntry → Bool) (o : Outc) (k : Nat) (s : State) : islOf (cancelRecs p o s) k = islOf s k := rfl
@[simp] theorem running_cancelRecs (p : TagEntry → Bool) (o : Outc) (k : Nat) (s : State) : running (cancelRecs p o s) k = running s k := rfl
@[simp] theorem stamp_cancelRecs (p : TagEntry → Bool) (o : Outc) (s : State) : stamp (cancelRecs p o s) = stamp s := rfl
@[simp] theorem rget_addBits (t : Tag) (b : BitVec 16) (k : Nat) (s : State) : rget (addBits t b s) k = rget s k := rfl
@[simp] theorem tileOf_addBits (t : Tag) (b : BitVec 16) (k : Nat) (s : State) : tileOf (addBits t b s) k = tileOf s k := rfl
@[simp] theorem groupOf_addBits (t : Tag) (b : BitVec 16) (k : Nat) (s : State) : groupOf (addBits t b s) k = groupOf s k := rfl
@[simp] theorem hbankOf_addBits (t : Tag) (b : BitVec 16) (k : Nat) (s : State) : hbankOf (addBits t b s) k = hbankOf s k := rfl
@[simp] theorem islOf_addBits (t : Tag) (b : BitVec 16) (k : Nat) (s : State) : islOf (addBits t b s) k = islOf s k := rfl
@[simp] theorem running_addBits (t : Tag) (b : BitVec 16) (k : Nat) (s : State) : running (addBits t b s) k = running s k := rfl
@[simp] theorem stamp_addBits (t : Tag) (b : BitVec 16) (s : State) : stamp (addBits t b s) = stamp s := rfl
@[simp] theorem rget_addUncorr (t : Tag) (tile : Nat) (wr : Bool) (seg : Nat) (k : Nat) (s : State) : rget (addUncorr t tile wr seg s) k = rget s k := rfl
@[simp] theorem tileOf_addUncorr (t : Tag) (tile : Nat) (wr : Bool) (seg : Nat) (k : Nat) (s : State) : tileOf (addUncorr t tile wr seg s) k = tileOf s k := rfl
@[simp] theorem groupOf_addUncorr (t : Tag) (tile : Nat) (wr : Bool) (seg : Nat) (k : Nat) (s : State) : groupOf (addUncorr t tile wr seg s) k = groupOf s k := rfl
@[simp] theorem hbankOf_addUncorr (t : Tag) (tile : Nat) (wr : Bool) (seg : Nat) (k : Nat) (s : State) : hbankOf (addUncorr t tile wr seg s) k = hbankOf s k := rfl
@[simp] theorem islOf_addUncorr (t : Tag) (tile : Nat) (wr : Bool) (seg : Nat) (k : Nat) (s : State) : islOf (addUncorr t tile wr seg s) k = islOf s k := rfl
@[simp] theorem running_addUncorr (t : Tag) (tile : Nat) (wr : Bool) (seg : Nat) (k : Nat) (s : State) : running (addUncorr t tile wr seg s) k = running s k := rfl
@[simp] theorem stamp_addUncorr (t : Tag) (tile : Nat) (wr : Bool) (seg : Nat) (s : State) : stamp (addUncorr t tile wr seg s) = stamp s := rfl
@[simp] theorem rget_endTouch (t : Tag) (o : Obj) (k : Nat) (s : State) : rget (endTouch t o s) k = rget s k := rfl
@[simp] theorem tileOf_endTouch (t : Tag) (o : Obj) (k : Nat) (s : State) : tileOf (endTouch t o s) k = tileOf s k := rfl
@[simp] theorem groupOf_endTouch (t : Tag) (o : Obj) (k : Nat) (s : State) : groupOf (endTouch t o s) k = groupOf s k := rfl
@[simp] theorem hbankOf_endTouch (t : Tag) (o : Obj) (k : Nat) (s : State) : hbankOf (endTouch t o s) k = hbankOf s k := rfl
@[simp] theorem islOf_endTouch (t : Tag) (o : Obj) (k : Nat) (s : State) : islOf (endTouch t o s) k = islOf s k := rfl
@[simp] theorem running_endTouch (t : Tag) (o : Obj) (k : Nat) (s : State) : running (endTouch t o s) k = running s k := rfl
@[simp] theorem stamp_endTouch (t : Tag) (o : Obj) (s : State) : stamp (endTouch t o s) = stamp s := rfl
@[simp] theorem tagOf_setTile (t : Nat) (x : Tile) (k : Tag) (s : State) : tagOf (setTile t x s) k = tagOf s k := rfl
@[simp] theorem recOf_setTile (t : Nat) (x : Tile) (k : Nat) (s : State) : recOf (setTile t x s) k = recOf s k := rfl
@[simp] theorem rget_setTile (t : Nat) (x : Tile) (k : Nat) (s : State) : rget (setTile t x s) k = rget s k := rfl
@[simp] theorem hbankOf_setTile (t : Nat) (x : Tile) (k : Nat) (s : State) : hbankOf (setTile t x s) k = hbankOf s k := rfl
@[simp] theorem islOf_setTile (t : Nat) (x : Tile) (k : Nat) (s : State) : islOf (setTile t x s) k = islOf s k := rfl
@[simp] theorem running_setTile (t : Nat) (x : Tile) (k : Nat) (s : State) : running (setTile t x s) k = running s k := rfl
@[simp] theorem stamp_setTile (t : Nat) (x : Tile) (s : State) : stamp (setTile t x s) = stamp s := rfl
@[simp] theorem tagOf_setGroup (g : Nat) (u : PwrUnit) (k : Tag) (s : State) : tagOf (setGroup g u s) k = tagOf s k := rfl
@[simp] theorem recOf_setGroup (g : Nat) (u : PwrUnit) (k : Nat) (s : State) : recOf (setGroup g u s) k = recOf s k := rfl
@[simp] theorem rget_setGroup (g : Nat) (u : PwrUnit) (k : Nat) (s : State) : rget (setGroup g u s) k = rget s k := rfl
@[simp] theorem hbankOf_setGroup (g : Nat) (u : PwrUnit) (k : Nat) (s : State) : hbankOf (setGroup g u s) k = hbankOf s k := rfl
@[simp] theorem islOf_setGroup (g : Nat) (u : PwrUnit) (k : Nat) (s : State) : islOf (setGroup g u s) k = islOf s k := rfl
@[simp] theorem running_setGroup (g : Nat) (u : PwrUnit) (k : Nat) (s : State) : running (setGroup g u s) k = running s k := rfl
@[simp] theorem stamp_setGroup (g : Nat) (u : PwrUnit) (s : State) : stamp (setGroup g u s) = stamp s := rfl
@[simp] theorem tagOf_wakeGroup (g : Nat) (k : Tag) (s : State) : tagOf (wakeGroup g s) k = tagOf s k := rfl
@[simp] theorem recOf_wakeGroup (g : Nat) (k : Nat) (s : State) : recOf (wakeGroup g s) k = recOf s k := rfl
@[simp] theorem rget_wakeGroup (g : Nat) (k : Nat) (s : State) : rget (wakeGroup g s) k = rget s k := rfl
@[simp] theorem hbankOf_wakeGroup (g : Nat) (k : Nat) (s : State) : hbankOf (wakeGroup g s) k = hbankOf s k := rfl
@[simp] theorem islOf_wakeGroup (g : Nat) (k : Nat) (s : State) : islOf (wakeGroup g s) k = islOf s k := rfl
@[simp] theorem running_wakeGroup (g : Nat) (k : Nat) (s : State) : running (wakeGroup g s) k = running s k := rfl
@[simp] theorem stamp_wakeGroup (g : Nat) (s : State) : stamp (wakeGroup g s) = stamp s := rfl
@[simp] theorem tagOf_setHbank (b : Nat) (u : PwrUnit) (k : Tag) (s : State) : tagOf (setHbank b u s) k = tagOf s k := rfl
@[simp] theorem recOf_setHbank (b : Nat) (u : PwrUnit) (k : Nat) (s : State) : recOf (setHbank b u s) k = recOf s k := rfl
@[simp] theorem rget_setHbank (b : Nat) (u : PwrUnit) (k : Nat) (s : State) : rget (setHbank b u s) k = rget s k := rfl
@[simp] theorem tileOf_setHbank (b : Nat) (u : PwrUnit) (k : Nat) (s : State) : tileOf (setHbank b u s) k = tileOf s k := rfl
@[simp] theorem groupOf_setHbank (b : Nat) (u : PwrUnit) (k : Nat) (s : State) : groupOf (setHbank b u s) k = groupOf s k := rfl
@[simp] theorem islOf_setHbank (b : Nat) (u : PwrUnit) (k : Nat) (s : State) : islOf (setHbank b u s) k = islOf s k := rfl
@[simp] theorem running_setHbank (b : Nat) (u : PwrUnit) (k : Nat) (s : State) : running (setHbank b u s) k = running s k := rfl
@[simp] theorem stamp_setHbank (b : Nat) (u : PwrUnit) (s : State) : stamp (setHbank b u s) = stamp s := rfl
@[simp] theorem tagOf_askMem (r : OutReq) (k : Tag) (s : State) : tagOf (askMem r s) k = tagOf s k := rfl
@[simp] theorem recOf_askMem (r : OutReq) (k : Nat) (s : State) : recOf (askMem r s) k = recOf s k := rfl
@[simp] theorem rget_askMem (r : OutReq) (k : Nat) (s : State) : rget (askMem r s) k = rget s k := rfl
@[simp] theorem tileOf_askMem (r : OutReq) (k : Nat) (s : State) : tileOf (askMem r s) k = tileOf s k := rfl
@[simp] theorem groupOf_askMem (r : OutReq) (k : Nat) (s : State) : groupOf (askMem r s) k = groupOf s k := rfl
@[simp] theorem hbankOf_askMem (r : OutReq) (k : Nat) (s : State) : hbankOf (askMem r s) k = hbankOf s k := rfl
@[simp] theorem islOf_askMem (r : OutReq) (k : Nat) (s : State) : islOf (askMem r s) k = islOf s k := rfl
@[simp] theorem running_askMem (r : OutReq) (k : Nat) (s : State) : running (askMem r s) k = running s k := rfl
@[simp] theorem stamp_askMem (r : OutReq) (s : State) : stamp (askMem r s) = stamp s := rfl

/-! ### What an update changes, read back -/

theorem toNat_ne {n : Nat} {a b : BitVec n} (h : a ≠ b) : a.toNat ≠ b.toNat := fun e => h (BitVec.eq_of_toNat_eq e)

@[simp] theorem tagOf_setTag_self (t : Tag) (e : TagEntry) (s : State) : tagOf (setTag t e s) t = e := tget_tset_self _ _ _ _

theorem tagOf_setTag_ne {t u : Tag} (h : u ≠ t) (e : TagEntry) (s : State) : tagOf (setTag t e s) u = tagOf s u :=
  tget_tset_ne _ _ (toNat_ne h) _

@[simp] theorem tagOf_updTag_self (t : Tag) (f : TagEntry → TagEntry) (s : State) : tagOf (updTag t f s) t = f (tagOf s t) :=
  tagOf_setTag_self _ _ _

theorem tagOf_updTag_ne {t u : Tag} (h : u ≠ t) (f : TagEntry → TagEntry) (s : State) : tagOf (updTag t f s) u = tagOf s u :=
  tagOf_setTag_ne h _ _

@[simp] theorem tagOf_updJob_self (t : Tag) (f : Job → Job) (s : State) :
    tagOf (updJob t f s) t = { tagOf s t with job := f (tagOf s t).job } := tagOf_updTag_self _ _ _

theorem tagOf_updJob_ne {t u : Tag} (h : u ≠ t) (f : Job → Job) (s : State) : tagOf (updJob t f s) u = tagOf s u :=
  tagOf_updTag_ne h _ _

@[simp] theorem recOf_setRec_self (i : Nat) (r : Rec) (s : State) : recOf (setRec i r s) i = r := tget_tset_self _ _ _ _

theorem recOf_setRec_ne {i j : Nat} (h : j ≠ i) (r : Rec) (s : State) : recOf (setRec i r s) j = recOf s j := tget_tset_ne _ _ h _

@[simp] theorem rget_rset_self (off : Nat) (v : Reg) (s : State) : rget (rset off v s) off = v := tget_tset_self _ _ _ _

theorem rget_rset_ne {off k : Nat} (h : k ≠ off) (v : Reg) (s : State) : rget (rset off v s) k = rget s k := by
  unfold rget rset
  exact tget_tset_ne _ _ h _

@[simp] theorem rget_cnt_self (off n : Nat) (s : State) :
    rget (cnt off n s) off = BitVec.ofNat 32 (min 0xFFFFFFFF ((rget s off).toNat + n)) := rget_rset_self _ _ _

theorem rget_cnt_ne {off k : Nat} (h : k ≠ off) (n : Nat) (s : State) : rget (cnt off n s) k = rget s k := rget_rset_ne h _ _

@[simp] theorem tileOf_setTile_self (t : Nat) (x : Tile) (s : State) : tileOf (setTile t x s) t = x := tget_tset_self _ _ _ _

theorem tileOf_setTile_ne {t u : Nat} (h : u ≠ t) (x : Tile) (s : State) : tileOf (setTile t x s) u = tileOf s u := tget_tset_ne _ _ h _

@[simp] theorem groupOf_setGroup_self (g : Nat) (u : PwrUnit) (s : State) : groupOf (setGroup g u s) g = u := tget_tset_self _ _ _ _

theorem groupOf_setGroup_ne {g k : Nat} (h : k ≠ g) (u : PwrUnit) (s : State) : groupOf (setGroup g u s) k = groupOf s k :=
  tget_tset_ne _ _ h _

@[simp] theorem hbankOf_setHbank_self (b : Nat) (u : PwrUnit) (s : State) : hbankOf (setHbank b u s) b = u := tget_tset_self _ _ _ _

theorem hbankOf_setHbank_ne {b k : Nat} (h : k ≠ b) (u : PwrUnit) (s : State) : hbankOf (setHbank b u s) k = hbankOf s k :=
  tget_tset_ne _ _ h _

end Sys2Proof.Laws
end

