-- ==== Sys2Proof/Laws/Ops.lean ====
section
/-! SUPPORT. What the shared operations of Machine/Ops.lean do: logging, tracing, presenting replies, completing a command, stopping one with
a resume record. -/

namespace Sys2Proof.Laws

open Sys2Proof.Machine

/-- A projection that each step of a fold keeps is kept by the fold. -/
theorem foldl_proj {β γ : Type} (p : State → γ) (f : State → β → State) (h : ∀ s a, p (f s a) = p s) (l : List β) (s : State) :
    p (l.foldl f s) = p s := by
  induction l generalizing s with
  | nil => rfl
  | cons a r ih => exact (ih (f s a)).trans (h s a)

/-- What no change of a command's progress touches, `noteActed` leaves. -/
theorem noteActed_proj {γ : Type} (p : State → γ) (h : ∀ t f s, p (updJob t f s) = p s) (st : Status) (ps : List Tag) (s : State) :
    p (noteActed st ps s) = p s := by
  cases ps with
  | nil => rfl
  | cons q r => exact (foldl_proj p (fun s q => updJob q _ s) (fun s a => h a _ s) r _).trans (h _ _ _)

/-! ### Tracing -/

@[simp] theorem traceEv_pending (ev isl unit loc info : Nat) (s : State) : (traceEv ev isl unit loc info s).pending = s.pending := by
  unfold traceEv; dsimp only; split <;> [split <;> [rfl; split <;> rfl]; rfl]
@[simp] theorem traceEv_shf (ev isl unit loc info : Nat) (s : State) : (traceEv ev isl unit loc info s).shf = s.shf := by
  unfold traceEv; dsimp only; split <;> [split <;> [rfl; split <;> rfl]; rfl]
@[simp] theorem traceEv_mil (ev isl unit loc info : Nat) (s : State) : (traceEv ev isl unit loc info s).mil = s.mil := by
  unfold traceEv; dsimp only; split <;> [split <;> [rfl; split <;> rfl]; rfl]
@[simp] theorem traceEv_crt (ev isl unit loc info : Nat) (s : State) : (traceEv ev isl unit loc info s).crt = s.crt := by
  unfold traceEv; dsimp only; split <;> [split <;> [rfl; split <;> rfl]; rfl]
@[simp] theorem traceEv_arr (ev isl unit loc info : Nat) (s : State) : (traceEv ev isl unit loc info s).arr = s.arr := by
  unfold traceEv; dsimp only; split <;> [split <;> [rfl; split <;> rfl]; rfl]
@[simp] theorem traceEv_hay (ev isl unit loc info : Nat) (s : State) : (traceEv ev isl unit loc info s).hay = s.hay := by
  unfold traceEv; dsimp only; split <;> [split <;> [rfl; split <;> rfl]; rfl]
@[simp] theorem traceEv_asy (ev isl unit loc info : Nat) (s : State) : (traceEv ev isl unit loc info s).asy = s.asy := by
  unfold traceEv; dsimp only; split <;> [split <;> [rfl; split <;> rfl]; rfl]
@[simp] theorem traceEv_noc (ev isl unit loc info : Nat) (s : State) : (traceEv ev isl unit loc info s).noc = s.noc := by
  unfold traceEv; dsimp only; split <;> [split <;> [rfl; split <;> rfl]; rfl]
@[simp] theorem traceEv_hab (ev isl unit loc info : Nat) (s : State) : (traceEv ev isl unit loc info s).hab = s.hab := by
  unfold traceEv; dsimp only; split <;> [split <;> [rfl; split <;> rfl]; rfl]
@[simp] theorem traceEv_rng (ev isl unit loc info : Nat) (s : State) : (traceEv ev isl unit loc info s).rng = s.rng := by
  unfold traceEv; dsimp only; split <;> [split <;> [rfl; split <;> rfl]; rfl]
@[simp] theorem traceEv_thr (ev isl unit loc info : Nat) (s : State) : (traceEv ev isl unit loc info s).thr = s.thr := by
  unfold traceEv; dsimp only; split <;> [split <;> [rfl; split <;> rfl]; rfl]
@[simp] theorem traceEv_tly (ev isl unit loc info : Nat) (s : State) : (traceEv ev isl unit loc info s).tly = s.tly := by
  unfold traceEv; dsimp only; split <;> [split <;> [rfl; split <;> rfl]; rfl]
@[simp] theorem traceEv_isl (ev isl unit loc info : Nat) (s : State) : (traceEv ev isl unit loc info s).isl = s.isl := by
  unfold traceEv; dsimp only; split <;> [split <;> [rfl; split <;> rfl]; rfl]
@[simp] theorem traceEv_ctl (ev isl unit loc info : Nat) (s : State) : (traceEv ev isl unit loc info s).ctl = s.ctl := by
  unfold traceEv; dsimp only; split <;> [split <;> [rfl; split <;> rfl]; rfl]
@[simp] theorem traceEv_pin (ev isl unit loc info : Nat) (s : State) : (traceEv ev isl unit loc info s).pin = s.pin := by
  unfold traceEv; dsimp only; split <;> [split <;> [rfl; split <;> rfl]; rfl]
@[simp] theorem traceEv_freeCtr (ev isl unit loc info : Nat) (s : State) : (traceEv ev isl unit loc info s).freeCtr = s.freeCtr := by
  unfold traceEv; dsimp only; split <;> [split <;> [rfl; split <;> rfl]; rfl]

/-! ### Logging -/

@[simp] theorem logErr_pending (kind isl unit loc info : Nat) (s : State) : (logErr kind isl unit loc info s).pending = s.pending := by simp [logErr]
@[simp] theorem logErr_shf (kind isl unit loc info : Nat) (s : State) : (logErr kind isl unit loc info s).shf = s.shf := by simp [logErr]
@[simp] theorem logErr_mil (kind isl unit loc info : Nat) (s : State) : (logErr kind isl unit loc info s).mil = s.mil := by simp [logErr]
@[simp] theorem logErr_crt (kind isl unit loc info : Nat) (s : State) : (logErr kind isl unit loc info s).crt = s.crt := by simp [logErr]
@[simp] theorem logErr_arr (kind isl unit loc info : Nat) (s : State) : (logErr kind isl unit loc info s).arr = s.arr := by simp [logErr]
@[simp] theorem logErr_hay (kind isl unit loc info : Nat) (s : State) : (logErr kind isl unit loc info s).hay = s.hay := by simp [logErr]
@[simp] theorem logErr_asy (kind isl unit loc info : Nat) (s : State) : (logErr kind isl unit loc info s).asy = s.asy := by simp [logErr]
@[simp] theorem logErr_noc (kind isl unit loc info : Nat) (s : State) : (logErr kind isl unit loc info s).noc = s.noc := by simp [logErr]
@[simp] theorem logErr_hab (kind isl unit loc info : Nat) (s : State) : (logErr kind isl unit loc info s).hab = s.hab := by simp [logErr]
@[simp] theorem logErr_rng (kind isl unit loc info : Nat) (s : State) : (logErr kind isl unit loc info s).rng = s.rng := by simp [logErr]
@[simp] theorem logErr_thr (kind isl unit loc info : Nat) (s : State) : (logErr kind isl unit loc info s).thr = s.thr := by simp [logErr]
@[simp] theorem logErr_tly (kind isl unit loc info : Nat) (s : State) : (logErr kind isl unit loc info s).tly = s.tly := by simp [logErr]
@[simp] theorem logErr_isl (kind isl unit loc info : Nat) (s : State) : (logErr kind isl unit loc info s).isl = s.isl := by simp [logErr]
@[simp] theorem logErr_ctl (kind isl unit loc info : Nat) (s : State) : (logErr kind isl unit loc info s).ctl = s.ctl := by simp [logErr]
@[simp] theorem logErr_pin (kind isl unit loc info : Nat) (s : State) : (logErr kind isl unit loc info s).pin = s.pin := by simp [logErr]
@[simp] theorem logErr_freeCtr (kind isl unit loc info : Nat) (s : State) : (logErr kind isl unit loc info s).freeCtr = s.freeCtr := by simp [logErr]

/-! ### The reply handshake -/

@[simp] theorem pumpSts_pending (s : State) : (pumpSts s).pending = s.pending := by
  unfold pumpSts; (repeat' split) <;> rfl
@[simp] theorem pumpSts_regs (s : State) : (pumpSts s).regs = s.regs := by
  unfold pumpSts; (repeat' split) <;> rfl
@[simp] theorem pumpSts_shf (s : State) : (pumpSts s).shf = s.shf := by
  unfold pumpSts; (repeat' split) <;> rfl
@[simp] theorem pumpSts_mil (s : State) : (pumpSts s).mil = s.mil := by
  unfold pumpSts; (repeat' split) <;> rfl
@[simp] theorem pumpSts_crt (s : State) : (pumpSts s).crt = s.crt := by
  unfold pumpSts; (repeat' split) <;> rfl
@[simp] theorem pumpSts_arr (s : State) : (pumpSts s).arr = s.arr := by
  unfold pumpSts; (repeat' split) <;> rfl
@[simp] theorem pumpSts_hay (s : State) : (pumpSts s).hay = s.hay := by
  unfold pumpSts; (repeat' split) <;> rfl
@[simp] theorem pumpSts_asy (s : State) : (pumpSts s).asy = s.asy := by
  unfold pumpSts; (repeat' split) <;> rfl
@[simp] theorem pumpSts_noc (s : State) : (pumpSts s).noc = s.noc := by
  unfold pumpSts; (repeat' split) <;> rfl
@[simp] theorem pumpSts_hab (s : State) : (pumpSts s).hab = s.hab := by
  unfold pumpSts; (repeat' split) <;> rfl
@[simp] theorem pumpSts_rng (s : State) : (pumpSts s).rng = s.rng := by
  unfold pumpSts; (repeat' split) <;> rfl
@[simp] theorem pumpSts_thr (s : State) : (pumpSts s).thr = s.thr := by
  unfold pumpSts; (repeat' split) <;> rfl
@[simp] theorem pumpSts_isl (s : State) : (pumpSts s).isl = s.isl := by
  unfold pumpSts; (repeat' split) <;> rfl
@[simp] theorem pumpSts_tnk (s : State) : (pumpSts s).tnk = s.tnk := by
  unfold pumpSts; (repeat' split) <;> rfl
@[simp] theorem pumpSts_ctl (s : State) : (pumpSts s).ctl = s.ctl := by
  unfold pumpSts; (repeat' split) <;> rfl
@[simp] theorem pumpSts_freeCtr (s : State) : (pumpSts s).freeCtr = s.freeCtr := by
  unfold pumpSts; (repeat' split) <;> rfl

/-! ### Queueing a reply -/

@[simp] theorem sendSts_pending (x : StsXfer) (s : State) : (sendSts x s).pending = s.pending := by simp [sendSts]
@[simp] theorem sendSts_regs (x : StsXfer) (s : State) : (sendSts x s).regs = s.regs := by simp [sendSts]
@[simp] theorem sendSts_shf (x : StsXfer) (s : State) : (sendSts x s).shf = s.shf := by simp [sendSts]
@[simp] theorem sendSts_mil (x : StsXfer) (s : State) : (sendSts x s).mil = s.mil := by simp [sendSts]
@[simp] theorem sendSts_crt (x : StsXfer) (s : State) : (sendSts x s).crt = s.crt := by simp [sendSts]
@[simp] theorem sendSts_arr (x : StsXfer) (s : State) : (sendSts x s).arr = s.arr := by simp [sendSts]
@[simp] theorem sendSts_hay (x : StsXfer) (s : State) : (sendSts x s).hay = s.hay := by simp [sendSts]
@[simp] theorem sendSts_asy (x : StsXfer) (s : State) : (sendSts x s).asy = s.asy := by simp [sendSts]
@[simp] theorem sendSts_noc (x : StsXfer) (s : State) : (sendSts x s).noc = s.noc := by simp [sendSts]
@[simp] theorem sendSts_hab (x : StsXfer) (s : State) : (sendSts x s).hab = s.hab := by simp [sendSts]
@[simp] theorem sendSts_rng (x : StsXfer) (s : State) : (sendSts x s).rng = s.rng := by simp [sendSts]
@[simp] theorem sendSts_thr (x : StsXfer) (s : State) : (sendSts x s).thr = s.thr := by simp [sendSts]
@[simp] theorem sendSts_isl (x : StsXfer) (s : State) : (sendSts x s).isl = s.isl := by simp [sendSts]
@[simp] theorem sendSts_tnk (x : StsXfer) (s : State) : (sendSts x s).tnk = s.tnk := by simp [sendSts]
@[simp] theorem sendSts_ctl (x : StsXfer) (s : State) : (sendSts x s).ctl = s.ctl := by simp [sendSts]
@[simp] theorem sendSts_freeCtr (x : StsXfer) (s : State) : (sendSts x s).freeCtr = s.freeCtr := by simp [sendSts]

/-! ### PREEMPTs that act on a command -/

@[simp] theorem noteActed_pending (st : Status) (ps : List Tag) (s : State) : (noteActed st ps s).pending = s.pending := noteActed_proj (·.pending) (fun _ _ _ => rfl) st ps s
@[simp] theorem noteActed_regs (st : Status) (ps : List Tag) (s : State) : (noteActed st ps s).regs = s.regs := noteActed_proj (·.regs) (fun _ _ _ => rfl) st ps s
@[simp] theorem noteActed_shf (st : Status) (ps : List Tag) (s : State) : (noteActed st ps s).shf = s.shf := noteActed_proj (·.shf) (fun _ _ _ => rfl) st ps s
@[simp] theorem noteActed_mil (st : Status) (ps : List Tag) (s : State) : (noteActed st ps s).mil = s.mil := noteActed_proj (·.mil) (fun _ _ _ => rfl) st ps s
@[simp] theorem noteActed_crt (st : Status) (ps : List Tag) (s : State) : (noteActed st ps s).crt = s.crt := noteActed_proj (·.crt) (fun _ _ _ => rfl) st ps s
@[simp] theorem noteActed_arr (st : Status) (ps : List Tag) (s : State) : (noteActed st ps s).arr = s.arr := noteActed_proj (·.arr) (fun _ _ _ => rfl) st ps s
@[simp] theorem noteActed_hay (st : Status) (ps : List Tag) (s : State) : (noteActed st ps s).hay = s.hay := noteActed_proj (·.hay) (fun _ _ _ => rfl) st ps s
@[simp] theorem noteActed_asy (st : Status) (ps : List Tag) (s : State) : (noteActed st ps s).asy = s.asy := noteActed_proj (·.asy) (fun _ _ _ => rfl) st ps s
@[simp] theorem noteActed_noc (st : Status) (ps : List Tag) (s : State) : (noteActed st ps s).noc = s.noc := noteActed_proj (·.noc) (fun _ _ _ => rfl) st ps s
@[simp] theorem noteActed_hab (st : Status) (ps : List Tag) (s : State) : (noteActed st ps s).hab = s.hab := noteActed_proj (·.hab) (fun _ _ _ => rfl) st ps s
@[simp] theorem noteActed_rng (st : Status) (ps : List Tag) (s : State) : (noteActed st ps s).rng = s.rng := noteActed_proj (·.rng) (fun _ _ _ => rfl) st ps s
@[simp] theorem noteActed_thr (st : Status) (ps : List Tag) (s : State) : (noteActed st ps s).thr = s.thr := noteActed_proj (·.thr) (fun _ _ _ => rfl) st ps s
@[simp] theorem noteActed_isl (st : Status) (ps : List Tag) (s : State) : (noteActed st ps s).isl = s.isl := noteActed_proj (·.isl) (fun _ _ _ => rfl) st ps s
@[simp] theorem noteActed_tnk (st : Status) (ps : List Tag) (s : State) : (noteActed st ps s).tnk = s.tnk := noteActed_proj (·.tnk) (fun _ _ _ => rfl) st ps s
@[simp] theorem noteActed_ctl (st : Status) (ps : List Tag) (s : State) : (noteActed st ps s).ctl = s.ctl := noteActed_proj (·.ctl) (fun _ _ _ => rfl) st ps s
@[simp] theorem noteActed_pin (st : Status) (ps : List Tag) (s : State) : (noteActed st ps s).pin = s.pin := noteActed_proj (·.pin) (fun _ _ _ => rfl) st ps s
@[simp] theorem noteActed_freeCtr (st : Status) (ps : List Tag) (s : State) : (noteActed st ps s).freeCtr = s.freeCtr := noteActed_proj (·.freeCtr) (fun _ _ _ => rfl) st ps s

/-! ### What a completing command holds -/

@[simp] theorem dropHeld_pending (t : Tag) (s : State) : (dropHeld t s).pending = s.pending := by
  unfold dropHeld; cases (tagOf s t).recSlot <;> rfl
@[simp] theorem dropHeld_regs (t : Tag) (s : State) : (dropHeld t s).regs = s.regs := by
  unfold dropHeld; cases (tagOf s t).recSlot <;> rfl
@[simp] theorem dropHeld_shf (t : Tag) (s : State) : (dropHeld t s).shf = s.shf := by
  unfold dropHeld; cases (tagOf s t).recSlot <;> rfl
@[simp] theorem dropHeld_mil (t : Tag) (s : State) : (dropHeld t s).mil = s.mil := by
  unfold dropHeld; cases (tagOf s t).recSlot <;> rfl
@[simp] theorem dropHeld_crt (t : Tag) (s : State) : (dropHeld t s).crt = s.crt := by
  unfold dropHeld; cases (tagOf s t).recSlot <;> rfl
@[simp] theorem dropHeld_arr (t : Tag) (s : State) : (dropHeld t s).arr = s.arr := by
  unfold dropHeld; cases (tagOf s t).recSlot <;> rfl
@[simp] theorem dropHeld_hay (t : Tag) (s : State) : (dropHeld t s).hay = s.hay := by
  unfold dropHeld; cases (tagOf s t).recSlot <;> rfl
@[simp] theorem dropHeld_asy (t : Tag) (s : State) : (dropHeld t s).asy = s.asy := by
  unfold dropHeld; cases (tagOf s t).recSlot <;> rfl
@[simp] theorem dropHeld_noc (t : Tag) (s : State) : (dropHeld t s).noc = s.noc := by
  unfold dropHeld; cases (tagOf s t).recSlot <;> rfl
@[simp] theorem dropHeld_hab (t : Tag) (s : State) : (dropHeld t s).hab = s.hab := by
  unfold dropHeld; cases (tagOf s t).recSlot <;> rfl
@[simp] theorem dropHeld_rng (t : Tag) (s : State) : (dropHeld t s).rng = s.rng := by
  unfold dropHeld; cases (tagOf s t).recSlot <;> rfl
@[simp] theorem dropHeld_thr (t : Tag) (s : State) : (dropHeld t s).thr = s.thr := by
  unfold dropHeld; cases (tagOf s t).recSlot <;> rfl
@[simp] theorem dropHeld_isl (t : Tag) (s : State) : (dropHeld t s).isl = s.isl := by
  unfold dropHeld; cases (tagOf s t).recSlot <;> rfl
@[simp] theorem dropHeld_tnk (t : Tag) (s : State) : (dropHeld t s).tnk = s.tnk := by
  unfold dropHeld; cases (tagOf s t).recSlot <;> rfl
@[simp] theorem dropHeld_ctl (t : Tag) (s : State) : (dropHeld t s).ctl = s.ctl := by
  unfold dropHeld; cases (tagOf s t).recSlot <;> rfl
@[simp] theorem dropHeld_pin (t : Tag) (s : State) : (dropHeld t s).pin = s.pin := by
  unfold dropHeld; cases (tagOf s t).recSlot <;> rfl
@[simp] theorem dropHeld_freeCtr (t : Tag) (s : State) : (dropHeld t s).freeCtr = s.freeCtr := by
  unfold dropHeld; cases (tagOf s t).recSlot <;> rfl

/-! ### Completion -/

@[simp] theorem finish_pending (t : Tag) (o : Outc) (s : State) : (finish t o s).pending = s.pending := by simp [finish]
@[simp] theorem finish_shf (t : Tag) (o : Outc) (s : State) : (finish t o s).shf = s.shf := by simp [finish]
@[simp] theorem finish_mil (t : Tag) (o : Outc) (s : State) : (finish t o s).mil = s.mil := by simp [finish]
@[simp] theorem finish_crt (t : Tag) (o : Outc) (s : State) : (finish t o s).crt = s.crt := by simp [finish]
@[simp] theorem finish_arr (t : Tag) (o : Outc) (s : State) : (finish t o s).arr = s.arr := by simp [finish]
@[simp] theorem finish_hay (t : Tag) (o : Outc) (s : State) : (finish t o s).hay = s.hay := by simp [finish]
@[simp] theorem finish_asy (t : Tag) (o : Outc) (s : State) : (finish t o s).asy = s.asy := by simp [finish]
@[simp] theorem finish_noc (t : Tag) (o : Outc) (s : State) : (finish t o s).noc = s.noc := by simp [finish]
@[simp] theorem finish_hab (t : Tag) (o : Outc) (s : State) : (finish t o s).hab = s.hab := by simp [finish]
@[simp] theorem finish_rng (t : Tag) (o : Outc) (s : State) : (finish t o s).rng = s.rng := by simp [finish]
@[simp] theorem finish_thr (t : Tag) (o : Outc) (s : State) : (finish t o s).thr = s.thr := by simp [finish]
@[simp] theorem finish_isl (t : Tag) (o : Outc) (s : State) : (finish t o s).isl = s.isl := by simp [finish]
@[simp] theorem finish_ctl (t : Tag) (o : Outc) (s : State) : (finish t o s).ctl = s.ctl := by simp [finish]
@[simp] theorem finish_freeCtr (t : Tag) (o : Outc) (s : State) : (finish t o s).freeCtr = s.freeCtr := by simp [finish]

/-! ### Resume records -/

@[simp] theorem takeRec_pending (t : Tag) (row : Nat) (s : State) : (takeRec t row s).2.pending = s.pending := by
  unfold takeRec; split <;> simp
@[simp] theorem takeRec_shf (t : Tag) (row : Nat) (s : State) : (takeRec t row s).2.shf = s.shf := by
  unfold takeRec; split <;> simp
@[simp] theorem takeRec_mil (t : Tag) (row : Nat) (s : State) : (takeRec t row s).2.mil = s.mil := by
  unfold takeRec; split <;> simp
@[simp] theorem takeRec_crt (t : Tag) (row : Nat) (s : State) : (takeRec t row s).2.crt = s.crt := by
  unfold takeRec; split <;> simp
@[simp] theorem takeRec_arr (t : Tag) (row : Nat) (s : State) : (takeRec t row s).2.arr = s.arr := by
  unfold takeRec; split <;> simp
@[simp] theorem takeRec_hay (t : Tag) (row : Nat) (s : State) : (takeRec t row s).2.hay = s.hay := by
  unfold takeRec; split <;> simp
@[simp] theorem takeRec_asy (t : Tag) (row : Nat) (s : State) : (takeRec t row s).2.asy = s.asy := by
  unfold takeRec; split <;> simp
@[simp] theorem takeRec_noc (t : Tag) (row : Nat) (s : State) : (takeRec t row s).2.noc = s.noc := by
  unfold takeRec; split <;> simp
@[simp] theorem takeRec_hab (t : Tag) (row : Nat) (s : State) : (takeRec t row s).2.hab = s.hab := by
  unfold takeRec; split <;> simp
@[simp] theorem takeRec_rng (t : Tag) (row : Nat) (s : State) : (takeRec t row s).2.rng = s.rng := by
  unfold takeRec; split <;> simp
@[simp] theorem takeRec_thr (t : Tag) (row : Nat) (s : State) : (takeRec t row s).2.thr = s.thr := by
  unfold takeRec; split <;> simp
@[simp] theorem takeRec_isl (t : Tag) (row : Nat) (s : State) : (takeRec t row s).2.isl = s.isl := by
  unfold takeRec; split <;> simp
@[simp] theorem takeRec_ctl (t : Tag) (row : Nat) (s : State) : (takeRec t row s).2.ctl = s.ctl := by
  unfold takeRec; split <;> simp
@[simp] theorem takeRec_pin (t : Tag) (row : Nat) (s : State) : (takeRec t row s).2.pin = s.pin := by
  unfold takeRec; split <;> simp
@[simp] theorem takeRec_freeCtr (t : Tag) (row : Nat) (s : State) : (takeRec t row s).2.freeCtr = s.freeCtr := by
  unfold takeRec; split <;> simp

/-! ### Stopping -/

@[simp] theorem stopWithRef_pending (t : Tag) (st : Status) (hi row : Nat) (s : State) : (stopWithRef t st hi row s).pending = s.pending := by
  simp [stopWithRef]
@[simp] theorem stopWithRef_shf (t : Tag) (st : Status) (hi row : Nat) (s : State) : (stopWithRef t st hi row s).shf = s.shf := by
  simp [stopWithRef]
@[simp] theorem stopWithRef_mil (t : Tag) (st : Status) (hi row : Nat) (s : State) : (stopWithRef t st hi row s).mil = s.mil := by
  simp [stopWithRef]
@[simp] theorem stopWithRef_crt (t : Tag) (st : Status) (hi row : Nat) (s : State) : (stopWithRef t st hi row s).crt = s.crt := by
  simp [stopWithRef]
@[simp] theorem stopWithRef_arr (t : Tag) (st : Status) (hi row : Nat) (s : State) : (stopWithRef t st hi row s).arr = s.arr := by
  simp [stopWithRef]
@[simp] theorem stopWithRef_hay (t : Tag) (st : Status) (hi row : Nat) (s : State) : (stopWithRef t st hi row s).hay = s.hay := by
  simp [stopWithRef]
@[simp] theorem stopWithRef_asy (t : Tag) (st : Status) (hi row : Nat) (s : State) : (stopWithRef t st hi row s).asy = s.asy := by
  simp [stopWithRef]
@[simp] theorem stopWithRef_noc (t : Tag) (st : Status) (hi row : Nat) (s : State) : (stopWithRef t st hi row s).noc = s.noc := by
  simp [stopWithRef]
@[simp] theorem stopWithRef_hab (t : Tag) (st : Status) (hi row : Nat) (s : State) : (stopWithRef t st hi row s).hab = s.hab := by
  simp [stopWithRef]
@[simp] theorem stopWithRef_rng (t : Tag) (st : Status) (hi row : Nat) (s : State) : (stopWithRef t st hi row s).rng = s.rng := by
  simp [stopWithRef]
@[simp] theorem stopWithRef_thr (t : Tag) (st : Status) (hi row : Nat) (s : State) : (stopWithRef t st hi row s).thr = s.thr := by
  simp [stopWithRef]
@[simp] theorem stopWithRef_isl (t : Tag) (st : Status) (hi row : Nat) (s : State) : (stopWithRef t st hi row s).isl = s.isl := by
  simp [stopWithRef]
@[simp] theorem stopWithRef_ctl (t : Tag) (st : Status) (hi row : Nat) (s : State) : (stopWithRef t st hi row s).ctl = s.ctl := by
  simp [stopWithRef]
@[simp] theorem stopWithRef_freeCtr (t : Tag) (st : Status) (hi row : Nat) (s : State) : (stopWithRef t st hi row s).freeCtr = s.freeCtr := by
  simp [stopWithRef]


/-! ### Registers and tags past the shared operations -/

theorem rget_traceEv (ev isl unit loc info : Nat) {k : Nat} (h : k ≠ 0xD080) (s : State) :
    rget (traceEv ev isl unit loc info s) k = rget s k := by
  unfold traceEv; dsimp only
  split <;> [split <;> [rfl; split <;> [exact rget_rset_ne h _ _; rfl]]; rfl]

@[simp] theorem tagOf_traceEv (ev isl unit loc info : Nat) (t : Tag) (s : State) :
    tagOf (traceEv ev isl unit loc info s) t = tagOf s t := by unfold tagOf; simp

@[simp] theorem tagOf_logErr (kind isl unit loc info : Nat) (t : Tag) (s : State) :
    tagOf (logErr kind isl unit loc info s) t = tagOf s t := by unfold tagOf; simp

@[simp] theorem pumpSts_tags (s : State) : (pumpSts s).tly.tags = s.tly.tags := by unfold pumpSts; (repeat' split) <;> rfl

@[simp] theorem sendSts_tags (x : StsXfer) (s : State) : (sendSts x s).tly.tags = s.tly.tags := by simp [sendSts]

@[simp] theorem tagOf_sendSts (x : StsXfer) (t : Tag) (s : State) : tagOf (sendSts x s) t = tagOf s t := by unfold tagOf; simp

@[simp] theorem rget_sendSts (x : StsXfer) (k : Nat) (s : State) : rget (sendSts x s) k = rget s k := by unfold rget; simp

@[simp] theorem tagOf_freeRec (i : Nat) (t : Tag) (s : State) : tagOf (freeRec i s) t = tagOf s t := rfl

/-- A PREEMPT's count of what it acted on is all that `noteActed` changes of a tag. -/
theorem tagOf_noteActed (st : Status) (ps : List Tag) (t : Tag) (s : State) :
    ∃ j, tagOf (noteActed st ps s) t = { tagOf s t with job := j } := by
  cases ps with
  | nil => exact ⟨_, rfl⟩
  | cons p r =>
    have step : ∀ (q : Tag) (f : Job → Job) (s : State), ∃ j, tagOf (updJob q f s) t = { tagOf s t with job := j } := by
      intro q f s
      by_cases h : t = q
      · subst h; exact ⟨_, tagOf_updJob_self _ _ _⟩
      · exact ⟨_, by rw [tagOf_updJob_ne h]⟩
    have fold : ∀ (l : List Tag) (s : State), ∃ j,
        tagOf (l.foldl (fun s q => updJob q (fun j => { j with acted := j.acted - 1 }) s) s) t = { tagOf s t with job := j } := by
      intro l
      induction l with
      | nil => intro s; exact ⟨_, rfl⟩
      | cons q r ih =>
        intro s
        obtain ⟨j, hj⟩ := ih (updJob q (fun j => { j with acted := j.acted - 1 }) s)
        obtain ⟨j', hj'⟩ := step q (fun j => { j with acted := j.acted - 1 }) s
        exact ⟨j, by rw [List.foldl_cons, hj, hj']⟩
    obtain ⟨j, hj⟩ := fold r (updJob p (fun j => { j with acted := j.acted - 1, landed := j.landed + b2n (decide (st = .preempted)) }) s)
    obtain ⟨j', hj'⟩ := step p (fun j => { j with acted := j.acted - 1, landed := j.landed + b2n (decide (st = .preempted)) }) s
    exact ⟨j, by simp only [noteActed]; rw [hj, hj']⟩

@[simp] theorem tagOf_dropHeld (t u : Tag) (s : State) : tagOf (dropHeld t s) u = tagOf s u := by
  unfold dropHeld; cases (tagOf s t).recSlot <;> rfl

/-- What a completed command's tag holds (R311, R325): REPLYING, no touch, no reference, its reply. -/
theorem finish_tag (t : Tag) (o : Outc) (s : State) : ∃ j, tagOf (finish t o s) t = { endEntry t o s with job := j } := by
  obtain ⟨j, hj⟩ := tagOf_noteActed o.status (tagOf s t).actedBy t (setTag t (endEntry t o s) (dropHeld t s))
  exact ⟨j, by simp only [finish, tagOf_sendSts, tagOf_traceEv, hj, tagOf_setTag_self]⟩

/-- Of another tag a completion changes no more than a PREEMPT's count. -/
theorem finish_other (t : Tag) (o : Outc) {u : Tag} (hu : u ≠ t) (s : State) :
    ∃ j, tagOf (finish t o s) u = { tagOf s u with job := j } := by
  obtain ⟨j, hj⟩ := tagOf_noteActed o.status (tagOf s t).actedBy u (setTag t (endEntry t o s) (dropHeld t s))
  exact ⟨j, by simp only [finish, tagOf_sendSts, tagOf_traceEv, hj, tagOf_setTag_ne hu, tagOf_dropHeld]⟩

theorem rget_finish (t : Tag) (o : Outc) {k : Nat} (h : k ≠ 0xD080) (s : State) : rget (finish t o s) k = rget s k := by
  simp only [finish, rget_sendSts, rget_traceEv _ _ _ _ _ h]
  unfold rget
  simp only [noteActed_regs, setTag_regs, dropHeld_regs]

end Sys2Proof.Laws
end

