-- ==== Sys2Proof/Laws/Complete.lean ====
section
/-! SUPPORT. What a completion and a trace event leave behind. -/

namespace Sys2Proof.Laws

open Sys2Proof.Machine

theorem onlyTags_refl (s : State) : OnlyTags s s :=
  ⟨rfl, rfl, rfl, rfl, rfl, rfl, rfl, rfl, rfl, rfl, rfl, rfl, rfl, rfl, fun _ _ => rfl, rfl, fun _ => ⟨rfl, rfl⟩, rfl, rfl⟩

theorem onlyTags_trans {a b c : State} (h : OnlyTags a b) (g : OnlyTags b c) : OnlyTags a c where
  pending := g.pending.trans h.pending
  shf := g.shf.trans h.shf
  mil := g.mil.trans h.mil
  crt := g.crt.trans h.crt
  arr := g.arr.trans h.arr
  hay := g.hay.trans h.hay
  asy := g.asy.trans h.asy
  noc := g.noc.trans h.noc
  hab := g.hab.trans h.hab
  rng := g.rng.trans h.rng
  thr := g.thr.trans h.thr
  isl := g.isl.trans h.isl
  ctl := g.ctl.trans h.ctl
  freeCtr := g.freeCtr.trans h.freeCtr
  regs k hk := (g.regs k hk).trans (h.regs k hk)
  tnk := by
    have h' := h.tnk
    rw [← g.tnk] at h'
    exact h'
  traceOff ha := by
    obtain ⟨h1, h2⟩ := h.traceOff ha
    have hb : bit (rget b 0xD080) 0 = false := by rw [show rget b 0xD080 = rget a 0xD080 by unfold rget; rw [h2]]; exact ha
    obtain ⟨g1, g2⟩ := g.traceOff hb
    exact ⟨g1.trans h1, g2.trans h2⟩
  tly := by
    have h' := h.tly
    rw [← g.tly] at h'
    exact h'
  pin := by
    have h' := h.pin
    rw [← g.pin] at h'
    exact h'

theorem traceEv_only (ev isl unit loc info : Nat) (s : State) : OnlyTags s (traceEv ev isl unit loc info s) where
  pending := by simp
  shf := by simp
  mil := by simp
  crt := by simp
  arr := by simp
  hay := by simp
  asy := by simp
  noc := by simp
  hab := by simp
  rng := by simp
  thr := by simp
  isl := by simp
  ctl := by simp
  freeCtr := by simp
  regs k hk := rget_traceEv _ _ _ _ _ hk s
  tnk := by
    unfold traceEv
    simp only []
    repeat' split
    all_goals rfl
  traceOff h := by unfold traceEv; simp [h]
  tly := by simp
  pin := by simp

theorem sendSts_only (x : StsXfer) (s : State) : OnlyTags s (sendSts x s) where
  pending := by simp
  shf := by simp
  mil := by simp
  crt := by simp
  arr := by simp
  hay := by simp
  asy := by simp
  noc := by simp
  hab := by simp
  rng := by simp
  thr := by simp
  isl := by simp
  ctl := by simp
  freeCtr := by simp
  regs k _ := by simp
  tnk := by simp
  traceOff _ := by simp
  tly := by unfold sendSts pumpSts; (repeat' split) <;> rfl
  pin := by unfold sendSts pumpSts; (repeat' split) <;> rfl

theorem setTag_only (t : Tag) (e : TagEntry) (s : State) : OnlyTags s (setTag t e s) :=
  ⟨rfl, rfl, rfl, rfl, rfl, rfl, rfl, rfl, rfl, rfl, rfl, rfl, rfl, rfl, fun _ _ => rfl, rfl, fun _ => ⟨rfl, rfl⟩, rfl, rfl⟩

theorem dropHeld_only (t : Tag) (s : State) : OnlyTags s (dropHeld t s) := by
  unfold dropHeld
  cases (tagOf s t).recSlot <;>
    exact ⟨rfl, rfl, rfl, rfl, rfl, rfl, rfl, rfl, rfl, rfl, rfl, rfl, rfl, rfl, fun _ _ => rfl, rfl, fun _ => ⟨rfl, rfl⟩, rfl, rfl⟩

theorem noteActed_only (st : Status) (ps : List Tag) (s : State) : OnlyTags s (noteActed st ps s) := by
  have fold : ∀ (l : List Tag) (s : State), OnlyTags s (l.foldl (fun s q => updJob q (fun j => { j with acted := j.acted - 1 }) s) s) := by
    intro l
    induction l with
    | nil => exact onlyTags_refl
    | cons q r ih => exact fun s => onlyTags_trans (setTag_only _ _ _) (ih _)
  cases ps with
  | nil => exact onlyTags_refl s
  | cons p r => exact onlyTags_trans (setTag_only _ _ _) (fold r _)

theorem finish_only (t : Tag) (o : Outc) (s : State) : OnlyTags s (finish t o s) :=
  onlyTags_trans (onlyTags_trans (onlyTags_trans (dropHeld_only t s) (setTag_only t _ _)) (noteActed_only _ _ _))
    (onlyTags_trans (traceEv_only _ _ _ _ _ _) (sendSts_only _ _))

theorem tagOf_noteActed_ne (st : Status) (ps : List Tag) (u : Tag) (h : u ∉ ps) (s : State) : tagOf (noteActed st ps s) u = tagOf s u := by
  have fold : ∀ (l : List Tag) (_ : u ∉ l) (s : State),
      tagOf (l.foldl (fun s q => updJob q (fun j => { j with acted := j.acted - 1 }) s) s) u = tagOf s u := by
    intro l
    induction l with
    | nil => intros; rfl
    | cons q r ih =>
      intro hl s
      simp only [List.mem_cons, not_or] at hl
      exact (ih hl.2 _).trans (tagOf_updJob_ne hl.1 _ _)
  cases ps with
  | nil => rfl
  | cons p r =>
    simp only [List.mem_cons, not_or] at h
    exact (fold r h.2 _).trans (tagOf_updJob_ne h.1 _ _)

theorem sendSts_queued (x : StsXfer) (s : State) : (sendSts x s).tly.stsCur = some x ∨ x ∈ (sendSts x s).tly.stsQ := by
  have h : ∀ u : State, x ∈ u.tly.stsQ → (pumpSts u).tly.stsCur = some x ∨ x ∈ (pumpSts u).tly.stsQ := by
    intro u hu
    unfold pumpSts
    split
    · next y r _ hq =>
      rw [hq] at hu
      split
      · exact .inr (by rw [hq]; exact hu)
      · rcases List.mem_cons.mp hu with rfl | h
        · exact .inl rfl
        · exact .inr h
    · exact .inr hu
  exact h _ (by simp)

/-- What `finish` leaves behind (R311, R325). -/
theorem finish_completed (t : Tag) (o : Outc) (s : State) : Completed s (finish t o s) t o := by
  obtain ⟨j, hj⟩ := finish_tag t o s
  refine ⟨by rw [hj]; rfl, by rw [hj]; rfl, by rw [hj]; rfl, by rw [hj]; rfl, by rw [hj]; rfl, ?_, ?_, ?_, finish_only t o s⟩
  · exact sendSts_queued _ _
  · intro u hu ha
    simp only [finish, tagOf_sendSts, tagOf_traceEv]
    rw [tagOf_noteActed_ne _ _ _ ha, tagOf_setTag_ne hu, tagOf_dropHeld]
  · intro hr
    have h1 : ∀ (x : StsXfer) (s : State), (sendSts x s).tly.recs = s.tly.recs := by
      intro x s; unfold sendSts pumpSts; (repeat' split) <;> rfl
    simp only [finish, h1, traceEv_tly]
    rw [noteActed_proj (fun s => s.tly.recs) (fun _ _ _ => rfl)]
    simp [setTag, dropHeld, hr]

/-- A trace event changes nothing but the trace (R378). -/
theorem traceEv_onlyTrace (ev isl unit loc info : Nat) (s : State) : OnlyTrace s (traceEv ev isl unit loc info s) where
  regs k hk := rget_traceEv _ _ _ _ _ hk s
  only := by
    unfold traceEv
    simp only []
    repeat' split
    all_goals rfl

/-- What a log entry changes (R377). -/
theorem logErr_logged (kind isl unit loc info : Nat) (s : State) : Logged s (logErr kind isl unit loc info s) kind isl unit loc info := by
  have tr : ∀ (a : State), (traceEv 9 isl unit loc info a).tnk.log = a.tnk.log ∧ (traceEv 9 isl unit loc info a).tnk.lost = a.tnk.lost
      ∧ (traceEv 9 isl unit loc info a).tnk.firstBad = a.tnk.firstBad := by
    intro a
    rw [(traceEv_onlyTrace 9 isl unit loc info a).only]
    exact ⟨rfl, rfl, rfl⟩
  refine ⟨?_, ?_, ?_, ?_⟩
  · unfold logErr
    simp only [tr]
    by_cases h : s.tnk.log.length < 64 <;> by_cases g : (isBadKind kind && s.tnk.firstBad.isNone) = true <;> simp [h, g]
  · unfold logErr
    simp only [tr]
    by_cases h : s.tnk.log.length < 64 <;> cases g : isBadKind kind <;> cases f : s.tnk.firstBad <;> simp [h]
  · intro k hk
    unfold logErr
    rw [rget_traceEv _ _ _ _ _ hk]; rfl
  · unfold logErr
    simp only []
    rw [(traceEv_onlyTrace 9 isl unit loc info _).only]
    by_cases h : s.tnk.log.length < 64 <;> by_cases g : (isBadKind kind && s.tnk.firstBad.isNone) = true <;> simp [h, g]

end Sys2Proof.Laws
end

