-- ==== Sys2Proof/Laws/Store.lean ====
section
/-! SUPPORT. What a state keeps in storage and in its queue, and how folds treat it. -/

namespace Sys2Proof.Laws

open Sys2Proof.Machine

/-- The queue, and the bytes and check bytes of the Sheaf and of the Hayloft. -/
def store (s : State) : List Instr × Memory × Memory × Memory × Memory :=
  (s.pending, s.shf.mem, s.shf.chk, s.hay.mem, s.hay.chk)

/-- The queue is `l`, and all storage is in canonical form. -/
def StoreOk (l : List Instr) (x : List Instr × Memory × Memory × Memory × Memory) : Prop :=
  x.1 = l ∧ Memory.wf x.2.1 = true ∧ Memory.wf x.2.2.1 = true ∧ Memory.wf x.2.2.2.1 = true ∧ Memory.wf x.2.2.2.2 = true

/-- An outcome whose next state, if any, has the storage and queue `x`. -/
def NextStore (x : List Instr × Memory × Memory × Memory × Memory) : Host.Outcome State Fault Refusal → Prop
  | .next u => store u = x
  | .fault _ => True
  | .refused _ => True

/-- An outcome whose next state, if any, has the queue `l` and storage in canonical form. -/
def NextOk (l : List Instr) : Host.Outcome State Fault Refusal → Prop
  | .next u => StoreOk l (store u)
  | .fault _ => True
  | .refused _ => True

theorem nextStore_next (x) (u : State) : NextStore x (.next u) = (store u = x) := rfl

theorem nextStore_fault (x) (f : Fault) : NextStore x (.fault f) = True := rfl

theorem nextOk_next (l) (u : State) : NextOk l (.next u) = StoreOk l (store u) := rfl

theorem nextOk_fault (l) (f : Fault) : NextOk l (.fault f) = True := rfl

/-- An optional state has the storage and queue `x`. -/
def SomeStore (x : List Instr × Memory × Memory × Memory × Memory) : Option State → Prop
  | some u => store u = x
  | none => True

/-- The state of an optional pair has the storage and queue `x`. -/
def SomeStore2 {α : Type} (x : List Instr × Memory × Memory × Memory × Memory) : Option (α × State) → Prop
  | some (_, u) => store u = x
  | none => True

/-- An optional state has the queue `l` and storage in canonical form. -/
def SomeOk (l : List Instr) : Option State → Prop
  | some u => StoreOk l (store u)
  | none => True

/-- The state of an optional pair has the queue `l` and storage in canonical form. -/
def SomeOk2 {α : Type} (l : List Instr) : Option (α × State) → Prop
  | some (_, u) => StoreOk l (store u)
  | none => True

theorem someStore_some (x) (u : State) : SomeStore x (some u) = (store u = x) := rfl

theorem someStore_none (x) : SomeStore x none = True := rfl

theorem someStore2_some {α : Type} (x) (a : α) (u : State) : SomeStore2 x (some (a, u)) = (store u = x) := rfl

theorem someStore2_none {α : Type} (x) : SomeStore2 (α := α) x none = True := rfl

theorem someOk_some (l) (u : State) : SomeOk l (some u) = StoreOk l (store u) := rfl

theorem someOk_none (l) : SomeOk l none = True := rfl

theorem someOk2_some {α : Type} (l) (a : α) (u : State) : SomeOk2 l (some (a, u)) = StoreOk l (store u) := rfl

theorem someOk2_none {α : Type} (l) : SomeOk2 (α := α) l none = True := rfl

/-! ### Updates of other fields -/

theorem store_upd (X : State) (r mil crt arr asy noc hab rng thr tly isl tnk ctl pin f) :
    store ⟨X.pending, r, X.shf, mil, crt, arr, X.hay, asy, noc, hab, rng, thr, tly, isl, tnk, ctl, pin, f⟩ = store X := by cases X; rfl

theorem store_shf (X : State) (r a b c mil crt arr asy noc hab rng thr tly isl tnk ctl pin f) :
    store ⟨X.pending, r, ⟨X.shf.mem, X.shf.chk, a, b, c⟩, mil, crt, arr, X.hay, asy, noc, hab, rng, thr, tly, isl, tnk, ctl, pin, f⟩
      = store X := by cases X; rfl

theorem store_hay (X : State) (r a b c d e g h i j mil crt arr asy noc hab rng thr tly isl tnk ctl pin f) :
    store ⟨X.pending, r, X.shf, mil, crt, arr, ⟨X.hay.mem, X.hay.chk, a, b, c, d, e, g, h, i, j⟩, asy, noc, hab, rng, thr, tly, isl, tnk, ctl, pin, f⟩
      = store X := by cases X; rfl

theorem store_both (X : State) (r a b c a' b' c' d e g h i j mil crt arr asy noc hab rng thr tly isl tnk ctl pin f) :
    store ⟨X.pending, r, ⟨X.shf.mem, X.shf.chk, a', b', c'⟩, mil, crt, arr, ⟨X.hay.mem, X.hay.chk, a, b, c, d, e, g, h, i, j⟩, asy, noc, hab, rng, thr,
      tly, isl, tnk, ctl, pin, f⟩ = store X := by cases X; rfl

theorem store_ite (c : Prop) [Decidable c] (a b : State) : store (if c then a else b) = if c then store a else store b := apply_ite _ _ _ _

theorem ok_ite (c : Prop) [Decidable c] (l : List Instr) (a b : State) :
    StoreOk l (store (if c then a else b)) = if c then StoreOk l (store a) else StoreOk l (store b) := by split <;> rfl

theorem snd_ite {α : Type} (c : Prop) [Decidable c] (a b : α × State) : (if c then a else b).2 = if c then a.2 else b.2 := apply_ite _ _ _ _

/-! ### Folds -/

theorem store_fold {β : Type} (f : State → β → State) (h : ∀ s a, store (f s a) = store s) (l : List β) (s : State) :
    store (l.foldl f s) = store s := by
  induction l generalizing s with
  | nil => rfl
  | cons a r ih => exact (ih (f s a)).trans (h s a)

theorem store_foldp {α β : Type} (p : α → State) (f : α → β → α) (h : ∀ x a, store (p (f x a)) = store (p x)) (l : List β) (x : α) :
    store (p (l.foldl f x)) = store (p x) := by
  induction l generalizing x with
  | nil => rfl
  | cons a r ih => exact (ih (f x a)).trans (h x a)

theorem ok_fold {β : Type} {q : List Instr} (f : State → β → State) (h : ∀ s a, StoreOk q (store s) → StoreOk q (store (f s a)))
    (l : List β) (s : State) (hs : StoreOk q (store s)) : StoreOk q (store (l.foldl f s)) := by
  induction l generalizing s with
  | nil => exact hs
  | cons a r ih => exact ih (f s a) (h s a hs)

theorem ok_foldp {α β : Type} {q : List Instr} (p : α → State) (f : α → β → α)
    (h : ∀ x a, StoreOk q (store (p x)) → StoreOk q (store (p (f x a)))) (l : List β) (x : α) (hx : StoreOk q (store (p x))) :
    StoreOk q (store (p (l.foldl f x))) := by
  induction l generalizing x with
  | nil => exact hx
  | cons a r ih => exact ih (f x a) (h x a hx)

theorem store_fold1 {α β : Type} (f : α × State → β → α × State) (h : ∀ x a, store (f x a).2 = store x.2) (l : List β) (x : α × State) :
    store (l.foldl f x).2 = store x.2 := store_foldp (·.2) f h l x

theorem store_fold2 {α γ β : Type} (f : α × γ × State → β → α × γ × State) (h : ∀ x a, store (f x a).2.2 = store x.2.2) (l : List β)
    (x : α × γ × State) : store (l.foldl f x).2.2 = store x.2.2 := store_foldp (·.2.2) f h l x

theorem ok_fold1 {α β : Type} {q : List Instr} (f : α × State → β → α × State) (h : ∀ x a, StoreOk q (store x.2) → StoreOk q (store (f x a).2))
    (l : List β) (x : α × State) (hx : StoreOk q (store x.2)) : StoreOk q (store (l.foldl f x).2) := ok_foldp (·.2) f h l x hx

theorem ok_fold2 {α γ β : Type} {q : List Instr} (f : α × γ × State → β → α × γ × State)
    (h : ∀ x a, StoreOk q (store x.2.2) → StoreOk q (store (f x a).2.2)) (l : List β) (x : α × γ × State) (hx : StoreOk q (store x.2.2)) :
    StoreOk q (store (l.foldl f x).2.2) := ok_foldp (·.2.2) f h l x hx

end Sys2Proof.Laws
end

