-- ==== Sys2Proof/Laws/StorageBase.lean ====
section
/-! SUPPORT. What the register, storage and bank operations do to the queue and to storage. A lemma `store_f` says that `f` leaves both as
they were; `ok_f` that it keeps the queue and every memory's canonical form. -/

namespace Sys2Proof.Laws

open Sys2Proof.Machine

/-! ### RegMap -/

theorem store_rset (off : Nat) (v : Reg) (s : State) : store (rset off v s) = store s := by
  simp only [rset, someStore_some, someStore_none, someStore2_some, someStore2_none, someOk_some, someOk_none, someOk2_some, someOk2_none, nextStore_next, nextStore_fault, nextOk_next, nextOk_fault, store_upd, store_shf, store_hay, store_both, store_ite, snd_ite, ite_self]
theorem store_cnt (off n : Nat) (s : State) : store (cnt off n s) = store s := by
  simp only [cnt, someStore_some, someStore_none, someStore2_some, someStore2_none, someOk_some, someOk_none, someOk2_some, someOk2_none, nextStore_next, nextStore_fault, nextOk_next, nextOk_fault, store_upd, store_shf, store_hay, store_both, store_ite, snd_ite, ite_self, store_rset]

/-! ### Ops -/

theorem store_setIsl (i : Nat) (x : Island) (s : State) : store (setIsl i x s) = store s := by
  simp only [setIsl, someStore_some, someStore_none, someStore2_some, someStore2_none, someOk_some, someOk_none, someOk2_some, someOk2_none, nextStore_next, nextStore_fault, nextOk_next, nextOk_fault, store_upd, store_shf, store_hay, store_both, store_ite, snd_ite, ite_self]
theorem store_updIsl (i : Nat) (f : Island → Island) (s : State) : store (updIsl i f s) = store s := by
  simp only [updIsl, someStore_some, someStore_none, someStore2_some, someStore2_none, someOk_some, someOk_none, someOk2_some, someOk2_none, nextStore_next, nextStore_fault, nextOk_next, nextOk_fault, store_upd, store_shf, store_hay, store_both, store_ite, snd_ite, ite_self, store_setIsl]
theorem store_traceEv (ev isl unit loc info : Nat) (s : State) : store (traceEv ev isl unit loc info s) = store s := by
  simp only [traceEv, someStore_some, someStore_none, someStore2_some, someStore2_none, someOk_some, someOk_none, someOk2_some, someOk2_none, nextStore_next, nextStore_fault, nextOk_next, nextOk_fault, store_upd, store_shf, store_hay, store_both, store_ite, snd_ite, ite_self, store_rset]
theorem store_logErr (kind isl unit loc info : Nat) (s : State) : store (logErr kind isl unit loc info s) = store s := by
  simp only [logErr, someStore_some, someStore_none, someStore2_some, someStore2_none, someOk_some, someOk_none, someOk2_some, someOk2_none, nextStore_next, nextStore_fault, nextOk_next, nextOk_fault, store_upd, store_shf, store_hay, store_both, store_ite, snd_ite, ite_self, store_traceEv]
theorem store_unusable (isl unit loc info : Nat) (s : State) : store (unusable isl unit loc info s) = store s := by
  simp only [unusable, someStore_some, someStore_none, someStore2_some, someStore2_none, someOk_some, someOk_none, someOk2_some, someOk2_none, nextStore_next, nextStore_fault, nextOk_next, nextOk_fault, store_upd, store_shf, store_hay, store_both, store_ite, snd_ite, ite_self, store_logErr]
theorem store_crossIn (c : Nat) (s : State) : store (crossIn c s) = store s := by
  simp only [crossIn, someStore_some, someStore_none, someStore2_some, someStore2_none, someOk_some, someOk_none, someOk2_some, someOk2_none, nextStore_next, nextStore_fault, nextOk_next, nextOk_fault, store_upd, store_shf, store_hay, store_both, store_ite, snd_ite, ite_self]
theorem store_countIsl (s : State) (i : Nat) : store (countIsl s i) = store s := by
  simp only [countIsl, someStore_some, someStore_none, someStore2_some, someStore2_none, someOk_some, someOk_none, someOk2_some, someOk2_none, nextStore_next, nextStore_fault, nextOk_next, nextOk_fault, store_upd, store_shf, store_hay, store_both, store_ite, snd_ite, ite_self, store_updIsl]
theorem store_tick (s : State) : store (tick s) = store s := by
  unfold tick; (repeat' split) <;> simp [someStore_some, someStore_none, someStore2_some, someStore2_none, someOk_some, someOk_none, someOk2_some, someOk2_none, nextStore_next, nextStore_fault, nextOk_next, nextOk_fault, store_upd, store_shf, store_hay, store_both, store_ite, snd_ite, ite_self, store_fold, store_fold1, store_fold2, store_cnt, store_countIsl]
theorem store_setTag (t : Tag) (e : TagEntry) (s : State) : store (setTag t e s) = store s := by
  simp only [setTag, someStore_some, someStore_none, someStore2_some, someStore2_none, someOk_some, someOk_none, someOk2_some, someOk2_none, nextStore_next, nextStore_fault, nextOk_next, nextOk_fault, store_upd, store_shf, store_hay, store_both, store_ite, snd_ite, ite_self]
theorem store_updTag (t : Tag) (f : TagEntry → TagEntry) (s : State) : store (updTag t f s) = store s := by
  simp only [updTag, someStore_some, someStore_none, someStore2_some, someStore2_none, someOk_some, someOk_none, someOk2_some, someOk2_none, nextStore_next, nextStore_fault, nextOk_next, nextOk_fault, store_upd, store_shf, store_hay, store_both, store_ite, snd_ite, ite_self, store_setTag]
theorem store_updJob (t : Tag) (f : Job → Job) (s : State) : store (updJob t f s) = store s := by
  simp only [updJob, someStore_some, someStore_none, someStore2_some, someStore2_none, someOk_some, someOk_none, someOk2_some, someOk2_none, nextStore_next, nextStore_fault, nextOk_next, nextOk_fault, store_upd, store_shf, store_hay, store_both, store_ite, snd_ite, ite_self, store_updTag]
theorem store_pumpSts (s : State) : store (pumpSts s) = store s := by
  unfold pumpSts; (repeat' split) <;> simp only [someStore_some, someStore_none, someStore2_some, someStore2_none, someOk_some, someOk_none, someOk2_some, someOk2_none, nextStore_next, nextStore_fault, nextOk_next, nextOk_fault, store_upd, store_shf, store_hay, store_both, store_ite, snd_ite, ite_self]
theorem store_pumpNtf (s : State) : store (pumpNtf s) = store s := by
  unfold pumpNtf; (repeat' split) <;> simp only [someStore_some, someStore_none, someStore2_some, someStore2_none, someOk_some, someOk_none, someOk2_some, someOk2_none, nextStore_next, nextStore_fault, nextOk_next, nextOk_fault, store_upd, store_shf, store_hay, store_both, store_ite, snd_ite, ite_self]
theorem store_sendSts (x : StsXfer) (s : State) : store (sendSts x s) = store s := by
  simp only [sendSts, someStore_some, someStore_none, someStore2_some, someStore2_none, someOk_some, someOk_none, someOk2_some, someOk2_none, nextStore_next, nextStore_fault, nextOk_next, nextOk_fault, store_upd, store_shf, store_hay, store_both, store_ite, snd_ite, ite_self, store_pumpSts]
theorem store_noteActed (st : Status) (ps : List Tag) (s : State) : store (noteActed st ps s) = store s := by
  unfold noteActed; (repeat' split) <;> simp [someStore_some, someStore_none, someStore2_some, someStore2_none, someOk_some, someOk_none, someOk2_some, someOk2_none, nextStore_next, nextStore_fault, nextOk_next, nextOk_fault, store_upd, store_shf, store_hay, store_both, store_ite, snd_ite, ite_self, store_fold, store_fold1, store_fold2, store_updJob]
theorem store_setRec (i : Nat) (r : Rec) (s : State) : store (setRec i r s) = store s := by
  simp only [setRec, someStore_some, someStore_none, someStore2_some, someStore2_none, someOk_some, someOk_none, someOk2_some, someOk2_none, nextStore_next, nextStore_fault, nextOk_next, nextOk_fault, store_upd, store_shf, store_hay, store_both, store_ite, snd_ite, ite_self]
theorem store_freeRec (i : Nat) (s : State) : store (freeRec i s) = store s := by
  simp only [freeRec, someStore_some, someStore_none, someStore2_some, someStore2_none, someOk_some, someOk_none, someOk2_some, someOk2_none, nextStore_next, nextStore_fault, nextOk_next, nextOk_fault, store_upd, store_shf, store_hay, store_both, store_ite, snd_ite, ite_self, store_setRec]
theorem store_dropHeld (t : Tag) (s : State) : store (dropHeld t s) = store s := by
  unfold dropHeld; (repeat' split) <;> simp only [someStore_some, someStore_none, someStore2_some, someStore2_none, someOk_some, someOk_none, someOk2_some, someOk2_none, nextStore_next, nextStore_fault, nextOk_next, nextOk_fault, store_upd, store_shf, store_hay, store_both, store_ite, snd_ite, ite_self, store_freeRec]
theorem store_finish (t : Tag) (o : Outc) (s : State) : store (finish t o s) = store s := by
  simp only [finish, someStore_some, someStore_none, someStore2_some, someStore2_none, someOk_some, someOk_none, someOk2_some, someOk2_none, nextStore_next, nextStore_fault, nextOk_next, nextOk_fault, store_upd, store_shf, store_hay, store_both, store_ite, snd_ite, ite_self, store_traceEv, store_setTag, store_sendSts, store_noteActed, store_dropHeld]
theorem store_addBits (t : Tag) (b : BitVec 16) (s : State) : store (addBits t b s) = store s := by
  simp only [addBits, someStore_some, someStore_none, someStore2_some, someStore2_none, someOk_some, someOk_none, someOk2_some, someOk2_none, nextStore_next, nextStore_fault, nextOk_next, nextOk_fault, store_upd, store_shf, store_hay, store_both, store_ite, snd_ite, ite_self, store_updTag]
theorem store_addUncorr (t : Tag) (tile : Nat) (wr : Bool) (seg : Nat) (s : State) : store (addUncorr t tile wr seg s) = store s := by
  simp only [addUncorr, someStore_some, someStore_none, someStore2_some, someStore2_none, someOk_some, someOk_none, someOk2_some, someOk2_none, nextStore_next, nextStore_fault, nextOk_next, nextOk_fault, store_upd, store_shf, store_hay, store_both, store_ite, snd_ite, ite_self, store_updTag]
theorem store_takeRec (t : Tag) (row : Nat) (s : State) : store (takeRec t row s).2 = store s := by
  unfold takeRec; (repeat' split) <;> simp only [someStore_some, someStore_none, someStore2_some, someStore2_none, someOk_some, someOk_none, someOk2_some, someOk2_none, nextStore_next, nextStore_fault, nextOk_next, nextOk_fault, store_upd, store_shf, store_hay, store_both, store_ite, snd_ite, ite_self, store_cnt, store_logErr]
theorem store_stopWithRef (t : Tag) (st : Status) (hi row : Nat) (s : State) : store (stopWithRef t st hi row s) = store s := by
  simp only [stopWithRef, someStore_some, someStore_none, someStore2_some, someStore2_none, someOk_some, someOk_none, someOk2_some, someOk2_none, nextStore_next, nextStore_fault, nextOk_next, nextOk_fault, store_upd, store_shf, store_hay, store_both, store_ite, snd_ite, ite_self, store_traceEv, store_finish, store_takeRec]
theorem store_cancelRecs (p : TagEntry → Bool) (o : Outc) (s : State) : store (cancelRecs p o s) = store s := by
  simp only [cancelRecs, someStore_some, someStore_none, someStore2_some, someStore2_none, someOk_some, someOk_none, someOk2_some, someOk2_none, nextStore_next, nextStore_fault, nextOk_next, nextOk_fault, store_upd, store_shf, store_hay, store_both, store_ite, snd_ite, ite_self]
theorem store_endTouch (t : Tag) (o : Obj) (s : State) : store (endTouch t o s) = store s := by
  simp only [endTouch, someStore_some, someStore_none, someStore2_some, someStore2_none, someOk_some, someOk_none, someOk2_some, someOk2_none, nextStore_next, nextStore_fault, nextOk_next, nextOk_fault, store_upd, store_shf, store_hay, store_both, store_ite, snd_ite, ite_self, store_updTag]
theorem store_setTile (t : Nat) (x : Tile) (s : State) : store (setTile t x s) = store s := by
  simp only [setTile, someStore_some, someStore_none, someStore2_some, someStore2_none, someOk_some, someOk_none, someOk2_some, someOk2_none, nextStore_next, nextStore_fault, nextOk_next, nextOk_fault, store_upd, store_shf, store_hay, store_both, store_ite, snd_ite, ite_self]
theorem store_setGroup (g : Nat) (u : PwrUnit) (s : State) : store (setGroup g u s) = store s := by
  simp only [setGroup, someStore_some, someStore_none, someStore2_some, someStore2_none, someOk_some, someOk_none, someOk2_some, someOk2_none, nextStore_next, nextStore_fault, nextOk_next, nextOk_fault, store_upd, store_shf, store_hay, store_both, store_ite, snd_ite, ite_self]
theorem store_wakeGroup (g : Nat) (s : State) : store (wakeGroup g s) = store s := by
  simp only [wakeGroup, someStore_some, someStore_none, someStore2_some, someStore2_none, someOk_some, someOk_none, someOk2_some, someOk2_none, nextStore_next, nextStore_fault, nextOk_next, nextOk_fault, store_upd, store_shf, store_hay, store_both, store_ite, snd_ite, ite_self, store_setGroup]
theorem store_setHbank (b : Nat) (u : PwrUnit) (s : State) : store (setHbank b u s) = store s := by
  simp only [setHbank, someStore_some, someStore_none, someStore2_some, someStore2_none, someOk_some, someOk_none, someOk2_some, someOk2_none, nextStore_next, nextStore_fault, nextOk_next, nextOk_fault, store_upd, store_shf, store_hay, store_both, store_ite, snd_ite, ite_self]
theorem store_askMem (r : OutReq) (s : State) : store (askMem r s) = store s := by
  simp only [askMem, someStore_some, someStore_none, someStore2_some, someStore2_none, someOk_some, someOk_none, someOk2_some, someOk2_none, nextStore_next, nextStore_fault, nextOk_next, nextOk_fault, store_upd, store_shf, store_hay, store_both, store_ite, snd_ite, ite_self]
theorem store_pick (s : State) : store (pick s).2 = store s := by
  simp only [pick, someStore_some, someStore_none, someStore2_some, someStore2_none, someOk_some, someOk_none, someOk2_some, someOk2_none, nextStore_next, nextStore_fault, nextOk_next, nextOk_fault, store_upd, store_shf, store_hay, store_both, store_ite, snd_ite, ite_self]

/-! ### Storage -/

theorem store_setPhys (kind l p : Nat) (s : State) : store (setPhys kind l p s) = store s := by
  simp only [setPhys, someStore_some, someStore_none, someStore2_some, someStore2_none, someOk_some, someOk_none, someOk2_some, someOk2_none, nextStore_next, nextStore_fault, nextOk_next, nextOk_fault, store_upd, store_shf, store_hay, store_both, store_ite, snd_ite, ite_self, store_rset]
theorem store_assignMap (kind l p : Nat) (s : State) : SomeStore (store s) (assignMap kind l p s) := by
  unfold assignMap; (repeat' split) <;> simp only [someStore_some, someStore_none, someStore2_some, someStore2_none, someOk_some, someOk_none, someOk2_some, someOk2_none, nextStore_next, nextStore_fault, nextOk_next, nextOk_fault, store_upd, store_shf, store_hay, store_both, store_ite, snd_ite, ite_self, store_setPhys]
theorem store_dropTrigger (b : Nat) (by_ : Option Tag) (s : State) : store (dropTrigger b by_ s) = store s := by
  unfold dropTrigger; (repeat' split) <;> simp only [someStore_some, someStore_none, someStore2_some, someStore2_none, someOk_some, someOk_none, someOk2_some, someOk2_none, nextStore_next, nextStore_fault, nextOk_next, nextOk_fault, store_upd, store_shf, store_hay, store_both, store_ite, snd_ite, ite_self, store_logErr, store_finish]
theorem store_trigger (b : Nat) (by_ : Option Tag) (s : State) : store (trigger b by_ s) = store s := by
  simp only [trigger, someStore_some, someStore_none, someStore2_some, someStore2_none, someOk_some, someOk_none, someOk2_some, someOk2_none, nextStore_next, nextStore_fault, nextOk_next, nextOk_fault, store_upd, store_shf, store_hay, store_both, store_ite, snd_ite, ite_self, store_dropTrigger]
theorem store_noteCorrected (b : Nat) (s : State) : store (noteCorrected b s) = store s := by
  simp only [noteCorrected, someStore_some, someStore_none, someStore2_some, someStore2_none, someOk_some, someOk_none, someOk2_some, someOk2_none, nextStore_next, nextStore_fault, nextOk_next, nextOk_fault, store_upd, store_shf, store_hay, store_both, store_ite, snd_ite, ite_self, store_trigger]
theorem ok_shfPut1 {qq : List Instr} (bank entry w : Nat) (d : Word) (c : Byte) (s : State) (h : StoreOk qq (store s)) :
    StoreOk qq (store (shfPut1 bank entry w d c s)) :=
  ⟨h.1, wf_write64 _ _ _ h.2.1, wf_write _ _ _ h.2.2.1, h.2.2.2.1, h.2.2.2.2⟩
theorem ok_shfPut {qq : List Instr} (bank entry w : Nat) (d : Word) (c : Byte) (s : State) (hst : StoreOk qq (store s)) : StoreOk qq (store (shfPut bank entry w d c s)) := by
  simp only [shfPut, someStore_some, someStore_none, someStore2_some, someStore2_none, someOk_some, someOk_none, someOk2_some, someOk2_none, nextStore_next, nextStore_fault, nextOk_next, nextOk_fault, store_upd, store_shf, store_hay, store_both, store_ite, snd_ite, ite_self, ok_ite, ok_shfPut1] <;> (repeat' split) <;> simp_all [someStore_some, someStore_none, someStore2_some, someStore2_none, someOk_some, someOk_none, someOk2_some, someOk2_none, nextStore_next, nextStore_fault, nextOk_next, nextOk_fault, store_upd, store_shf, store_hay, store_both, store_ite, snd_ite, ite_self, ok_ite, ok_shfPut1]
theorem store_shfTest (bank entry : Nat) (d : Word) (c : Byte) (s : State) : store (shfTest bank entry d c s).2.2 = store s := by
  unfold shfTest; (repeat' split) <;> simp only [someStore_some, someStore_none, someStore2_some, someStore2_none, someOk_some, someOk_none, someOk2_some, someOk2_none, nextStore_next, nextStore_fault, nextOk_next, nextOk_fault, store_upd, store_shf, store_hay, store_both, store_ite, snd_ite, ite_self, store_logErr, store_noteCorrected]
theorem store_shfRead (bank entry w : Nat) (s : State) : store (shfRead bank entry w s).2.2 = store s := by
  simp only [shfRead, someStore_some, someStore_none, someStore2_some, someStore2_none, someOk_some, someOk_none, someOk2_some, someOk2_none, nextStore_next, nextStore_fault, nextOk_next, nextOk_fault, store_upd, store_shf, store_hay, store_both, store_ite, snd_ite, ite_self, store_shfTest]
theorem ok_hayPut {qq : List Instr} (pbank word w : Nat) (d : Word) (c : Byte) (s : State) (h : StoreOk qq (store s)) :
    StoreOk qq (store (hayPut pbank word w d c s)) :=
  ⟨h.1, h.2.1, h.2.2.1, wf_write64 _ _ _ h.2.2.2.1, wf_write _ _ _ h.2.2.2.2⟩
theorem store_hayTest (pbank word : Nat) (d : Word) (c : Byte) (s : State) : store (hayTest pbank word d c s).2.2 = store s := by
  unfold hayTest; (repeat' split) <;> simp only [someStore_some, someStore_none, someStore2_some, someStore2_none, someOk_some, someOk_none, someOk2_some, someOk2_none, nextStore_next, nextStore_fault, nextOk_next, nextOk_fault, store_upd, store_shf, store_hay, store_both, store_ite, snd_ite, ite_self, store_cnt, store_logErr]
theorem store_hayWordRead (pbank word : Nat) (be : BitVec 64) (s : State) : store (hayWordRead pbank word be s).2.2 = store s := by
  unfold hayWordRead
  refine store_foldp (fun x : Nat × EccRes × State => x.2.2) _ (fun x a => ?_) _ _
  (try simp only [store_upd, store_shf, store_hay, store_both, store_ite, snd_ite, ite_self, store_hayTest]) <;> (repeat' split) <;> simp_all [store_upd, store_shf, store_hay, store_both, store_ite, snd_ite, ite_self, store_hayTest]
theorem ok_hayWrite1 {qq : List Instr} (pbank word : Nat) (be : BitVec 64) (data : BitVec 512) (chk : Option (BitVec 64)) (s : State) (w : Nat) (hst : StoreOk qq (store s)) : StoreOk qq (store (hayWrite1 pbank word be data chk s w)) := by
  simp only [hayWrite1, someStore_some, someStore_none, someStore2_some, someStore2_none, someOk_some, someOk_none, someOk2_some, someOk2_none, nextStore_next, nextStore_fault, nextOk_next, nextOk_fault, store_upd, store_shf, store_hay, store_both, store_ite, snd_ite, ite_self, ok_ite, ok_hayPut, store_hayTest] <;> (repeat' split) <;> simp_all [someStore_some, someStore_none, someStore2_some, someStore2_none, someOk_some, someOk_none, someOk2_some, someOk2_none, nextStore_next, nextStore_fault, nextOk_next, nextOk_fault, store_upd, store_shf, store_hay, store_both, store_ite, snd_ite, ite_self, ok_ite, ok_hayPut, store_hayTest]
theorem ok_hayWordWrite {qq : List Instr} (pbank word : Nat) (be : BitVec 64) (data : BitVec 512) (chk : Option (BitVec 64)) (s : State) (hst : StoreOk qq (store s)) : StoreOk qq (store (hayWordWrite pbank word be data chk s)) := by
  simp only [hayWordWrite, someStore_some, someStore_none, someStore2_some, someStore2_none, someOk_some, someOk_none, someOk2_some, someOk2_none, nextStore_next, nextStore_fault, nextOk_next, nextOk_fault, store_upd, store_shf, store_hay, store_both, store_ite, snd_ite, ite_self, ok_ite, store_fold, store_fold1, store_fold2, ok_fold, ok_fold1, ok_fold2, ok_hayWrite1] <;> (repeat' split) <;> simp_all [someStore_some, someStore_none, someStore2_some, someStore2_none, someOk_some, someOk_none, someOk2_some, someOk2_none, nextStore_next, nextStore_fault, nextOk_next, nextOk_fault, store_upd, store_shf, store_hay, store_both, store_ite, snd_ite, ite_self, ok_ite, store_fold, store_fold1, store_fold2, ok_fold, ok_fold1, ok_fold2, ok_hayWrite1]
theorem store_holdAcc (s : State) (a : HayAcc) : store (holdAcc s a) = store s := by
  unfold holdAcc; (repeat' split) <;> simp only [someStore_some, someStore_none, someStore2_some, someStore2_none, someOk_some, someOk_none, someOk2_some, someOk2_none, nextStore_next, nextStore_fault, nextOk_next, nextOk_fault, store_upd, store_shf, store_hay, store_both, store_ite, snd_ite, ite_self, store_cnt, store_setHbank]
theorem store_askHay (a : HayAcc) (s : State) : store (askHay a s) = store s := by
  simp only [askHay, someStore_some, someStore_none, someStore2_some, someStore2_none, someOk_some, someOk_none, someOk2_some, someOk2_none, nextStore_next, nextStore_fault, nextOk_next, nextOk_fault, store_upd, store_shf, store_hay, store_both, store_ite, snd_ite, ite_self, store_holdAcc]
theorem store_askHays (as : List HayAcc) (s : State) : store (askHays as s) = store s := by
  unfold askHays; (repeat' split) <;> simp [someStore_some, someStore_none, someStore2_some, someStore2_none, someOk_some, someOk_none, someOk2_some, someOk2_none, nextStore_next, nextStore_fault, nextOk_next, nextOk_fault, store_upd, store_shf, store_hay, store_both, store_ite, snd_ite, ite_self, store_fold, store_fold1, store_fold2, store_askHay]
theorem store_askBytes (master a n : Nat) (use : Nat → HayUse) (s : State) : store (askBytes master a n use s) = store s := by
  simp only [askBytes, someStore_some, someStore_none, someStore2_some, someStore2_none, someOk_some, someOk_none, someOk2_some, someOk2_none, nextStore_next, nextStore_fault, nextOk_next, nextOk_fault, store_upd, store_shf, store_hay, store_both, store_ite, snd_ite, ite_self, store_askHays]
theorem store_askWriteBytes (tag : Tag) (master a : Nat) (bs : List Byte) (use : HayUse) (s : State) : store (askWriteBytes tag master a bs use s) = store s := by
  simp only [askWriteBytes, someStore_some, someStore_none, someStore2_some, someStore2_none, someOk_some, someOk_none, someOk2_some, someOk2_none, nextStore_next, nextStore_fault, nextOk_next, nextOk_fault, store_upd, store_shf, store_hay, store_both, store_ite, snd_ite, ite_self, store_updJob, store_askHays]

/-! ### Flags -/

theorem store_markValid (t : Nat) (s : State) : store (markValid t s) = store s := by
  simp only [markValid, someStore_some, someStore_none, someStore2_some, someStore2_none, someOk_some, someOk_none, someOk2_some, someOk2_none, nextStore_next, nextStore_fault, nextOk_next, nextOk_fault, store_upd, store_shf, store_hay, store_both, store_ite, snd_ite, ite_self, store_setTile]
theorem store_markWritten (tag : Tag) (s : State) : store (markWritten tag s) = store s := by
  unfold markWritten; exact store_fold _ (fun s a => by (try dsimp only); (repeat' split) <;> simp only [someStore_some, someStore_none, someStore2_some, someStore2_none, someOk_some, someOk_none, someOk2_some, someOk2_none, nextStore_next, nextStore_fault, nextOk_next, nextOk_fault, store_upd, store_shf, store_hay, store_both, store_ite, snd_ite, ite_self, store_fold, store_fold1, store_fold2, store_markValid]) _ _
theorem store_finishWritten (tag : Tag) (count : Nat) (s : State) : store (finishWritten tag count s) = store s := by
  simp only [finishWritten, someStore_some, someStore_none, someStore2_some, someStore2_none, someOk_some, someOk_none, someOk2_some, someOk2_none, nextStore_next, nextStore_fault, nextOk_next, nextOk_fault, store_upd, store_shf, store_hay, store_both, store_ite, snd_ite, ite_self, store_finish, store_markWritten]
theorem store_markPartial (t k : Nat) (s : State) : store (markPartial t k s) = store s := by
  simp only [markPartial, someStore_some, someStore_none, someStore2_some, someStore2_none, someOk_some, someOk_none, someOk2_some, someOk2_none, nextStore_next, nextStore_fault, nextOk_next, nextOk_fault, store_upd, store_shf, store_hay, store_both, store_ite, snd_ite, ite_self, store_setTile]

/-! ### TileConfig -/

theorem store_cancelTile (t : Nat) (s : State) : store (cancelTile t s) = store s := by
  simp only [cancelTile, someStore_some, someStore_none, someStore2_some, someStore2_none, someOk_some, someOk_none, someOk2_some, someOk2_none, nextStore_next, nextStore_fault, nextOk_next, nextOk_fault, store_upd, store_shf, store_hay, store_both, store_ite, snd_ite, ite_self, store_cancelRecs]
theorem ok_zeroStripe {qq : List Instr} (g entry : Nat) (s : State) (h : StoreOk qq (store s)) : StoreOk qq (store (zeroStripe g entry s)) :=
  ok_fold _ (fun _ _ h => ok_fold _ (fun _ _ h => ok_shfPut _ _ _ _ _ _ h) _ _ h) _ _ h
theorem ok_zeroTile {qq : List Instr} (s : State) (x : Tile) (hst : StoreOk qq (store s)) : StoreOk qq (store (zeroTile s x)) := by
  simp only [zeroTile, someStore_some, someStore_none, someStore2_some, someStore2_none, someOk_some, someOk_none, someOk2_some, someOk2_none, nextStore_next, nextStore_fault, nextOk_next, nextOk_fault, store_upd, store_shf, store_hay, store_both, store_ite, snd_ite, ite_self, ok_ite, store_fold, store_fold1, store_fold2, ok_fold, ok_fold1, ok_fold2, ok_zeroStripe] <;> (repeat' split) <;> simp_all [someStore_some, someStore_none, someStore2_some, someStore2_none, someOk_some, someOk_none, someOk2_some, someOk2_none, nextStore_next, nextStore_fault, nextOk_next, nextOk_fault, store_upd, store_shf, store_hay, store_both, store_ite, snd_ite, ite_self, ok_ite, store_fold, store_fold1, store_fold2, ok_fold, ok_fold1, ok_fold2, ok_zeroStripe]
theorem store_askMil (rs : List MilReq) (s : State) : store (askMil rs s) = store s := by
  simp only [askMil, someStore_some, someStore_none, someStore2_some, someStore2_none, someOk_some, someOk_none, someOk2_some, someOk2_none, nextStore_next, nextStore_fault, nextOk_next, nextOk_fault, store_upd, store_shf, store_hay, store_both, store_ite, snd_ite, ite_self]
theorem store_zeroSpill (tag : Tag) (s : State) (x : Tile) : store (zeroSpill tag s x) = store s := by
  simp only [zeroSpill, someStore_some, someStore_none, someStore2_some, someStore2_none, someOk_some, someOk_none, someOk2_some, someOk2_none, nextStore_next, nextStore_fault, nextOk_next, nextOk_fault, store_upd, store_shf, store_hay, store_both, store_ite, snd_ite, ite_self, store_askWriteBytes]
theorem store_applySeg (stream place i : Nat) (v : Seg) (s : State) : store (applySeg stream place i v s) = store s := by
  simp only [applySeg, someStore_some, someStore_none, someStore2_some, someStore2_none, someOk_some, someOk_none, someOk2_some, someOk2_none, nextStore_next, nextStore_fault, nextOk_next, nextOk_fault, store_upd, store_shf, store_hay, store_both, store_ite, snd_ite, ite_self]
theorem store_applyEnt (stream place : Nat) (s : State) (e : CfgEnt) : store (applyEnt stream place s e) = store s := by
  unfold applyEnt; (repeat' split) <;> simp only [someStore_some, someStore_none, someStore2_some, someStore2_none, someOk_some, someOk_none, someOk2_some, someOk2_none, nextStore_next, nextStore_fault, nextOk_next, nextOk_fault, store_upd, store_shf, store_hay, store_both, store_ite, snd_ite, ite_self, store_setTile, store_cancelTile, store_applySeg]
theorem store_wakeGroups (gs : List Nat) (s : State) : store (wakeGroups gs s) = store s := by
  unfold wakeGroups; (repeat' split) <;> simp [someStore_some, someStore_none, someStore2_some, someStore2_none, someOk_some, someOk_none, someOk2_some, someOk2_none, nextStore_next, nextStore_fault, nextOk_next, nextOk_fault, store_upd, store_shf, store_hay, store_both, store_ite, snd_ite, ite_self, store_fold, store_fold1, store_fold2, store_wakeGroup]
theorem store_tcfgApply (tag : Tag) (e : TagEntry) (es : List CfgEnt) (s : State) : store (tcfgApply tag e es s) = store s := by
  unfold tcfgApply; (repeat' split) <;> simp [someStore_some, someStore_none, someStore2_some, someStore2_none, someOk_some, someOk_none, someOk2_some, someOk2_none, nextStore_next, nextStore_fault, nextOk_next, nextOk_fault, store_upd, store_shf, store_hay, store_both, store_ite, snd_ite, ite_self, store_fold, store_fold1, store_fold2, store_updJob, store_askMil, store_zeroSpill, store_applyEnt, store_wakeGroups]
theorem ok_tcfgEnd {qq : List Instr} (tag : Tag) (e : TagEntry) (es : List CfgEnt) (s : State) (hst : StoreOk qq (store s)) : StoreOk qq (store (tcfgEnd tag e es s)) := by
  simp only [tcfgEnd, someStore_some, someStore_none, someStore2_some, someStore2_none, someOk_some, someOk_none, someOk2_some, someOk2_none, nextStore_next, nextStore_fault, nextOk_next, nextOk_fault, store_upd, store_shf, store_hay, store_both, store_ite, snd_ite, ite_self, ok_ite, store_fold, store_fold1, store_fold2, ok_fold, ok_fold1, ok_fold2, store_finish, ok_zeroTile, store_wakeGroups] <;> (repeat' split) <;> simp_all [someStore_some, someStore_none, someStore2_some, someStore2_none, someOk_some, someOk_none, someOk2_some, someOk2_none, nextStore_next, nextStore_fault, nextOk_next, nextOk_fault, store_upd, store_shf, store_hay, store_both, store_ite, snd_ite, ite_self, ok_ite, store_fold, store_fold1, store_fold2, ok_fold, ok_fold1, ok_fold2, store_finish, ok_zeroTile, store_wakeGroups]
theorem ok_execTcfg {qq : List Instr} (tag : Tag) (s : State) (hst : StoreOk qq (store s)) : NextOk qq (execTcfg tag s) := by
  unfold execTcfg; (repeat' split) <;> simp only [someStore_some, someStore_none, someStore2_some, someStore2_none, someOk_some, someOk_none, someOk2_some, someOk2_none, nextStore_next, nextStore_fault, nextOk_next, nextOk_fault, store_upd, store_shf, store_hay, store_both, store_ite, snd_ite, ite_self, ok_ite, store_finish, store_tcfgApply, ok_tcfgEnd, hst]
theorem store_execTrel (tag : Tag) (s : State) : NextStore (store s) (execTrel tag s) := by
  simp only [execTrel, someStore_some, someStore_none, someStore2_some, someStore2_none, someOk_some, someOk_none, someOk2_some, someOk2_none, nextStore_next, nextStore_fault, nextOk_next, nextOk_fault, store_upd, store_shf, store_hay, store_both, store_ite, snd_ite, ite_self, store_fold, store_fold1, store_fold2, store_finish, store_setTile, store_cancelTile] <;> (repeat' split) <;> simp_all [someStore_some, someStore_none, someStore2_some, someStore2_none, someOk_some, someOk_none, someOk2_some, someOk2_none, nextStore_next, nextStore_fault, nextOk_next, nextOk_fault, store_upd, store_shf, store_hay, store_both, store_ite, snd_ite, ite_self, store_fold, store_fold1, store_fold2, store_finish, store_setTile, store_cancelTile]
theorem store_execTqry (tag : Tag) (s : State) : NextStore (store s) (execTqry tag s) := by
  unfold execTqry; (repeat' split) <;> simp only [someStore_some, someStore_none, someStore2_some, someStore2_none, someOk_some, someOk_none, someOk2_some, someOk2_none, nextStore_next, nextStore_fault, nextOk_next, nextOk_fault, store_upd, store_shf, store_hay, store_both, store_ite, snd_ite, ite_self, store_finish]

/-! ### BankArith -/

theorem store_segRead (tag : Tag) (t k : Nat) (s : State) : store (segRead tag t k s).2 = store s := by
  unfold segRead
  refine store_foldp (fun x : Nat × State => x.2) _ (fun x a => ?_) _ _
  (try simp only [store_upd, store_shf, store_hay, store_both, store_ite, snd_ite, ite_self, store_shfRead, store_addBits, store_addUncorr, store_cnt]) <;> (repeat' split) <;> simp_all [store_upd, store_shf, store_hay, store_both, store_ite, snd_ite, ite_self, store_shfRead, store_addBits, store_addUncorr, store_cnt]
theorem store_rangeRead (tag : Tag) (t lo hi : Nat) (s : State) : store (rangeRead tag t lo hi s).2 = store s := by
  simp only [rangeRead, store_cnt]
  exact store_foldp (fun x : Nat × State => x.2) _ (fun x a => by simp only [store_segRead]) _ _
theorem ok_wordMerge {qq : List Instr} (tag : Tag) (t lo hi v : Nat) (s : State) (w : Nat) (hst : StoreOk qq (store s)) : StoreOk qq (store (wordMerge tag t lo hi v s w)) := by
  simp only [wordMerge, someStore_some, someStore_none, someStore2_some, someStore2_none, someOk_some, someOk_none, someOk2_some, someOk2_none, nextStore_next, nextStore_fault, nextOk_next, nextOk_fault, store_upd, store_shf, store_hay, store_both, store_ite, snd_ite, ite_self, ok_ite, store_cnt, store_addBits, store_addUncorr, ok_shfPut, store_shfRead] <;> (repeat' split) <;> simp_all [someStore_some, someStore_none, someStore2_some, someStore2_none, someOk_some, someOk_none, someOk2_some, someOk2_none, nextStore_next, nextStore_fault, nextOk_next, nextOk_fault, store_upd, store_shf, store_hay, store_both, store_ite, snd_ite, ite_self, ok_ite, store_cnt, store_addBits, store_addUncorr, ok_shfPut, store_shfRead]
theorem ok_rangeWrite {qq : List Instr} (tag : Tag) (t lo hi v : Nat) (s : State) (hst : StoreOk qq (store s)) : StoreOk qq (store (rangeWrite tag t lo hi v s)) := by
  simp only [rangeWrite, someStore_some, someStore_none, someStore2_some, someStore2_none, someOk_some, someOk_none, someOk2_some, someOk2_none, nextStore_next, nextStore_fault, nextOk_next, nextOk_fault, store_upd, store_shf, store_hay, store_both, store_ite, snd_ite, ite_self, ok_ite, store_fold, store_fold1, store_fold2, ok_fold, ok_fold1, ok_fold2, store_cnt, ok_wordMerge] <;> (repeat' split) <;> simp_all [someStore_some, someStore_none, someStore2_some, someStore2_none, someOk_some, someOk_none, someOk2_some, someOk2_none, nextStore_next, nextStore_fault, nextOk_next, nextOk_fault, store_upd, store_shf, store_hay, store_both, store_ite, snd_ite, ite_self, ok_ite, store_fold, store_fold1, store_fold2, ok_fold, ok_fold1, ok_fold2, store_cnt, ok_wordMerge]
theorem store_rowsRead (tag : Tag) (t first count : Nat) (s : State) : store (rowsRead tag t first count s).2 = store s := by
  simp only [rowsRead, someStore_some, someStore_none, someStore2_some, someStore2_none, someOk_some, someOk_none, someOk2_some, someOk2_none, nextStore_next, nextStore_fault, nextOk_next, nextOk_fault, store_upd, store_shf, store_hay, store_both, store_ite, snd_ite, ite_self, store_rangeRead]
theorem store_noteRead (tag : Tag) (xs : List (BitVec 32)) (s : State) : store (noteRead tag xs s) = store s := by
  simp only [noteRead, someStore_some, someStore_none, someStore2_some, someStore2_none, someOk_some, someOk_none, someOk2_some, someOk2_none, nextStore_next, nextStore_fault, nextOk_next, nextOk_fault, store_upd, store_shf, store_hay, store_both, store_ite, snd_ite, ite_self, store_addBits]
theorem store_noteNonfin (tag : Tag) (n : Nat) (s : State) : store (noteNonfin tag n s) = store s := by
  simp only [noteNonfin, someStore_some, someStore_none, someStore2_some, someStore2_none, someOk_some, someOk_none, someOk2_some, someOk2_none, nextStore_next, nextStore_fault, nextOk_next, nextOk_fault, store_upd, store_shf, store_hay, store_both, store_ite, snd_ite, ite_self, store_cnt, store_addBits]
theorem ok_fpWrite {qq : List Instr} (tag : Tag) (t lo : Nat) (xs : List (BitVec 32)) (s : State) (hst : StoreOk qq (store s)) : StoreOk qq (store (fpWrite tag t lo xs s)) := by
  simp only [fpWrite, someStore_some, someStore_none, someStore2_some, someStore2_none, someOk_some, someOk_none, someOk2_some, someOk2_none, nextStore_next, nextStore_fault, nextOk_next, nextOk_fault, store_upd, store_shf, store_hay, store_both, store_ite, snd_ite, ite_self, ok_ite, ok_rangeWrite, store_noteNonfin, hst]
theorem ok_rowsWrite {qq : List Instr} (tag : Tag) (t first : Nat) (xs : List (BitVec 32)) (s : State) (hst : StoreOk qq (store s)) : StoreOk qq (store (rowsWrite tag t first xs s)) := by
  simp only [rowsWrite, someStore_some, someStore_none, someStore2_some, someStore2_none, someOk_some, someOk_none, someOk2_some, someOk2_none, nextStore_next, nextStore_fault, nextOk_next, nextOk_fault, store_upd, store_shf, store_hay, store_both, store_ite, snd_ite, ite_self, ok_ite, ok_fpWrite, hst]
theorem ok_doTacc {qq : List Instr} (tag : Tag) (x : BankOp) (s : State) (hst : StoreOk qq (store s)) : StoreOk qq (store (doTacc tag x s)) := by
  simp only [doTacc, someStore_some, someStore_none, someStore2_some, someStore2_none, someOk_some, someOk_none, someOk2_some, someOk2_none, nextStore_next, nextStore_fault, nextOk_next, nextOk_fault, store_upd, store_shf, store_hay, store_both, store_ite, snd_ite, ite_self, ok_ite, store_rowsRead, store_noteRead, ok_rowsWrite, hst]
theorem ok_doTaccc {qq : List Instr} (tag : Tag) (x : BankOp) (s : State) (hst : StoreOk qq (store s)) : StoreOk qq (store (doTaccc tag x s)) := by
  simp only [doTaccc, someStore_some, someStore_none, someStore2_some, someStore2_none, someOk_some, someOk_none, someOk2_some, someOk2_none, nextStore_next, nextStore_fault, nextOk_next, nextOk_fault, store_upd, store_shf, store_hay, store_both, store_ite, snd_ite, ite_self, ok_ite, store_rowsRead, store_noteRead, ok_rowsWrite, hst]
theorem ok_doTscl {qq : List Instr} (tag : Tag) (x : BankOp) (s : State) (hst : StoreOk qq (store s)) : StoreOk qq (store (doTscl tag x s)) := by
  simp only [doTscl, someStore_some, someStore_none, someStore2_some, someStore2_none, someOk_some, someOk_none, someOk2_some, someOk2_none, nextStore_next, nextStore_fault, nextOk_next, nextOk_fault, store_upd, store_shf, store_hay, store_both, store_ite, snd_ite, ite_self, ok_ite, store_rowsRead, store_noteRead, ok_rowsWrite, hst]
theorem ok_doTzero {qq : List Instr} (tag : Tag) (x : BankOp) (s : State) (hst : StoreOk qq (store s)) : StoreOk qq (store (doTzero tag x s)) := by
  simp only [doTzero, someStore_some, someStore_none, someStore2_some, someStore2_none, someOk_some, someOk_none, someOk2_some, someOk2_none, nextStore_next, nextStore_fault, nextOk_next, nextOk_fault, store_upd, store_shf, store_hay, store_both, store_ite, snd_ite, ite_self, ok_ite, ok_rangeWrite, hst]
theorem store_takePick {α : Type} [Inhabited α] (l : List α) (s : State) : store (takePick l s).2.2 = store s := by
  simp only [takePick, someStore_some, someStore_none, someStore2_some, someStore2_none, someOk_some, someOk_none, someOk2_some, someOk2_none, nextStore_next, nextStore_fault, nextOk_next, nextOk_fault, store_upd, store_shf, store_hay, store_both, store_ite, snd_ite, ite_self, store_pick]
theorem store_sumFree (n : Nat) (l : List (BitVec 32)) (s : State) : store (sumFree n l s).2 = store s := by
  induction n generalizing l s with
  | zero => rfl
  | succ n ih => simp only [sumFree, snd_ite, store_ite, ih, store_takePick, ite_self]
theorem store_sumSqFree (n : Nat) (a : BitVec 32) (l : List (BitVec 32)) (s : State) : store (sumSqFree n a l s).2 = store s := by
  induction n generalizing a l s with
  | zero => rfl
  | succ n ih => simp only [sumSqFree, snd_ite, store_ite, ih, store_takePick, ite_self]
theorem store_reduceList (op : Nat) (l : List (BitVec 32)) (s : State) : store (reduceList op l s).2 = store s := by
  simp only [reduceList, someStore_some, someStore_none, someStore2_some, someStore2_none, someOk_some, someOk_none, someOk2_some, someOk2_none, nextStore_next, nextStore_fault, nextOk_next, nextOk_fault, store_upd, store_shf, store_hay, store_both, store_ite, snd_ite, ite_self, store_fold, store_fold1, store_fold2, store_sumFree, store_sumSqFree] <;> (repeat' split) <;> simp_all [someStore_some, someStore_none, someStore2_some, someStore2_none, someOk_some, someOk_none, someOk2_some, someOk2_none, nextStore_next, nextStore_fault, nextOk_next, nextOk_fault, store_upd, store_shf, store_hay, store_both, store_ite, snd_ite, ite_self, store_fold, store_fold1, store_fold2, store_sumFree, store_sumSqFree]
theorem store_reduceAll (op : Nat) (ls : List (List (BitVec 32))) (s : State) : store (reduceAll op ls s).2 = store s := by
  unfold reduceAll
  refine store_foldp (fun x : List (BitVec 32) × State => x.2) _ (fun x a => ?_) _ _
  (try simp only [store_upd, store_shf, store_hay, store_both, store_ite, snd_ite, ite_self, store_reduceList]) <;> (repeat' split) <;> simp_all [store_upd, store_shf, store_hay, store_both, store_ite, snd_ite, ite_self, store_reduceList]
theorem ok_doTred {qq : List Instr} (tag : Tag) (x : BankOp) (s : State) (hst : StoreOk qq (store s)) : StoreOk qq (store (doTred tag x s)) := by
  simp only [doTred, someStore_some, someStore_none, someStore2_some, someStore2_none, someOk_some, someOk_none, someOk2_some, someOk2_none, nextStore_next, nextStore_fault, nextOk_next, nextOk_fault, store_upd, store_shf, store_hay, store_both, store_ite, snd_ite, ite_self, ok_ite, store_rowsRead, store_noteRead, ok_fpWrite, ok_rowsWrite, store_reduceList, store_reduceAll] <;> (repeat' split) <;> simp_all [someStore_some, someStore_none, someStore2_some, someStore2_none, someOk_some, someOk_none, someOk2_some, someOk2_none, nextStore_next, nextStore_fault, nextOk_next, nextOk_fault, store_upd, store_shf, store_hay, store_both, store_ite, snd_ite, ite_self, ok_ite, store_rowsRead, store_noteRead, ok_fpWrite, ok_rowsWrite, store_reduceList, store_reduceAll]
theorem store_draw (nn l : Nat) (s : State) : store (draw nn l s).2 = store s := by
  simp only [draw, someStore_some, someStore_none, someStore2_some, someStore2_none, someOk_some, someOk_none, someOk2_some, someOk2_none, nextStore_next, nextStore_fault, nextOk_next, nextOk_fault, store_upd, store_shf, store_hay, store_both, store_ite, snd_ite, ite_self, store_fold, store_fold1, store_fold2]
theorem store_segDraws (t lo hi k : Nat) (s : State) : store (segDraws t lo hi k s).2 = store s := by
  unfold segDraws
  refine store_foldp (fun x : List Nat × State => x.2) _ (fun x a => ?_) _ _
  (try simp only [store_upd, store_shf, store_hay, store_both, store_ite, snd_ite, ite_self, store_draw]) <;> (repeat' split) <;> simp_all [store_upd, store_shf, store_hay, store_both, store_ite, snd_ite, ite_self, store_draw]
theorem store_drawsFree (t lo hi n : Nat) (ks : List Nat) (acc : List (Nat × List Nat)) (s : State) :
    store (drawsFree t lo hi n ks acc s).2 = store s := by
  induction n generalizing ks acc s with
  | zero => rfl
  | succ n ih => simp only [drawsFree, snd_ite, store_ite, ih, store_segDraws, store_takePick, ite_self]
theorem ok_doTqnt {qq : List Instr} (tag : Tag) (x : BankOp) (s : State) (hst : StoreOk qq (store s)) : StoreOk qq (store (doTqnt tag x s)) := by
  simp only [doTqnt, someStore_some, someStore_none, someStore2_some, someStore2_none, someOk_some, someOk_none, someOk2_some, someOk2_none, nextStore_next, nextStore_fault, nextOk_next, nextOk_fault, store_upd, store_shf, store_hay, store_both, store_ite, snd_ite, ite_self, ok_ite, store_cnt, store_addBits, ok_rangeWrite, store_rowsRead, store_noteRead, store_noteNonfin, store_draw, store_drawsFree] <;> (repeat' split) <;> simp_all [someStore_some, someStore_none, someStore2_some, someStore2_none, someOk_some, someOk_none, someOk2_some, someOk2_none, nextStore_next, nextStore_fault, nextOk_next, nextOk_fault, store_upd, store_shf, store_hay, store_both, store_ite, snd_ite, ite_self, ok_ite, store_cnt, store_addBits, ok_rangeWrite, store_rowsRead, store_noteRead, store_noteNonfin, store_draw, store_drawsFree]
theorem store_rawRows (tag : Tag) (t first count : Nat) (s : State) : store (rawRows tag t first count s).2 = store s := by
  simp only [rawRows, someStore_some, someStore_none, someStore2_some, someStore2_none, someOk_some, someOk_none, someOk2_some, someOk2_none, nextStore_next, nextStore_fault, nextOk_next, nextOk_fault, store_upd, store_shf, store_hay, store_both, store_ite, snd_ite, ite_self, store_rangeRead]
theorem store_scaleRows (tag : Tag) (src : Tile) (first count : Nat) (s : State) : store (scaleRows tag src first count s).2 = store s := by
  simp only [scaleRows, someStore_some, someStore_none, someStore2_some, someStore2_none, someOk_some, someOk_none, someOk2_some, someOk2_none, nextStore_next, nextStore_fault, nextOk_next, nextOk_fault, store_upd, store_shf, store_hay, store_both, store_ite, snd_ite, ite_self, store_rawRows]
theorem ok_doCopy {qq : List Instr} (tag : Tag) (x : BankOp) (s : State) (hst : StoreOk qq (store s)) : StoreOk qq (store (doCopy tag x s)) := by
  simp only [doCopy, someStore_some, someStore_none, someStore2_some, someStore2_none, someOk_some, someOk_none, someOk2_some, someOk2_none, nextStore_next, nextStore_fault, nextOk_next, nextOk_fault, store_upd, store_shf, store_hay, store_both, store_ite, snd_ite, ite_self, ok_ite, ok_rangeWrite, store_noteNonfin, store_rawRows, store_scaleRows] <;> (repeat' split) <;> simp_all [someStore_some, someStore_none, someStore2_some, someStore2_none, someOk_some, someOk_none, someOk2_some, someOk2_none, nextStore_next, nextStore_fault, nextOk_next, nextOk_fault, store_upd, store_shf, store_hay, store_both, store_ite, snd_ite, ite_self, ok_ite, ok_rangeWrite, store_noteNonfin, store_rawRows, store_scaleRows]
theorem ok_doConvert {qq : List Instr} (tag : Tag) (x : BankOp) (s : State) (hst : StoreOk qq (store s)) : StoreOk qq (store (doConvert tag x s)) := by
  simp only [doConvert, someStore_some, someStore_none, someStore2_some, someStore2_none, someOk_some, someOk_none, someOk2_some, someOk2_none, nextStore_next, nextStore_fault, nextOk_next, nextOk_fault, store_upd, store_shf, store_hay, store_both, store_ite, snd_ite, ite_self, ok_ite, store_addBits, ok_rowsWrite, store_rawRows, store_scaleRows, hst]
theorem ok_doTdq {qq : List Instr} (tag : Tag) (x : BankOp) (s : State) (hst : StoreOk qq (store s)) : StoreOk qq (store (doTdq tag x s)) := by
  unfold doTdq; (repeat' split) <;> simp only [someStore_some, someStore_none, someStore2_some, someStore2_none, someOk_some, someOk_none, someOk2_some, someOk2_none, nextStore_next, nextStore_fault, nextOk_next, nextOk_fault, store_upd, store_shf, store_hay, store_both, store_ite, snd_ite, ite_self, ok_ite, ok_doCopy, ok_doConvert, hst]
theorem ok_runBank {qq : List Instr} (op : Opcode) (tag : Tag) (x : BankOp) (s : State) (hst : StoreOk qq (store s)) : StoreOk qq (store (runBank op tag x s)) := by
  unfold runBank; (repeat' split) <;> simp only [someStore_some, someStore_none, someStore2_some, someStore2_none, someOk_some, someOk_none, someOk2_some, someOk2_none, nextStore_next, nextStore_fault, nextOk_next, nextOk_fault, store_upd, store_shf, store_hay, store_both, store_ite, snd_ite, ite_self, ok_ite, ok_doTacc, ok_doTaccc, ok_doTscl, ok_doTzero, ok_doTred, ok_doTqnt, ok_doTdq, hst]
theorem ok_bankEnd {qq : List Instr} (op : Opcode) (tag : Tag) (x : BankOp) (s : State) (hst : StoreOk qq (store s)) : StoreOk qq (store (bankEnd op tag x s)) := by
  simp only [bankEnd, someStore_some, someStore_none, someStore2_some, someStore2_none, someOk_some, someOk_none, someOk2_some, someOk2_none, nextStore_next, nextStore_fault, nextOk_next, nextOk_fault, store_upd, store_shf, store_hay, store_both, store_ite, snd_ite, ite_self, ok_ite, store_wakeGroup, store_finishWritten, ok_runBank] <;> (repeat' split) <;> simp_all [someStore_some, someStore_none, someStore2_some, someStore2_none, someOk_some, someOk_none, someOk2_some, someOk2_none, nextStore_next, nextStore_fault, nextOk_next, nextOk_fault, store_upd, store_shf, store_hay, store_both, store_ite, snd_ite, ite_self, ok_ite, store_wakeGroup, store_finishWritten, ok_runBank]
theorem ok_bankStep {qq : List Instr} (op : Opcode) (tag : Tag) (s : State) (hst : StoreOk qq (store s)) : NextOk qq (bankStep op tag s) := by
  unfold bankStep; (repeat' split) <;> simp only [someStore_some, someStore_none, someStore2_some, someStore2_none, someOk_some, someOk_none, someOk2_some, someOk2_none, nextStore_next, nextStore_fault, nextOk_next, nextOk_fault, store_upd, store_shf, store_hay, store_both, store_ite, snd_ite, ite_self, ok_ite, store_updJob, store_finish, store_wakeGroup, store_finishWritten, store_askMil, ok_bankEnd, hst]
theorem ok_execTacc {qq : List Instr} (tag : Tag) (s : State) (hst : StoreOk qq (store s)) : NextOk qq (execTacc tag s) := by
  simp only [execTacc, someStore_some, someStore_none, someStore2_some, someStore2_none, someOk_some, someOk_none, someOk2_some, someOk2_none, nextStore_next, nextStore_fault, nextOk_next, nextOk_fault, store_upd, store_shf, store_hay, store_both, store_ite, snd_ite, ite_self, ok_ite, ok_bankStep, hst]
theorem ok_execTred {qq : List Instr} (tag : Tag) (s : State) (hst : StoreOk qq (store s)) : NextOk qq (execTred tag s) := by
  simp only [execTred, someStore_some, someStore_none, someStore2_some, someStore2_none, someOk_some, someOk_none, someOk2_some, someOk2_none, nextStore_next, nextStore_fault, nextOk_next, nextOk_fault, store_upd, store_shf, store_hay, store_both, store_ite, snd_ite, ite_self, ok_ite, ok_bankStep, hst]
theorem ok_execTqnt {qq : List Instr} (tag : Tag) (s : State) (hst : StoreOk qq (store s)) : NextOk qq (execTqnt tag s) := by
  simp only [execTqnt, someStore_some, someStore_none, someStore2_some, someStore2_none, someOk_some, someOk_none, someOk2_some, someOk2_none, nextStore_next, nextStore_fault, nextOk_next, nextOk_fault, store_upd, store_shf, store_hay, store_both, store_ite, snd_ite, ite_self, ok_ite, ok_bankStep, hst]
theorem ok_execTscl {qq : List Instr} (tag : Tag) (s : State) (hst : StoreOk qq (store s)) : NextOk qq (execTscl tag s) := by
  simp only [execTscl, someStore_some, someStore_none, someStore2_some, someStore2_none, someOk_some, someOk_none, someOk2_some, someOk2_none, nextStore_next, nextStore_fault, nextOk_next, nextOk_fault, store_upd, store_shf, store_hay, store_both, store_ite, snd_ite, ite_self, ok_ite, ok_bankStep, hst]
theorem ok_execTaccc {qq : List Instr} (tag : Tag) (s : State) (hst : StoreOk qq (store s)) : NextOk qq (execTaccc tag s) := by
  simp only [execTaccc, someStore_some, someStore_none, someStore2_some, someStore2_none, someOk_some, someOk_none, someOk2_some, someOk2_none, nextStore_next, nextStore_fault, nextOk_next, nextOk_fault, store_upd, store_shf, store_hay, store_both, store_ite, snd_ite, ite_self, ok_ite, ok_bankStep, hst]
theorem ok_execTdq {qq : List Instr} (tag : Tag) (s : State) (hst : StoreOk qq (store s)) : NextOk qq (execTdq tag s) := by
  simp only [execTdq, someStore_some, someStore_none, someStore2_some, someStore2_none, someOk_some, someOk_none, someOk2_some, someOk2_none, nextStore_next, nextStore_fault, nextOk_next, nextOk_fault, store_upd, store_shf, store_hay, store_both, store_ite, snd_ite, ite_self, ok_ite, ok_bankStep, hst]
theorem ok_execTzero {qq : List Instr} (tag : Tag) (s : State) (hst : StoreOk qq (store s)) : NextOk qq (execTzero tag s) := by
  simp only [execTzero, someStore_some, someStore_none, someStore2_some, someStore2_none, someOk_some, someOk_none, someOk2_some, someOk2_none, nextStore_next, nextStore_fault, nextOk_next, nextOk_fault, store_upd, store_shf, store_hay, store_both, store_ite, snd_ite, ite_self, ok_ite, ok_bankStep, hst]

end Sys2Proof.Laws
end

