-- ==== Sys2Proof/Laws/StorageTile.lean ====
section
/-! SUPPORT. What the tile and bucket commands do to the queue and to storage. A lemma `store_f` says that `f` leaves both as
they were; `ok_f` that it keeps the queue and every memory's canonical form. -/

namespace Sys2Proof.Laws

open Sys2Proof.Machine

/-! ### Carters -/

theorem store_setStn (n : Nat) (x : Station) (s : State) : store (setStn n x s) = store s := by
  simp only [setStn, store_upd]
theorem store_updStn (n : Nat) (f : Station → Station) (s : State) : store (updStn n f s) = store s := by
  simp only [updStn, store_setStn]
theorem store_drive (n : Nat) (f : StnPins → StnPins) (s : State) : store (drive n f s) = store s := by
  simp only [drive, store_upd]
theorem store_askRead (n : Nat) (tag : Tag) (t lo hi : Nat) (last : Bool) (s : State) : store (askRead n tag t lo hi last s) = store s := by
  simp only [askRead, store_updJob, store_updStn]
theorem store_askWrite (n : Nat) (w : WrItem) (s : State) : store (askWrite n w s) = store s := by
  simp only [askWrite, store_updJob, store_updStn]
theorem store_endClass (tag : Tag) (o : Obj) (cls : TClass) (s : State) : store (endClass tag o cls s) = store s := by
  simp only [endClass, store_updTag]
theorem store_endRead (tag : Tag) (t : Nat) (s : State) : store (endRead tag t s) = store s := by
  simp only [endRead, store_ite, ite_self, store_endClass]
theorem store_tinkHalf (d : RdDemand) (data : Beat) (chk : BeatChk) (h : Nat) (s : State) : store (tinkHalf d data chk h s) = store s := by
  unfold tinkHalf; (repeat' split) <;> simp [store_fold, store_shfTest]
theorem store_tinkBeat (d : RdDemand) (data : Beat) (chk : BeatChk) (s : State) : store (tinkBeat d data chk s) = store s := by
  simp only [tinkBeat, store_ite, ite_self, store_tinkHalf]
theorem store_noteWord (n : Nat) (d : RdDemand) (data : Beat) (chk : BeatChk) (s : State) (w : Nat) : store (noteWord n d data chk s w) = store s := by
  unfold noteWord; (repeat' split) <;> simp only [store_updJob, store_addBits, store_addUncorr]
theorem store_testBeat (n : Nat) (d : RdDemand) (data : Beat) (chk : BeatChk) (s : State) : store (testBeat n d data chk s) = store s := by
  unfold testBeat; (repeat' split) <;> simp [store_fold, store_tinkBeat, store_noteWord]
theorem store_giveBeat (n : Nat) (d : RdDemand) (data : Beat) (chk : BeatChk) (s : State) : store (giveBeat n d data chk s) = store s := by
  simp only [giveBeat, store_ite, ite_self, store_updJob, store_updStn, store_drive]
theorem store_deliver (s : State) (n : Nat) : store (deliver s n) = store s := by
  simp only [deliver] <;> (repeat' split) <;> simp_all [store_crossIn, store_setStn, store_giveBeat]
theorem store_loadLatch (n : Nat) (b : FlyBeat) (s : State) : store (loadLatch n b s) = store s := by
  simp only [loadLatch, store_upd, store_ite, ite_self, store_cnt]
theorem store_quarterRead (n : Nat) (d : RdDemand) (q : BitVec 4) (data : Beat) (chk : BeatChk) (s : State) : store (quarterRead n d q data chk s) = store s := by
  unfold quarterRead; (repeat' split) <;> simp only [store_updStn, store_endRead, store_testBeat, store_deliver, store_loadLatch]
theorem store_commitWheels (s : State) : store (commitWheels s) = store s := by
  unfold commitWheels; (try dsimp only); (repeat' split) <;> (try simp only [store_rset]) <;> (first | done | refine (store_fold _ (fun x a => ?_) _ _).trans ?_ | refine (store_fold1 _ (fun x a => ?_) _ _).trans ?_ | refine (store_fold2 _ (fun x a => ?_) _ _).trans ?_) <;> (try dsimp only) <;> (repeat' split) <;> (first | done | rfl | simp only [someStore_some, someStore_none, someStore2_some, someStore2_none, someOk_some, someOk_none, someOk2_some, someOk2_none, nextStore_next, nextStore_fault, nextOk_next, nextOk_fault, store_upd, store_shf, store_hay, store_both, store_ite, snd_ite, ite_self, store_fold, store_fold1, store_fold2, store_rset])
theorem store_grantBeat (wr : Bool) (port n : Nat) (reserved : Bool) (s : State) : store (grantBeat wr port n reserved s) = store s := by
  simp only [grantBeat, store_ite] <;> (repeat' split) <;> simp_all [store_upd, store_crossIn, store_setStn, store_drive]
theorem store_portSlot (acc : List Nat × State) (wheel : Nat) : store (portSlot acc wheel).2 = store acc.2 := by
  simp only [portSlot, store_ite, snd_ite, ite_self, store_cnt, store_grantBeat] <;> (repeat' split) <;> simp_all [store_upd, store_cnt, store_grantBeat]
theorem store_latchServe (acc : List Nat × State) (n : Nat) : store (latchServe acc n).2 = store acc.2 := by
  simp only [latchServe] <;> (repeat' split) <;> simp_all [store_cnt, store_setStn, store_endRead, store_testBeat, store_deliver]
theorem store_wakeWaiting (s : State) : store (wakeWaiting s) = store s := by
  unfold wakeWaiting; (repeat' split) <;> simp [store_ite, ite_self, store_fold, store_setGroup]
theorem store_execPortSlotGrant (s : State) : NextStore (store s) (execPortSlotGrant s) := by
  unfold execPortSlotGrant; (repeat' split) <;> simp [nextStore_next, store_upd, store_ite, ite_self, store_fold, store_fold1, store_cnt, store_deliver, store_commitWheels, store_portSlot, store_latchServe, store_wakeWaiting]
theorem store_execWheelCommit (s : State) : NextStore (store s) (execWheelCommit s) := by
  simp only [execWheelCommit, nextStore_next, store_ite, ite_self, store_commitWheels]
theorem store_setBc (g : Nat) (c : BCycle) (s : State) : store (setBc g c s) = store s := by
  simp only [setBc, store_upd]
theorem store_beginBank (bank : Nat) (s : State) : store (beginBank bank s) = store s := by
  simp only [beginBank, store_setBc]
theorem store_share (bank : Nat) (wr want : Bool) (s : State) : store (share bank wr want s).2 = store s := by
  simp only [share, store_upd]
theorem store_countConf (g : Nat) (p : PortReq → Bool) (s : State) : store (countConf g p s) = store s := by
  unfold countConf; (repeat' split) <;> simp [store_ite, ite_self, store_fold, store_cnt, store_setBc]
theorem store_dropReq (r : PortReq) (s : State) : store (dropReq r s) = store s := by
  simp only [dropReq, store_upd]
theorem store_serveRead (bank : Nat) (r : PortReq) (s : State) : store (serveRead bank r s) = store s := by
  unfold serveRead; (repeat' split) <;> simp only [store_crossIn, store_quarterRead, store_dropReq]
theorem store_beatWritten (tag : Tag) (t : Nat) (s : State) : store (beatWritten tag t s) = store s := by
  simp only [beatWritten] <;> (repeat' split) <;> simp_all [store_updJob, store_markValid, store_endClass]
theorem ok_serveWrite {qq : List Instr} (bank : Nat) (r : PortReq) (s : State) (h : StoreOk qq (store s)) : StoreOk qq (store (serveWrite bank r s)) := by
  unfold serveWrite
  split
  · rename_i w half _
    have hf : StoreOk qq (store ((List.range 16).foldl (fun s i =>
        if bit w.mask (16 * b2n half + i) then
          shfPut bank r.entry i (wordAt w.data (16 * b2n half + i)) (byteAt w.chk (16 * b2n half + i)) s else s) (dropReq r s))) :=
      ok_fold _ (fun s a h => by split <;> simp only [ok_shfPut, h]) _ _ (by simp only [store_dropReq, h])
    dsimp only
    split
    · rw [store_crossIn]; exact hf
    · rw [store_beatWritten, store_crossIn]; exact hf
  · simp only [store_dropReq, h]
theorem store_noteRes (tag : Tag) (t seg : Nat) (r : EccRes) (s : State) : store (noteRes tag t seg r s) = store s := by
  unfold noteRes; (repeat' split) <;> simp only [store_cnt, store_addBits, store_addUncorr]
theorem ok_accWord {qq : List Instr} (bank : Nat) (r : DrainRow) (acc : Nat × Bool × State) (w : Nat) (hst : StoreOk qq (store acc.2.2)) : StoreOk qq (store (accWord bank r acc w).2.2) := by
  unfold accWord; (repeat' split) <;> simp only [ok_shfPut, store_shfRead, store_noteRes, hst]
theorem ok_accumulate {qq : List Instr} (bank : Nat) (r : DrainRow) (s : State) (hst : StoreOk qq (store s)) : StoreOk qq (store (accumulate bank r s)) := by
  simp only [accumulate, store_ite, ite_self, store_cnt, store_addBits] <;> (repeat' split) <;> simp_all [ok_fold2, ok_accWord]
theorem store_rowWritten (r : DrainRow) (s : State) : store (rowWritten r s) = store s := by
  simp only [rowWritten, store_upd, store_ite, ite_self, store_updJob, store_endClass]
theorem ok_putEntry {qq : List Instr} (bank entry : Nat) (bs : List Byte) (s : State) (hst : StoreOk qq (store s)) : StoreOk qq (store (putEntry bank entry bs s)) := by
  simp only [putEntry] <;> (repeat' split) <;> simp_all [ok_fold, ok_shfPut]
theorem store_askTink (q : TinkReq) (s : State) : store (askTink q s) = store s := by
  simp only [askTink, store_upd]
theorem store_scrubDone (by_ : Option Tag) (n : Nat) (s : State) : store (scrubDone by_ n s) = store s := by
  unfold scrubDone; (repeat' split) <;> simp only [store_updJob]
theorem store_tinkerWord (bank entry : Nat) (acc : List (Word × Byte) × Nat × State) (w : Nat) :
    store (tinkerWord bank entry acc w).2.2 = store acc.2.2 := by
  have hm := store_shfRead bank entry w acc.2.2
  unfold tinkerWord
  dsimp only
  split <;> simp_all only [store_cnt]
theorem store_tinkerRead (q : TinkReq) (s : State) : store (tinkerRead q s) = store s := by
  have hf : ∀ s' : State, store ((List.range 16).foldl (tinkerWord q.bank q.entry) ([], 0, s')).2.2 = store s' := fun s' =>
    store_foldp (fun x : List (Word × Byte) × Nat × State => x.2.2) _ (fun x a => store_tinkerWord _ _ _ _) _ _
  unfold tinkerRead
  dsimp only
  split
  · simp only [store_upd, store_updJob]
  · simp only [store_ite, store_scrubDone, store_askTink, hf, store_upd, ite_self]
  · split <;> simp only [store_askTink, store_upd, hf]
theorem ok_scrubBack {qq : List Instr} (bank entry : Nat) (acc : Nat × State) (w : Nat) (hst : StoreOk qq (store acc.2)) : StoreOk qq (store (scrubBack bank entry acc w).2) := by
  simp only [scrubBack] <;> (repeat' split) <;> simp_all [ok_shfPut]
theorem ok_tinkerWrite {qq : List Instr} (q : TinkReq) (s : State) (hst : StoreOk qq (store s)) : StoreOk qq (store (tinkerWrite q s)) := by
  simp only [tinkerWrite] <;> (repeat' split) <;> simp_all [store_upd, ok_fold, ok_fold1, store_traceEv, store_updJob, ok_shfPut1, ok_putEntry, store_askTink, store_scrubDone, ok_scrubBack]
theorem store_tinkerAge (bank : Nat) (s : State) : store (tinkerAge bank s) = store s := by
  simp only [tinkerAge, store_upd]
theorem store_serveMil (r : MilReq) (s : State) : store (serveMil r s) = store s := by
  simp only [serveMil, store_upd]
theorem store_portsWait (bank : Nat) (wr : Bool) (s : State) : store (portsWait bank wr s) = store s := by
  simp only [portsWait, store_countConf]
theorem store_millerWaits (bank : Nat) (m : Option MilReq) (s : State) : store (millerWaits bank m s) = store s := by
  unfold millerWaits; (repeat' split) <;> simp only [store_ite, ite_self, store_cnt, store_setBc]
theorem ok_serveDrain {qq : List Instr} (bank i : Nat) (s : State) (hst : StoreOk qq (store s)) : StoreOk qq (store (serveDrain bank i s).2) := by
  unfold serveDrain; (repeat' split) <;> simp only [store_upd, ok_accumulate, store_rowWritten, hst]
theorem store_bankReadLow (bank : Nat) (want : Bool) (s : State) : store (bankReadLow bank want s) = store s := by
  simp only [bankReadLow] <;> (repeat' split) <;> simp_all [store_share, store_dropReq, store_serveRead, store_tinkerRead, store_serveMil, store_portsWait, store_millerWaits]
theorem ok_bankRead {qq : List Instr} (bank : Nat) (want : Bool) (s : State) (hst : StoreOk qq (store s)) : StoreOk qq (store (bankRead bank want s).2) := by
  unfold bankRead; (repeat' split) <;> simp only [store_dropReq, store_serveRead, store_tinkerRead, store_portsWait, store_millerWaits, ok_serveDrain, store_bankReadLow, hst]
theorem ok_bankWriteLow {qq : List Instr} (bank : Nat) (want : Bool) (s : State) (hst : StoreOk qq (store s)) : StoreOk qq (store (bankWriteLow bank want s)) := by
  simp only [bankWriteLow] <;> (repeat' split) <;> simp_all [store_share, store_dropReq, ok_serveWrite, ok_tinkerWrite, store_serveMil, store_portsWait, store_millerWaits]
theorem ok_bankWrite {qq : List Instr} (bank : Nat) (drained want : Bool) (s : State) (hst : StoreOk qq (store s)) : StoreOk qq (store (bankWrite bank drained want s)) := by
  unfold bankWrite; (repeat' split) <;> simp only [ok_tinkerWrite, store_serveMil, store_portsWait, store_millerWaits, ok_bankWriteLow, hst]
theorem ok_execBankCycleGrant {qq : List Instr} (bank : Nat) (mRead mWrite : Bool) (s : State) (hst : StoreOk qq (store s)) : NextOk qq (execBankCycleGrant bank mRead mWrite s) := by
  unfold execBankCycleGrant; (repeat' split) <;> simp only [nextOk_next, nextOk_fault, store_beginBank, store_tinkerAge, ok_bankRead, ok_bankWrite, hst]
theorem store_purgeStation (tag : Tag) (s : State) (n : Nat) : store (purgeStation tag s n) = store s := by
  simp only [purgeStation, store_ite, ite_self, store_setStn]
theorem store_purgeReads (tag : Tag) (s : State) : store (purgeReads tag s) = store s := by
  unfold purgeReads
  exact store_fold _ (fun s a => store_purgeStation tag s a) _ _
theorem store_snapTiles (tag : Tag) (ts : List Nat) (s : State) : store (snapTiles tag ts s) = store s := by
  simp only [snapTiles, store_updJob]
theorem store_spillRead (n : Nat) (d : RdDemand) (s : State) : store (spillRead n d s) = store s := by
  simp only [spillRead, store_askHays, store_updStn]
theorem store_spillWrite (n : Nat) (w : WrItem) (s : State) : store (spillWrite n w s) = store s := by
  simp only [spillWrite, store_askHays]
theorem store_spillArrived (n : Nat) (d : RdDemand) (q : Nat) (data : BitVec 512) (r : EccRes) (bad : Nat) (s : State) : store (spillArrived n d q data r bad s) = store s := by
  simp only [spillArrived, store_ite, ite_self, store_addBits, store_quarterRead]
theorem store_spillWritten (n : Nat) (tag : Tag) (s : State) : store (spillWritten n tag s) = store s := by
  unfold spillWritten; (repeat' split) <;> simp only [store_updStn, store_drive, store_beatWritten]
theorem store_execSpillPathGrant (s : State) : NextStore (store s) (execSpillPathGrant s) := by
  simp only [execSpillPathGrant] <;> (repeat' split) <;> simp_all [nextStore_next, store_upd, store_cnt, store_crossIn, store_addBits, store_spillRead, store_spillWrite]

/-! ### Array -/

theorem store_updArr (f : ArrayUnit → ArrayUnit) (s : State) : store (updArr f s) = store s := by
  simp only [updArr, store_upd]
theorem store_askRows (n : Nat) (tag : Tag) (t first count : Nat) (s : State) : store (askRows n tag t first count s) = store s := by
  simp only [askRows, store_ite, ite_self, store_askRead]
theorem store_addPass (p : Pass) (s : State) : store (addPass p s) = store s := by
  simp only [addPass, store_updArr]
theorem store_pushPass (p : Pass) (s : State) : store (pushPass p s) = store s := by
  unfold pushPass; (repeat' split) <;> simp only [store_askRows, store_addPass]
theorem store_beginArray (tag : Tag) (u : ArrayUse) (s : State) : store (beginArray tag u s) = store s := by
  simp only [beginArray, store_updJob, store_wakeGroups, store_snapTiles]
theorem store_endStopped (tag : Tag) (row : Nat) (s : State) : store (endStopped tag row s) = store s := by
  simp only [endStopped, store_ite, store_finish, store_purgeReads] <;> (repeat' split) <;> simp_all [store_finish, store_stopWithRef, store_purgeReads]
theorem store_endArray (tag : Tag) (total : Nat) (s : State) : store (endArray tag total s) = store s := by
  simp only [endArray, store_ite, ite_self, store_finishWritten, store_purgeReads, store_endStopped]
theorem store_arrayStop (tag : Tag) (s : State) : store (arrayStop tag s) = store s := by
  simp only [arrayStop, store_updArr]
theorem store_arrayBegin (tag : Tag) (s : State) : store (arrayBegin tag s) = store s := by
  simp only [arrayBegin] <;> (repeat' split) <;> simp_all [store_fold, store_pushPass, store_beginArray]
theorem store_execTwf (tag : Tag) (s : State) : NextStore (store s) (execTwf tag s) := by
  unfold execTwf; (repeat' split) <;> simp only [nextStore_next, store_endArray]
theorem store_execTmma (tag : Tag) (s : State) : NextStore (store s) (execTmma tag s) := by
  unfold execTmma; (repeat' split) <;> simp only [nextStore_next, store_finish, store_endArray]
theorem store_execTmmas (tag : Tag) (s : State) : NextStore (store s) (execTmmas tag s) := by
  unfold execTmmas; (repeat' split) <;> simp only [nextStore_next, store_endArray]
theorem store_driveAf (s : State) : store (driveAf s) = store s := by
  simp only [driveAf, store_upd]
theorem store_driveWf (s : State) : store (driveWf s) = store s := by
  simp only [driveWf, store_upd]
theorem store_launchRow (p : Pass) (d sc : Nat) (s : State) : store (launchRow p d sc s) = store s := by
  simp only [launchRow, store_cnt, store_updArr]
theorem store_feedRow (s : State) : store (feedRow s) = store s := by
  unfold feedRow; (repeat' split) <;> simp only [store_cnt, store_launchRow]
theorem store_execRowLaunch (s : State) : NextStore (store s) (execRowLaunch s) := by
  unfold execRowLaunch; (repeat' split) <;> simp only [nextStore_next, store_updArr, store_driveAf, store_feedRow]
theorem store_putBeat (t : BitVec 4) (lanes : List Nat) (s : State) : store (putBeat t lanes s) = store s := by
  simp only [putBeat, store_updArr]
theorem store_frontDone (p : Pass) (t : BitVec 4) (s : State) : store (frontDone p t s) = store s := by
  simp only [frontDone, store_ite, ite_self, store_cnt, store_updJob, store_updArr]
theorem store_driveBeat (i : Nat) (p : Pass) (t : BitVec 4) (s : State) : store (driveBeat i p t s) = store s := by
  unfold driveBeat; (try dsimp only); (repeat' split) <;> (try simp only [store_cnt, store_updArr, store_putBeat, store_frontDone]) <;> (repeat' split) <;> simp only [someStore_some, someStore_none, someStore2_some, someStore2_none, someOk_some, someOk_none, someOk2_some, someOk2_none, nextStore_next, nextStore_fault, nextOk_next, nextOk_fault, store_upd, store_shf, store_hay, store_both, store_ite, snd_ite, ite_self, store_cnt, store_updArr, store_putBeat, store_frontDone]
theorem store_execFrontBeat (s : State) : NextStore (store s) (execFrontBeat s) := by
  unfold execFrontBeat; (repeat' split) <;> simp only [nextStore_next, store_cnt, store_updArr, store_driveWf, store_driveBeat]
theorem store_skewFault (s : State) : store (skewFault s) = store s := by
  simp only [skewFault, store_upd]
theorem store_drainFault (info : Nat) (s : State) : store (drainFault info s) = store s := by
  unfold drainFault; (repeat' split) <;> simp [store_fold, store_cnt, store_logErr, store_finish, store_purgeReads, store_updArr, store_skewFault]
theorem store_drainLane (adv : BitVec 33) (add : BitVec 1056) (adpt : BitVec 132) (acc : Bool × State) (j : Nat) : store (drainLane adv add adpt acc j).2 = store acc.2 := by
  simp only [drainLane, store_ite, snd_ite] <;> (repeat' split) <;> simp_all [store_updArr]
theorem store_execDrainBeat (adv : BitVec 33) (add : BitVec 1056) (adpt : BitVec 132) (s : State) : NextStore (store s) (execDrainBeat adv add adpt s) := by
  simp only [execDrainBeat] <;> (repeat' split) <;> simp_all [nextStore_next, store_fold1, store_updArr, store_drainFault, store_drainLane]
theorem store_execDrainWatchdogExpire (s : State) : NextStore (store s) (execDrainWatchdogExpire s) := by
  unfold execDrainWatchdogExpire; (repeat' split) <;> simp only [nextStore_next, store_drainFault]
theorem store_releaseTest (r : RouteRec) (k : Nat) (s : State) : store (releaseTest r k s) = store s := by
  simp only [releaseTest, store_upd, store_updArr]
theorem store_releaseRow (r : RouteRec) (s : State) : store (releaseRow r s) = store s := by
  simp only [releaseRow, store_cnt, store_updArr]
theorem store_execDrainRowRelease (s : State) : NextStore (store s) (execDrainRowRelease s) := by
  simp only [execDrainRowRelease] <;> (repeat' split) <;> simp_all [nextStore_next, store_cnt, store_wakeGroup, store_releaseTest, store_releaseRow]

/-! ### Descriptors -/

theorem store_loadStaging (w : Window) (s : State) : store (loadStaging w s) = store s := by
  simp only [loadStaging, store_rset]
theorem store_commitWindow (s : State) : store (commitWindow s) = store s := by
  simp only [commitWindow, store_upd, store_ite, ite_self, store_unusable]
theorem store_setLive (h : Nat) (c : Option (BitVec 32)) (s : State) : store (setLive h c s) = store s := by
  simp only [setLive, store_upd]
theorem store_slotCheck (tag : Tag) (h : Nat) (s : State) : store (slotCheck tag h s).2 = store s := by
  unfold slotCheck; (repeat' split) <;> simp only [store_cnt, store_logErr]
theorem store_askSlots (tag : Tag) (hs : List Nat) (s : State) : store (askSlots tag hs s) = store s := by
  simp only [askSlots, store_updJob, store_askHays]
theorem store_dropSlots (tag : Tag) (s : State) : store (dropSlots tag s) = store s := by
  simp only [dropSlots, store_updJob]
theorem store_cancelHandle (h : Nat) (s : State) : store (cancelHandle h s) = store s := by
  simp only [cancelHandle, store_cancelRecs]
theorem store_rejectDcre (tag : Tag) (h : Nat) (st : Status) (reason : Nat) (s : State) : store (rejectDcre tag h st reason s) = store s := by
  simp only [rejectDcre, store_rset, store_cnt, store_finish]
theorem store_askImage (tag : Tag) (hay : Bool) (addr : Nat) (s : State) : store (askImage tag hay addr s) = store s := by
  simp only [askImage, store_ite, ite_self, store_updJob, store_askMem, store_askHay]
theorem store_imageArrived (tag : Tag) (img : BitVec 512) (err unc : Bool) (s : State) : store (imageArrived tag img err unc s) = store s := by
  simp only [imageArrived, store_updJob]
theorem store_checkImage (tag : Tag) (h : Nat) (e : TagEntry) (s : State) : store (checkImage tag h e s) = store s := by
  simp only [checkImage, store_ite, store_rejectDcre] <;> (repeat' split) <;> simp_all [store_updJob, store_askHay, store_rejectDcre]
theorem store_endDcre (tag : Tag) (h : Nat) (e : TagEntry) (s : State) : store (endDcre tag h e s) = store s := by
  simp only [endDcre, store_cnt, store_finish, store_setLive, store_cancelHandle]
theorem store_execDcre (tag : Tag) (s : State) : NextStore (store s) (execDcre tag s) := by
  unfold execDcre; (repeat' split) <;> simp only [nextStore_next, store_rejectDcre, store_askImage, store_checkImage, store_endDcre]
theorem store_execDfree (tag : Tag) (s : State) : NextStore (store s) (execDfree tag s) := by
  unfold execDfree; (repeat' split) <;> simp only [nextStore_next, store_finish, store_setLive, store_cancelHandle]

/-! ### Coopers -/

theorem store_pumpTrn (s : State) : store (pumpTrn s) = store s := by
  unfold pumpTrn; (repeat' split) <;> simp only [store_upd, store_cnt]
theorem store_askPage (tag : Tag) (n a : Nat) (wr : Bool) (s : State) : store (askPage tag n a wr s) = store s := by
  simp only [askPage, store_upd, store_ite, ite_self, store_updJob, store_pumpTrn]
theorem store_askUnit (tag : Tag) (d : Side) (n : Nat) (s : State) (u : Nat) : store (askUnit tag d n s u) = store s := by
  simp only [askUnit, store_ite, ite_self, store_cnt, store_askMem, store_askHay]
theorem store_request (tag : Tag) (d : Side) (n : Nat) (addrs : List Nat) (s : State) : store (request tag d n addrs s) = store s := by
  unfold request; (repeat' split) <;> simp [store_fold, store_updJob, store_askUnit]
theorem store_unitArrived (tag : Tag) (n u off : Nat) (data : Nat) (bad : Nat) (s : State) : store (unitArrived tag n u off data bad s) = store s := by
  simp only [unitArrived, store_updJob]
theorem store_unitFailed (tag : Tag) (n u : Nat) (s : State) : store (unitFailed tag n u s) = store s := by
  simp only [unitFailed, store_updJob]
theorem store_dropAsks (tag : Tag) (writes : Bool) (s : State) : store (dropAsks tag writes s) = store s := by
  simp only [dropAsks, store_hay, store_updJob]
theorem store_noteBad (tag : Tag) (t row rb w : Nat) (bads : List Bool) (s : State) : store (noteBad tag t row rb w bads s) = store s := by
  unfold noteBad; (repeat' split) <;> simp only [store_addUncorr]
theorem store_formRow (tag : Tag) (v : Load) (r : RowSrc) (s : State) : store (formRow tag v r s) = store s := by
  unfold formRow; (repeat' split) <;> simp only [store_ite, ite_self, store_cnt, store_updJob, store_addBits, store_noteBad]
theorem store_sendBeat (tag : Tag) (second : Bool) (t at_ lo hi : Nat) (fin : Bool) (words : List Word) (s : State) : store (sendBeat tag second t at_ lo hi fin words s) = store s := by
  simp only [sendBeat, store_ite, ite_self, store_crossIn, store_updJob, store_askWrite]
theorem store_sendLoad (tag : Tag) (v : Load) (fin : Bool) (s : State) : store (sendLoad tag v fin s) = store s := by
  unfold sendLoad; (repeat' split) <;> simp only [store_sendBeat]
theorem store_setStop (tag : Tag) (w : Stop) (s : State) : store (setStop tag w s) = store s := by
  simp only [setStop, store_updTag]
theorem store_beginTiles (tag : Tag) (ts : List Nat) (s : State) : store (beginTiles tag ts s) = store s := by
  simp only [beginTiles, store_wakeGroups, store_snapTiles]
theorem store_loadStop (tag : Tag) (v : Load) (keep : Bool) (w : Stop) (s : State) : store (loadStop tag v keep w s) = store s := by
  unfold loadStop; (repeat' split) <;> simp only [store_ite, ite_self, store_updJob, store_markPartial, store_endStopped, store_dropAsks, store_sendLoad, store_setStop]
theorem store_loadStep (tag : Tag) (v : Load) (src : Nat → RowSrc) (s : State) : store (loadStep tag v src s) = store s := by
  simp only [loadStep] <;> (repeat' split) <;> simp_all [store_updJob, store_finishWritten, store_askPage, store_request, store_formRow, store_sendLoad, store_loadStop]
theorem store_beginLoad (tag : Tag) (v : Load) (s : State) : store (beginLoad tag v s) = store s := by
  simp only [beginLoad, store_updJob, store_beginTiles]
theorem store_mergeByte (tag : Tag) (d : Side) (row : Nat) (s : State) (x : Nat × Byte) : store (mergeByte tag d row s x) = store s := by
  simp only [mergeByte, snd_ite] <;> (repeat' split) <;> simp_all [store_updJob, store_pick]
theorem store_takeBytes (tag : Tag) (ordered : Bool) (p : WrUnit) (s : State) : store (takeBytes tag ordered p s).2 = store s := by
  unfold takeBytes
  refine store_fold1 _ (fun x a => ?_) _ _
  dsimp only
  split
  · simp only [store_updJob, snd_ite, store_ite, store_pick, ite_self]
  · rfl
theorem store_sendUnit (tag : Tag) (d : Side) (ordered : Bool) (s : State) (p : WrUnit) : store (sendUnit tag d ordered s p) = store s := by
  simp only [sendUnit, store_ite, ite_self, store_cnt, store_updJob, store_askMem, store_askHay, store_takeBytes]
theorem store_flushUnits (tag : Tag) (d : Side) (ordered : Bool) (keep : List Nat) (s : State) : store (flushUnits tag d ordered keep s) = store s := by
  unfold flushUnits; (repeat' split) <;> simp [store_fold, store_updJob, store_sendUnit]
theorem store_storeStop (tag : Tag) (d : Side) (row : Nat) (w : Stop) (s : State) : store (storeStop tag d row w s) = store s := by
  simp only [storeStop, store_ite, ite_self, store_updJob, store_endStopped, store_setStop, store_flushUnits] <;> (repeat' split) <;> simp_all [store_updJob, store_dropAsks]
theorem store_putRow (tag : Tag) (d : Side) (ordered : Bool) (s : State) (bs : List (Nat × Byte)) : store (putRow tag d ordered s bs) = store s := by
  unfold putRow; (repeat' split) <;> simp [store_fold, store_mergeByte, store_flushUnits]
theorem store_putStep (tag : Tag) (d : Side) (ordered : Bool) (o : StepOut) (s : State) : store (putStep tag d ordered o s) = store s := by
  unfold putStep; (repeat' split) <;> simp [store_fold, store_cnt, store_updJob, store_addBits, store_putRow]
theorem store_storeDone (tag : Tag) (d : Side) (total count : Nat) (s : State) : store (storeDone tag d total count s) = store s := by
  simp only [storeDone, store_ite, ite_self, store_updJob, store_finishWritten, store_flushUnits]
theorem store_storeStep (tag : Tag) (d : Side) (total count : Nat) (mk : Nat → State → Option (StepOut × State)) (s : State)
    (hmk : ∀ k s, SomeStore2 (store s) (mk k s)) : store (storeStep tag d total count mk s) = store s := by
  unfold storeStep
  dsimp only
  split
  · exact store_storeStop _ _ _ _ _
  · rw [store_storeDone]
    split
    · have hm := hmk (tagOf s tag).job.row s
      split
      · rfl
      · simp only [*, someStore2_some] at hm
        split
        · exact store_askPage _ _ _ _ _
        · rw [store_putStep]; exact hm
    · rfl
theorem store_askTile (tag : Tag) (n t : Nat) (pair : Option Nat) (lo hi : Nat) (s : State) : store (askTile tag n t pair lo hi s) = store s := by
  unfold askTile; (repeat' split) <;> simp only [store_askRead]

/-! ### Transfers -/

theorem store_execTld (tag : Tag) (s : State) : NextStore (store s) (execTld tag s) := by
  unfold execTld; (repeat' split) <;> simp only [nextStore_next, store_finishWritten, store_loadStep, store_beginLoad]
theorem store_beginStore (tag : Tag) (t : Nat) (pair : Option Nat) (lo hi : Nat) (s : State) : store (beginStore tag t pair lo hi s) = store s := by
  simp only [beginStore, store_updJob, store_beginTiles, store_askTile]
theorem store_storeRow (tag : Tag) (t : Nat) (pair : Option Nat) (first : Nat) (dst : Nat → RowDst) (n : Nat) (s : State) :
    SomeStore2 (store s) (storeRow tag t pair first dst n s) := by
  simp only [storeRow]
  cases tileRow s tag t pair (first + n) (dst n).bytes.length (dst n).scales.length <;> simp only [Option.map, someStore2_some, someStore2_none]
theorem store_execTst (tag : Tag) (s : State) : NextStore (store s) (execTst tag s) := by
  unfold execTst; (repeat' split) <;> simp [nextStore_next, store_finish, store_storeStep, store_beginStore, store_storeRow]
theorem store_indexStep (tag : Tag) (x : Gather) (k rb : Nat) (s : State) : store (indexStep tag x k rb s) = store s := by
  simp only [indexStep, store_ite, store_updJob] <;> (repeat' split) <;> simp_all [store_addUncorr, store_askPage, store_request]
theorem store_execTgat (tag : Tag) (s : State) : NextStore (store s) (execTgat tag s) := by
  unfold execTgat; (repeat' split) <;> simp only [nextStore_next, store_finishWritten, store_loadStop, store_loadStep, store_beginLoad, store_indexStep]
theorem store_scatWindow (tag : Tag) (x : Gather) (d : Desc) (pair : Option Nat) (k w : Nat) (s : State) :
    SomeStore2 (store s) (scatWindow tag x d pair k w s) := by
  unfold scatWindow
  split
  · trivial
  · exact store_fold1 _ (fun x a => by simp only [store_takePick]) _ _
theorem store_beginScatter (tag : Tag) (x : Gather) (row : Nat) (s : State) : store (beginScatter tag x row s) = store s := by
  simp only [beginScatter, store_beginStore]
theorem store_execTsct (tag : Tag) (s : State) : NextStore (store s) (execTsct tag s) := by
  unfold execTsct; (repeat' split) <;> simp [nextStore_next, store_finish, store_storeStop, store_storeStep, store_indexStep, store_scatWindow, store_beginScatter]
theorem store_sumElem (t : EType) (xs : List (BitVec 32)) (s : State) : store (sumElem t xs s).2 = store s := by
  simp only [sumElem, store_ite, snd_ite, ite_self, store_sumFree]
theorem store_addRows (tag : Tag) (x : Gather) (d : Desc) (k w : Nat) (rows : List (Nat × Nat)) (acc : Tbl Byte × Nat × State) (n : Nat) :
    store (addRows tag x d k w rows acc n).2.2 = store acc.2.2 := by
  unfold addRows
  refine store_fold2 _ (fun y a => ?_) _ _
  dsimp only
  split
  · rfl
  · simp only [store_sumElem]
theorem store_addWindow (tag : Tag) (x : Gather) (d : Desc) (k w : Nat) (s : State) : SomeStore2 (store s) (addWindow tag x d k w s) := by
  unfold addWindow
  dsimp only
  split
  · trivial
  · simp only [someStore2_some, store_ite, store_addBits, store_cnt, ite_self]
    refine (store_fold2 _ (fun y a => store_addRows _ _ _ _ _ _ _ _) _ _).trans ?_
    dsimp only
    split
    · exact store_addUncorr _ _ _ _ _
    · rfl
theorem store_scatAddStep (tag : Tag) (x : Gather) (s : State) : store (scatAddStep tag x s) = store s := by
  unfold scatAddStep
  dsimp only
  split
  · exact store_storeStop _ _ _ _ _
  · rw [store_storeDone]
    split
    · rfl
    · split
      · split
        · rfl
        · split
          · exact store_askPage _ _ _ _ _
          · simp only [store_request, store_updJob]
      · split
        · rfl
        · have hm := store_addWindow tag x (Desc.ofImage ((tagOf s tag).job.imgs.headD 0)) (64 * (tagOf s tag).job.landed)
            (tagOf s tag).job.row s
          split
          · rfl
          · simp only [*, someStore2_some] at hm
            simp only [store_flushUnits, store_putStep]
            exact hm
theorem store_execTscta (tag : Tag) (s : State) : NextStore (store s) (execTscta tag s) := by
  unfold execTscta; (repeat' split) <;> simp only [nextStore_next, store_finish, store_storeStop, store_indexStep, store_beginScatter, store_scatAddStep]
theorem store_beginTrans (tag : Tag) (x : Perm) (s : State) : store (beginTrans tag x s) = store s := by
  simp only [beginTrans, store_ite, ite_self, store_updJob, store_askRead, store_beginTiles]
theorem store_transStop (tag : Tag) (x : Perm) (w : Stop) (s : State) : store (transStop tag x w s) = store s := by
  simp only [transStop, store_ite, ite_self, store_updJob, store_markPartial, store_endStopped, store_sendBeat, store_setStop]
theorem store_transStep (tag : Tag) (x : Perm) (s : State) : store (transStep tag x s) = store s := by
  simp only [transStep] <;> (repeat' split) <;> simp_all [store_cnt, store_updJob, store_finishWritten, store_sendBeat, store_transStop]
theorem store_permPhase (tag : Tag) (stage : Nat) (s : State) : store (permPhase tag stage s) = store s := by
  simp only [permPhase, store_updJob]
theorem store_beginPerm (tag : Tag) (x : Perm) (s : State) : store (beginPerm tag x s) = store s := by
  simp only [beginPerm, store_upd, store_ite, ite_self, store_permPhase]
theorem store_permStop (tag : Tag) (d : Side) (w : Stop) (s : State) : store (permStop tag d w s) = store s := by
  simp only [permStop, store_upd, store_ite, ite_self, store_updJob, store_endStopped, store_dropAsks, store_setStop, store_storeStop]
theorem store_permRow (tag : Tag) (x : Perm) (n : Nat) (s : State) : SomeStore2 (store s) (permRow tag x n s) := by
  unfold permRow
  dsimp only
  split
  · trivial
  · simp only [someStore2_some, store_ite, store_addUncorr, ite_self]
theorem store_permAsk (tag : Tag) (x : Perm) (s : State) : store (permAsk tag x s) = store s := by
  simp only [permAsk, store_ite] <;> (repeat' split) <;> simp_all [store_askPage, store_request]
theorem store_permStage (tag : Tag) (x : Perm) (row : Nat) (d : Side) (total : Nat) (s : State) :
    store (permStage tag x row d total s) = store s := by
  have hs : store (if row < total then (match permRow tag x row s with | some (o, s) => putStep tag d false o s | none => s)
      else flushUnits tag d true [] s) = store s := by
    split
    · have hm := store_permRow tag x row s
      split
      · simp only [*, someStore2_some] at hm
        rw [store_putStep]; exact hm
      · rfl
    · exact store_flushUnits _ _ _ _ _
  unfold permStage
  simp only [store_ite, store_permPhase, store_updJob, ite_self]
  rw [store_ite] at hs
  exact hs
theorem store_permStep (tag : Tag) (x : Perm) (s : State) : store (permStep tag x s) = store s := by
  simp only [permStep] <;> (repeat' split) <;> simp_all [store_storeStep, store_permStop, store_permRow, store_permAsk, store_permStage]
theorem store_execTperm (tag : Tag) (s : State) : NextStore (store s) (execTperm tag s) := by
  unfold execTperm; (repeat' split) <;> simp only [nextStore_next, store_beginTrans, store_transStep, store_beginPerm, store_permStep]

/-! ### Contexts -/

theorem store_setRow (l : Nat) (r : Option CtxRow) (s : State) : store (setRow l r s) = store s := by
  simp only [setRow, store_upd]
theorem store_startFetch (c : Nat) (s : State) : store (startFetch c s).2 = store s := by
  simp only [startFetch, store_ite, snd_ite, store_cnt, store_traceEv] <;> (repeat' split) <;> simp_all [store_upd, store_cnt, store_traceEv, store_askMem, store_pick, store_askHay, store_setRow]
theorem store_needCtx (tag : Tag) (s : State) (c : Nat) : store (needCtx tag s c) = store s := by
  simp only [needCtx, store_ite] <;> (repeat' split) <;> simp_all [store_cnt, store_updTag, store_startFetch]
theorem store_resolveCtxs (tag : Tag) (cs : List Nat) (s : State) : store (resolveCtxs tag cs s) = store s := by
  unfold resolveCtxs; (repeat' split) <;> simp [store_fold, store_needCtx]
theorem store_ringError (ring cause : Nat) (s : State) : store (ringError ring cause s) = store s := by
  simp only [ringError, store_upd, store_rset]
theorem store_wakeWaiters (c : Nat) (bad : Option Outc) (s : State) : store (wakeWaiters c bad s) = store s := by
  simp only [wakeWaiters, store_upd]
theorem store_wakeRings (c : Nat) (failed : Bool) (s : State) : store (wakeRings c failed s) = store s := by
  unfold wakeRings; (repeat' split) <;> simp [store_upd, store_fold, store_ringError]
theorem store_fetchEnded (c : Nat) (r : BitVec 128 ⊕ Outc) (s : State) : store (fetchEnded c r s) = store s := by
  simp only [fetchEnded] <;> (repeat' split) <;> simp_all [store_upd, store_cnt, store_traceEv, store_setRow, store_wakeWaiters, store_wakeRings]
theorem store_writeEntry (tag : Tag) (hay : Bool) (a : Nat) (x : BitVec 128) (stage : Nat) (s : State) : store (writeEntry tag hay a x stage s) = store s := by
  simp only [writeEntry, store_ite, ite_self, store_updJob, store_askMem, store_askHay]
theorem store_newEntry (c : Nat) (img : BitVec 128) (s : State) : store (newEntry c img s) = store s := by
  simp only [newEntry] <;> (repeat' split) <;> simp_all [store_upd, store_setRow]
theorem store_execCtxset (tag : Tag) (s : State) : NextStore (store s) (execCtxset tag s) := by
  unfold execCtxset; (repeat' split) <;> simp only [nextStore_next, store_finish, store_writeEntry, store_newEntry]
theorem store_execCtxget (tag : Tag) (s : State) : NextStore (store s) (execCtxget tag s) := by
  unfold execCtxget; (repeat' split) <;> simp only [nextStore_next, store_ite, ite_self, store_updJob, store_finish, store_askMem, store_askHay, store_writeEntry]
theorem store_pinCtx (tag : Tag) (c : Nat) (s : State) : store (pinCtx tag c s) = store s := by
  simp only [pinCtx] <;> (repeat' split) <;> simp_all [store_finish, store_setRow, store_resolveCtxs]
theorem store_execCtxpin (tag : Tag) (s : State) : NextStore (store s) (execCtxpin tag s) := by
  unfold execCtxpin; (repeat' split) <;> simp only [nextStore_next, store_finish, store_setRow, store_pinCtx]
theorem store_execCtxevict (tag : Tag) (s : State) : NextStore (store s) (execCtxevict tag s) := by
  unfold execCtxevict; (repeat' split) <;> simp only [nextStore_next, store_finish, store_setRow]

end Sys2Proof.Laws
end

