-- ==== Sys2Proof/Laws/StorageComm.lean ====
section
/-! SUPPORT. What the network, command, ring and station operations do to the queue and to storage. A lemma `store_f` says that `f` leaves both as
they were; `ok_f` that it keeps the queue and every memory's canonical form. -/

namespace Sys2Proof.Laws

open Sys2Proof.Machine

/-! ### Noc -/

theorem store_setChan (c : Chan) (x : OutChan) (s : State) : store (setChan c x s) = store s := by
  unfold setChan; (repeat' split) <;> simp only [store_upd]
theorem store_sendFlit (c : Chan) (f : Flit) (s : State) : store (sendFlit c f s) = store s := by
  unfold sendFlit; (repeat' split) <;> simp only [store_upd, store_setChan]
theorem store_pumpAnswers (n : Nat) (s : State) : store (pumpAnswers n s) = store s := by
  induction n generalizing s with
  | zero => rfl
  | succ n ih =>
    simp only [pumpAnswers]
    (repeat' split) <;> simp only [ih, store_sendFlit, store_upd]
theorem store_answer (txid : Txid) (kind status : Nat) (data : Line) (s : State) : store (answer txid kind status data s) = store s := by
  simp only [answer, store_upd, store_pumpAnswers]
theorem store_freeTxid (s : State) : store (freeTxid s).2 = store s := by
  unfold freeTxid; (try dsimp only); (repeat' split) <;> (try simp only [store_pick]) <;> (repeat' split) <;> simp only [someStore_some, someStore_none, someStore2_some, someStore2_none, someOk_some, someOk_none, someOk2_some, someOk2_none, nextStore_next, nextStore_fault, nextOk_next, nextOk_fault, store_upd, store_shf, store_hay, store_both, store_ite, snd_ite, ite_self, store_pick]
theorem store_setTx (i : Nat) (o : Option TxOwner) (s : State) : store (setTx i o s) = store s := by
  simp only [setTx, store_upd]
theorem store_shared (k : Nat) (s : State) : store (shared k s) = store s := by
  simp only [shared, store_upd]
theorem store_sendReq (c : Chan) (i : Nat) (r : OutReq) (s : State) : store (sendReq c i r s) = store s := by
  unfold sendReq; (repeat' split) <;> simp only [store_upd, store_cnt, store_sendFlit, store_setTx, store_shared]
theorem store_takeImage (tag : Tag) (width : Nat) (v : Nat) (err unc : Bool) (s : State) : store (takeImage tag width v err unc s) = store s := by
  simp only [takeImage, store_imageArrived]
theorem store_ringLineArrived (ring seq : Nat) (r : Resp) (data : Line) (s : State) : store (ringLineArrived ring seq r data s) = store s := by
  simp only [ringLineArrived, store_upd, store_ite, ite_self, store_ringError]
theorem store_inH (f : State → State) (s : State) (h : store (f s) = store s) : store (inH f s) = store s := by
  unfold inH
  split
  · exact h
  · exact store_crossIn _ _
theorem store_inUnit (tag : Tag) (f : State → State) (s : State) (h : store (f s) = store s) : store (inUnit tag f s) = store s := by
  unfold inUnit
  split
  · split
    · exact store_inH _ _ h
    · exact h
  · exact h
theorem store_readAnswered (o : TxOwner) (r : Resp) (data : Line) (s : State) : store (readAnswered o r data s) = store s := by
  unfold readAnswered; (repeat' split) <;> simp only [store_logErr, store_unitArrived, store_unitFailed, store_fetchEnded, store_takeImage, store_ringLineArrived, store_inUnit]
theorem store_dropWrites (tag : Tag) (k : Nat) (s : State) : store (dropWrites tag k s) = store s := by
  simp only [dropWrites, store_upd, store_updJob]
theorem store_writeAnswered (o : TxOwner) (r : Resp) (st : Byte) (s : State) : store (writeAnswered o r st s) = store s := by
  have h0 : store (if r = .ok then s else logErr 0x14 islC 0 (o.addr % 2 ^ 32) st.toNat s) = store s := by
    split <;> simp only [store_logErr]
  unfold writeAnswered
  dsimp only
  split
  · refine (store_inUnit _ _ _ ?_).trans h0
    split <;> simp only [store_dropWrites, store_updJob]
  · rw [store_updJob]; exact h0
  · rw [store_updJob]; exact h0
  · exact h0
theorem store_takeRdrsp (c : Chan) (txid : Txid) (status : Byte) (data : Line) (s : State) : store (takeRdrsp c txid status data s) = store s := by
  unfold takeRdrsp; (repeat' split) <;> simp only [store_unusable, store_setTx, store_readAnswered]
theorem store_takeWrack (c : Chan) (txid : Txid) (status : Byte) (s : State) : store (takeWrack c txid status s) = store s := by
  unfold takeWrack; (repeat' split) <;> simp only [store_unusable, store_setTx, store_writeAnswered]

/-! ### Thresher -/

theorem store_setBucket (b : Nat) (x : Bucket) (s : State) : store (setBucket b x s) = store s := by
  simp only [setBucket, store_upd, store_ite, ite_self, store_traceEv]
theorem store_updBucket (b : Nat) (f : Bucket → Bucket) (s : State) : store (updBucket b f s) = store s := by
  simp only [updBucket, store_setBucket]
theorem store_bkopenBegin (tag : Tag) (x : BkOpen) (src : Nat) (s : State) : store (bkopenBegin tag x src s) = store s := by
  simp only [bkopenBegin, store_updJob, store_askBytes, store_setBucket]
theorem store_bkopenEnd (tag : Tag) (x : BkOpen) (e : TagEntry) (s : State) : store (bkopenEnd tag x e s) = store s := by
  simp only [bkopenEnd, store_ite, ite_self, store_finish, store_setBucket]
theorem store_execBkopen (tag : Tag) (s : State) : NextStore (store s) (execBkopen tag s) := by
  unfold execBkopen; (repeat' split) <;> simp only [nextStore_next, store_updJob, store_finish, store_askWriteBytes, store_bkopenBegin, store_bkopenEnd]
theorem store_bkaddBegin (tag : Tag) (slot : Nat) (bl : List (Nat × Nat × Nat)) (es : List BkEnt) (s : State) : store (bkaddBegin tag slot bl es s) = store s := by
  unfold bkaddBegin; (repeat' split) <;> simp [store_fold, store_updJob, store_wakeGroups, store_askRead, store_snapTiles, store_updBucket]
theorem store_askScale (tag : Tag) (slot k n : Nat) (s : State) : store (askScale tag slot k n s) = store s := by
  simp only [askScale, store_updJob, store_askHay]
theorem store_addUncorrFree (tag : Tag) (s : State) : store (addUncorrFree tag s) = store s := by
  simp only [addUncorrFree, store_updTag, store_pick]
theorem store_bkaddBlock (tag : Tag) (slot k v : Nat) (s : State) : store (bkaddBlock tag slot k v s) = store s := by
  simp only [bkaddBlock, store_ite, ite_self, store_cnt, store_updJob, store_addBits, store_askHay, store_updBucket, store_addUncorrFree]
theorem store_bkaddDone (tag : Tag) (slot n : Nat) (s : State) : store (bkaddDone tag slot n s) = store s := by
  simp only [bkaddDone, store_finish, store_updBucket]
theorem store_bkaddStop (tag : Tag) (slot : Nat) (bl : List (Nat × Nat × Nat)) (s : State) : store (bkaddStop tag slot bl s) = store s := by
  simp only [bkaddStop, store_endStopped, store_dropAsks, store_updBucket]
theorem store_bkaddStep (tag : Tag) (slot : Nat) (bl : List (Nat × Nat × Nat)) (j : Job) (s : State) : store (bkaddStep tag slot bl j s) = store s := by
  unfold bkaddStep; (repeat' split) <;> simp only [store_askScale, store_bkaddBlock]
theorem store_execBkadd (tag : Tag) (s : State) : NextStore (store s) (execBkadd tag s) := by
  simp only [execBkadd] <;> (repeat' split) <;> simp_all [nextStore_next, store_finish, store_bkaddBegin, store_bkaddDone, store_bkaddStop, store_bkaddStep]
theorem store_askBucket (s : State) (b : Nat) : store (askBucket s b) = store s := by
  simp only [askBucket] <;> (repeat' split) <;> simp_all [store_upd, store_pumpTrn]
theorem store_askCodes (slot p : Nat) (s : State) : store (askCodes slot p s) = store s := by
  simp only [askCodes, store_upd, store_ite, ite_self, store_askHay]
theorem store_dropCodes (slot : Nat) (s : State) : store (dropCodes slot s) = store s := by
  simp only [dropCodes, store_hay]
theorem store_sendRacc (slot p : Nat) (resend : Bool) (i : Nat) (f : RaccData) (s : State) : store (sendRacc slot p resend i f s) = store s := by
  simp only [sendRacc, store_upd, store_ite, ite_self, store_cnt, store_sendFlit, store_setTx, store_shared, store_setBucket]
theorem store_sendNext (slot : Nat) (s : State) : store (sendNext slot s) = store s := by
  unfold sendNext; (repeat' split) <;> simp only [store_cnt, store_freeTxid, store_askCodes, store_sendRacc]
theorem store_sendRaccs (s : State) : store (sendRaccs s) = store s := by
  unfold sendRaccs; (repeat' split) <;> simp only [store_ite, ite_self, store_cnt, store_sendNext]
theorem store_execRaccSend (s : State) : NextStore (store s) (execRaccSend s) := by
  unfold execRaccSend; (repeat' split) <;> simp [nextStore_next, store_fold, store_askBucket, store_sendRaccs]
theorem store_execOutboundFlitSend (s : State) : NextStore (store s) (execOutboundFlitSend s) := by
  unfold execOutboundFlitSend; (repeat' split) <;> simp only [nextStore_next, store_upd, store_freeTxid, store_sendReq]
theorem store_execRaccResendDue (slot : BitVec 3) (s : State) : NextStore (store s) (execRaccResendDue slot s) := by
  unfold execRaccResendDue; (repeat' split) <;> simp only [nextStore_next, store_updBucket]
theorem store_raccAnswered (slot p n : Nat) (txid : Txid) (status : Byte) (added : Nat) (s : State) : store (raccAnswered slot p n txid status added s) = store s := by
  simp only [raccAnswered, store_ite, ite_self, store_cnt, store_unusable, store_updBucket]
theorem store_takeRaccack (txid : Txid) (status : Byte) (added : Nat) (s : State) : store (takeRaccack txid status added s) = store s := by
  unfold takeRaccack; (repeat' split) <;> simp only [store_unusable, store_setTx, store_inH, store_raccAnswered]
theorem store_closeBucket (tag : Tag) (slot : Nat) (s : State) : store (closeBucket tag slot s) = store s := by
  simp only [closeBucket, store_finish, store_updBucket, store_dropCodes]
theorem store_bkcloseStop (tag : Tag) (slot : Nat) (e : TagEntry) (s : State) : store (bkcloseStop tag slot e s) = store s := by
  simp only [bkcloseStop, store_ite, ite_self, store_updBucket, store_closeBucket]
theorem store_execBkclose (tag : Tag) (s : State) : NextStore (store s) (execBkclose tag s) := by
  simp only [execBkclose] <;> (repeat' split) <;> simp_all [nextStore_next, store_finish, store_updBucket, store_closeBucket, store_bkcloseStop]
theorem store_execBkqry (tag : Tag) (s : State) : NextStore (store s) (execBkqry tag s) := by
  unfold execBkqry; (repeat' split) <;> simp only [nextStore_next, store_finish]

/-! ### Hayloft -/

theorem store_lockPort (pbank : Nat) (b : Bool) (n word : Nat) (s : State) : store (lockPort pbank b n word s) = store s := by
  simp only [lockPort, store_hay]
theorem store_stepLock (pbank : Nat) (b : Bool) (s : State) : store (stepLock pbank b s) = store s := by
  simp only [stepLock, store_lockPort]
theorem store_bumpConf (pbank : Nat) (b : Bool) (m : Nat) (s : State) : store (bumpConf pbank b m s) = store s := by
  simp only [bumpConf, store_hay]
theorem store_countPort (p : Nat) (b : Bool) (c : List HayAcc) (g : Option HayAcc) (s : State) : store (countPort p b c g s) = store s := by
  unfold countPort; (repeat' split) <;> simp [store_hay, store_fold, store_bumpConf]
theorem store_slotArrived (tag : Tag) (h : Nat) (img : BitVec 512) (r : EccRes) (s : State) : store (slotArrived tag h img r s) = store s := by
  unfold slotArrived; (repeat' split) <;> simp only [store_ite, ite_self, store_updJob, store_addBits, store_addUncorrFree]
theorem store_readServed (a : HayAcc) (data : BitVec 512) (r : EccRes) (bad : Nat) (s : State) : store (readServed a data r bad s) = store s := by
  unfold readServed; (repeat' split) <;> simp only [store_upd, store_addBits, store_spillArrived, store_unitArrived, store_fetchEnded, store_takeImage, store_slotArrived]
theorem store_setIngress (x : Ingress) (s : State) : store (setIngress x s) = store s := by
  simp only [setIngress, store_hay]
theorem store_dropIngress (id : Nat) (s : State) : store (dropIngress id s) = store s := by
  simp only [dropIngress, store_hay]
theorem store_ingressWritten (id : Nat) (s : State) : store (ingressWritten id s) = store s := by
  unfold ingressWritten; (repeat' split) <;> simp only [store_answer, store_setIngress, store_dropIngress]
theorem store_writeServed (a : HayAcc) (s : State) : store (writeServed a s) = store s := by
  unfold writeServed; (repeat' split) <;> simp only [store_updJob, store_spillWritten, store_ingressWritten]
theorem ok_scrubHay1 {qq : List Instr} (pbank word : Nat) (acc : Nat × State) (w : Nat) (hst : StoreOk qq (store acc.2)) :
    StoreOk qq (store (scrubHay1 pbank word acc w).2) := by
  have hm := store_hayTest pbank word (hayRaw acc.2 pbank word w).1 (hayRaw acc.2 pbank word w).2 acc.2
  unfold scrubHay1
  split
  · simp only [*] at hm
    exact ok_hayPut _ _ _ _ _ _ (by rw [hm]; exact hst)
  · simp only [*] at hm
    rw [hm]; exact hst
theorem ok_scrubHayWord {qq : List Instr} (by_ : Option Tag) (b : Bool) (pbank word : Nat) (s : State) (hst : StoreOk qq (store s)) : StoreOk qq (store (scrubHayWord by_ b pbank word s)) := by
  simp only [scrubHayWord, store_ite, ite_self, store_scrubDone, store_lockPort] <;> (repeat' split) <;> simp_all [ok_fold1, ok_scrubHay1]
theorem store_rawHayWord (tag : Tag) (pbank word : Nat) (s : State) : store (rawHayWord tag pbank word s) = store s := by
  simp only [rawHayWord, store_updJob]
theorem ok_performAcc {qq : List Instr} (a : HayAcc) (s : State) (hst : StoreOk qq (store s)) : StoreOk qq (store (performAcc a s)) := by
  unfold performAcc; (repeat' split) <;> simp only [store_hayWordRead, ok_hayWordWrite, store_lockPort, store_readServed, store_writeServed, ok_scrubHayWord, store_rawHayWord, hst]
theorem ok_serveAcc {qq : List Instr} (a : HayAcc) (s : State) (hst : StoreOk qq (store s)) : StoreOk qq (store (serveAcc a s)) := by
  simp only [serveAcc, store_hay, ok_performAcc, hst]
theorem store_issueAgain (a : HayAcc) (s : State) : store (issueAgain a s) = store s := by
  simp only [issueAgain, store_hay]
theorem store_busyIngress (id : Nat) (a : HayAcc) (s : State) : store (busyIngress id a s) = store s := by
  unfold busyIngress; (repeat' split) <;> simp only [store_cnt, store_answer, store_dropIngress, store_issueAgain]
theorem store_busyAcc (pbank : Nat) (a : HayAcc) (s : State) : store (busyAcc pbank a s) = store s := by
  unfold busyAcc; (repeat' split) <;> simp only [store_cnt, store_bumpConf, store_issueAgain, store_busyIngress]
theorem ok_servePorts {qq : List Instr} (pbank : Nat) (bFirst : Bool) (x y : Option HayAcc) (s : State) (hst : StoreOk qq (store s)) : StoreOk qq (store (servePorts pbank bFirst x y s)) := by
  unfold servePorts; (repeat' split) <;> simp only [ok_serveAcc, store_busyAcc, hst]
theorem store_wakePhys (s : State) (p : Nat) : store (wakePhys s p) = store s := by
  unfold wakePhys; (repeat' split) <;> simp only [store_setHbank]
theorem ok_execHayloftAccessGrant {qq : List Instr} (bank : Nat) (bFirst : Bool) (s : State) (hst : StoreOk qq (store s)) : NextOk qq (execHayloftAccessGrant bank bFirst s) := by
  unfold execHayloftAccessGrant; (repeat' split) <;> simp only [nextOk_next, nextOk_fault, store_ite, ite_self, store_stepLock, store_countPort, ok_servePorts, store_wakePhys, hst]
theorem store_takeIngwr (hdr : Word) (data : Line) (be : BitVec 128) (s : State) : store (takeIngwr hdr data be s) = store s := by
  simp only [takeIngwr, store_hay, store_ite, ite_self, store_unusable, store_askHays, store_answer]

/-! ### Chandler -/

theorem store_accept (src : Origin) (p : Packet) (s : State) : store (accept src p s) = store s := by
  simp only [accept, store_upd, store_cnt, store_traceEv, store_setTag]
theorem store_ackCmd (s : State) : store (ackCmd s) = store s := by
  simp only [ackCmd, store_upd]
theorem store_unplugDecoded (t : Tag) (c : Command) (s : State) : store (unplugDecoded t c s) = store s := by
  unfold unplugDecoded; (repeat' split) <;> simp only [store_updTag, store_finish]
theorem store_execPacketDecode (s : State) : NextStore (store s) (execPacketDecode s) := by
  simp only [execPacketDecode] <;> (repeat' split) <;> simp_all [nextStore_next, store_upd, store_setTag, store_finish, store_unplugDecoded]
theorem store_startMmas (t : Tag) (x : Mmas) (s : State) : store (startMmas t x s).2 = store s := by
  simp only [startMmas] <;> (repeat' split) <;> simp_all [store_resolveCtxs]
theorem store_startArray (t : Tag) (c : Command) (s : State) : store (startArray t c s).2 = store s := by
  simp only [startArray, store_ite, snd_ite] <;> (repeat' split) <;> simp_all [store_startMmas]
theorem store_checkSlots (t : Tag) (hs : List Nat) (s : State) : store (checkSlots t hs s).2 = store s := by
  induction hs generalizing s with
  | nil => rfl
  | cons h r ih =>
    simp only [checkSlots]
    split
    · exact store_slotCheck _ _ _
    · split <;> simp only [ih, store_slotCheck]
theorem store_startGo (t : Tag) (c : Command) (n : Nat) (imgs : List (BitVec 512)) (base : Nat) (s : State) :
    store (startGo t c n imgs base s).2 = store s := by
  unfold startGo
  dsimp only
  split
  · rfl
  · simp only [snd_ite, store_ite, store_dropSlots, ite_self]
theorem store_startChecked (t : Tag) (c : Command) (n : Nat) (imgs : List (BitVec 512)) (s : State) :
    store (startChecked t c n imgs s).2 = store s := by
  unfold startChecked
  dsimp only
  split
  · rfl
  · exact store_dropSlots _ _
  · split
    · split
      · exact store_startGo _ _ _ _ _ _
      · split
        · rfl
        · rw [snd_ite, store_ite, store_resolveCtxs]
          split
          · rfl
          · split
            · exact store_resolveCtxs _ _ _
            · rw [snd_ite, store_ite, store_startGo, store_resolveCtxs, ite_self]
            · exact store_resolveCtxs _ _ _
    · exact store_startGo _ _ _ _ _ _
theorem store_startRead (t : Tag) (c : Command) (free : Option Nat) (s : State) : store (startRead t c free s).2 = store s := by
  have hm := store_checkSlots t (handlesOf c) s
  unfold startRead
  split
  · rfl
  · exact store_dropSlots _ _
  · split
    · simp only [*] at hm; exact hm
    · simp only [*] at hm
      rw [snd_ite, store_ite, store_startChecked, hm, ite_self]
    · simp only [*] at hm
      rw [store_startChecked, hm]
theorem store_startXfer (t : Tag) (c : Command) (s : State) : store (startXfer t c s).2 = store s := by
  unfold startXfer
  split
  · rfl
  · dsimp only
    split
    · simp only [store_ite, store_askSlots, ite_self]
    · split
      · rfl
      · exact store_startRead _ _ _ _
theorem store_startStation (t : Tag) (c : Command) (x : StnOp) (s : State) : store (startStation t c x s).2 = store s := by
  simp only [startStation, store_ite, snd_ite, store_markWritten] <;> (repeat' split) <;> simp_all []
theorem store_startBkopen (t : Tag) (x : BkOpen) (s : State) : store (startBkopen t x s).2 = store s := by
  simp only [startBkopen, store_ite, snd_ite, store_resolveCtxs] <;> (repeat' split) <;> simp_all [store_resolveCtxs]
theorem store_startBkadd (t : Tag) (c : Command) (b : Nat) (es : List BkEnt) (s : State) : store (startBkadd t c b es s).2 = store s := by
  simp only [startBkadd, store_ite, snd_ite] <;> (repeat' split) <;> simp_all [store_resolveCtxs]
theorem store_startPin (t : Tag) (c : Nat) (s : State) : store (startPin t c s).2 = store s := by
  simp only [startPin, store_ite, snd_ite, store_resolveCtxs] <;> (repeat' split) <;> simp_all [store_resolveCtxs]
theorem store_tryStart (t : Tag) (c : Command) (s : State) : store (tryStart t c s).2 = store s := by
  unfold tryStart; (repeat' split) <;> simp only [store_startArray, store_startXfer, store_startStation, store_startBkopen, store_startBkadd, store_startPin]
theorem store_dropLatches (e : TagEntry) (s : State) : store (dropLatches e s) = store s := by
  simp only [dropLatches, store_upd]
theorem store_beginCmd (t : Tag) (c : Command) (stn : Option Nat) (f : TagEntry → TagEntry) (s : State) : store (beginCmd t c stn f s) = store s := by
  unfold beginCmd; (repeat' split) <;> simp only [store_upd, store_ite, ite_self, store_traceEv, store_setTag, store_endTouch, store_arrayBegin, store_dropLatches]
theorem store_dispatch (t : Tag) (c : Command) (stn : Option Nat) (f : TagEntry → TagEntry) (s : State) : store (dispatch t c stn f s) = store s := by
  unfold dispatch; (repeat' split) <;> simp only [store_crossIn, store_beginCmd]
theorem store_applyStart (t : Tag) (c : Command) (p : Start × State) : store (applyStart t c p) = store p.2 := by
  unfold applyStart
  split
  · rfl
  · exact store_finish _ _ _
  · exact store_dispatch _ _ _ _ _
theorem store_execCommandStart (tag : Tag) (s : State) : NextStore (store s) (execCommandStart tag s) := by
  simp only [execCommandStart] <;> (repeat' split) <;> simp_all [nextStore_next, store_tryStart, store_applyStart]
theorem store_releaseTag (t : Tag) (s : State) : store (releaseTag t s) = store s := by
  simp only [releaseTag, store_setTag]
theorem store_execReplyDelivered (s : State) : NextStore (store s) (execReplyDelivered s) := by
  unfold execReplyDelivered; (repeat' split) <;> simp only [nextStore_next, store_upd, store_ite, ite_self, store_cnt, store_traceEv, store_setTag, store_pumpSts, store_pumpNtf, store_releaseTag]
theorem store_execNotifyDelivered (s : State) : NextStore (store s) (execNotifyDelivered s) := by
  unfold execNotifyDelivered; (repeat' split) <;> simp only [nextStore_next, store_upd, store_pumpNtf, store_releaseTag]
theorem store_execRegisterDataDelivered (s : State) : NextStore (store s) (execRegisterDataDelivered s) := by
  unfold execRegisterDataDelivered; (repeat' split) <;> simp only [nextStore_next, store_upd, store_pumpSts]

/-! ### Rings -/

theorem store_setRing (n : Nat) (r : Ring) (s : State) : store (setRing n r s) = store s := by
  simp only [setRing, store_upd]
theorem store_setBell (n : Nat) (b : Bool) (s : State) : store (setBell n b s) = store s := by
  simp only [setBell, store_upd]
theorem store_dropLines (p : Nat → Bool) (s : State) : store (dropLines p s) = store s := by
  simp only [dropLines, store_upd]
theorem store_ringDoorbell (n tail : Nat) (s : State) : store (ringDoorbell n tail s) = store s := by
  simp only [ringDoorbell, store_ite, ite_self, store_cnt, store_traceEv, store_unusable, store_ringError, store_setRing, store_setBell, store_dropLines]
theorem store_applyRingset (x : RingSet) (s : State) : store (applyRingset x s) = store s := by
  simp only [applyRingset, store_upd, store_ite, ite_self, store_setRing, store_setBell, store_dropLines]
theorem store_execRingset (tag : Tag) (s : State) : NextStore (store s) (execRingset tag s) := by
  unfold execRingset; (repeat' split) <;> simp only [nextStore_next, store_finish, store_applyRingset]
theorem store_execRingget (tag : Tag) (s : State) : NextStore (store s) (execRingget tag s) := by
  unfold execRingget; (repeat' split) <;> simp only [nextStore_next, store_finish]
theorem store_passRing (n : Nat) (s : State) : store (passRing n s) = store s := by
  simp only [passRing, store_upd]
theorem store_dropTaken (n : Nat) (s : State) : store (dropTaken n s) = store s := by
  simp only [dropTaken, store_upd]
theorem store_readLine (n : Nat) (s : State) (i : Nat) : store (readLine n s i) = store s := by
  simp only [readLine, store_upd, store_ite, ite_self, store_askMem]
theorem store_endVisit (n : Nat) (s : State) : store (endVisit n s) = store s := by
  simp only [endVisit, store_upd, store_passRing, store_dropTaken]
theorem store_takePacket (n k : Nat) (p : Packet) (s : State) : store (takePacket n k p s) = store s := by
  simp only [takePacket, store_upd, store_ite, ite_self, store_accept, store_setRing, store_dropTaken, store_endVisit]
theorem store_serveRing (n k : Nat) (s : State) : store (serveRing n k s) = store s := by
  simp only [serveRing, store_ite, store_endVisit] <;> (repeat' split) <;> simp_all [store_fold, store_readLine, store_endVisit, store_takePacket]
theorem store_fetchOwner (n owner : Nat) (s : State) : store (fetchOwner n owner s) = store s := by
  simp only [fetchOwner, store_upd, store_ite, store_cnt, store_passRing] <;> (repeat' split) <;> simp_all [store_upd, store_cnt, store_startFetch, store_ringError, store_dropLines, store_passRing]
theorem store_beginVisit (n : Nat) (s : State) : store (beginVisit n s) = store s := by
  simp only [beginVisit, store_ite, store_setBell, store_passRing] <;> (repeat' split) <;> simp_all [store_upd, store_cnt, store_passRing, store_serveRing, store_fetchOwner]
theorem store_schedule (s : State) : store (schedule s) = store s := by
  unfold schedule; (repeat' split) <;> simp only [store_serveRing, store_beginVisit]

/-! ### Control -/

theorem store_execFence (tag : Tag) (s : State) : NextStore (store s) (execFence tag s) := by
  unfold execFence; (repeat' split) <;> simp only [nextStore_next, store_finish]
theorem store_execNop (tag : Tag) (s : State) : NextStore (store s) (execNop tag s) := by
  unfold execNop; (repeat' split) <;> simp only [nextStore_next, store_finish]
theorem store_stopWaiting (t : Tag) (s : State) : store (stopWaiting t s) = store s := by
  simp only [stopWaiting, store_traceEv, store_finish, store_takeRec, store_dropAsks]
theorem store_preemptOne (me : Tag) (s : State) (p : Tag × TagEntry) : store (preemptOne me s p) = store s := by
  simp only [preemptOne, store_ite, store_updTag, store_updJob, store_stopWaiting] <;> (repeat' split) <;> simp_all [store_updTag, store_updJob, store_arrayStop]
theorem store_execPreempt (tag : Tag) (s : State) : NextStore (store s) (execPreempt tag s) := by
  simp only [execPreempt] <;> (repeat' split) <;> simp_all [nextStore_next, store_fold, store_traceEv, store_updTag, store_finish, store_preemptOne]
theorem store_execResume (tag : Tag) (s : State) : NextStore (store s) (execResume tag s) := by
  simp only [execResume] <;> (repeat' split) <;> simp_all [nextStore_next, store_setTag, store_setRec, store_freeRec, store_finish]
theorem store_writeOut (tag : Tag) (master : Nat) (hay : Bool) (a : Nat) (bs : List Byte) (s : State) : store (writeOut tag master hay a bs s) = store s := by
  unfold writeOut; (repeat' split) <;> simp [store_fold, store_updJob, store_askMem, store_askWriteBytes]
theorem store_logSum (s : State) (x : AuditSum) : store (logSum s x) = store s := by
  simp only [logSum, store_ite, ite_self, store_logErr]
theorem store_endAudit (tag : Tag) (o : Outc) (s : State) : store (endAudit tag o s) = store s := by
  simp only [endAudit, store_cnt, store_finish]
theorem store_execAudit (tag : Tag) (s : State) : NextStore (store s) (execAudit tag s) := by
  unfold execAudit; (repeat' split) <;> simp [nextStore_next, store_fold, store_cnt, store_updJob, store_writeOut, store_logSum, store_endAudit]

/-! ### Stations -/

theorem store_sendOp (tag : Tag) (n : Nat) (x : StnOp) (s : State) : store (sendOp tag n x s) = store s := by
  unfold sendOp; (repeat' split) <;> simp [store_fold, store_updJob, store_updStn, store_drive, store_askRead, store_snapTiles]
theorem store_stationTiles (e : TagEntry) (x : StnOp) (full : Bool) (s : State) : store (stationTiles e x full s) = store s := by
  unfold stationTiles; exact store_fold _ (fun s a => by (try dsimp only); (repeat' split) <;> simp only [store_markValid]) _ _
theorem store_endStation (tag : Tag) (x : StnOp) (s : State) : store (endStation tag x s) = store s := by
  simp only [endStation, store_finish, store_stationTiles]
theorem store_stationStep (tag : Tag) (x : StnOp) (s : State) : store (stationStep tag x s) = store s := by
  simp only [stationStep] <;> (repeat' split) <;> simp_all [store_finish, store_wakeGroups, store_sendOp, store_endStation]
theorem store_execTvop (tag : Tag) (s : State) : NextStore (store s) (execTvop tag s) := by
  unfold execTvop; (repeat' split) <;> simp only [nextStore_next, store_stationStep]
theorem store_execTsfu (tag : Tag) (s : State) : NextStore (store s) (execTsfu tag s) := by
  unfold execTsfu; (repeat' split) <;> simp only [nextStore_next, store_stationStep]
theorem store_logWriteWord (t seg wa : Nat) (bad : Bool) (syn : Nat) (s : State) : store (logWriteWord t seg wa bad syn s) = store s := by
  simp only [logWriteWord, store_ite, ite_self, store_logErr]
theorem store_testWrite (tag : Tag) (t j : Nat) (d : Beat) (c : BeatChk) (acc : Nat × Nat × State) (w : Nat) : store (testWrite tag t j d c acc w).2.2 = store acc.2.2 := by
  simp only [testWrite] <;> (repeat' split) <;> simp_all [store_cnt, store_addBits, store_addUncorr, store_logWriteWord]
theorem store_returnWrite (n : Nat) (s : State) : store (returnWrite n s) = store s := by
  simp only [returnWrite, store_drive]
theorem store_takeWrite (n : Nat) (tag : Tag) (p : Nat × Nat × BitVec 32) (wd : Beat) (wchk : BeatChk) (s : State) : store (takeWrite n tag p wd wchk s) = store s := by
  simp only [takeWrite, store_updJob, store_askWrite] <;> (repeat' split) <;> simp_all [store_fold2, store_testWrite]
theorem store_execStationWriteBeat (n : ExtStn) (wd : Beat) (wchk : BeatChk) (wtag : Tag) (wlast : Bool) (s : State) : NextStore (store s) (execStationWriteBeat n wd wchk wtag wlast s) := by
  simp only [execStationWriteBeat] <;> (repeat' split) <;> simp_all [nextStore_next, store_unusable, store_updJob, store_returnWrite, store_takeWrite]
theorem store_execStationDone (n : ExtStn) (dtag : Tag) (dsts : Byte) (s : State) : NextStore (store s) (execStationDone n dtag dsts s) := by
  simp only [execStationDone] <;> (repeat' split) <;> simp_all [nextStore_next, store_unusable, store_updJob, store_addBits]
theorem store_execStationErr (n : ExtStn) (etag : Tag) (s : State) : NextStore (store s) (execStationErr n etag s) := by
  simp only [execStationErr] <;> (repeat' split) <;> simp_all [nextStore_next, store_unusable, store_updTag, store_pick]

/-! ### Translation -/

theorem store_answerQuery (q : Query) (size : Nat) (r : Nat ⊕ Nat) (s : State) : store (answerQuery q size r s) = store s := by
  unfold answerQuery; (repeat' split) <;> simp only [store_cnt, store_updJob, store_updBucket]
theorem store_setQuery (i : Nat) (q : Option Query) (s : State) : store (setQuery i q s) = store s := by
  simp only [setQuery, store_upd]
theorem store_execTrnResponse (sid : BitVec 4) (spa : BitVec 48) (ssize : BitVec 2) (sflt : Bool) (scode : BitVec 4) (s : State) : NextStore (store s) (execTrnResponse sid spa ssize sflt scode s) := by
  simp only [execTrnResponse] <;> (repeat' split) <;> simp_all [nextStore_next, store_upd, store_unusable, store_pumpTrn, store_answerQuery, store_setQuery]
theorem store_execTrnQueryAck (s : State) : NextStore (store s) (execTrnQueryAck s) := by
  unfold execTrnQueryAck; (repeat' split) <;> simp only [nextStore_next, store_upd, store_pumpTrn, store_setQuery]
theorem store_execXlateTimeout (sid : BitVec 4) (s : State) : NextStore (store s) (execXlateTimeout sid s) := by
  unfold execXlateTimeout; (repeat' split) <;> simp only [nextStore_next, store_answerQuery, store_setQuery]

end Sys2Proof.Laws
end

