-- ==== Sys2Proof/Laws/StorageSys.lean ====
section
/-! SUPPORT. What the diagnostic, power, boot, register and boundary operations do to the queue and to storage. A lemma `store_f` says that `f` leaves both as
they were; `ok_f` that it keeps the queue and every memory's canonical form. -/

namespace Sys2Proof.Laws

open Sys2Proof.Machine

/-! ### Diag -/

theorem store_sendTink (q : TinkReq) (s : State) : store (sendTink q s) = store s := by
  simp only [sendTink, store_crossIn, store_wakeGroups, store_askTink]
theorem store_rawAsked (tag : Tag) (stage : Nat) (s : State) : store (rawAsked tag stage s) = store s := by
  simp only [rawAsked, store_updJob]
theorem store_rawRead (tag : Tag) (can : Bool) (ask : State → State) (hay : Bool) (addr : Nat) (s : State) (ha : ∀ u, store (ask u) = store u) :
    store (rawRead tag can ask hay addr s) = store s := by
  unfold rawRead
  simp only [store_ite, store_writeOut, store_updJob, store_finish, ha, store_rawAsked, ite_self]
theorem store_execDrdent (tag : Tag) (s : State) : NextStore (store s) (execDrdent tag s) := by
  unfold execDrdent
  split
  · split
    · exact store_rawRead _ _ _ _ _ _ (fun u => store_sendTink _ _)
    · rfl
  · rfl
theorem store_execDrdhay (tag : Tag) (s : State) : NextStore (store s) (execDrdhay tag s) := by
  unfold execDrdhay
  split
  · split
    · exact store_rawRead _ _ _ _ _ _ (fun u => store_askHay _ _)
    · rfl
  · rfl
theorem store_readIn (tag : Tag) (hay : Bool) (addr n : Nat) (s : State) : store (readIn tag hay addr n s) = store s := by
  unfold readIn; (repeat' split) <;> simp [store_fold, store_updJob, store_askMem, store_askBytes]
theorem store_rawWrite (tag : Tag) (can : Bool) (n : Nat) (hay : Bool) (addr : Nat) (ask : List Byte → State → State) (s : State)
    (ha : ∀ bs u, store (ask bs u) = store u) : store (rawWrite tag can n hay addr ask s) = store s := by
  unfold rawWrite
  simp only [store_ite, store_readIn, store_updJob, store_finish, ha, store_rawAsked, store_upd, ite_self]
theorem store_execDwrent (tag : Tag) (s : State) : NextStore (store s) (execDwrent tag s) := by
  unfold execDwrent
  split
  · split
    · exact store_rawWrite _ _ _ _ _ _ _ (fun bs u => store_sendTink _ _)
    · rfl
  · rfl
theorem store_execDwrhay (tag : Tag) (s : State) : NextStore (store s) (execDwrhay tag s) := by
  unfold execDwrhay
  split
  · split
    · exact store_rawWrite _ _ _ _ _ _ _ (fun bs u => store_askHay _ _)
    · rfl
  · rfl
theorem store_askScrub (hay : Bool) (bank i : Nat) (by_ : Option Tag) (s : State) : store (askScrub hay bank i by_ s) = store s := by
  simp only [askScrub, store_ite, ite_self, store_askHay, store_sendTink]
theorem store_execDscrub (tag : Tag) (s : State) : NextStore (store s) (execDscrub tag s) := by
  unfold execDscrub; (repeat' split) <;> simp only [nextStore_next, store_updJob, store_finish, store_rawAsked, store_askScrub]
theorem store_scrubSheaf (s : State) : store (scrubSheaf s) = store s := by
  simp only [scrubSheaf] <;> (repeat' split) <;> simp_all [store_upd, store_sendTink]
theorem store_scrubHayloft (s : State) : store (scrubHayloft s) = store s := by
  simp only [scrubHayloft] <;> (repeat' split) <;> simp_all [store_upd, store_askScrub]
theorem store_fatal (loc : Nat) (s : State) : store (fatal loc s) = store s := by
  simp only [fatal, store_upd, store_logErr]
theorem store_checkControl (i : Nat) (c : CtlCheck) (s : State) : store (checkControl i c s) = store s := by
  simp only [checkControl] <;> (repeat' split) <;> simp_all [store_logErr, store_pick, store_fatal]
theorem store_execScrubStep (ctl : CtlCheck) (s : State) : NextStore (store s) (execScrubStep ctl s) := by
  unfold execScrubStep; (repeat' split) <;> simp only [nextStore_next, store_upd, store_pick, store_scrubSheaf, store_scrubHayloft, store_checkControl]
theorem store_execCeWindowReset (s : State) : NextStore (store s) (execCeWindowReset s) := by
  unfold execCeWindowReset; (repeat' split) <;> simp only [nextStore_next, store_upd]
theorem store_execDretire (tag : Tag) (s : State) : NextStore (store s) (execDretire tag s) := by
  unfold execDretire; (repeat' split) <;> simp only [nextStore_next, store_updJob, store_finish, store_trigger, store_wakeGroups]
theorem store_beginCopy (b l : Nat) (by_ : Option Tag) (s : State) : store (beginCopy b l by_ s) = store s := by
  simp only [beginCopy, store_upd, store_sendTink]
theorem store_execRetirementCopy (s : State) : NextStore (store s) (execRetirementCopy s) := by
  unfold execRetirementCopy; (repeat' split) <;> simp only [nextStore_next, store_upd, store_dropTrigger, store_beginCopy]
theorem store_execRetirementSwitch (s : State) : NextStore (store s) (execRetirementSwitch s) := by
  unfold execRetirementSwitch; (repeat' split) <;> simp [nextStore_next, store_upd, store_fold, store_logErr, store_finish, store_setPhys]
theorem store_abandonCopy (s : State) : store (abandonCopy s) = store s := by
  unfold abandonCopy; (repeat' split) <;> simp only [store_upd, store_logErr]
theorem store_execDrepair (tag : Tag) (s : State) : NextStore (store s) (execDrepair tag s) := by
  unfold execDrepair
  dsimp only
  split
  · split
    · rename_i k l p _
      split
      · exact store_finish _ _ _
      · split
        · exact store_finish _ _ _
        · have hm := store_assignMap k l p s
          split
          · exact store_finish _ _ _
          · simp only [*, someStore_some] at hm
            rw [nextStore_next, store_finish]
            exact hm
    · rfl
  · rfl
theorem store_execDtrace (tag : Tag) (s : State) : NextStore (store s) (execDtrace tag s) := by
  unfold execDtrace; (repeat' split) <;> simp only [nextStore_next, store_upd, store_rset, store_updJob, store_finish, store_writeOut]

/-! ### Power -/

theorem store_setStretch (i lvl : Nat) (s : State) : store (setStretch i lvl s) = store s := by
  simp only [setStretch, store_ite, ite_self, store_updIsl, store_traceEv]
theorem store_execDroopTrip (isl : Nat) (x : DroopReading) (s : State) : NextStore (store s) (execDroopTrip isl x s) := by
  unfold execDroopTrip; (repeat' split) <;> simp only [nextStore_next, nextStore_fault, store_ite, ite_self, store_cnt, store_updIsl, store_setStretch]
theorem store_execStretchStepBack (isl : Nat) (s : State) : NextStore (store s) (execStretchStepBack isl s) := by
  unfold execStretchStepBack; (repeat' split) <;> simp only [nextStore_next, nextStore_fault, store_setStretch]
theorem store_startFreq (i f : Nat) (s : State) : store (startFreq i f s) = store s := by
  simp only [startFreq, store_updIsl]
theorem store_execFrequencyChangeDone (isl : Nat) (s : State) : NextStore (store s) (execFrequencyChangeDone isl s) := by
  unfold execFrequencyChangeDone; (repeat' split) <;> simp only [nextStore_next, nextStore_fault, store_updIsl]
theorem store_execGeneratorLockLoss (isl : Nat) (s : State) : NextStore (store s) (execGeneratorLockLoss isl s) := by
  unfold execGeneratorLockLoss; (repeat' split) <;> simp only [nextStore_next, nextStore_fault, store_upd, store_updIsl, store_logErr]
theorem store_throttle (s : State) (i : Nat) : store (throttle s i) = store s := by
  simp only [throttle, store_ite, ite_self, store_cnt, store_updIsl, store_traceEv, store_logErr, store_startFreq]
theorem store_execThermalSample (temps : BitVec 88) (volts : BitVec 176) (s : State) : NextStore (store s) (execThermalSample temps volts s) := by
  unfold execThermalSample; (repeat' split) <;> simp [nextStore_next, store_fold, store_updIsl, store_throttle]
theorem store_execGroupIdleExpire (g : BitVec 3) (s : State) : NextStore (store s) (execGroupIdleExpire g s) := by
  simp only [execGroupIdleExpire] <;> (repeat' split) <;> simp_all [nextStore_next, store_setGroup]
theorem ok_loseGroup {qq : List Instr} (g : Nat) (s : State) (h : StoreOk qq (store s)) : StoreOk qq (store (loseGroup g s)) :=
  ⟨h.1, wf_fill _ _ _ _ h.2.1, wf_fill _ _ _ _ h.2.2.1, h.2.2.2.1, h.2.2.2.2⟩
theorem store_reseedGroup (g : Nat) (s : State) : store (reseedGroup g s) = store s := by
  simp only [reseedGroup, store_upd]
theorem ok_execGroupStateChangeDone {qq : List Instr} (g : BitVec 3) (s : State) (hst : StoreOk qq (store s)) : NextOk qq (execGroupStateChangeDone g s) := by
  simp only [execGroupStateChangeDone] <;> (repeat' split) <;> simp_all [nextOk_next, store_traceEv, store_setGroup, ok_loseGroup, store_reseedGroup]
theorem store_parkBank (h : Nat) (p : PState) (s : State) : store (parkBank h p s) = store s := by
  simp only [parkBank, store_ite, ite_self, store_cnt, store_setHbank]
theorem store_execHayloftBankIdleExpire (b : BitVec 4) (s : State) : NextStore (store s) (execHayloftBankIdleExpire b s) := by
  simp only [execHayloftBankIdleExpire] <;> (repeat' split) <;> simp_all [nextStore_next, store_parkBank]
theorem ok_clearHbank {qq : List Instr} (b : Nat) (s : State) (h : StoreOk qq (store s)) : StoreOk qq (store (clearHbank b s)) :=
  ⟨h.1, h.2.1, h.2.2.1, wf_clear _ _ _ h.2.2.2.1, wf_clear _ _ _ h.2.2.2.2⟩
theorem ok_loseHbank {qq : List Instr} (b : Nat) (s : State) (h : StoreOk qq (store s)) : StoreOk qq (store (loseHbank b s)) :=
  ⟨h.1, h.2.1, h.2.2.1, wf_fill _ _ _ _ h.2.2.2.1, wf_fill _ _ _ _ h.2.2.2.2⟩
theorem ok_execHayloftBankStateDone {qq : List Instr} (b : BitVec 4) (s : State) (hst : StoreOk qq (store s)) : NextOk qq (execHayloftBankStateDone b s) := by
  simp only [execHayloftBankStateDone] <;> (repeat' split) <;> simp_all [nextOk_next, store_traceEv, store_setHbank, ok_clearHbank, ok_loseHbank]

/-! ### Boot -/

theorem ok_underReset {qq : List Instr} (s : State) (h : StoreOk qq (store s)) : StoreOk qq (store (underReset s)) := h
theorem ok_execPwrRstAssert {qq : List Instr} (s : State) (hst : StoreOk qq (store s)) : NextOk qq (execPwrRstAssert s) := by
  unfold execPwrRstAssert; (repeat' split) <;> simp only [nextOk_next, ok_underReset, hst]
theorem store_execPwrRstRelease (s : State) : NextStore (store s) (execPwrRstRelease s) := by
  unfold execPwrRstRelease; (repeat' split) <;> simp only [nextStore_next, store_upd]
theorem ok_execPowerLost {qq : List Instr} (s : State) (h : StoreOk qq (store s)) : NextOk qq (execPowerLost s) :=
  ⟨h.1, rfl, rfl, rfl, rfl⟩
theorem ok_execFabricFirstPowered {qq : List Instr} (s : State) (h : StoreOk qq (store s)) : NextOk qq (execFabricFirstPowered s) := by
  unfold execFabricFirstPowered
  rw [nextOk_next]
  split
  · exact h
  · exact ⟨h.1, rfl, rfl, rfl, rfl⟩
theorem store_wakePartition (s : State) : store (wakePartition s) = store s := by
  unfold wakePartition; (repeat' split) <;> simp [store_ite, ite_self, store_fold, store_setHbank]
theorem store_zeroise (s : State) : store (zeroise s) = store s := by
  simp only [zeroise, store_upd, store_hay, store_ite, ite_self, store_wakePartition]
theorem store_sampleLc (s : State) : store (sampleLc s) = store s := by
  simp only [sampleLc, store_upd]
theorem store_lateEvents (s : State) : store (lateEvents s) = store s := by
  simp only [lateEvents, store_upd, store_ite, ite_self, store_zeroise, store_sampleLc]
theorem store_checkLock (l0 l1 : BitVec 11) (s : State) (i : Nat) : store (checkLock l0 l1 s i) = store s := by
  simp only [checkLock, store_ite, ite_self, store_updIsl, store_logErr, store_setPhys]
theorem store_execGeneratorLockCheck (locked0 locked1 : BitVec 11) (s : State) : NextStore (store s) (execGeneratorLockCheck locked0 locked1 s) := by
  unfold execGeneratorLockCheck; (repeat' split) <;> simp [nextStore_next, store_fold, store_checkLock]
theorem store_exitReset (s : State) (i : Nat) : store (exitReset s i) = store s := by
  simp only [exitReset, store_upd, store_ite, ite_self, store_updIsl]
theorem store_grantCredits (s : State) : store (grantCredits s) = store s := by
  unfold grantCredits; (repeat' split) <;> simp [store_ite, ite_self, store_fold, store_updStn, store_drive]
theorem store_grantFlits (s : State) : store (grantFlits s) = store s := by
  simp only [grantFlits, store_upd]
theorem store_execIslandResetExit (s : State) : NextStore (store s) (execIslandResetExit s) := by
  unfold execIslandResetExit; (repeat' split) <;> simp [nextStore_next, store_ite, ite_self, store_fold, store_lateEvents, store_exitReset, store_grantFlits]
theorem store_execArrRstRelease (s : State) : NextStore (store s) (execArrRstRelease s) := by
  simp only [execArrRstRelease, nextStore_next, store_grantCredits, store_upd, store_ite, ite_self]
theorem store_execStationCreditWindowClose (s : State) : NextStore (store s) (execStationCreditWindowClose s) := by
  unfold execStationCreditWindowClose; (repeat' split) <;> simp [nextStore_next, store_upd, store_updStn]
theorem ok_execBistDone {qq : List Instr} (fails : List (Nat × Nat)) (s : State) (h : StoreOk qq (store s)) : NextOk qq (execBistDone fails s) := by
  unfold execBistDone
  split
  · trivial
  · split
    · exact h
    · exact ⟨h.1, rfl, rfl, rfl, rfl⟩
theorem store_setTrims (s : State) : store (setTrims s) = store s := by
  unfold setTrims; (repeat' split) <;> simp [store_fold, store_rset]
theorem store_setLatency (s : State) : store (setLatency s) = store s := by
  simp only [setLatency, store_rset]
theorem store_execArrMapv (rowbyp : BitVec 34) (colbyp : BitVec 33) (s : State) : NextStore (store s) (execArrMapv rowbyp colbyp s) := by
  unfold execArrMapv; (repeat' split) <;> simp only [nextStore_next, store_upd, store_setTrims, store_setLatency]
theorem store_execArrayMapChange (mapv : Bool) (rowbyp : BitVec 34) (colbyp : BitVec 33) (s : State) : NextStore (store s) (execArrayMapChange mapv rowbyp colbyp s) := by
  simp only [execArrayMapChange] <;> (repeat' split) <;> simp_all [nextStore_next, store_upd, store_logErr]
theorem store_testStep (k : Nat) (scaleBad : Bool) (s : State) : store (testStep k scaleBad s) = store s := by
  simp only [testStep, store_upd, store_addPass]
theorem store_endTest (bad : Option (Nat × BitVec 32)) (scaleBad : Bool) (s : State) : store (endTest bad scaleBad s) = store s := by
  simp only [endTest, store_upd, store_rset]
theorem store_nextTest (x : Skew) (s : State) : store (nextTest x s) = store s := by
  simp only [nextTest, store_ite, ite_self, store_testStep, store_endTest]
theorem store_beginTest (s : State) : store (beginTest s) = store s := by
  simp only [beginTest, store_ite, ite_self, store_setTrims, store_setLatency, store_testStep, store_endTest]
theorem store_execSkewSelfTest (lane : Nat) (scale : Bool) (s : State) : NextStore (store s) (execSkewSelfTest lane scale s) := by
  unfold execSkewSelfTest; (repeat' split) <;> simp only [nextStore_next, nextStore_fault, store_ite, ite_self, store_beginTest, store_nextTest]
theorem store_unplugEnd (t : Tag) (s : State) : store (unplugEnd t s) = store s := by
  simp only [unplugEnd, store_finish, store_dropAsks]
theorem store_unplugOne (s : State) (p : Tag × TagEntry) : store (unplugOne s p) = store s := by
  unfold unplugOne; (repeat' split) <;> simp only [store_ite, ite_self, store_updTag, store_arrayStop, store_unplugEnd]
theorem store_execUnplugWarn (s : State) : NextStore (store s) (execUnplugWarn s) := by
  simp only [execUnplugWarn] <;> (repeat' split) <;> simp_all [nextStore_next, store_upd, store_fold, store_dropLines, store_abandonCopy, store_unplugOne]
theorem store_execUnplugQuiesced (s : State) : NextStore (store s) (execUnplugQuiesced s) := by
  simp only [execUnplugQuiesced] <;> (repeat' split) <;> simp_all [nextStore_next, store_upd]
theorem store_offGroup (s : State) (g : Nat) : store (offGroup s g) = store s := by
  simp only [offGroup, store_setGroup]
theorem store_retainBank (s : State) (h : Nat) : store (retainBank s h) = store s := by
  simp only [retainBank, store_ite, ite_self, store_setHbank]
theorem store_execUnplugPowerDown (s : State) : NextStore (store s) (execUnplugPowerDown s) := by
  simp only [execUnplugPowerDown] <;> (repeat' split) <;> simp_all [nextStore_next, store_upd, store_fold, store_updIsl, store_startFreq, store_offGroup, store_retainBank]
theorem store_execSecureEvent (e : SecEvent) (s : State) : NextStore (store s) (execSecureEvent e s) := by
  simp only [execSecureEvent] <;> (repeat' split) <;> simp_all [nextStore_next, store_upd, store_zeroise, store_sampleLc]
theorem store_execSecureEventClear (s : State) : NextStore (store s) (execSecureEventClear s) := by
  simp only [execSecureEventClear, nextStore_next, store_upd]
theorem ok_zeroBank {qq : List Instr} (base size : Nat) (s : State) (b : Nat) (h : StoreOk qq (store s)) :
    StoreOk qq (store (zeroBank base size s b)) := by
  unfold zeroBank
  dsimp only
  split
  · exact h
  · exact ⟨h.1, h.2.1, h.2.2.1, wf_clear _ _ _ h.2.2.2.1, wf_clear _ _ _ h.2.2.2.2⟩
theorem ok_execZeroisationDone {qq : List Instr} (s : State) (hst : StoreOk qq (store s)) : NextOk qq (execZeroisationDone s) := by
  simp only [execZeroisationDone] <;> (repeat' split) <;> simp_all [nextOk_next, store_hay, ok_fold, ok_zeroBank]
theorem store_sendFuse (s : State) : store (sendFuse s) = store s := by
  simp only [sendFuse, store_upd]
theorem store_execFuseReady (s : State) : NextStore (store s) (execFuseReady s) := by
  simp only [execFuseReady, nextStore_next, store_upd, store_ite, ite_self, store_sendFuse]
theorem store_execFuseAck (data : Reg) (s : State) : NextStore (store s) (execFuseAck data s) := by
  simp only [execFuseAck] <;> (repeat' split) <;> simp_all [nextStore_next, store_upd, store_rset, store_sendFuse]
theorem store_execSvcPresentChange (v : Bool) (s : State) : NextStore (store s) (execSvcPresentChange v s) := by
  unfold execSvcPresentChange; (repeat' split) <;> simp only [nextStore_next, store_upd, store_traceEv]

/-! ### Registers -/

theorem store_setCapture (src : RegSrc) (x : Option (Nat × Reg)) (s : State) : store (setCapture src x s) = store s := by
  simp only [setCapture, store_upd]
theorem store_logDead (off : Nat) (s : State) : store (logDead off s) = store s := by
  simp only [logDead, store_logErr]
theorem store_accessRead (src : RegSrc) (off : Nat) (s : State) : store (accessRead src off s).2 = store s := by
  simp only [accessRead, store_ite, snd_ite, ite_self, store_setCapture, store_logDead]
theorem store_logLocked (src : RegSrc) (off : Nat) (s : State) : store (logLocked src off s) = store s := by
  simp only [logLocked, store_logErr]
theorem store_logRefused (src : RegSrc) (off : Nat) (s : State) : store (logRefused src off s) = store s := by
  simp only [logRefused, store_logErr]
theorem store_plainWrite (src : RegSrc) (off : Nat) (v : Reg) (s : State) : store (plainWrite src off v s) = store s := by
  unfold plainWrite; (repeat' split) <;> simp only [store_rset, store_logLocked]
theorem store_writeWhlcommit (v : Reg) (s : State) : store (writeWhlcommit v s) = store s := by
  simp only [writeWhlcommit, store_rset]
theorem store_writeWsel (v : Reg) (s : State) : store (writeWsel v s) = store s := by
  simp only [writeWsel, store_rset, store_loadStaging]
theorem store_writeWcommit (v : Reg) (s : State) : store (writeWcommit v s) = store s := by
  simp only [writeWcommit, store_ite, ite_self, store_commitWindow]
theorem store_writeSeed (v : Reg) (s : State) : store (writeSeed v s) = store s := by
  unfold writeSeed; (repeat' split) <;> simp [store_upd, store_ite, ite_self, store_fold, store_rset, store_reseedGroup]
theorem store_writeDbell (v : Reg) (s : State) : store (writeDbell v s) = store s := by
  simp only [writeDbell, store_ringDoorbell]
theorem store_writeResdrop (v : Reg) (s : State) : store (writeResdrop v s) = store s := by
  simp only [writeResdrop, store_ite, ite_self, store_logErr, store_freeRec]
theorem store_writeRmdata (src : RegSrc) (v : Reg) (s : State) : store (writeRmdata src v s) = store s := by
  unfold writeRmdata
  split
  · exact store_logLocked _ _ _
  · split
    · exact store_logRefused _ _ _
    · split
      · exact store_logRefused _ _ _
      · rename_i k l _
        have hm := store_assignMap k l (fld v 15 0) s
        split
        · simp only [*, someStore_some] at hm; exact hm
        · exact store_logRefused _ _ _
theorem store_writeFuseaddr (v : Reg) (s : State) : store (writeFuseaddr v s) = store s := by
  simp only [writeFuseaddr, store_upd, store_ite, ite_self, store_rset, store_sendFuse]
theorem store_writeBootctl (v : Reg) (s : State) : store (writeBootctl v s) = store s := by
  simp only [writeBootctl, store_upd, store_ite, ite_self]
theorem store_writeLogpop (v : Reg) (s : State) : store (writeLogpop v s) = store s := by
  simp only [writeLogpop, store_upd, store_ite, ite_self]
theorem store_writeLogcnt (s : State) : store (writeLogcnt s) = store s := by
  simp only [writeLogcnt, store_upd]
theorem store_writeTrcmark (v : Reg) (s : State) : store (writeTrcmark v s) = store s := by
  simp only [writeTrcmark, store_traceEv]
theorem store_writeShadow (g : Nat) (v : Reg) (s : State) : store (writeShadow g v s) = store s := by
  simp only [writeShadow, store_upd, store_ite, ite_self]
theorem store_writeRingerr (v : Reg) (s : State) : store (writeRingerr v s) = store s := by
  simp only [writeRingerr, store_ite, ite_self, store_rset]
theorem store_writeCmden (src : RegSrc) (v : Reg) (s : State) : store (writeCmden src v s) = store s := by
  simp only [writeCmden, store_ite, ite_self, store_rset, store_logRefused]
theorem store_writeLock (v : Reg) (s : State) : store (writeLock v s) = store s := by
  simp only [writeLock, store_ite, ite_self, store_rset]
theorem store_writeBootlock (src : RegSrc) (v : Reg) (s : State) : store (writeBootlock src v s) = store s := by
  simp only [writeBootlock, store_writeCmden, store_writeLock]
theorem store_setFreq (i f : Nat) (s : State) : store (setFreq i f s) = store s := by
  simp only [setFreq, store_rset, store_startFreq]
theorem store_writeFset (i : Nat) (v : Reg) (s : State) : store (writeFset i v s) = store s := by
  simp only [writeFset, store_ite, ite_self, store_setFreq]
theorem store_writeEnv (src : RegSrc) (i : Nat) (v : Reg) (s : State) : store (writeEnv src i v s) = store s := by
  simp only [writeEnv, store_ite, ite_self, store_rset, store_startFreq, store_logLocked, store_setFreq]
theorem store_writeGpol (v : Reg) (s : State) : store (writeGpol v s) = store s := by
  simp only [writeGpol, store_ite, store_rset] <;> (repeat' split) <;> simp_all [store_ite, ite_self, store_fold, store_rset, store_wakeGroup]
theorem store_followSet (old : Reg) (s : State) (h : Nat) : store (followSet old s h) = store s := by
  simp only [followSet, store_ite, ite_self, store_setHbank, store_parkBank]
theorem store_writeBset (v : Reg) (s : State) : store (writeBset v s) = store s := by
  unfold writeBset; (repeat' split) <;> simp [store_fold, store_rset, store_followSet]
theorem store_writeCcnt (m : Nat) (v : Reg) (s : State) : store (writeCcnt m v s) = store s := by
  unfold writeCcnt; (repeat' split) <;> simp only [store_hay]
theorem store_regEffect (src : RegSrc) (off : Nat) (v : Reg) (s : State) : store (regEffect src off v s) = store s := by
  unfold regEffect; (repeat' split) <;> simp only [store_rset, store_plainWrite, store_writeWhlcommit, store_writeWsel, store_writeWcommit, store_writeSeed, store_writeDbell, store_writeResdrop, store_writeRmdata, store_writeFuseaddr, store_writeBootctl, store_writeLogpop, store_writeLogcnt, store_writeTrcmark, store_writeShadow, store_writeRingerr, store_writeBootlock, store_writeFset, store_writeEnv, store_writeGpol, store_writeBset, store_writeCcnt]
theorem store_accessWrite (src : RegSrc) (off : Nat) (v : Reg) (s : State) : store (accessWrite src off v s) = store s := by
  simp only [accessWrite, store_ite, ite_self, store_setCapture, store_logDead, store_regEffect]
theorem store_doAct (src : RegSrc) (a : RegAct) (s : State) : store (doAct src a s) = store s := by
  unfold doAct; (repeat' split) <;> simp only [store_accessRead, store_accessWrite]
theorem store_holdAct (src : RegSrc) (a : RegAct) (s : State) : store (holdAct src a s) = store s := by
  cases src <;> rfl
theorem store_act (src : RegSrc) (a : RegAct) (s : State) : store (act src a s) = store s := by
  simp only [act, store_ite, ite_self, store_doAct, store_holdAct]
theorem store_actWrite (src : RegSrc) (off : Nat) (v : Reg) (s : State) : store (actWrite src off v s) = store s := by
  simp only [actWrite, store_act]
theorem store_execPairLowRead (src : RegSrc) (off : BitVec 16) (s : State) : NextStore (store s) (execPairLowRead src off s) := by
  simp only [execPairLowRead, nextStore_next, store_ite, ite_self, store_act]
theorem store_execCrtWhlcommitWrite (src : RegSrc) (v : Reg) (s : State) : NextStore (store s) (execCrtWhlcommitWrite src v s) := by
  simp only [execCrtWhlcommitWrite, nextStore_next, store_actWrite]
theorem store_execAsyWselWrite (src : RegSrc) (v : Reg) (s : State) : NextStore (store s) (execAsyWselWrite src v s) := by
  simp only [execAsyWselWrite, nextStore_next, store_actWrite]
theorem store_execAsyWcommitWrite (src : RegSrc) (v : Reg) (s : State) : NextStore (store s) (execAsyWcommitWrite src v s) := by
  simp only [execAsyWcommitWrite, nextStore_next, store_actWrite]
theorem store_execMilSeedWrite (src : RegSrc) (v : Reg) (s : State) : NextStore (store s) (execMilSeedWrite src v s) := by
  simp only [execMilSeedWrite, nextStore_next, store_actWrite]
theorem store_execChnDbellWrite (src : RegSrc) (v : Reg) (s : State) : NextStore (store s) (execChnDbellWrite src v s) := by
  simp only [execChnDbellWrite, nextStore_next, store_actWrite]
theorem store_execTlyResdropWrite (src : RegSrc) (v : Reg) (s : State) : NextStore (store s) (execTlyResdropWrite src v s) := by
  simp only [execTlyResdropWrite, nextStore_next, store_actWrite]
theorem store_execTnkRmdataWrite (src : RegSrc) (v : Reg) (s : State) : NextStore (store s) (execTnkRmdataWrite src v s) := by
  simp only [execTnkRmdataWrite, nextStore_next, store_actWrite]
theorem store_execTnkFuseaddrWrite (src : RegSrc) (v : Reg) (s : State) : NextStore (store s) (execTnkFuseaddrWrite src v s) := by
  simp only [execTnkFuseaddrWrite, nextStore_next, store_actWrite]
theorem store_execSkewgoWrite (src : RegSrc) (v : Reg) (s : State) : NextStore (store s) (execSkewgoWrite src v s) := by
  simp only [execSkewgoWrite, nextStore_next, store_actWrite]
theorem store_execTnkLogpopWrite (src : RegSrc) (v : Reg) (s : State) : NextStore (store s) (execTnkLogpopWrite src v s) := by
  simp only [execTnkLogpopWrite, nextStore_next, store_actWrite]
theorem store_execTnkLogcntWrite (src : RegSrc) (v : Reg) (s : State) : NextStore (store s) (execTnkLogcntWrite src v s) := by
  simp only [execTnkLogcntWrite, nextStore_next, store_actWrite]
theorem store_execTnkTrcmarkWrite (src : RegSrc) (v : Reg) (s : State) : NextStore (store s) (execTnkTrcmarkWrite src v s) := by
  simp only [execTnkTrcmarkWrite, nextStore_next, store_actWrite]
theorem store_execShadowValidClear (src : RegSrc) (g : BitVec 3) (v : Reg) (s : State) : NextStore (store s) (execShadowValidClear src g v s) := by
  simp only [execShadowValidClear, nextStore_next, store_actWrite]
theorem store_execRingerrValidClear (src : RegSrc) (v : Reg) (s : State) : NextStore (store s) (execRingerrValidClear src v s) := by
  simp only [execRingerrValidClear, nextStore_next, store_actWrite]
theorem store_execCmdenWrite (src : RegSrc) (v : Reg) (s : State) : NextStore (store s) (execCmdenWrite src v s) := by
  simp only [execCmdenWrite, nextStore_next, store_actWrite]
theorem store_execLockWrite (src : RegSrc) (v : Reg) (s : State) : NextStore (store s) (execLockWrite src v s) := by
  simp only [execLockWrite, nextStore_next, store_actWrite]
theorem store_execLmpFsetWrite (src : RegSrc) (isl : Nat) (v : Reg) (s : State) : NextStore (store s) (execLmpFsetWrite src isl v s) := by
  unfold execLmpFsetWrite; (repeat' split) <;> simp only [nextStore_next, nextStore_fault, store_actWrite]
theorem store_execLmpEnvWrite (src : RegSrc) (isl : Nat) (v : Reg) (s : State) : NextStore (store s) (execLmpEnvWrite src isl v s) := by
  unfold execLmpEnvWrite; (repeat' split) <;> simp only [nextStore_next, nextStore_fault, store_actWrite]
theorem store_execShfGpolWrite (src : RegSrc) (v : Reg) (s : State) : NextStore (store s) (execShfGpolWrite src v s) := by
  simp only [execShfGpolWrite, nextStore_next, store_actWrite]
theorem store_execHayBsetWrite (src : RegSrc) (v : Reg) (s : State) : NextStore (store s) (execHayBsetWrite src v s) := by
  simp only [execHayBsetWrite, nextStore_next, store_actWrite]

/-! ### Boundary -/

theorem store_serveCmd (s : State) : SomeStore (store s) (serveCmd s) := by
  simp only [serveCmd] <;> (repeat' split) <;> simp_all [someStore_some, someStore_none, store_upd, store_unusable, store_sendSts, store_ackCmd, store_accessRead, store_accessWrite, store_doAct]
theorem store_drainCmd (n : Nat) (s : State) : store (drainCmd n s) = store s := by
  induction n generalizing s with
  | zero => rfl
  | succ n ih =>
    have hm := store_serveCmd s
    simp only [drainCmd]
    split
    · simp only [*, someStore_some] at hm
      rw [ih]; exact hm
    · rfl
theorem store_pumpCmd (s : State) : store (pumpCmd s) = store s := by
  simp only [pumpCmd, store_drainCmd]
theorem store_arriveCmd (x : CmdXfer) (s : State) : store (arriveCmd x s) = store s := by
  simp only [arriveCmd, store_upd, store_ite, ite_self, store_pumpCmd]
theorem store_execRegisterReadCmd (off : BitVec 16) (s : State) : NextStore (store s) (execRegisterReadCmd off s) := by
  simp only [execRegisterReadCmd, nextStore_next, store_arriveCmd]
theorem store_execRegisterWrite (off : BitVec 16) (v : Reg) (s : State) : NextStore (store s) (execRegisterWrite off v s) := by
  simp only [execRegisterWrite, nextStore_next, store_arriveCmd]
theorem store_creditIn (c : Chan) (s : State) : store (creditIn c s) = store s := by
  unfold creditIn; (repeat' split) <;> simp only [store_upd]
theorem store_takeRegrd (h : Word) (s : State) : store (takeRegrd h s) = store s := by
  simp only [takeRegrd] <;> (repeat' split) <;> simp_all [store_unusable, store_answer, store_setCapture, store_accessRead]
theorem store_takeRegwr (h : Word) (v : Reg) (s : State) : store (takeRegwr h v s) = store s := by
  unfold takeRegwr; (repeat' split) <;> simp only [store_unusable, store_answer, store_setCapture, store_accessWrite]
theorem store_takeCmd (txid : Txid) (p : Packet) (s : State) : store (takeCmd txid p s) = store s := by
  simp only [takeCmd, store_ite, ite_self, store_answer, store_accept]
theorem store_takeFlit (f : Flit) (s : State) : store (takeFlit f s) = store s := by
  unfold takeFlit; (repeat' split) <;> simp only [store_unusable, store_inH, store_takeRdrsp, store_takeWrack, store_takeRaccack, store_takeIngwr, store_creditIn, store_takeRegrd, store_takeRegwr, store_takeCmd]
theorem store_takeFlit0 (f : Flit) (s : State) : store (takeFlit0 f s) = store s := by
  unfold takeFlit0; (repeat' split) <;> simp only [store_unusable, store_takeRdrsp, store_takeWrack, store_creditIn]
theorem store_drainIn1 (n : Nat) (s : State) : store (drainIn1 n s) = store s := by
  induction n generalizing s with
  | zero => rfl
  | succ n ih =>
    simp only [drainIn1]
    split
    · split
      · rfl
      · rw [ih, store_takeFlit, store_upd]
    · split
      · rw [ih, store_doAct, store_upd]
      · rfl
    · rfl
theorem store_drainIn0 (n : Nat) (s : State) : store (drainIn0 n s) = store s := by
  induction n generalizing s with
  | zero => rfl
  | succ n ih =>
    simp only [drainIn0]
    split
    · split
      · rfl
      · rw [ih, store_takeFlit0, store_upd]
    · rfl
theorem store_pumpIn1 (s : State) : store (pumpIn1 s) = store s := by
  simp only [pumpIn1, store_drainIn1]
theorem store_arriveFlit (c : Chan) (f : Flit) (s : State) : store (arriveFlit c f s) = store s := by
  unfold arriveFlit; (repeat' split) <;> simp only [store_upd, store_unusable, store_drainIn0, store_pumpIn1]
theorem store_execCommandPacket (p : Packet) (s : State) : NextStore (store s) (execCommandPacket p s) := by
  unfold execCommandPacket; (repeat' split) <;> simp only [nextStore_next, store_upd, store_accept, store_ackCmd]
theorem store_execHeldPacketAccept (s : State) : NextStore (store s) (execHeldPacketAccept s) := by
  unfold execHeldPacketAccept; (repeat' split) <;> simp only [nextStore_next, store_upd, store_accept, store_ackCmd, store_pumpCmd, store_pumpIn1]
theorem store_execRingSchedulerVisit (s : State) : NextStore (store s) (execRingSchedulerVisit s) := by
  simp only [execRingSchedulerVisit, nextStore_next, store_schedule, store_pumpIn1]
theorem store_execCmdKindReserved (b : BadInput) (s : State) : NextStore (store s) (execCmdKindReserved b s) := by
  unfold execCmdKindReserved; (repeat' split) <;> simp only [nextStore_next, store_arriveCmd, store_arriveFlit]
theorem store_execNocCmd (txid : Txid) (p : Packet) (s : State) : NextStore (store s) (execNocCmd txid p s) := by
  simp only [execNocCmd, nextStore_next, store_arriveFlit]
theorem store_execIngwr (hdr : Word) (data : Line) (be : BitVec 128) (s : State) : NextStore (store s) (execIngwr hdr data be s) := by
  simp only [execIngwr, nextStore_next, store_arriveFlit]
theorem store_execRegrd (hdr : Word) (s : State) : NextStore (store s) (execRegrd hdr s) := by
  simp only [execRegrd, nextStore_next, store_arriveFlit]
theorem store_execRegwr (hdr : Word) (v : Reg) (s : State) : NextStore (store s) (execRegwr hdr v s) := by
  simp only [execRegwr, nextStore_next, store_arriveFlit]
theorem store_execRdrsp (c : Chan) (txid : Txid) (status : Byte) (data : Line) (s : State) : NextStore (store s) (execRdrsp c txid status data s) := by
  simp only [execRdrsp, nextStore_next, store_arriveFlit]
theorem store_execWrack (c : Chan) (txid : Txid) (status : Byte) (s : State) : NextStore (store s) (execWrack c txid status s) := by
  simp only [execWrack, nextStore_next, store_arriveFlit]
theorem store_execRaccack (txid : Txid) (status : Byte) (added : BitVec 16) (s : State) : NextStore (store s) (execRaccack txid status added s) := by
  simp only [execRaccack, nextStore_next, store_arriveFlit]
theorem store_badCredit (isl unit : Nat) (s : State) : store (badCredit isl unit s) = store s := by
  simp only [badCredit, store_unusable]
theorem store_stnReadCredit (n : Nat) (s : State) : store (stnReadCredit n s) = store s := by
  simp only [stnReadCredit, store_ite, ite_self, store_setStn, store_badCredit]
theorem store_stnOpCredit (n : Nat) (s : State) : store (stnOpCredit n s) = store s := by
  simp only [stnOpCredit, store_ite, ite_self, store_setStn, store_badCredit]
theorem store_nocCredit (c : Chan) (s : State) : store (nocCredit c s) = store s := by
  unfold nocCredit; (repeat' split) <;> simp only [store_ite, ite_self, store_setChan, store_pumpAnswers, store_pumpIn1, store_badCredit]
theorem store_execCreditReturn (c : CreditChan) (s : State) : NextStore (store s) (execCreditReturn c s) := by
  unfold execCreditReturn; (repeat' split) <;> simp only [nextStore_next, store_stnReadCredit, store_stnOpCredit, store_nocCredit]
theorem store_serveSvc (s : State) : SomeStore (store s) (serveSvc s) := by
  unfold serveSvc; (repeat' split) <;> simp only [someStore_some, someStore_none, store_upd, store_rset, store_accessRead, store_accessWrite, store_doAct]
theorem store_drainSvc (n : Nat) (s : State) : store (drainSvc n s) = store s := by
  induction n generalizing s with
  | zero => rfl
  | succ n ih =>
    have hm := store_serveSvc s
    simp only [drainSvc]
    split
    · simp only [*, someStore_some] at hm
      rw [ih]; exact hm
    · rfl
theorem store_pumpSvc (s : State) : store (pumpSvc s) = store s := by
  simp only [pumpSvc, store_drainSvc]
theorem store_execServiceAccess (wr : Bool) (addr : BitVec 16) (wdata : Reg) (s : State) : NextStore (store s) (execServiceAccess wr addr wdata s) := by
  simp only [execServiceAccess, nextStore_next, store_upd, store_ite, ite_self, store_pumpSvc]
theorem store_execRegisterServiceStart (s : State) : NextStore (store s) (execRegisterServiceStart s) := by
  unfold execRegisterServiceStart; (repeat' split) <;> simp only [nextStore_next, store_upd, store_pumpCmd, store_pumpIn1, store_pumpSvc]

end Sys2Proof.Laws
end

