-- ==== Sys2Proof/Tests/Slice0.lean ====
section
/-! SUPPORT. Tests: ill-formed commands are refused, worked examples of the spec come out, and every hypothesis of a statement is met. -/

set_option maxRecDepth 20000
set_option exponentiation.threshold 3000

namespace Sys2Proof.Tests

open Sys2Proof Sys2Proof.Machine

/-- A booted fabric: every island runs, accesses are served, packets are accepted. -/
def up : State :=
  let s := State.reset
  { s with
    isl := (List.range 11).map fun i => (i, { Island.init i with up := true, lock := true })
    regs := [(0xE004, 2)]
    crt := { s.crt with stns := (List.range 16).map fun n => (n, let x := Station.init n
      if external n then { x with rTotal := 2, rHeld := 2, wHeld := 8, oTotal := 1, oHeld := 1 }
      else { x with rHeld := x.rTotal, wHeld := x.wTotal }) }
    noc := { s.noc with o0 := ⟨4, 0, 4, true⟩, o1 := ⟨4, 0, 4, true⟩, i0Out := 16, i1Out := 16 }
    ctl := { s.ctl with inReset := false, service := true, arrRstN := true, winClosed := true } }

/-- A started command, and a waiting one. -/
def ent (c : Command) (j : Job := Job.init) : TagEntry := { TagEntry.free with st := .started, cmd := some c, job := j }
def lay (c : Command) : TagEntry := { TagEntry.free with st := .waiting, cmd := some c }

/-- Tag 5 holds an entry. -/
def on5 (e : TagEntry) (s : State := up) : State := setTag 5 e s

/-- Tag 5 is a started command whose island runs. -/
def runs (c : Command) (j : Job := Job.init) (s : State := up) : Bool :=
  decide (started (on5 (ent c j) s) 5 c.opcode = some (ent c j))

/-- A tile of 4 rows of 128 bytes in group 1, and a store command's entry with progress `j`. -/
def tile4 (st : TileSt) : Tile := { Tile.none with st := st, group := 1, rows := 4, rowBytes := 128, ty := .fp32 }
def withTile (n : Nat) (x : Tile) (s : State := up) : State := setTile n x s

/-! ### The hypotheses of the statements are met -/

theorem meets_StepTakesFront : { up with pending := [.heldPacketAccept, .packetDecode] }.pending = [.heldPacketAccept, .packetDecode] := by decide
theorem meets_IdleCycle : up.pending = [] ∧ up.ctl.powered = true ∧ up.ctl.inReset = false ∧ running up islC = true ∧ islActive up 3 = true
    ∧ islActive (setGroup 2 ⟨.off, none, none⟩ up) 3 = false ∧ ({ up with ctl := { up.ctl with powered := false } } : State).ctl.powered = false := by decide
theorem meets_StorageCanonicalKept :
    StorageCanonical up ∧ ∃ t, step up = .next t := ⟨⟨by decide, by decide, by decide, by decide⟩, _, rfl⟩
theorem meets_StorageFrame : (Instr.nop 5).keepsStorage = true ∧ ∃ t, exec (.nop 5) up = .next t := ⟨by decide, _, rfl⟩

theorem meets_TqryReports : let s := withTile 3 (tile4 .valid) (on5 (ent (.tqry 3)))
    started s 5 .tqry = some (ent (.tqry 3)) ∧ (tileOf s 3).st ≠ .unconfigured ∧ (tileOf s 4).st = .unconfigured := by decide

/-- A value tile 4 of an MX type whose scale tile is 3. -/
def mxPair : State := withTile 4 { tile4 .valid with ty := .mxE4m3, pair := 3 } (withTile 3 { tile4 .valid with ty := .e8m0 })
theorem meets_TrelReleases : let f := on5 (ent (.trel 24)) mxPair
    let o := on5 (ent (.trel 8)) mxPair
    started f 5 .trel = some (ent (.trel 24)) ∧ started o 5 .trel = some (ent (.trel 8))
    ∧ (∀ n, n < 64 → ∀ v, v < 64 → ¬ (bit (24 : Word) n = true ∧ bit (24 : Word) v = false ∧ (tileOf f n).st ≠ .unconfigured
        ∧ (tileOf f v).st ≠ .unconfigured ∧ (tileOf f v).ty.isMx = true ∧ (tileOf f v).pair = n))
    ∧ bit (8 : Word) 3 = true ∧ bit (8 : Word) 4 = false ∧ (tileOf o 3).st ≠ .unconfigured ∧ (tileOf o 4).ty.isMx = true ∧ (tileOf o 4).pair = 3 := by
  decide

/-- A tile entry of a TCFG, and one that names the same stripes. -/
def cfgA : TileEnt := ⟨3, false, false, 1, 8, 4, 128, .fp32, 0⟩
theorem meets_TcfgAppliesWhole : let es := [.tile cfgA, .seg 0 ⟨0, 1, 0, 3, false⟩, .unused]
    let bad := [.tile cfgA, .tile { cfgA with tile := 4 }]
    started (on5 (ent (.tcfg es))) 5 .tcfg = some (ent (.tcfg es)) ∧ tcfgFail (on5 (ent (.tcfg es))) es = none
    ∧ (let j : Job := { Job.init with stage := 1 }
       let t := on5 (ent (.tcfg es) j) (withTile 3 (tile4 .empty))
       runs (.tcfg es) j = true ∧ milBusy t 5 = false ∧ tcfgGroups t es = [1] ∧ ∀ g ∈ tcfgGroups t es, (groupOf t g).ready = true)
    ∧ started (on5 (ent (.tcfg bad))) 5 .tcfg = some (ent (.tcfg bad)) ∧ (tcfgFail (on5 (ent (.tcfg bad))) bad).isSome = true := by decide

theorem meets_NopAndFenceComplete : started (on5 (ent .nop)) 5 .nop = some (ent .nop)
    ∧ started (on5 (ent (.fence false))) 5 .fence = some (ent (.fence false)) := by decide

/-- Tag 5 is a PREEMPT of tag 6, which waits. -/
def preempting : State := setTag 6 (lay .nop) (on5 { lay (.preempt 2 6) with acc := 1, place := 1 })
/-- Record 1 in a state, with a waiting RESUME that names it. -/
def resuming (st : RecSt) : State := setRec 1 ⟨st, 2, { lay (.tqry 3) with place := 4 }⟩ (on5 (lay (.resume 513)))
theorem meets_PreemptAndResume :
    (tagOf preempting 5).cmd = some (.preempt 2 6) ∧ running preempting islC = true ∧ (tagOf preempting 5).st = .waiting
    ∧ preemptTargets preempting (tagOf preempting 5) 2 6 = [(6, lay .nop)] ∧ tagOf preempting 6 = lay .nop
    ∧ (tagOf preempting 5).job = Job.init
    ∧ (tagOf (on5 (ent (.preempt 1 0))) 5).st = .started ∧ heldBack (on5 (ent (.preempt 1 0))) 5 = false
    ∧ (tagOf (resuming .held) 5).cmd = some (.resume 513) ∧ (tagOf (resuming .held) 5).st = .waiting
    ∧ (recOf (resuming .free) 1).st = .free ∧ (recOf (resuming .held) 1).st = .held ∧ (recOf (resuming .held) 1).gen = 513 / 256
    ∧ (recOf (resuming (.cancelled (outc .ok 0 0))) 1).st = .cancelled (outc .ok 0 0) := by decide

/-- An AUDIT in its first phase, and the fabric with a credit lost. -/
def auditing (mask : Nat) (dump : Bool) (s : State := up) : State :=
  on5 (ent (.audit mask dump false 4096)) { s with tly := { s.tly with accNext := 1 } }
def lost : State := updStn 0 (fun x => { x with rHeld := 7 }) up
theorem meets_AuditReplies : started (auditing 0 false) 5 .audit = some (ent (.audit 0 false false 4096))
    ∧ started (auditing 15 false) 5 .audit = some (ent (.audit 15 false false 4096))
    ∧ (∀ x ∈ sumsOf (auditing 15 false) 15, x.fails = false) ∧ (∃ x ∈ sumsOf (auditing 1 false lost) 1, x.fails = true)
    ∧ started (auditing 15 true) 5 .audit = some (ent (.audit 15 true false 4096))
    ∧ runs (.audit 15 true false 4096) { Job.init with stage := 1 } = true := by decide

/-! Contexts and rings. -/

/-- A valid entry of context 9 in row 2; the backing table enabled in memory. -/
def row9 (pin : Bool) (s : State) : State := setRow 2 (some ⟨9, 2 ^ 112, pin⟩) s
def table (v : Reg) (s : State) : State := rset 0xA008 v s
theorem meets_CtxsetAndCtxget : let c : Command := .ctxset 9 7
    let g : Command := .ctxget 9 false 4096
    let j : Job := { Job.init with stage := 1 }
    let k : Job := { Job.init with stage := 3 }
    started (on5 (ent c)) 5 .ctxset = some (ent c) ∧ bit (rget (on5 (ent c)) 0xA008) 0 = false
    ∧ started (on5 (ent c) (table 1 up)) 5 .ctxset = some (ent c) ∧ bit (rget (on5 (ent c) (table 1 up)) 0xA008) 0 = true
    ∧ bit (rget (on5 (ent c) (table 1 up)) 0xA008) 1 = false ∧ bit (rget (on5 (ent c) (table 3 up)) 0xA008) 0 = true
    ∧ bit (rget (on5 (ent c) (table 3 up)) 0xA008) 1 = true ∧ residentRow (on5 (ent g) (table 1 up)) 9 = none
    ∧ runs (.ctxget 9 true 4096) Job.init (row9 false up) = true ∧ runs g Job.init (table 1 up) = true
    ∧ started (on5 (ent c { j with wErr := some 0 })) 5 .ctxset = some (ent c { j with wErr := some 0 })
    ∧ started (on5 (ent c j)) 5 .ctxset = some (ent c j) ∧ residentRow (on5 (ent c j)) 9 = none
    ∧ (residentRow (on5 (ent c j) (row9 true up)) 9).isSome = true
    ∧ started (on5 (ent g)) 5 .ctxget = some (ent g) ∧ (residentRow (on5 (ent g) (row9 false up)) 9).isSome = true
    ∧ started (on5 (ent g k)) 5 .ctxget = some (ent g k) ∧ residentRow (on5 (ent g k)) 9 = none
    ∧ (residentRow (on5 (ent g k) (row9 false up)) 9).isSome = true := by decide

theorem meets_CtxpinAndCtxevict : let a : Command := .ctxpin 9 true
    let b : Command := .ctxpin 9 false
    started (on5 (ent a)) 5 .ctxpin = some (ent a) ∧ started (on5 (ent b)) 5 .ctxpin = some (ent b)
    ∧ residentRow (on5 (ent a) (row9 true up)) 9 = some (2, ⟨9, 2 ^ 112, true⟩)
    ∧ residentRow (on5 (ent a) (row9 false up)) 9 = some (2, ⟨9, 2 ^ 112, false⟩) ∧ ctxValid (2 ^ 112) = true
    ∧ pinnedRows (on5 (ent a) (row9 false up)) < 16256
    ∧ residentRow (on5 (ent b)) 9 = none ∧ residentRow (on5 (ent b) (row9 true up)) 9 = some (2, ⟨9, 2 ^ 112, true⟩)
    ∧ started (on5 (ent (.ctxevict 9)) (row9 false up)) 5 .ctxevict = some (ent (.ctxevict 9)) := by decide

def ringReq (full : Bool) : RingSet := ⟨6, full, true, false, 2, 4, 0, 9, 16⟩
theorem meets_Rings : started (on5 (ent (.ringset (ringReq true)))) 5 .ringset = some (ent (.ringset (ringReq true)))
    ∧ (ringOf (on5 (ent (.ringset (ringReq true))) (setRing 6 { Ring.zero with en := true } up)) 6).en = true
    ∧ (ringOf (on5 (ent (.ringset (ringReq true)))) 6).en = false ∧ (ringReq false).full = false
    ∧ started (on5 (ent (.ringget 6))) 5 .ringget = some (ent (.ringget 6)) := by decide

/-! Descriptors and transfers. -/

/-- An image of sixteen FP32 elements at 0x1000, with window 0 over it. -/
def img16 : BitVec 512 := BitVec.ofNat 512 (0x1000 + 16 * 2 ^ 128)
def window0 (s : State) : State := { s with asy := { s.asy with windows := [(0, ⟨true, false, false, 0x1000, 0x1000⟩)] } }
theorem meets_DcreMakesLive : let c : Command := .dcre 7 false 4096
    let j : Job := { Job.init with stage := 2, imgs := [img16] }
    let s := on5 (ent c j) (window0 up)
    runs c { j with stage := 3 } = true ∧ runs c = true ∧ (liveCrc (on5 (ent c) (setLive 7 (some 0) up)) 7).isSome = true ∧ runs c j (window0 up) = true
    ∧ imgCheck img16 = none ∧ windowCheck s (Desc.ofImage img16) = none := by decide

theorem meets_DfreeFrees : runs (.dfree 7) = true ∧ liveCrc (on5 (ent (.dfree 7))) 7 = none
    ∧ (liveCrc (on5 (ent (.dfree 7)) (setLive 7 (some 0) up)) 7).isSome = true := by decide

def inl : Inline := { (default : Inline) with tile := 3, nr := 2, stride := 128 }
def dsc : DescXfer := { (default : DescXfer) with tile := 3, e0 := 16, ext := [2, 1, 1] }
def gat : Gather := { (default : Gather) with tile := 3, nidx := 2, e0 := 16 }
def jDone : Job := { Job.init with stage := 2, row := 2, reqRow := 2, landed := 2, imgs := [img16], snap := [(3, tile4 .valid)] }
def t3 : State := withTile 3 (tile4 .valid) up
theorem meets_LoadsComplete :
    runs (.inline false inl) jDone t3 = true ∧ LoadFinished (on5 (ent (.inline false inl) jDone) t3) 5 (inlineLoad inl)
    ∧ runs (.desc false dsc) jDone t3 = true ∧ noRows (.desc false dsc) = false
    ∧ LoadFinished (on5 (ent (.desc false dsc) jDone) t3) 5 (descLoad (on5 (ent (.desc false dsc) jDone) t3) dsc img16 none)
    ∧ runs (.gather .tgat gat) jDone t3 = true ∧ LoadFinished (on5 (ent (.gather .tgat gat) jDone) t3) 5 ⟨sideOf img16 false, 2, 2, 3, none⟩
    ∧ runs (.inline false { inl with nr := 0 }) = true ∧ noRows (.inline false { inl with nr := 0 }) = true
    ∧ runs (.gather .tgat { gat with e0 := 0 }) = true := by
  unfold LoadFinished; decide

def perm (tensor : Bool) : Perm := { (default : Perm) with tensor := tensor, stile := 3, dtile := 4 }
def jPerm : Job := { jDone with row := 4, landed := 4, imgs := [img16, img16], snap := [(3, tile4 .valid), (4, tile4 .valid)] }
def t34 : State := withTile 4 (tile4 .valid) t3
theorem meets_StoresAndTpermComplete :
    runs (.inline true inl) jDone = true ∧ StoreFinished (on5 (ent (.inline true inl) jDone)) 5 2
    ∧ runs (.desc true dsc) jDone = true ∧ StoreFinished (on5 (ent (.desc true dsc) jDone)) 5 2
    ∧ runs (.gather .tsct gat) jDone = true ∧ scatWindows gat = 1 ∧ StoreFinished (on5 (ent (.gather .tsct gat) jDone)) 5 1
    ∧ runs (.gather .tscta gat) jDone = true ∧ StoreFinished (on5 (ent (.gather .tscta gat) jDone)) 5 1
    ∧ runs (.inline true { inl with nr := 0 }) = true ∧ runs (.gather .tsct { gat with e0 := 0 }) = true
    ∧ runs (.gather .tscta { gat with nidx := 0 }) = true
    ∧ runs (.tperm (perm false)) jPerm t34 = true ∧ (jobTile (on5 (ent (.tperm (perm false)) jPerm) t34) 5 4).rows ≤ jPerm.row
    ∧ runs (.tperm (perm true)) { jPerm with stage := 3, reqRow := 4 } = true
    ∧ permRows (Desc.ofImage img16) ≤ 4
    ∧ StoreFinished (on5 (ent (.tperm (perm true)) { jPerm with stage := 3 })) 5 (permRows (Desc.ofImage img16)) := by
  unfold StoreFinished; decide

/-- The second row of an inline load has arrived. -/
def jRow : Job := { Job.init with snap := [(3, tile4 .valid)], stn := some 6, stage := 1, row := 1, reqRow := 2, base := 0x1000, units := [⟨1, 0x1080, -1, 0⟩] }
theorem meets_InlineLoadFormsRow : let s := on5 (ent (.inline false inl) jRow) t3
    runs (.inline false inl) jRow t3 = true ∧ unitsReady jRow 1 = true ∧ (jobTile s 5 3).rowBytes = 128 ∧ jRow.reqRow = inl.nr
    ∧ (stnOf (updStn 6 (fun x => { x with wHeld := 0 }) s) 6).wHeld = 0 ∧ beatsSent jRow.wIdx (jRow.landed * 128) ((jRow.row + 1) * 128) = false
    ∧ ∀ b, b < 128 → (byteIn jRow (Side.of false false false) 1 (0x1000 + 1 * inl.stride + b)).2 = false := by decide

/-! The array. -/

def wTile : Tile := { tile4 .valid with rows := 32, rowBytes := 64, ty := .bf16 }
def sTile : Tile := { tile4 .valid with rowBytes := 64, ty := .bf16 }
def mats : State := withTile 3 (tile4 .valid) (withTile 2 wTile (withTile 1 sTile up))
def mma : Mma := { (default : Mma) with stile := 1, wtile := 2, atile := 3, count := 4 }
/-- The array is usable; tag 5 waits with a command, its segment table entry 0 in use or none. -/
def arrayUp (c : Command) (sg : List (Nat × Seg)) : State :=
  on5 { lay c with segs := sg, refs := [0] } (rset 0x3030 15 mats)
theorem meets_ArrayCommandsEnterSequence : let w : Command := .twf 2 false 1 false
    let m : Command := .tmma mma
    let g : Mmas := { (default : Mmas) with stile := 1, atile := 3 }
    let x : Command := .tmmas g
    let sg : List (Nat × Seg) := [(0, ⟨0, 4, 0, 2, false⟩)]
    let go := fun (s : State) (c : Command) => started s 5 c.opcode = none ∧ heldBack s 5 = false ∧ s.ctl.unplug = 0 ∧ running s islC = true
      ∧ arrayOk s = true ∧ judgeCmd s (tagOf s 5) c = .go ∧ arrayChecks s (tagOf s 5) false = none ∧ takesFirst s 1 5 = true
      ∧ feedersFree s c = true ∧ canCross s 62 = true
    go (arrayUp w []) w ∧ go (arrayUp m []) m ∧ mma.count ≠ 0 ∧ mma.res = false ∧ go (arrayUp x sg) x
    ∧ segsBad (arrayUp x sg) (tagOf (arrayUp x sg) 5) 1 = none ∧ mmasCtxBad (arrayUp x sg) (tagOf (arrayUp x sg) 5) g = none
    ∧ mmasUse (tagOf (arrayUp x sg) 5) = sg ∧ (0 : Nat) ∈ (tagOf (arrayUp x sg) 5).refs := by decide

theorem meets_ArrayCommandsComplete : let c : Command := .twf 2 false 1 false
    let j : Job := { Job.init with stage := 1, landed := 1 }
    runs c j = true ∧ arrayIdle (on5 (ent c j)) 5 = true ∧ runs (.tmma mma) j = true ∧ runs (.tmma { mma with count := 0 }) j = true
    ∧ runs (.tmmas default) { j with landed := 0 } = true ∧ (mmasUse (ent (.tmmas default))).length = 0 := by decide

/-! Bank arithmetic, stations and buckets. -/

def bkOp : BankOp := { (default : BankOp) with dtile := 3, stile := 3, s2tile := 3, first := 1, count := 2 }
def asleep : State := setGroup 1 ⟨.off, none, none⟩ t3
theorem meets_Bank : let c : Command := .bank .tzero bkOp
    let s := on5 (ent c) t3
    bankOpcodes.all (fun op => runs (.bank op bkOp) Job.init t3 && (.bank op bkOp : Command).opcode == op) = true
    ∧ bankChecks s .tzero bkOp = none ∧ bankChecks s .tacc bkOp = none ∧ (bankChecks s .tzero { bkOp with count := 9 }).isSome = true
    ∧ (groupOf s (tileOf s 3).group).ready = true ∧ running s (1 + (tileOf s 3).group) = true ∧ s.tnk.copying = none
    ∧ (groupOf (on5 (ent c) asleep) 1).ready = false ∧ bankChecks (on5 (ent c) asleep) .tzero bkOp = none
    ∧ runs (.bank .tzero bkOp) { Job.init with stage := 1 } t3 = true ∧ milBusy s 5 = false
    ∧ milBusy { s with mil := { s.mil with reqs := bankReqs s .tzero 5 bkOp } } 5 = true
    ∧ (tileOf s 3).rowBytes % 16 = 0 := by decide

def stnOp : StnOp := { (default : StnOp) with count := 2, srcs := [3], dsts := [3] }
def jStn : Job := { Job.init with stn := some 3 }
theorem meets_StationCommandsRun : let c : Command := .station .tvop stnOp
    runs c jStn t3 = true ∧ runs (.station .tsfu stnOp) { jStn with stn := some 5 } t3 = true
    ∧ stationChecks (on5 (ent c jStn) t3) stnOp = none ∧ 0 < (stnOf (on5 (ent c jStn) t3) 3).oHeld
    ∧ (stationChecks (on5 (ent c jStn)) stnOp).isSome = true ∧ runs c { jStn with stage := 1, dn := some 0, wLast := true } t3 = true
    ∧ stationDone (ent c { jStn with stage := 1, dn := some 0, wLast := true }) stnOp = true
    ∧ opGroups (on5 (ent c jStn) t3) stnOp = [1] ∧ (groupOf (on5 (ent c jStn) t3) 1).ready = true
    ∧ (groupOf (on5 (ent c jStn) asleep) 1).ready = false ∧ stationChecks (on5 (ent c jStn) asleep) stnOp = none := by decide

def bkNew : BkOpen := { (default : BkOpen) with bucket := 0, nelem := 1, step := 1 }
theorem meets_BkopenOpens : let s := on5 (ent (.bkopen bkNew))
    runs (.bkopen bkNew) = true ∧ runs (.bkopen { bkNew with nelem := 0 }) = true
    ∧ bkopenChecks s bkNew (scaleArray s (ent (.bkopen bkNew)) bkNew) = none
    ∧ (bkopenChecks s { bkNew with bucket := 2 } 0).isSome = true
    ∧ bkopenBusy s = false ∧ bkopenBusy (setTag 6 (ent (.bkopen bkNew) { Job.init with stage := 1 }) s) = true
    ∧ runs (.bkopen bkNew) { Job.init with stage := 1 } = true ∧ runs (.bkopen bkNew) { Job.init with stage := 2 } = true
    ∧ runs (.bkopen bkNew) { Job.init with stage := 2, units := [⟨0, 0, 0, 1⟩] } = true := by decide

/-- Slot 0 with two blocks, in a state; a BKADD of one block of tile 3. -/
def slot0 (st : BkSt) : Bucket := { bucket0 0 with st := st, nelem := 64 }
def withSlot (b : Bucket) (s : State := t3) : State := { s with thr := { s.thr with slots := [(0, b)] } }
def bkEnts : List BkEnt := [⟨3, 0, 1, 0⟩]
def jAdd : Job := { Job.init with stage := 1, row := 1, snap := [(3, tile4 .valid)] }
theorem meets_BkaddPlacesBlocks : let c : Command := .bkadd 0 false bkEnts
    let s := withSlot (slot0 .opened)
    runs (.bkadd 0 false []) = true ∧ runs c Job.init s = true ∧ bkaddChecks (on5 (ent c) s) (ent c) 0 bkEnts = none
    ∧ (bkaddChecks (on5 (ent c)) (ent c) 0 bkEnts).isSome = true ∧ runs c jAdd s = true
    ∧ (bkaddBlocks (on5 (ent c jAdd) s) (jobTile (on5 (ent c jAdd) s) 5) (ent c jAdd) 0 bkEnts).length ≤ jAdd.row
    ∧ (let j : Job := { jAdd with row := 0 }
       let k : Job := { j with reqRow := 1, rx := [⟨3, 0, 0⟩] }
       runs c j s = true ∧ (bkaddBlocks (on5 (ent c j) s) (jobTile (on5 (ent c j) s) 5) (ent c j) 0 bkEnts)[0]? = some (3, 0, 0)
       ∧ runs c k s = true ∧ (rxBytes k.rx 3 0 128).isSome = true ∧ unitsReady k 0 = true)
    ∧ (groupOf (on5 (ent c) (withSlot (slot0 .opened) asleep)) 1).ready = false
    ∧ bkaddChecks (on5 (ent c) (withSlot (slot0 .opened) asleep)) (ent c) 0 bkEnts = none := by decide

theorem meets_BkcloseAndBkqry : let c : Command := .bkclose 0 true
    runs c = true ∧ (bucketOf (on5 (ent c)) 0).st = .closed ∧ (bucketOf (on5 (ent c) (withSlot (slot0 .opened))) 0).st = .opened
    ∧ runs (.bkclose 0 false) = true ∧ (bucketOf (on5 (ent c) (withSlot { slot0 .draining with next := 2 })) 0).st = .draining
    ∧ (bucketOf (on5 (ent c) (withSlot { slot0 .draining with next := 2 })) 0).drained = true ∧ (ent c).stop ≠ some .unplug
    ∧ (bucketOf (on5 (ent c) (withSlot { slot0 .draining with raccs := 1 })) 0).drained = false
    ∧ (let e : TagEntry := { ent c with stop := some .unplug }
       started (on5 e) 5 .bkclose = some e ∧ behindStarted (on5 e) e = false ∧ (bucketOf (on5 e) 0).raccs = 0)
    ∧ runs (.bkqry 0) = true := by decide

/-! Diagnostics and repair. -/

theorem meets_RawAccessAndDscrub : let j : Job := { Job.init with stage := 1 }
    let r : Job := { j with raw := [1] }
    let k : Job := { Job.init with stage := 2 }
    runs (.drdent 9 3 false 4096) = true ∧ canTink (on5 (ent (.drdent 9 3 false 4096))) 9 = true ∧ runs (.drdent 9 3 false 4096) r = true
    ∧ runs (.drdent 9 3 false 4096) k = true ∧ runs (.drdhay 2 3 true 4096) = true ∧ runs (.drdhay 2 3 true 4096) r = true
    ∧ runs (.drdhay 2 3 true 4096) k = true ∧ runs (.dwrent 9 3 false 4096) = true ∧ runs (.dwrent 9 3 true 4096) = true
    ∧ runs (.dwrent 9 3 false 4096) j = true ∧ runs (.dwrent 9 3 false 4096) k = true ∧ runs (.dwrhay 2 3 false 4096) = true
    ∧ runs (.dwrhay 2 3 true 4096) = true ∧ runs (.dwrhay 2 3 false 4096) j = true ∧ runs (.dwrhay 2 3 false 4096) k = true ∧ j.want = []
    ∧ runs (.dscrub false 9) = true ∧ runs (.dscrub true 2) = true ∧ runs (.dscrub true 2) { Job.init with wrOut := 1 } = true
    ∧ runs (.dscrub false 9) { Job.init with row := 64 } = true ∧ runs (.dscrub true 2) { Job.init with row := 4096 } = true := by decide

/-- Retirement is allowed; the fabric before boot completes; LOCK. -/
def mayRet : State := rset 0xD008 (0x1FF0001F ||| 0x20000000) up
theorem meets_RetireRepairTrace : let c : Command := .dretire 9
    runs c = true ∧ runs (.dretire 8) = true ∧ servedBank (on5 (ent (.dretire 8))) 8 = none
    ∧ (servedBank (on5 (ent c)) 9).isSome = true ∧ mayRetire (on5 (ent c)) 1 = false ∧ mayRetire (on5 (ent c) mayRet) 1 = true
    ∧ runs (.drepair 0 8 17) = true ∧ bit (rget (on5 (ent (.drepair 0 8 17)) (rset 0xE004 3 up)) 0xE004) 0 = true
    ∧ bit (rget (on5 (ent (.drepair 0 8 17))) 0xE004) 0 = false ∧ booted (on5 (ent (.drepair 0 8 17))) = true
    ∧ physOk 0 8 17 = true ∧ physOk 0 8 18 = false
    ∧ copyingIn { up with tnk := { up.tnk with copying := some ⟨9, 8, 17, 0, none, none⟩ } } 1 = true ∧ copyingIn up 1 = false ∧ runs (.dtrace 0 false 0) = true ∧ runs (.dtrace 1 false 0) = true
    ∧ runs (.dtrace 2 false 0) = true ∧ runs (.dtrace 3 false 0) = true ∧ runs (.dtrace 2 false 0) { Job.init with stage := 1 } = true := by
  decide

/-! Packets. -/

/-- A NOP packet of tag 5. -/
def nopPkt : Packet := { Packet.zero with w0 := 0x020000000005007F }
def heldPkt (s : State) : State := { s with tly := { s.tly with cmdHeld := [.packet nopPkt] } }
/-- Tag 5 waits in the input queue with a packet. -/
def queued (p : Packet) (s : State := up) : State :=
  { on5 { TagEntry.free with st := .waiting, own := p.w0, hdr := p.w0, pkt := p } s with tly :=
    { (on5 { TagEntry.free with st := .waiting, own := p.w0, hdr := p.w0, pkt := p } s).tly with inq := [5] } }
theorem meets_PacketsAccepted : canAccept up nopPkt = true ∧ up.tly.cmdHeld = [] ∧ awake up = true ∧ hasTurn up 0 = true ∧ hasTurn up 1 = true
    ∧ hasTurn (heldPkt up) 0 = true ∧ 0 < up.noc.i1Out
    ∧ (let s := heldPkt up
       hasTurn s 1 = false ∧ canAccept s nopPkt = true ∧ s.noc.in1 = [])
    ∧ canAccept (on5 (ent .nop)) nopPkt = false ∧ (heldPkt up).tly.cmdHeld = [.packet nopPkt] ∧ canAccept (heldPkt up) nopPkt = true
    ∧ canAccept (heldPkt (on5 (ent .nop))) nopPkt = false ∧ running up islC = true ∧ up.noc.in1 = [] ∧ up.noc.answers = []
    ∧ 0 < up.noc.o1.held ∧ { up with noc := { up.noc with o1 := ⟨0, 4, 4, true⟩ } }.noc.o1.held = 0 := by decide

/-- The unplug sequence has reached a step; a BKCLOSE with FORCE; a FENCE of the short form. -/
def atStep (k : Nat) (s : State := up) : State := { s with ctl := { s.ctl with unplug := k } }
def closing : Packet := { Packet.zero with w0 := 0x0200000000050052, w1 := 8 }
def short : Packet := { Packet.zero with w0 := 0x0100000000050070 }
theorem meets_PacketDecodes : let bad : Packet := { nopPkt with w1 := 1 }
    (queued nopPkt).tly.inq = [5] ∧ resumePending (queued nopPkt) = false ∧ running (queued nopPkt) islC = true
    ∧ decodePacket none (tagOf (queued nopPkt) 5).pkt = .inr .nop ∧ (decodePacket none (tagOf (queued bad) 5).pkt).isLeft = true
    ∧ (queued nopPkt).ctl.unplug = 0 ∧ hdrFmt nopPkt.w0 = 2 ∧ hdrOp nopPkt.w0 = 0x7F ∧ nopPkt.w0 &&& 0x00FC000002000000#64 = 0
    ∧ decodePacket none (tagOf (queued closing (atStep 1)) 5).pkt = .inr (.bkclose 0 true) ∧ (queued closing (atStep 1)).ctl.unplug = 1
    ∧ decodePacket none (tagOf (queued nopPkt (atStep 1)) 5).pkt = .inr .nop ∧ hdrFmt short.w0 = 1
    ∧ Opcode.ofCode (hdrOp short.w0) = some .fence ∧ Opcode.inBl1 .fence = true ∧ Opcode.inBl1 .audit = false
    ∧ (decodePacket none { nopPkt with w0 := 0x020000000205007F }).isLeft = true
    ∧ hdrFmt { nopPkt with w0 := 0 }.w0 ≠ 2 ∧ Opcode.ofCode (hdrOp { nopPkt with w0 := 0x020000000005000F }.w0) = none
    ∧ hdrCtx nopPkt.w0 ≠ 1 := by decide

/-- A waiting command on tag 5, alone or behind a FENCE of tag 6. -/
def fenced : State := setTag 6 (ent (.fence true)) (on5 { lay .nop with place := 1 })
def blank : State := on5 (lay (.bank .tzero bkOp))
def bankLoad : State := on5 (lay (.bank .tqnt bkOp)) t3
/-- The crossing to island H is full: H has lost its lock. -/
def full : State := on5 (lay (.dfree 7)) { updIsl 9 (fun x => { x with lock := false }) up with crt := { up.crt with cross := [(60, 4)] } }
theorem meets_CommandStarts : (tagOf (on5 (lay .nop)) 5).cmd = some .nop ∧ (tagOf (on5 (lay .nop)) 5).st = .waiting ∧ startsHere .nop = true
    ∧ (on5 (lay .nop)).ctl.unplug = 0 ∧ heldBack (on5 (lay .nop)) 5 = false ∧ heldBack fenced 5 = true ∧ (tagOf fenced 5).st = .waiting
    ∧ heldBack blank 5 = false ∧ dispatchCross (on5 (lay .nop)) .nop = none ∧ dispatchCross (on5 (lay (.dfree 7))) (.dfree 7) = some 60
    ∧ canCross (on5 (lay (.dfree 7))) 60 = true ∧ canCross full 60 = false ∧ dispatchCross full (.dfree 7) = some 60 ∧ running full islC = true
    ∧ heldBack full 5 = false
    ∧ (let s := on5 (lay (.dretire 9))
       heldBack s 5 = false ∧ takesFirst s 15 5 = true ∧ underWay s 15 = true
       ∧ underWay (setTag 6 (ent (.dretire 8) { Job.init with stn := some 15 }) s) 15 = false)
    ∧ (∃ o, judgeCmd blank (tagOf blank 5) (.bank .tqnt bkOp) = .reply o) := by
  refine ⟨by decide, by decide, by decide, by decide, by decide, by decide, by decide, by decide, by decide, by decide, by decide, by decide,
    by decide, by decide, by decide, by decide, _, rfl⟩

/-- Transfers on `sts_` and `ntf_` are out. -/
def sending (x : StsXfer) (own : Word) : State :=
  let s := on5 { TagEntry.free with st := .replying, own := own }
  { s with tly := { s.tly with stsCur := some x, stsQ := [.regData 9] } }
def notifying : State := { up with tly := { up.tly with ntfCur := some 5, ntfQ := [6] } }
theorem meets_DeliveriesReleaseTags : (sending (.reply 5) 0).tly.stsCur = some (.reply 5)
    ∧ hdrNotify (tagOf (sending (.reply 5) 0) 5).own = false ∧ hdrNotify (tagOf (sending (.reply 5) 0x400) 5).own = true
    ∧ (sending (.regData 7) 0).tly.stsCur = some (.regData 7) ∧ notifying.tly.ntfCur = some 5 ∧ up.tly.ntfCur = none ∧ up.tly.ntfQ = [] := by
  decide

/-! Registers, credits and the network endpoint. -/

/-- Island H has lost its lock; source 0 has captured the high half of the cycle counter. -/
def noH : State := updIsl 9 (fun x => { x with lock := false }) up
def caught : State := setCapture .cmd (some (0x9004, 7)) up
theorem meets_RegisterAccessesServed : serving up = true ∧ srcIdle .cmd up = true ∧ srcIdle .noc up = true ∧ srcIdle .svc up = true
    ∧ (let s := { up with ctl := { up.ctl with service := false } }
       awake s = true ∧ s.ctl.service = false ∧ s.tly.cmdHeld = [] ∧ s.tly.svcHeld = [] ∧ s.noc.in1 = [] ∧ 0 < s.noc.i1Out ∧ running s islC = true) ∧ up.tly.cmdHeld = [] ∧ up.tly.stsCur = none ∧ up.tly.stsQ = []
    ∧ up.tly.svcHeld = [] ∧ fld (0x90000005 : Word) 63 32 = 0 ∧ regExists 0x0010 = false ∧ captured .cmd up = none
    ∧ serving noH = true ∧ regDead noH 0x7020 = true ∧ regDead up 0x9000 = false ∧ captured .cmd caught = some (0x9004, 7)
    ∧ 0x9044 ∈ counterOffs ∧ regSwitchedOff up 0x9044 = false ∧ pairHigh (0x9000#16).toNat = some 0x9004 := by decide

/-- Channel 0 with no flit out and its total fixed; channel 1 with none held and an answer that waits. -/
def idle0 : State := { up with noc := { up.noc with o0 := ⟨4, 0, 4, true⟩, o1 := ⟨0, 1, 4, true⟩, answers := [default] } }
def out0 : State := { up with noc := { up.noc with o0 := ⟨3, 1, 4, true⟩, o1 := ⟨3, 1, 4, true⟩ } }
def openWin : State := { up with ctl := { up.ctl with winClosed := false } }
theorem meets_UnusableInputsAndCredits : awake up = true ∧ running up islC = true ∧ running up islA = true ∧ up.tly.cmdHeld = []
    ∧ 0 < up.noc.i0Out ∧ 0 < up.noc.i1Out ∧ up.noc.in0 = []
    ∧ { up with noc := { up.noc with i0Out := 0, i1Out := 0 } }.noc.i0Out = 0 ∧ { up with ctl := { up.ctl with arrRstN := false } }.ctl.arrRstN = false
    ∧ kindOn .c0 (hdrKind 4) = false ∧ kindOn .c1 (hdrKind 4) = false ∧ up.noc.in1 = [] ∧ up.noc.answers = []
    ∧ { up with noc := { up.noc with o0 := ⟨1, 0, 1, false⟩ } }.noc.o0.fixed = false ∧ out0.noc.o0.fixed = true ∧ 0 < out0.noc.o0.fly
    ∧ 0 < out0.noc.o1.fly ∧ idle0.noc.o0.fly = 0 ∧ idle0.noc.answers = [default] ∧ idle0.noc.o1.held = 0 ∧ 0 < idle0.noc.o1.fly
    ∧ up.ctl.arrRstN = true ∧ openWin.ctl.winClosed = false ∧ (stnOf openWin 3).rHeld < 32 ∧ (stnOf openWin 3).oHeld < 4
    ∧ 32 ≤ (stnOf (updStn 3 (fun x => { x with rHeld := 32 }) openWin) 3).rHeld ∧ up.ctl.winClosed = true
    ∧ 0 < (stnOf (updStn 3 (fun x => { x with rHeld := 1, rFly := 1 }) up) 3).rFly ∧ (stnOf up 3).oFly = 0 := by decide

theorem meets_IngressWrites : awake up = true ∧ running up islC = true ∧ running up islH = true ∧ 0 < up.noc.o1.held
    ∧ fld (0x0000000000800050 : Word) 63 38 = 0 ∧ fld (0x0000000000800050 : Word) 22 16 = 0
    ∧ fld (0x0000008000800050 : Word) 63 38 ≠ 0 ∧ fld (0x0000000000010050 : Word) 22 16 ≠ 0 ∧ 0 < up.noc.i1Out ∧ up.noc.in1 = []
    ∧ up.noc.answers = [] ∧ (1 : BitVec 128) ≠ 0 := by decide

/-- TXID 9 is outstanding for a use. -/
def asked (u : TxUse) (c : Chan := .c0) (s : State := up) : State :=
  { s with noc := { s.noc with tx := [(9, some ⟨c, u, 0x1000⟩)] }, rng := { s.rng with lines := [⟨0, 6, 0, 2, none⟩] } }
theorem meets_ResponsesTaken : tget none (asked (.unitFor 5 0 0)).noc.tx (9#12).toNat = some ⟨.c0, .unitFor 5 0 0, 0x1000⟩
    ∧ (TxUse.unitFor 5 0 0).isRead = true ∧ (TxUse.ring 6 0).isRead = true ∧ awake (asked (.store 5 1)) = true
    ∧ (⟨0, 6, 0, 2, none⟩ : RingLine) ∈ (asked (.ring 6 0)).rng.lines
    ∧ tget none (asked (.racc 0 0 64) .c1).noc.tx (9#12).toNat = some ⟨.c1, .racc 0 0 64, 0x1000⟩ ∧ (asked (.racc 0 0 64)).noc.in1 = []
    ∧ tget none up.noc.tx (8#12).toNat = none ∧ up.noc.in0 = [] ∧ 0 < up.noc.i0Out ∧ 0 < up.noc.i1Out ∧ (3#8).toNat < 4 ∧ 4 ≤ (4#8).toNat
    ∧ ((tagOf (asked (.store 5 1)) 5).job.wErr = none) := by decide

/-- A request that waits; a draining bucket of one packet whose page is translated. -/
def req9 : OutReq := ⟨false, 0x1000, 0, 0, .fetch 9⟩
def draining : State :=
  withSlot { slot0 .draining with written := 2, placed := 3, pages := [⟨0, 4096, some 0x8000, 0⟩] }
theorem meets_FlitsSent :
    (let s := { up with noc := { up.noc with outQ := [req9], turn := true } }
     shareTurn s (raccGo s) = some req9.kind ∧ s.noc.answers = [] ∧ s.noc.turn = true)
    ∧ codesFor draining 0 0 = none ∧ draining.hay.waiting = []
    ∧ (let s := { draining with thr := { draining.thr with fetched := some ⟨0, 0, 7, false⟩ } }
       codesFor s 0 0 = some ⟨0, 0, 7, false⟩ ∧ shareTurn s true = some 0 ∧ (bucketOf s 0).nextPkt = some (0, false) ∧ s.noc.answers = [])
    ∧ up.ctl.unplug < 2 ∧ running up islC = true ∧ reqAllowed up req9 = true ∧ 0 < up.noc.o0.held ∧ 0 < up.noc.o1.held
    ∧ tget none up.noc.tx 0 = none ∧ draining.ctl.unplug = 0 ∧ running draining islH = true
    ∧ (∀ k, k < 8 → k ≠ 0 → (bucketOf draining k).st ≠ .draining) ∧ (bucketOf draining 0).st = .draining
    ∧ (bucketOf draining 0).stopped = false ∧ (bucketOf draining 0).nextPkt = some (0, false)
    ∧ (bucketOf draining 0).page ((bucketOf draining 0).va 0) = some ⟨0, 4096, some 0x8000, 0⟩
    ∧ raccOut draining < fld (rget draining 0xB000) 9 0
    ∧ (bucketOf (withSlot { slot0 .draining with retried := [0] }) 0).retried = [0] := by decide

/-- A TVOP at V0 whose operation is out. -/
def atV0 (s : State := t3) : State :=
  on5 (ent (.station .tvop stnOp) { jStn with stage := 1, opSent := true, bad := some 7, snap := [(3, tile4 .valid)] }) s
theorem meets_StationSignalsTaken : awake (atV0) = true ∧ running atV0 islA = true ∧ 0 < (stnOf atV0 3).wHeld
    ∧ atStation atV0 3 5 = some stnOp ∧ (tagOf atV0 5).job.wLast = false ∧ ((opWrites atV0 5 stnOp)[(tagOf atV0 5).job.wIdx]?).isSome = true
    ∧ (∀ w, w < 32 → (eccTest (wordAt (0 : Beat) w) (byteAt (0 : BeatChk) w)).2 = .good)
    ∧ atStation up 3 5 = none ∧ (tagOf atV0 5).job.dn = none ∧ bit (0x80 : Byte) 7 = true ∧ fld (1 : Byte) 6 3 = 0
    ∧ (tagOf atV0 5).ecc = none ∧ (tagOf atV0 5).job.bad = some 7 := by decide

/-! Lanes, ports, banks and the Hayloft. -/

/-- A pass of tag 5 over stationary tile 1, whose front is tile 2 of 32 beats, with `b` of them driven. -/
def pass5 (b : Nat) : Pass := ⟨7, none, 5, true, false, 2, false, none, some 3, 32, b, 1, 0, 2, 0, 3, 0, 0, 16, 0⟩
def inArray (p : Pass) : State := { up with
  arr := { up.arr with passes := [p] }
  tly := { (on5 (ent (.tmma mma) { Job.init with rx := [⟨1, 0, 0⟩, ⟨2, 0, 0⟩], snap := [(1, sTile), (2, wTile), (3, tile4 .valid)] })).tly with accNext := 1 } }
theorem meets_ArrayLanesDriven : running (inArray (pass5 32)) islA = true ∧ (inArray (pass5 32)).arr.passes = [pass5 32] ∧ (pass5 32).isTwf = false
    ∧ (pass5 32).lf ≤ (pass5 32).beats ∧ (inArray (pass5 32)).arr.hold = 0 ∧ (passRow (inArray (pass5 32)) (pass5 32)).isSome = true
    ∧ passRow (inArray { pass5 32 with stile := 2, first := 10 }) { pass5 32 with stile := 2, first := 10 } = none
    ∧ (inArray (pass5 32)).arr.q < 40 ∧ (inArray (pass5 32)).arr.records.length < 16 ∧ (pass5 0).drives = true
    ∧ (pass5 0).beats < (pass5 0).lf ∧ (pass5 0).ptag = some 3 ∧ (frontLanes (inArray (pass5 0)) (pass5 0) (pass5 0).beats).isSome = true := by decide

/-- Two rows of pass tag 3 have launched; `n` values stand in every FIFO. -/
def drainRec : RouteRec := ⟨7, none, 3, 5, 2, 2, 0, 0, 3, 0, 0, 0, 16⟩
def drained (n : Nat) : State := { mats with arr := { up.arr with records := [drainRec], q := 2, fifos := (List.range 32).map fun j => (j, List.replicate n 1) } }
/-- Pass tag 3 on every column. -/
def tags3 : BitVec 132 := 0x333333333333333333333333333333333
theorem meets_DrainLanesCollect : running (drained 0) islA = true ∧ (drained 0).arr.hold = 0
    ∧ (∀ j, j < 32 → bit (-1 : BitVec 33) (physCol (drained 0) j) = true
        ∧ recordAt (drained 0).arr.records (tget [] (drained 0).arr.fifos j).length = some drainRec
        ∧ drainRec.ptag = tags3.extractLsb' (4 * physCol (drained 0) j) 4)
    ∧ recordAt (drained 2).arr.records (tget [] (drained 2).arr.fifos 0).length = none ∧ 0 < (drained 1).arr.q
    ∧ fld (rget (rset 0x400C 100 (drained 1)) 0x400C) 15 0 ≠ 0
    ∧ (drained 1).arr.records.find? (fun r => decide (r.released < r.launched)) = some drainRec
    ∧ drainRec.test = none ∧ ((drained 1).arr.drainQ.filter fun d => d.lbank / 8 == (tileOf (drained 1) drainRec.tile).group).length < 8
    ∧ (∀ j, j < 32 → tget [] (drained 1).arr.fifos j ≠ []) ∧ (groupOf (drained 1) (tileOf (drained 1) 3).group).ready = true := by decide

/-- V0 waits for the read of a beat of tile 3; port 0 is at slot 1. -/
def reads : State := { updStn 3 (fun x => { x with rdQ := [⟨5, 3, 0, false⟩] }) t3 with crt :=
  { (updStn 3 (fun x => { x with rdQ := [⟨5, 3, 0, false⟩] }) t3).crt with slot := 1 } }
theorem meets_PortsGrant : running reads islA = true ∧ reads.crt.slot ≠ 0 ∧ up.crt.slot = 0 ∧ rget reads 0x2060 = 0 ∧ reads.crt.latches = []
    ∧ (∀ k, k < 16 → (stnOf reads k).fly = []) ∧ slotByte reads 0 reads.crt.slot = 64 + 3 ∧ (stnOf reads 3).rdQ = [⟨5, 3, 0, false⟩] ∧ nextBeat reads false 3 = some 1
    ∧ portOut reads 0 1 < 4 := by decide

/-- A write at the first bank of group 1, and a drained row for it. -/
def wrReq : PortReq := ⟨1, false, 0, 8, 4, .write ⟨5, 3, 0, -1, 0, 0⟩ false⟩
def writing : State := { up with crt := { up.crt with reqs := [wrReq] } }
def rowAt8 : DrainRow := ⟨7, 5, 8, 4, 3, 0, 16, 0⟩
def adding : State := { up with arr := { up.arr with drainQ := [rowAt8] } }
/-- Requests of the Tinker at the first bank of group 1. -/
def tinks : List TinkReq := [⟨9, 3, true, .raw 5, 0⟩, ⟨9, 3, false, .raw 5, 0⟩, ⟨9, 3, false, .scrub (some 5), 0⟩]
theorem meets_BankCycleServes : (groupOf writing (9 / 9)).ready = true ∧ running writing (1 + 9 / 9) = true ∧ writing.mil.tinker = []
    ∧ writing.tnk.copying = none ∧ drainAt writing 9 = none ∧ writing.crt.reqs.filter (portAt writing 9 false) = []
    ∧ pickReq (beginBank 9 writing) 1 (portAt writing 9 true) = some wrReq ∧ writing.mil.reqs = []
    ∧ drainAt adding 9 = some 0 ∧ adding.arr.drainQ[0]? = some rowAt8 ∧ adding.crt.reqs = [] ∧ drainAt up 9 = none
    ∧ up.crt.reqs.filter (portAt up 9 true) = []
    ∧ (let s := { up with mil := { up.mil with reqs := [⟨5, 8, true, false⟩] } }
       physOf s 0 8 = 9 ∧ drainAt s 9 = none ∧ s.mil.tinker = [])
    ∧ (∀ q ∈ tinks, let s := { up with mil := { up.mil with tinker := [q] } }
        s.mil.tinker = [q] ∧ q.bank = 9 ∧ s.mil.reqs = [] ∧ drainAt s 9 = none) := by decide

/-- A spill tile 6 at 0x100000; V0 reads it, or writes it. -/
def spills : State := withTile 6 { tile4 .valid with spill := true, hayAddr := 0x100000 } up
def spRead : State := updStn 3 (fun x => { x with rdQ := [⟨5, 6, 0, false⟩] }) spills
def spWrite : State := updStn 3 (fun x => { x with wrQ := [⟨5, 6, 0, 5, 0, 0⟩] }) spills
/-- Waiting Hayloft accesses. -/
def hayAcc (m : Nat) (wr : Bool) (u : HayUse) : HayAcc := ⟨m, 0, none, wr, -1, 0, none, false, u⟩
def hayWaits (l : List HayAcc) : State := { up with hay := { up.hay with waiting := l } }
theorem meets_HayloftAccessesServed : running spRead islH = true ∧ running spRead islA = true
    ∧ spillBusy spRead = false ∧ canCross spRead 56 = true ∧ spillBusy spWrite = false ∧ canCross spWrite 56 = true ∧ (stnOf spWrite 3).wrQ.length = 1
    ∧ rotFind 16 spRead.crt.spillRot (fun n => (spillReady spRead n).isSome) = some 3 ∧ spillReady spRead 3 = some false
    ∧ rotFind 16 spWrite.crt.spillRot (fun n => (spillReady spWrite n).isSome) = some 3 ∧ spillReady spWrite 3 = some true
    ∧ physOpen up 0 = true ∧ accPlace up (hayAcc 0 true (.store 5)) = (0, 0) ∧ (lockOf up 0 false).left = 0 ∧ (lockOf up 0 true).left = 0
    ∧ accPlace up (tinkHay 16 3 false [] (.raw 5)) = (16, 3) ∧ physOpen up 16 = true ∧ (tinkHay 16 3 false [] (.scrub (some 5))).master < 13
    ∧ (hayAcc 10 true (.ingress 1)).retry = false ∧ onPortB 10 = true ∧ (hayWaits [hayAcc 0 true (.store 5)]).hay.waiting = [hayAcc 0 true (.store 5)]
    ∧ (hayWaits [hayAcc 0 false (.unitFor 5 0 0)]).hay.waiting = [hayAcc 0 false (.unitFor 5 0 0)]
    ∧ onPortB 0 = false ∧ onPortB 9 = true ∧ (hayAcc 9 false (.dump 5)).retry = false := by decide

/-! Rings, translation, reset and boot. -/

/-- Ring 6 with two packets, its pair owned by context 9, its doorbell set. -/
def ring6 (n : Nat) (x : BitVec 128) : State :=
  let s := setRow 2 (some ⟨9, x, false⟩) (rset 0x8004 1 up)
  { s with rng := { s.rng with ents := [(6, ⟨true, false, 2, 0, n, 16⟩)], bells := [(6, true)], owners := [(3, 9)],
                               lines := [⟨0, 6, 0, 2, some (BitVec.ofNat 1024 nopPkt.w0.toNat)⟩] } }
theorem meets_SchedulerVisits : let s := ring6 2 (2 ^ 112)
    s.rng.visit = none ∧ s.noc.in1 = [] ∧ hasTurn s 2 = true ∧ hasTurn (heldPkt s) 2 = false ∧ awake s = true ∧ booted s = true ∧ s.ctl.halted = false ∧ running s islC = true ∧ nextRing up = none ∧ nextRing s = some 6
    ∧ (ringOf (ring6 0 0) 6).count = 0 ∧ nextRing (ring6 0 0) = some 6 ∧ (ringOf s 6).count ≠ 0
    ∧ (∃ x, residentEntry (ring6 2 0) (ringOwner (ring6 2 0) 6) = some x ∧ ctxValid x = false)
    ∧ (∃ x, residentEntry s (ringOwner s 6) = some x ∧ ctxSuspend x = false ∧ ctxValid x = true) ∧ ringWeight s 6 = 1
    ∧ bit (rget s 0x8004) 0 = true ∧ ringPacket s 6 (ringOf s 6).head = some nopPkt ∧ canAccept s nopPkt = true := by
  refine ⟨by decide, by decide, by decide, by decide, by decide, by decide, by decide, by decide, by decide, by decide, by decide, by decide, by decide,
    ⟨_, rfl, by decide⟩, ⟨_, rfl, ?_⟩, by decide, by decide, by decide, by decide⟩
  decide

/-- Query 2 of tag 5, sent and acknowledged as said. -/
def queryOf (acked late : Bool) : Query := ⟨.job 5, 0x12345, 0, false, acked, late⟩
def asks (acked late : Bool) : State :=
  { up with asy := { up.asy with queries := [(2, some (queryOf acked late))], sending := if acked then none else some 2 } }
theorem meets_TranslationsAnswered : awake up = true ∧ running up islH = true ∧ (asks false false).asy.sending = some 2
    ∧ tget none (asks false false).asy.queries 2 = some (queryOf false false) ∧ (asks false false).asy.waiting = []
    ∧ tget none (asks true false).asy.queries (2#4).toNat = some (queryOf true false)
    ∧ tget none (asks true true).asy.queries (2#4).toNat = some (queryOf true true)
    ∧ (let q : Query := { queryOf true false with use := .bucket 0 }
       tget none { up with asy := { up.asy with queries := [(2, some q)] } }.asy.queries (2#4).toNat = some q ∧ q.acked = true) ∧ tget none up.asy.queries (3#4).toNat = none := by decide

def off : State := { up with ctl := { up.ctl with powered := false } }
theorem meets_ResetAndPower : up.ctl.powered = true ∧ State.reset.ctl.powered = true ∧ State.reset.ctl.inReset = true ∧ off.ctl.powered = false := by
  decide

/-- The fabric out of reset, before islands leave it; and with good maps sampled. -/
def early : State := { State.reset with ctl := { State.reset.ctl with inReset := false } }
def mapped : State := { up with
  arr := { up.arr with mapSampled := true, mapv := true, rowbyp := 0x300000000, colbyp := 0x100000000 }
  tnk := { up.tnk with skewGo := true } }
theorem meets_BootSteps : awake early = true ∧ (islOf early islC).up = false ∧ early.tnk.dead = 0 ∧ (islOf early 3).lock = true
    ∧ (islOf { early with isl := [(3, { Island.init 3 with lock := false })] } 3).lock = false
    ∧ (let s := { up with ctl := { up.ctl with service := false } }; awake s = true ∧ running s islC = true ∧ s.ctl.service = false
        ∧ s.tly.cmdHeld = [] ∧ s.tly.svcHeld = [] ∧ s.noc.in1 = [])
    ∧ running up islA = true ∧ up.ctl.unplug < 4 ∧ up.ctl.service = true ∧ openWin.ctl.arrRstN = true ∧ openWin.ctl.winClosed = false
    ∧ (Instr.bistDone [(0, 71), (4, 16)]).wf = true ∧ up.tnk.bistDone = false ∧ up.arr.mapSampled = false ∧ booted up = true ∧ true ≠ up.arr.mapv
    ∧ mapped.arr.mapSampled = true ∧ mapped.arr.mapv = true ∧ mapped.tnk.skewGo = true ∧ bit (rget mapped 0x3030) 0 = false
    ∧ ((List.range 34).filter fun i => bit mapped.arr.rowbyp i).length = 2 ∧ ((List.range 33).filter fun i => bit mapped.arr.colbyp i).length = 1
    ∧ (∀ q, q < 34 → afSum mapped q ≤ 3) := by decide

/-! Unplug, security, clocks and power. -/

theorem meets_UnplugSequence : up.ctl.powered = true ∧ up.ctl.inReset = false ∧ up.ctl.unplug = 0
    ∧ (on5 (lay .nop)).tly.tags = [((5 : Tag).toNat, lay .nop)] ∧ (lay .nop).st = .waiting ∧ (lay .nop).cmd.isSome = true ∧ (lay .nop).actedBy = []
    ∧ (atStep 1).ctl.unplug = 1 ∧ (∀ p ∈ (atStep 1).tly.tags, p.2.st = .free) ∧ (∀ p ∈ (atStep 1).noc.tx, p.2 = none)
    ∧ (∃ p ∈ (atStep 1 (on5 (lay .nop))).tly.tags, p.2.st ≠ .free) ∧ (groupOf (atStep 2) 1).st ≠ .off ∧ (groupOf (atStep 2) 1).entering = none
    ∧ (∀ g, g < 8 → groupQuiet (atStep 2) g = true) ∧ groupQuiet (atStep 2 writing) 1 = false
    ∧ (groupOf (atStep 2 (setGroup 1 ⟨.off, some .on, none⟩ up)) 1).entering = some .on
    ∧ (lay (.bkclose 0 true)).cmd = some (.bkclose 0 true) ∧ (on5 (lay (.bkclose 0 true))).tly.tags = [((5 : Tag).toNat, lay (.bkclose 0 true))]
    ∧ zeroHeld (atStep 4) 1 = false ∧ (hbankOf (atStep 4) 1).entering = none ∧ (atStep 3).ctl.unplug = 3
    ∧ (hbankOf (atStep 4 (setHbank 1 ⟨.off, some .on, none⟩ up)) 1).entering = some .on
    ∧ (hbankOf (atStep 4) 1).st ≠ .retention ∧ (atStep 5).ctl.unplug = 5 := by decide

/-- The secure partition covers the last 64 KiB; its zeroisation runs. -/
def secured : State := rset 0x7008 0x1003F up
def zeroing : State := { secured with hay := { secured.hay with zeroing := true } }
/-- Island C does not run. -/
def lostC (s : State) : State := updIsl 10 (fun x => { x with lock := false }) s
def fuses (r b : Bool) : State := { up with tnk := { up.tnk with fuseReady := r, fuseBusy := b } }
theorem meets_SecurityAndFuses : running (lostC up) islC = false ∧ running zeroing islH = true ∧ running (fuses true true) islC = true
    ∧ running secured islC = true ∧ (secRange secured).2 ≠ 0 ∧ (secRange (rset 0x7008 0 up)).2 = 0
    ∧ bankInRange 15 (secRange secured).1 (secRange secured).2 = true ∧ zeroing.hay.zeroing = true
    ∧ (∀ h, h < 16 → (hbankOf zeroing h).ready = true) ∧ (secRange zeroing).1 + (secRange zeroing).2 ≤ 2 ^ 22
    ∧ (secRange zeroing).1 ≤ 0x3F0000 ∧ 0x3F0000 < (secRange zeroing).1 + (secRange zeroing).2
    ∧ (fuses false true).tnk.fuseReady = false ∧ (fuses true true).tnk.fuseBusy = true
    ∧ fld (rget (fuses true true) 0xD018) 7 0 = (fuses true true).pin.fuseAddr.toNat ∧ true ≠ up.ctl.svcPresent := by decide

/-- Every sensor at 101 °C. -/
def hot : BitVec 88 := 0x6565656565656565656565
theorem meets_ClocksFollow : (10 : Nat) < 11 ∧ islActive up 10 = true ∧ (islOf up 10).stretch = 0
    ∧ (islOf (updIsl 10 (fun x => { x with target := some 70 }) up) 10).target = some 70 ∧ running up 10 = true ∧ running up islC = true
    ∧ 100 < signed 8 (hot.extractLsb' (8 * 10) 8).toNat ∧ envMin up 10 < aimed up 10
    ∧ islActive (setGroup 2 ⟨.off, none, none⟩ up) 3 = false
    ∧ tripLevel (updIsl 10 (fun x => { x with stretch := 1 }) up) 10 < (islOf (updIsl 10 (fun x => { x with stretch := 1 }) up) 10).stretch
    ∧ (islOf up 10).stretch ≤ tripLevel up 10 ∧ fld (rget up 0xC104) 7 0 < (0x300#16).toNat - (0x2D0#16).toNat
    ∧ fld (rget up 0xC104) 15 8 < (0x300#16).toNat - (0x280#16).toNat
    ∧ aimed (updIsl 10 (fun x => { x with target := some (envMin up 10) }) up) 10 ≤ envMin (updIsl 10 (fun x => { x with target := some (envMin up 10) }) up) 10
    ∧ signed 8 ((0 : BitVec 88).extractLsb' (8 * 10) 8).toNat ≤ 95 := by decide

def idles (pol : Reg) (s : State := t3) : State := rset 0x0000 pol (rset 0x0004 100 s)
def hres : State := rset 0x7020 (0x40#32) (rset 0x7028 100 up)
theorem meets_PowerStatesFollow : running (idles 0) islC = true ∧ fld (rget (idles 0) 0x0004) 15 0 ≠ 0 ∧ groupQuiet (idles 0) (2#3).toNat = true
    ∧ (groupOf (idles 0) (2#3).toNat).st = .on ∧ (groupOf (idles 0) (2#3).toNat).entering = none
    ∧ groupPol (idles 0) (2#3).toNat = 0 ∧ tileIn (idles 0) (2#3).toNat = false ∧ tileIn (idles 0) (1#3).toNat = true
    ∧ groupPol (idles 0x20) (2#3).toNat = 2 ∧ groupPol (idles 0x10) (2#3).toNat = 1
    ∧ (groupOf (setGroup 2 ⟨.on, some .retention, some .on⟩ up) (2#3).toNat).entering = some .retention
    ∧ tget false { up with mil := { up.mil with reseed := [(2, true)] } }.mil.reseed (2#3).toNat = true
    ∧ fld (rget hres 0x7028) 15 0 ≠ 0 ∧ hres.ctl.unplug < 5 ∧ (hbankOf hres (3#4).toNat).ready = true ∧ zeroHeld hres (3#4).toNat = false
    ∧ setState hres (3#4).toNat ≠ .on ∧ lockedBank hres (3#4).toNat = false ∧ waitingAt hres (3#4).toNat = 0 ∧ running hres islH = true
    ∧ 5 ≤ (atStep 5).ctl.unplug ∧ (hbankOf (atStep 5) (3#4).toNat).ready = true ∧ zeroHeld (atStep 5) (3#4).toNat = false
    ∧ (hbankOf (setHbank 3 ⟨.off, some .on, none⟩ up) (3#4).toNat).entering = some .on
    ∧ (hbankOf (setHbank 3 ⟨.off, some .on, none⟩ up) (3#4).toNat).after = none
    ∧ (hbankOf (setHbank 3 ⟨.on, some .off, none⟩ up) (3#4).toNat).entering = some .off
    ∧ waitingAt (setHbank 3 ⟨.on, some .off, none⟩ up) (3#4).toNat = 0
    ∧ (hbankOf (setHbank 3 ⟨.on, some .retention, some .on⟩ up) (3#4).toNat).after = some .on ∧ running noH islH = false := by decide

def scrubs : State := rset 0xD000 100 up
def trig : State := { mayRet with tnk := { mayRet.tnk with trigs := [(9, some 5)] } }
def copied (by_ : Option Tag) : State := { up with tnk := { up.tnk with copying := some ⟨9, 8, 17, 64, none, by_⟩ } }
theorem meets_ReliabilitySteps : running scrubs islC = true ∧ fld (rget scrubs 0xD000) 15 0 ≠ 0 ∧ scrubs.tnk.scrubH / 4096 = 0 ∧ wordOpen scrubs 0 = true
    ∧ fld (rget (rset 0xD000 0 up) 0xD000) 15 0 = 0 ∧ trig.tnk.copying = none ∧ trig.tnk.trigs = [(9, some 5)] ∧ servedBank trig 9 = some 8
    ∧ mayRetire trig (9 / 9) = true ∧ (groupOf trig (9 / 9)).ready = true ∧ canTink trig 9 = true
    ∧ scrubs.hay.waiting = [] ∧ scrubs.tnk.scrubS / 576 = 0 ∧ scrubbable scrubs 0 = true ∧ canTink scrubs 0 = true ∧ scrubs.mil.tinker = []
    ∧ (let s := { up with tnk := { up.tnk with trigs := [(9, some 5)] } }
       mayRetire s (9 / 9) = false ∧ servedBank s 9 = some 8)
    ∧ (copied none).tnk.copying = some ⟨9, 8, 17, 64, none, none⟩ ∧ retirers (copied none) ⟨9, 8, 17, 64, none, none⟩ = []
    ∧ retirers (copied (some 5)) ⟨9, 8, 17, 64, none, some 5⟩ = [5] := by decide

/-! Writes that act. -/

/-- A staged window of 4096 bytes, and one that passes the end of the address space. -/
def staged (hi : Reg) : State := rset 0x6018 0x1000 (rset 0x601C hi (rset 0x6020 0x1000 up))
def rec7 (st : RecSt) : State := setRec 7 ⟨st, 2, TagEntry.free⟩ up
theorem meets_ActingWritesApply : serving up = true
    ∧ (∀ off ∈ [0x2060, 0x6010, 0x6028, 0x1004, 0x8000, 0x9018, 0xC000, 0xC028, 0xC080, 0x0000, 0x7020],
        regDead up off = false ∧ regSwitchedOff up off = false)
    ∧ (windowOf up 3).base < 2 ^ 64 ∧ (windowOf up 3).size < 2 ^ 64 ∧ bit (1 : Reg) 0 = true
    ∧ (stagedWindow (staged 0)).base + (stagedWindow (staged 0)).size ≤ 2 ^ 22
    ∧ (groupOf up 1).ready = true ∧ (groupOf asleep 1).ready = false
    ∧ (ringOf (ring6 2 0) 6).count ≤ (ringOf (ring6 2 0) 6).countTo 3 ∧ (ringOf (ring6 2 0) 6).countTo 3 ≤ (ringOf (ring6 2 0) 6).size
    ∧ (ringOf (ring6 2 0) 6).countTo 1 < (ringOf (ring6 2 0) 6).count ∧ (ringOf (ring6 2 0) 6).size < (ringOf (ring6 2 0) 6).countTo 9
    ∧ (recOf (rec7 .held) 7).gen = fld (0x207 : Reg) 11 8 ∧ (recOf (rec7 .held) 7).st = .held ∧ (recOf (rec7 .held) 7).gen ≠ fld (0x307 : Reg) 11 8
    ∧ (recOf (rec7 .claimed) 7).st = .claimed
    ∧ envMin up 10 ≤ fset up 10 ∧ fset up 10 ≤ envMax up 10 ∧ fld (BitVec.ofNat 32 (fset up 10)) 7 0 = fset up 10 ∧ (islOf up 10).throt = false
    ∧ fld (0 : Reg) 7 0 < envMin up 10 ∧ lockedDown (rset 0xE004 3 up) = true ∧ lockedDown up = false
    ∧ (freqRange 10).1 ≤ (freqRange 10).2 ∧ up.ctl.unplug < 3 ∧ up.hay.zeroing = false := by decide
theorem meets_ActingWritesApply_beyond :
    let s := rset 0x6018 0xFFFFF000 (rset 0x601C 0xFFFFFFFF (rset 0x6020 0x2000 up))
    2 ^ 64 < (stagedWindow s).base + (stagedWindow s).size := by decide

theorem meets_TinkerWritesApply : let good := { rset 0x3030 0xF up with tnk := { up.tnk with bistDone := true } }
    let pre := { rset 0xE004 0 (rset 0xD010 8 up) with pin := up.pin }
    serving up = true ∧ bit (rget (rset 0xD080 0x80000001 up) 0xD080) 0 = true ∧ bit (rget (rset 0xD080 0x80000001 up) 0xD080) 31 = true
    ∧ up.tnk.trace.length < 1024 ∧ (fuses true false).tnk.fuseBusy = false ∧ (fuses true false).tnk.fuseReady = true
    ∧ up.tnk.fuseReady = false ∧ good.tnk.bistDone = true ∧ bit (rget good 0x3030) 0 = true ∧ mapBad good = false ∧ serving good = true
    ∧ bit (2 : Reg) 0 = false ∧ bit (2 : Reg) 1 = true ∧ up.tnk.bistDone = false
    ∧ lockedDown (rset 0xE004 3 up) = true ∧ serving (rset 0xE004 3 up) = true ∧ lockedDown up = false ∧ booted up = true
    ∧ booted pre = false ∧ serving pre = true ∧ rmSelected pre = some (0, 8) ∧ physOk 0 8 (fld (17 : Reg) 15 0) = true
    ∧ fld (17 : Reg) 15 0 ∉ pre.tnk.retired := by decide

/-! ### Ill-formed commands are refused -/

theorem test_bank_beyond_fabric : (Instr.bankCycleGrant 72 false false).wf = false ∧ exec (.bankCycleGrant 72 false false) up = .fault .noSuchUnit :=
  ⟨rfl, rfl⟩
theorem test_island_beyond_fabric : (Instr.droopTrip 11 ⟨0, 0, 0⟩).wf = false ∧ (Instr.stretchStepBack 11).wf = false
    ∧ (Instr.frequencyChangeDone 11).wf = false ∧ (Instr.generatorLockLoss 11).wf = false ∧ (Instr.lmpFsetWrite .cmd 11 0).wf = false
    ∧ (Instr.lmpEnvWrite .cmd 11 0).wf = false := by decide
theorem test_island_beyond_fabric_faults : exec (.droopTrip 11 ⟨0, 0, 0⟩) up = .fault .noSuchUnit ∧ exec (.lmpEnvWrite .cmd 11 0) up = .fault .noSuchUnit :=
  ⟨rfl, rfl⟩
theorem test_lane_beyond_fabric : (Instr.skewSelfTest 2 true).wf = false ∧ exec (.skewSelfTest 32 false) up = .fault .noSuchUnit := ⟨rfl, rfl⟩
theorem test_failing_unit_beyond_fabric : (Instr.bistDone [(4, 17)]).wf = false ∧ (Instr.bistDone [(8, 0)]).wf = false
    ∧ exec (.bistDone [(4, 17)]) up = .fault .noSuchUnit := ⟨by decide, by decide, rfl⟩

/-! ### Worked examples of the spec -/

/-- "one packet and two replies": the TMMA of tag 103. -/
def pkt103 : Packet := { Packet.zero with w0 := 0x02000C2C1C670021, w1 := 0x0000004000009504 }
theorem test_tmma_packet : decodePacket none pkt103 = .inr (.tmma ⟨4, 20, 9, 0, 64, 0, 0, false, false, 0, false⟩)
    ∧ hdrStream pkt103.w0 = 3 ∧ hdrCtx pkt103.w0 = 0x0B07 ∧ hdrTag pkt103.w0 = 103 := by decide
/-- The same packet with bit 25 of the header set. -/
theorem test_reserved_header_bit : decodePacket none { pkt103 with w0 := pkt103.w0 ||| 0x2000000 } = .inl (outc .reservedField 0x00C8 0) := by decide
theorem test_reserved_reply : replyW0 0x0B07 0x21 103 (outc .reservedField 0x00C8 0) = 0x0B0700C821720067 := by decide
theorem test_tzero_reply : replyW0 0x0B07 0x36 101 (outc .ok 0 64) = 0x0B07000036000065 := by decide
/-- "audit readings mid-step": the reply of the other core. -/
theorem test_audit_reply : replyW0 0x0B07 0x73 509 (auditReply [⟨71, 0, 0, false, 8, 7, 8⟩]) = 0x0B074701737F01FD := by decide
/-- "the entries of one multi-tenant step". -/
def cfgPkt (w1 w2 : Word) : Packet := { Packet.zero with w0 := 0x0200000000010001, w1 := w1, w2 := w2 }
theorem test_tile_entry : tcfgEnt false (cfgPkt 0x000B08013F080829 0) 1 = .tile ⟨10, false, false, 2, 8, 64, 32, .mxE4m3, 11⟩ := by decide
theorem test_segment_entries : tcfgEnt false (cfgPkt 0x00140A3100140002 0x00152C07001C1406) 1 = .seg 0 ⟨0, 20, 0x0A31, 20, false⟩
    ∧ tcfgEnt false (cfgPkt 0x00140A3100140002 0x00152C07001C1406) 2 = .seg 1 ⟨20, 28, 0x2C07, 21, false⟩ := by decide
/-- "placements in three groups": T9 row 37, T10 row 37, T13 row 95 and the first segment of T40 row 3. -/
theorem test_placements : segPlace up 9 { tile4 .valid with group := 2 } 37 = (24, 4)
    ∧ segPlace up 10 { tile4 .valid with group := 2, base := 8 } 9 = (21, 9) ∧ segPlace up 13 { tile4 .valid with group := 4, base := 20 } 35 = (36, 24)
    ∧ segPlace up 40 { tile4 .valid with group := 5, base := 32 } 48 = (45, 38) := by decide
/-- "three masters on one word": 0x210440 is word 260 of logical bank 9. -/
theorem test_hayloft_word : hayBank 0x210440 = 9 ∧ hayWord 0x210440 = 260 := by decide
/-- "two bypassed rows": physical rows 7 and 20 bypassed, base trims of 1 on lanes 6, 19 and 33. -/
def bypassed : State := { rset 0x3000 0x1000 (rset 0x3004 0x40 (rset 0x3008 4 up)) with arr := { up.arr with rowbyp := put 1 7 ||| put 1 20 } }
theorem test_bypassed_rows : [0, 6, 7, 18, 19, 31].map (physRow bypassed) = [0, 6, 8, 19, 21, 33]
    ∧ [0, 6, 8, 19, 21, 33, 7, 20].map (afSum bypassed) = [0, 1, 1, 2, 2, 3, 0, 1] ∧ scaleLane bypassed 0 = 7 ∧ scaleLane bypassed 1 = 20 := by decide
/-- "one shard of a blocked weight": the descriptor of handle 0x2A7, its footprint, and the line of local row 848. -/
def tansy : BitVec 512 :=
  put 0x004012000000 0 ||| put 0x000DD503 96 ||| put 0xA00 128 ||| put 0x0000014000001B80 192 ||| put 0x00050071 384
theorem test_descriptor : (Desc.ofImage tansy).footprint = [(0x004012000000, 0x004012000000 + 2293760 - 1)] ∧ imgCheck tansy = none
    ∧ (Desc.ofImage tansy).d1.loc 5248 = some 848 ∧ (Desc.ofImage tansy).d1.loc 5280 = none ∧ (Desc.ofImage tansy).d1.clamp 5280 = some 879
    ∧ (Desc.ofImage tansy).byteAddr 848 0 0 384 = 0x004012000000 + 2144256 := by decide
/-- "one MXFP8 block of a gradient tile", rounded to nearest: elements 3, 5, 9, 14 and 22. -/
theorem test_mxfp8_block :
    quantRow .mxE4m3 0 (fun _ => .nearest) ([0x3EF00000, 0x7FC00000, 0x3EBE6000, 0xBAF80000, 0x36500000] ++ List.replicate 27 0)
      |>.1.take 5 = [0x7E, 0x7F, 0x7C, 0xC0, 0x02] := by decide
/-- "giving SF its own slots on read port 2": the shadow, the commit, and the wheel after slot 0. -/
def wheel2 : State := rset 0x2060 4 ((List.range 4).foldl (fun s q => rset (0x2020 + 4 * q) 0x00450045 s) up)
theorem test_wheel_commit : (List.range 16).map (slotByte (commitWheels wheel2) 2) = (List.replicate 8 [0x45, 0]).flatten
    ∧ rget (commitWheels wheel2) 0x2060 = 0 := by decide
/-- "retiring B39": TNK_SHADOW4 reads VALID 1, OLD 39, POS 3. -/
def retired39 : State := { up with tnk := { up.tnk with copying := some ⟨39, 35, 44, 64, none, none⟩ } }
theorem test_retirement : ∃ t, exec .retirementSwitch retired39 = .next t ∧ tget 0 t.tnk.shadow 4 = 0x80000327#32 ∧ physOf t 0 35 = 44 ∧ t.tnk.used = 1 :=
  ⟨_, rfl, by decide⟩

end Sys2Proof.Tests
end

section
/-! SUPPORT. Proofs about TQRY and TREL (R98, R107, R108): the fields of a TQRY's reply, and what releasing the tiles of a mask does. -/

namespace Sys2Proof.Proofs

open Sys2Proof.Machine Sys2Proof.Laws

/-! ### Fields of a packed number -/

/-- A field of a number packed into `n` bits, the field within the `n` bits. -/
theorem fld_ofNat {n hi lo : Nat} (x : Nat) (hl : lo ≤ hi) (hn : hi < n) :
    fld (BitVec.ofNat n x) hi lo = x / 2 ^ lo % 2 ^ (hi - lo + 1) := by
  refine Nat.eq_of_testBit_eq fun i => ?_
  by_cases hi' : i < hi - lo + 1
  · have : lo + i < n := by omega
    simp [fld, hi', this, Nat.testBit_div_two_pow, Nat.add_comm i lo]
  · simp [fld, hi']

/-- A bit of a number packed into `n` bits. -/
theorem bit_ofNat {n i : Nat} (x : Nat) (hn : i < n) : bit (BitVec.ofNat n x) i = decide (x / 2 ^ i % 2 = 1) := by
  simp only [bit, BitVec.getLsbD_ofNat, Nat.testBit_eq_decide_div_mod_eq, hn, decide_true, Bool.true_and]

theorem b2n_lt_two (b : Bool) : b2n b < 2 := by cases b <;> decide

@[simp] theorem decide_b2n_eq_one (b : Bool) : decide (b2n b = 1) = b := by cases b <;> rfl

theorem etype_code_lt (t : EType) : t.code < 16 := by cases t <;> decide

theorem tileSt_code_lt (t : TileSt) : t.code < 4 := by cases t <;> simp [TileSt.code]

/-! ### TQRY -/

/-- The valid row count of a tile that is PARTIAL; 0 in any other state (R98). -/
def rowsValid : TileSt → Nat
  | .partialTo k => k
  | _ => 0

/-- The detail of a TQRY's reply about a configured tile (R98). -/
def tqryDetail (x : Tile) : Nat :=
  x.st.code + 4 * b2n x.spill + 8 * b2n x.ty.isMx + 16 * (rowsValid x.st % 256) + 4096 * x.ty.code

/-- The count of a TQRY's reply about a configured tile (R98). -/
def tqryCount (x : Tile) : Nat :=
  (x.rows - 1) % 256 + 256 * ((x.rowBytes / 16 - 1) % 128) + 2 ^ 15 * (if x.spill then 0 else x.group % 8) + 2 ^ 18 * (x.base % 256)
    + 2 ^ 26 * x.pair

theorem tqryReply_unconfigured {x : Tile} (h : x.st = .unconfigured) : tqryReply x = outc .ok 0 0 := by
  simp [tqryReply, Tile.configured, h]

theorem tqryReply_configured {x : Tile} (h : x.st ≠ .unconfigured) : tqryReply x = outc .ok (tqryDetail x) (tqryCount x) := by
  simp only [tqryReply, Tile.configured, h, ne_eq, not_false_eq_true, decide_true, Bool.not_true, Bool.false_eq_true, if_false]
  rfl

theorem tqryReply_status (x : Tile) : (tqryReply x).status = .ok := by
  by_cases h : x.st = .unconfigured
  · rw [tqryReply_unconfigured h]; rfl
  · rw [tqryReply_configured h]; rfl

/-- The fields of the detail of a TQRY's reply, each read back from its place. -/
theorem tqryDetail_fields (x : Tile) : let d := BitVec.ofNat 16 (tqryDetail x)
    fld d 1 0 = x.st.code ∧ bit d 2 = x.spill ∧ bit d 3 = x.ty.isMx ∧ fld d 11 4 = rowsValid x.st % 256 ∧ fld d 15 12 = x.ty.code := by
  have hst := tileSt_code_lt x.st
  have hsp := b2n_lt_two x.spill
  have hmx := b2n_lt_two x.ty.isMx
  have hty := etype_code_lt x.ty
  have sp : tqryDetail x / 4 % 2 = b2n x.spill := by unfold tqryDetail; omega
  have mx : tqryDetail x / 8 % 2 = b2n x.ty.isMx := by unfold tqryDetail; omega
  refine ⟨?_, ?_, ?_, ?_, ?_⟩
  · rw [fld_ofNat _ (by decide) (by decide)]; unfold tqryDetail; omega
  · rw [bit_ofNat _ (by decide)]; simp [sp]
  · rw [bit_ofNat _ (by decide)]; simp [mx]
  · rw [fld_ofNat _ (by decide) (by decide)]; unfold tqryDetail; omega
  · rw [fld_ofNat _ (by decide) (by decide)]; unfold tqryDetail; omega

/-- The fields of the count of a TQRY's reply, each read back from its place. -/
theorem tqryCount_fields (x : Tile) : let c := BitVec.ofNat 32 (tqryCount x)
    fld c 7 0 = (x.rows - 1) % 256 ∧ fld c 14 8 = (x.rowBytes / 16 - 1) % 128
    ∧ fld c 17 15 = (if x.spill = true then 0 else x.group % 8) ∧ fld c 25 18 = x.base % 256 ∧ fld c 31 26 = x.pair % 64 := by
  have hg : (if x.spill = true then 0 else x.group % 8) < 8 := by split <;> omega
  refine ⟨?_, ?_, ?_, ?_, ?_⟩ <;> rw [fld_ofNat _ (by decide) (by decide)] <;> unfold tqryCount <;> omega

theorem exec_tqry {s : State} {tag : Tag} {e : TagEntry} {n : Nat} (hs : started s tag .tqry = some e) (hc : e.cmd = some (.tqry n)) :
    exec (.tqry tag) s = .next (finish tag (tqryReply (tileOf s n)) s) := by
  change execTqry tag s = _
  simp only [execTqry, hs, hc]

/-- Settles O9: the reply is `tqryReply` of the tile's register, whose fields lie where R98 puts them. -/
theorem tqryReports : Obligations.TqryReports := by
  intro s tag e n hs hc
  refine ⟨_, tqryReply (tileOf s n), exec_tqry hs hc, finish_completed _ _ _, tqryReply_status _, fun h => ?_, fun h => ?_⟩
  · rw [tqryReply_unconfigured h]
    exact ⟨rfl, rfl⟩
  · rw [tqryReply_configured h]
    obtain ⟨hst, hsp, hmx, hk, hty⟩ := tqryDetail_fields (tileOf s n)
    refine ⟨hst.trans ?_, hsp, hmx, hk.trans ?_, hty, tqryCount_fields (tileOf s n)⟩ <;> cases (tileOf s n).st <;> rfl

/-! ### TREL -/

theorem mem_maskTiles {m : Word} {n : Nat} : n ∈ maskTiles m ↔ n < 64 ∧ bit m n = true := by
  simp [maskTiles]

/-- Releasing the tiles of `m` takes scale tile `n` away from value tile `v`, which stays configured (R107). -/
def Orphans (s : State) (m : Word) (n v : Nat) : Prop :=
  n < 64 ∧ v < 64 ∧ bit m n = true ∧ bit m v = false ∧ (tileOf s n).st ≠ .unconfigured
    ∧ (tileOf s v).st ≠ .unconfigured ∧ (tileOf s v).ty.isMx = true ∧ (tileOf s v).pair = n

/-- The test by which TREL finds such a scale tile. -/
def orphansSome (s : State) (m : Word) (n : Nat) : Bool :=
  (tileOf s n).configured && (List.range 64).any fun v =>
    !bit m v && (tileOf s v).configured && (tileOf s v).ty.isMx && (tileOf s v).pair == n

theorem orphansSome_iff {s : State} {m : Word} {n : Nat} (hn : n ∈ maskTiles m) : orphansSome s m n = true ↔ ∃ v, Orphans s m n v := by
  obtain ⟨hlt, hbit⟩ := mem_maskTiles.1 hn
  simp only [orphansSome, Orphans, Tile.configured, Bool.and_eq_true, List.any_eq_true, List.mem_range, Bool.not_eq_true',
    decide_eq_true_eq, beq_iff_eq]
  constructor
  · rintro ⟨hc, v, hv, ⟨⟨hm, hcv⟩, hx⟩, hp⟩
    exact ⟨v, hlt, hv, hbit, hm, hc, hcv, hx, hp⟩
  · rintro ⟨v, -, hv, -, hm, hc, hcv, hx, hp⟩
    exact ⟨hc, v, hv, ⟨⟨hm, hcv⟩, hx⟩, hp⟩

theorem orphans_of_find {s : State} {m : Word} {n : Nat} (h : (maskTiles m).find? (orphansSome s m) = some n) : ∃ v, Orphans s m n v :=
  (orphansSome_iff (List.mem_of_find?_eq_some h)).1 (List.find?_some h)

theorem find_orphan_none_iff {s : State} {m : Word} :
    (maskTiles m).find? (orphansSome s m) = none ↔ ∀ n v, ¬ Orphans s m n v := by
  rw [List.find?_eq_none]
  constructor
  · intro h n v ho
    obtain ⟨hlt, -, hbit, -⟩ := id ho
    have hn : n ∈ maskTiles m := mem_maskTiles.2 ⟨hlt, hbit⟩
    exact h n hn ((orphansSome_iff hn).2 ⟨v, ho⟩)
  · intro h n hn ho
    obtain ⟨v, hv⟩ := (orphansSome_iff hn).1 ho
    exact h n v hv

/-- Release the listed tiles: each becomes UNCONFIGURED, and the references of stopped commands that use it are cancelled (R107, R108). -/
def releaseTiles (ts : List Nat) (s : State) : State := ts.foldl (fun s t => cancelTile t (setTile t Tile.none s)) s

theorem releaseTiles_cons (t : Nat) (ts : List Nat) (s : State) :
    releaseTiles (t :: ts) s = releaseTiles ts (cancelTile t (setTile t Tile.none s)) := rfl

@[simp] theorem tileOf_cancelTile (t k : Nat) (s : State) : tileOf (cancelTile t s) k = tileOf s k := rfl

theorem tileOf_releaseTiles (ts : List Nat) (n : Nat) (s : State) :
    tileOf (releaseTiles ts s) n = if n ∈ ts then Tile.none else tileOf s n := by
  induction ts generalizing s with
  | nil => rfl
  | cons t ts ih =>
    rw [releaseTiles_cons, ih, tileOf_cancelTile]
    by_cases h : n = t
    · subst h; simp
    · simp [h, tileOf_setTile_ne h]

/-- Releasing tiles changes tile registers, resume records and the bounce area's record alone. -/
theorem releaseTiles_frame (ts : List Nat) (s : State) : releaseTiles ts s = { s with
    shf := { s.shf with tiles := (releaseTiles ts s).shf.tiles }
    tly := { s.tly with recs := (releaseTiles ts s).tly.recs, bounceRec := (releaseTiles ts s).tly.bounceRec } } := by
  induction ts generalizing s with
  | nil => rfl
  | cons t ts ih =>
    rw [releaseTiles_cons]
    exact ih _

theorem length_configured_maskTiles (s : State) (m : Word) : ((maskTiles m).filter fun t => (tileOf s t).configured).length
    = (List.range 64).countP fun n => bit m n && decide ((tileOf s n).st ≠ .unconfigured) := by
  rw [← List.countP_eq_length_filter, maskTiles, List.countP_filter]
  exact List.countP_congr fun n _ => by rw [Bool.and_comm]; rfl

section
variable {s : State} {tag : Tag} {e : TagEntry} {m : Word} (hs : started s tag .trel = some e) (hc : e.cmd = some (.trel m))
include hs hc

theorem exec_trel_of_orphan {n : Nat} (h : (maskTiles m).find? (orphansSome s m) = some n) :
    exec (.trel tag) s = .next (finish tag (outc .cfgInconsistent (0x700 + n) 0) s) := by
  unfold orphansSome at h
  change execTrel tag s = _
  simp only [execTrel, hs, hc, h]

theorem exec_trel_of_no_orphan (h : (maskTiles m).find? (orphansSome s m) = none) :
    exec (.trel tag) s = .next (finish tag (outc .ok 0 ((maskTiles m).filter fun t => (tileOf s t).configured).length)
      (releaseTiles (maskTiles m) s)) := by
  unfold orphansSome at h
  change execTrel tag s = _
  simp only [execTrel, hs, hc, h, releaseTiles]

end

/-- Settles O10: TREL's search for an orphan decides the two cases; without one, each tile of the mask is released in turn. -/
theorem trelReleases : Obligations.TrelReleases := by
  intro s tag e m hs hc orphans
  constructor
  · intro hno
    have hfind := find_orphan_none_iff.2 hno
    refine ⟨releaseTiles (maskTiles m) s, _, exec_trel_of_no_orphan hs hc hfind, ?_, fun n => ?_, releaseTiles_frame _ _⟩
    · rw [length_configured_maskTiles]
      exact finish_completed _ _ _
    · simp only [tileOf_releaseTiles, mem_maskTiles]
  · rintro ⟨n, v, ho⟩
    cases hfind : (maskTiles m).find? (orphansSome s m) with
    | none => exact absurd ho (find_orphan_none_iff.1 hfind n v)
    | some k =>
      obtain ⟨w, hw⟩ := orphans_of_find hfind
      exact ⟨k, w, _, hw, exec_trel_of_orphan hs hc hfind, finish_completed _ _ _⟩

end Sys2Proof.Proofs
end

section
/-! SUPPORT. Proofs about TZERO (R197): the bytes that a write of zeros to a range of a tile changes, for every state; and that rows beyond
the end of the tile are not written. -/

namespace Sys2Proof.Proofs

open Sys2Proof.Machine Sys2Proof.Laws

/-! ### Words of zeros in storage -/

/-- A list of zeros written from `a` upwards: its bytes read zero, the others as before. -/
theorem read_writeList_zeros (m : Memory) (a n c : Nat) :
    (m.writeList a (List.replicate n 0)).read c = if a ≤ c ∧ c < a + n then 0 else m.read c := by
  induction n generalizing m a with
  | zero => simp [Memory.writeList]
  | succ n ih =>
    rw [List.replicate_succ, Memory.writeList, ih]
    rcases Nat.lt_trichotomy c a with hc | rfl | hc
    · rw [read_write_ne m 0 (by omega), if_neg (by omega), if_neg (by omega)]
    · rw [read_write_self, ite_self, if_pos (by omega)]
    · rw [read_write_ne m 0 (by omega)]
      exact if_congr (by omega) rfl rfl

theorem read_write64_zero (m : Memory) (a c : Nat) : (m.write64 a 0).read c = if a ≤ c ∧ c < a + 8 then 0 else m.read c :=
  read_writeList_zeros m a 8 c

/-- Byte `a` of storage lies in word `w` of an entry of a bank. -/
def InWord (bank entry w a : Nat) : Prop := shfAddr bank entry (8 * w) ≤ a ∧ a < shfAddr bank entry (8 * w) + 8

theorem read_shfPut1_zero_of_inWord {bank entry w a : Nat} (c : Byte) (s : State) (h : InWord bank entry w a) :
    Memory.read (shfPut1 bank entry w 0 c s).shf.mem a = 0 :=
  (read_write64_zero _ _ _).trans (if_pos h)

theorem read_shfPut1_of_not_inWord {bank entry w a : Nat} (c : Byte) (s : State) (h : ¬ InWord bank entry w a) :
    Memory.read (shfPut1 bank entry w 0 c s).shf.mem a = Memory.read s.shf.mem a :=
  (read_write64_zero _ _ _).trans (if_neg h)

/-- A word of zeros makes no zero byte another. -/
theorem read_shfPut1_zero_of_zero {bank entry w a : Nat} (c : Byte) {s : State} (h : Memory.read s.shf.mem a = 0) :
    Memory.read (shfPut1 bank entry w 0 c s).shf.mem a = 0 := by
  by_cases hw : InWord bank entry w a
  · exact read_shfPut1_zero_of_inWord c s hw
  · exact (read_shfPut1_of_not_inWord c s hw).trans h

/-- What a store to the Sheaf can do: it writes the word to its bank, and while a copy of that bank runs puts it into what the copy will
write, or writes it to the spare as well (R366). -/
theorem shfPut_cases (bank entry w : Nat) (d : Word) (c : Byte) (s : State) :
    shfPut bank entry w d c s = shfPut1 bank entry w d c s
    ∨ ∃ r, s.tnk.copying = some r ∧
      (shfPut bank entry w d c s = { shfPut1 bank entry w d c s with tnk := { s.tnk with copying := some (r.put w d c) } }
        ∨ shfPut bank entry w d c s = shfPut1 r.spare entry w d c (shfPut1 bank entry w d c s)) := by
  have hcopy : (shfPut1 bank entry w d c s).tnk.copying = s.tnk.copying := rfl
  unfold shfPut
  simp only [hcopy]
  cases s.tnk.copying with
  | none => exact .inl rfl
  | some r =>
    dsimp only
    split
    · exact .inl rfl
    · split
      · exact .inr ⟨r, rfl, .inl rfl⟩
      · exact .inr ⟨r, rfl, .inr rfl⟩

theorem shfPut_of_not_copying {s : State} (h : s.tnk.copying = none) (bank entry w : Nat) (d : Word) (c : Byte) :
    shfPut bank entry w d c s = shfPut1 bank entry w d c s := by
  rcases shfPut_cases bank entry w d c s with heq | ⟨r, hr, -⟩
  · exact heq
  · rw [h] at hr
    cases hr

theorem read_shfPut_zero_of_inWord {bank entry w a : Nat} (c : Byte) (s : State) (h : InWord bank entry w a) :
    Memory.read (shfPut bank entry w 0 c s).shf.mem a = 0 := by
  have h1 := read_shfPut1_zero_of_inWord c s h
  rcases shfPut_cases bank entry w 0 c s with heq | ⟨r, -, heq | heq⟩ <;> rw [heq]
  · exact h1
  · exact h1
  · exact read_shfPut1_zero_of_zero c h1

theorem read_shfPut_zero_of_zero {bank entry w a : Nat} (c : Byte) {s : State} (h : Memory.read s.shf.mem a = 0) :
    Memory.read (shfPut bank entry w 0 c s).shf.mem a = 0 := by
  have h1 : Memory.read (shfPut1 bank entry w 0 c s).shf.mem a = 0 := read_shfPut1_zero_of_zero c h
  rcases shfPut_cases bank entry w 0 c s with heq | ⟨r, -, heq | heq⟩ <;> rw [heq]
  · exact h1
  · exact h1
  · exact read_shfPut1_zero_of_zero c h1

/-- What a store to the Sheaf leaves as it was: tile registers, the repair map, the Hayloft, and whether a copy runs. -/
structure PutKeeps (s u : State) : Prop where
  tiles : u.shf.tiles = s.shf.tiles
  map : u.tnk.map = s.tnk.map
  hay : u.hay = s.hay
  copying : s.tnk.copying = none → u.tnk.copying = none

theorem PutKeeps.refl (s : State) : PutKeeps s s := ⟨rfl, rfl, rfl, id⟩

theorem PutKeeps.trans {s u v : State} (h : PutKeeps s u) (h' : PutKeeps u v) : PutKeeps s v :=
  ⟨h'.tiles.trans h.tiles, h'.map.trans h.map, h'.hay.trans h.hay, fun hc => h'.copying (h.copying hc)⟩

theorem shfPut_keeps (bank entry w : Nat) (d : Word) (c : Byte) (s : State) : PutKeeps s (shfPut bank entry w d c s) := by
  rcases shfPut_cases bank entry w d c s with heq | ⟨r, hr, heq | heq⟩ <;> rw [heq]
  · exact ⟨rfl, rfl, rfl, id⟩
  · exact ⟨rfl, rfl, rfl, fun hc => by rw [hr] at hc; cases hc⟩
  · exact ⟨rfl, rfl, rfl, id⟩

theorem PutKeeps.tileOf_eq {s u : State} (h : PutKeeps s u) (n : Nat) : tileOf u n = tileOf s n := by
  rw [tileOf, h.tiles]; rfl

theorem PutKeeps.segPlace_eq {s u : State} (h : PutKeeps s u) (n k : Nat) : segPlace u n (tileOf u n) k = segPlace s n (tileOf s n) k := by
  simp [h.tileOf_eq, segPlace, physOf, h.map]

/-! ### Words of zeros in a tile -/

/-- Byte `o` of a tile lies in word `o / 8` of the tile, that is in word `o / 8 % 16` of its segment (R94). -/
theorem inWord_tileByteAddr_iff (s : State) (n w a : Nat) :
    InWord (segPlace s n (tileOf s n) (w / 16)).1 (segPlace s n (tileOf s n) (w / 16)).2 (w % 16) a
      ↔ ∃ o, 8 * w ≤ o ∧ o < 8 * (w + 1) ∧ a = tileByteAddr s n o := by
  have haddr : ∀ i, i < 8 → tileByteAddr s n (8 * w + i)
      = shfAddr (segPlace s n (tileOf s n) (w / 16)).1 (segPlace s n (tileOf s n) (w / 16)).2 (8 * (w % 16)) + i := fun i hi => by
    have hseg : (8 * w + i) / 128 = w / 16 := by omega
    have hbyte : (8 * w + i) % 128 = 8 * (w % 16) + i := by omega
    simp only [tileByteAddr, hseg, hbyte, shfAddr, Nat.add_assoc]
  constructor
  · rintro ⟨hlo, hhi⟩
    obtain ⟨i, rfl⟩ := Nat.exists_eq_add_of_le hlo
    exact ⟨8 * w + i, by omega, by omega, (haddr i (by omega)).symm⟩
  · rintro ⟨o, hlo, hhi, rfl⟩
    obtain ⟨i, rfl⟩ := Nat.exists_eq_add_of_le hlo
    rw [haddr i (by omega), InWord]
    omega

/-- From `s` to `u` the bytes `lo` to `hi - 1` of tile `n` have become zero, and no other byte has changed while no copy runs. -/
structure ZeroedRange (s u : State) (n lo hi : Nat) : Prop where
  zero : ∀ o, lo ≤ o → o < hi → Memory.read u.shf.mem (tileByteAddr s n o) = 0
  frame : s.tnk.copying = none → ∀ a, (∀ o, lo ≤ o → o < hi → a ≠ tileByteAddr s n o) → Memory.read u.shf.mem a = Memory.read s.shf.mem a
  keeps : PutKeeps s u

theorem ZeroedRange.of_le {lo hi : Nat} (s : State) (n : Nat) (h : hi ≤ lo) : ZeroedRange s s n lo hi :=
  ⟨fun _ h₁ h₂ => by omega, fun _ _ _ => rfl, PutKeeps.refl s⟩

/-- A zeroed range is so in any later state with the same bytes. -/
theorem ZeroedRange.congr {s u v : State} {n lo hi : Nat} (h : ZeroedRange s u n lo hi) (hmem : v.shf.mem = u.shf.mem) (hk : PutKeeps s v) :
    ZeroedRange s v n lo hi :=
  ⟨hmem ▸ h.zero, hmem ▸ h.frame, hk⟩

/-- Zero into a whole word of a tile is a word of zeros in its bank, with the check byte of zero. -/
theorem wordMerge_zero {lo hi w : Nat} (tag : Tag) (n : Nat) (s : State) (hlo : lo ≤ 8 * w) (hhi : 8 * w + 8 ≤ hi) :
    wordMerge tag n lo hi 0 s w
      = shfPut (segPlace s n (tileOf s n) (w / 16)).1 (segPlace s n (tileOf s n) (w / 16)).2 (w % 16) 0 (checkByte 0) s := by
  simp only [wordMerge, if_pos (And.intro hlo hhi), Nat.zero_div]
  rfl

/-- The next word of a tile extends the range of zeros. -/
theorem zeroedRange_wordMerge {s u : State} {n lo w top : Nat} (tag : Tag) (h : ZeroedRange s u n lo (8 * w)) (hlo : lo ≤ 8 * w)
    (htop : 8 * w + 8 ≤ top) : ZeroedRange s (wordMerge tag n lo top 0 u w) n lo (8 * (w + 1)) := by
  rw [wordMerge_zero tag n u hlo htop, h.keeps.segPlace_eq]
  constructor
  case zero =>
    intro o ho ho'
    by_cases hw : o < 8 * w
    · exact read_shfPut_zero_of_zero _ (h.zero o ho hw)
    · exact read_shfPut_zero_of_inWord _ _ ((inWord_tileByteAddr_iff s n w _).2 ⟨o, by omega, ho', rfl⟩)
  case frame =>
    intro hc a ha
    have hout : ¬ InWord (segPlace s n (tileOf s n) (w / 16)).1 (segPlace s n (tileOf s n) (w / 16)).2 (w % 16) a := by
      rw [inWord_tileByteAddr_iff]
      rintro ⟨o, ho, ho', rfl⟩
      exact ha o (by omega) ho' rfl
    rw [shfPut_of_not_copying (h.keeps.copying hc), read_shfPut1_of_not_inWord _ _ hout]
    exact h.frame hc a fun o ho ho' => ha o ho (by omega)
  case keeps => exact h.keeps.trans (shfPut_keeps _ _ _ _ _ _)

theorem zeroedRange_foldl_wordMerge (tag : Tag) (n w0 top : Nat) (s : State) (k : Nat) (hk : 8 * (w0 + k) ≤ top) :
    ZeroedRange s ((List.range k).foldl (fun s i => wordMerge tag n (8 * w0) top 0 s (w0 + i)) s) n (8 * w0) (8 * (w0 + k)) := by
  induction k with
  | zero => exact ZeroedRange.of_le s n le_rfl
  | succ k ih =>
    rw [List.range_succ, List.foldl_append]
    exact zeroedRange_wordMerge tag (ih (by omega)) (by omega) (by omega)

/-- Zero written into whole words of a tile: the range is zeroed as far as the tile goes (R95). -/
theorem zeroedRange_rangeWrite {lo hi n : Nat} (tag : Tag) (s : State) (hlo : 8 ∣ lo) (hhi : 8 ∣ min hi (tileOf s n).size) :
    ZeroedRange s (rangeWrite tag n lo hi 0 s) n lo (min hi (tileOf s n).size) := by
  unfold rangeWrite
  generalize min hi (tileOf s n).size = top at hhi ⊢
  obtain ⟨w0, rfl⟩ := hlo
  obtain ⟨w1, rfl⟩ := hhi
  have hfirst : 8 * w0 / 8 = w0 := by omega
  have hlast : ceilDiv (8 * w1) 8 = w1 := by unfold ceilDiv; omega
  simp only [hfirst, hlast]
  have hwords : ZeroedRange s ((List.range (w1 - w0)).foldl (fun s i => wordMerge tag n (8 * w0) (8 * w1) 0 s (w0 + i)) s) n (8 * w0) (8 * w1) := by
    rcases le_total w0 w1 with h | h
    · have hfold := zeroedRange_foldl_wordMerge tag n w0 (8 * w1) s (w1 - w0) (by omega)
      rwa [show w0 + (w1 - w0) = w1 by omega] at hfold
    · rw [Nat.sub_eq_zero_of_le h]
      exact ZeroedRange.of_le s n (by omega)
  exact hwords.congr rfl ⟨hwords.keeps.tiles, hwords.keeps.map, hwords.keeps.hay, hwords.keeps.copying⟩

/-! ### TZERO -/

theorem exec_tzero_of_granted {s : State} {tag : Tag} {e : TagEntry} {x : BankOp} (hs : started s tag .tzero = some e)
    (hc : e.cmd = some (.bank .tzero x)) (hcount : x.count ≠ 0) (hstage : e.job.stage ≠ 0) (hbusy : milBusy s tag = false)
    (hready : (groupOf s (tileOf s x.dtile).group).ready = true) (hrun : running s (1 + (tileOf s x.dtile).group) = true) :
    exec (.tzero tag) s = .next (finishWritten tag x.count (doTzero tag x s)) := by
  change bankStep .tzero tag s = _
  simp [bankStep, hs, hc, hcount, hstage, bankEnd, hbusy, hready, hrun, runBank]

theorem markValid_hay (t : Nat) (s : State) : (markValid t s).hay = s.hay := by
  dsimp only [markValid]
  split <;> rfl

theorem markWritten_hay (tag : Tag) (s : State) : (markWritten tag s).hay = s.hay := by
  unfold markWritten
  refine List.foldlRecOn (motive := fun u : State => u.hay = s.hay) _ _ rfl fun u hu y _ => ?_
  split
  · split
    · exact (markValid_hay _ u).trans hu
    · exact hu
  · exact hu

theorem finishWritten_hay (tag : Tag) (count : Nat) (s : State) : (finishWritten tag count s).hay = s.hay := by
  rw [finishWritten, (finish_completed _ _ _).only.hay, markWritten_hay]

theorem finishWritten_mem (tag : Tag) (count : Nat) (s : State) : (finishWritten tag count s).shf.mem = s.shf.mem :=
  congrArg (·.2.1) (store_finishWritten tag count s)

/-- What holds of O27 in every state: a TZERO whose bank cycles have been granted writes zero into the bytes of its rows that its tile has,
and while no copy runs into no other byte of the Sheaf (R95, R197). -/
theorem exec_tzero_zeroes_rows_in_tile {s : State} {tag : Tag} {e : TagEntry} {x : BankOp} (hs : started s tag .tzero = some e)
    (hc : e.cmd = some (.bank .tzero x)) (hcount : x.count ≠ 0) (hstage : e.job.stage ≠ 0) (hbusy : milBusy s tag = false)
    (hready : (groupOf s (tileOf s x.dtile).group).ready = true) (hrun : running s (1 + (tileOf s x.dtile).group) = true)
    (hrb : (tileOf s x.dtile).rowBytes % 16 = 0) :
    let lo := x.first * (tileOf s x.dtile).rowBytes
    let hi := min ((x.first + x.count) * (tileOf s x.dtile).rowBytes) (tileOf s x.dtile).size
    ∃ t, exec (.tzero tag) s = .next t ∧ t.hay = s.hay ∧ (tagOf t tag).st = .replying
      ∧ (∀ o, lo ≤ o → o < hi → Memory.read t.shf.mem (tileByteAddr s x.dtile o) = 0)
      ∧ (s.tnk.copying = none → ∀ a, (∀ o, lo ≤ o → o < hi → a ≠ tileByteAddr s x.dtile o) →
          Memory.read t.shf.mem a = Memory.read s.shf.mem a) := by
  intro lo hi
  have hword : 8 ∣ (tileOf s x.dtile).rowBytes := by omega
  have hzero : ZeroedRange s (doTzero tag x s) x.dtile lo hi :=
    zeroedRange_rangeWrite tag s (hword.mul_left _) (min_rec' (8 ∣ ·) (hword.mul_left _) (hword.mul_left _))
  refine ⟨_, exec_tzero_of_granted hs hc hcount hstage hbusy hready hrun, ?_, (finish_completed _ _ _).replying, ?_⟩
  · rw [finishWritten_hay, hzero.keeps.hay]
  · rw [finishWritten_mem]
    exact ⟨hzero.zero, hzero.frame⟩

/-! ### A TZERO of more rows than its tile has -/

/-- The operands of a TZERO of two rows of tile 0. -/
def zeroTwoRows : BankOp := { (default : BankOp) with count := 2 }

/-- The entry of a TZERO of two rows of tile 0, its bank cycles asked for. -/
def zeroTwoRowsEntry : TagEntry :=
  { TagEntry.free with st := .started, cmd := some (.bank .tzero zeroTwoRows), job := { Job.init with stage := 1 } }

/-- Islands run, tag 5 holds the TZERO, and tile 0 has one row of 16 bytes: a 1 stands in byte 16 of its storage, the first beyond it. -/
def oneRowState : State :=
  let s := State.reset
  setTag 5 zeroTwoRowsEntry (setTile 0 { Tile.none with st := .valid, rows := 1, rowBytes := 16 } { s with
    isl := (List.range 11).map fun i => (i, { Island.init i with up := true, lock := true })
    shf := { s.shf with mem := [(16, 1)] } })

theorem exec_tzero_oneRowState : ∃ t, exec (.tzero 5) oneRowState = .next t ∧ Memory.read t.shf.mem 16 = 1 := ⟨_, rfl, by decide⟩

/-- Refutes O27: nothing in its hypotheses bounds FIRST + COUNT by the rows of the tile, and `rangeWrite` stops at the tile's size, so a
TZERO of two rows leaves the bytes of the row that a tile of one row does not have. Check 4 of R180 answers such a command LENGTH before
it asks for bank cycles; with the rows cut off at the size the statement holds (`exec_tzero_zeroes_rows_in_tile`). -/
theorem not_tzeroZeroesRows : ¬ Obligations.TzeroZeroesRows := by
  intro h
  obtain ⟨t, ht, -, -, hrows⟩ :=
    h oneRowState 5 zeroTwoRowsEntry zeroTwoRows (by decide) rfl (by decide) (by decide) (by decide) (by decide) (by decide)
  obtain ⟨u, hu, hone⟩ := exec_tzero_oneRowState
  obtain rfl : u = t := Host.Outcome.next.inj (hu.symm.trans ht)
  have hzero : Memory.read u.shf.mem 16 = 0 := (hrows (by decide)).1 16 (by decide) (by decide)
  exact absurd (hzero.symm.trans hone) (by decide)

end Sys2Proof.Proofs
end

section
/-! SUPPORT. Proofs about DFREE (R213, R215): which handles are live after one is made free, and what freeing a handle leaves alone. -/

namespace Sys2Proof.Proofs

open Sys2Proof.Machine Sys2Proof.Laws

/-! ### Live handles -/

@[simp] theorem liveCrc_setLive_self (h : Nat) (c : Option (BitVec 32)) (s : State) : liveCrc (setLive h c s) h = c :=
  tget_tset_self none c h s.asy.live

theorem liveCrc_setLive_ne {h k : Nat} (hk : k ≠ h) (c : Option (BitVec 32)) (s : State) : liveCrc (setLive h c s) k = liveCrc s k :=
  tget_tset_ne none c hk s.asy.live

@[simp] theorem liveCrc_cancelHandle (h k : Nat) (s : State) : liveCrc (cancelHandle h s) k = liveCrc s k := rfl

/-! ### DFREE -/

/-- Make a handle free, and cancel the references of stopped transfers that use it (R213, R215). -/
def freeHandle (h : Nat) (s : State) : State := cancelHandle h (setLive h none s)

theorem liveCrc_freeHandle_self (h : Nat) (s : State) : liveCrc (freeHandle h s) h = none := by
  rw [freeHandle, liveCrc_cancelHandle, liveCrc_setLive_self]

theorem liveCrc_freeHandle_ne {h k : Nat} (hk : k ≠ h) (s : State) : liveCrc (freeHandle h s) k = liveCrc s k := by
  rw [freeHandle, liveCrc_cancelHandle, liveCrc_setLive_ne hk]

/-- Freeing a handle changes the table of live handles, resume records and the bounce area's record alone: the slot's bytes stay. -/
theorem freeHandle_frame (h : Nat) (s : State) : freeHandle h s = { s with
    asy := { s.asy with live := (freeHandle h s).asy.live }
    tly := { s.tly with recs := (freeHandle h s).tly.recs, bounceRec := (freeHandle h s).tly.bounceRec } } := rfl

section
variable {s : State} {tag : Tag} {e : TagEntry} {h : Nat} (hs : started s tag .dfree = some e) (hc : e.cmd = some (.dfree h))
include hs hc

theorem exec_dfree_of_free (hfree : liveCrc s h = none) : exec (.dfree tag) s = .next (finish tag (outc .ok 0 0) s) := by
  change execDfree tag s = _
  simp [execDfree, hs, hc, hfree]

theorem exec_dfree_of_live (hlive : (liveCrc s h).isSome = true) :
    exec (.dfree tag) s = .next (finish tag (outc .ok 0 1) (freeHandle h s)) := by
  change execDfree tag s = _
  simp only [execDfree, hs, hc, hlive, if_true, freeHandle]

end

/-- Settles O20: whether the handle is live decides the two cases; a live one is freed before the command completes. -/
theorem dfreeFrees : Obligations.DfreeFrees := by
  intro s tag e h hs hc
  constructor
  · intro hfree
    exact ⟨_, exec_dfree_of_free hs hc hfree, finish_completed _ _ _⟩
  · intro hlive
    exact ⟨freeHandle h s, _, exec_dfree_of_live hs hc hlive, finish_completed _ _ _,
      liveCrc_freeHandle_self h s, fun _ hk => liveCrc_freeHandle_ne hk s, freeHandle_frame h s⟩

end Sys2Proof.Proofs
end

section
/-! SUPPORT. Proofs about RINGGET (R303): the fields of its reply, each read back from its place, and its completion. -/

namespace Sys2Proof.Proofs

open Sys2Proof.Machine Sys2Proof.Laws

/-- The count of a RINGGET's reply about a ring of entry `r` and weight `w` (R303). -/
def ringgetCount (r : Ring) (w : Nat) : Nat :=
  r.head % 2 ^ 11 + 2 ^ 11 * (r.tail % 2 ^ 11) + 2 ^ 22 * (r.szlog % 16) + 2 ^ 26 * b2n r.en + 2 ^ 27 * b2n r.err + 2 ^ 28 * w

theorem ringgetReply_eq (s : State) (n : Nat) :
    ringgetReply s n = outc .ok (b2n (ringBell s n)) (ringgetCount (ringOf s n) (ringWeight s n)) := rfl

/-- The fields of the count of a RINGGET's reply. WEIGHT comes last, so a weight of more bits than R303 gives it loses those above, and no
other field changes. -/
theorem ringgetCount_fields (r : Ring) (w : Nat) : let c := BitVec.ofNat 32 (ringgetCount r w)
    fld c 10 0 = r.head % 2 ^ 11 ∧ fld c 21 11 = r.tail % 2 ^ 11 ∧ fld c 25 22 = r.szlog % 16 ∧ bit c 26 = r.en ∧ bit c 27 = r.err
    ∧ fld c 31 28 = w % 16 := by
  have hen := b2n_lt_two r.en
  have herr := b2n_lt_two r.err
  have en : ringgetCount r w / 2 ^ 26 % 2 = b2n r.en := by unfold ringgetCount; omega
  have err : ringgetCount r w / 2 ^ 27 % 2 = b2n r.err := by unfold ringgetCount; omega
  refine ⟨?_, ?_, ?_, ?_, ?_, ?_⟩
  · rw [fld_ofNat _ (by decide) (by decide)]; unfold ringgetCount; omega
  · rw [fld_ofNat _ (by decide) (by decide)]; unfold ringgetCount; omega
  · rw [fld_ofNat _ (by decide) (by decide)]; unfold ringgetCount; omega
  · rw [bit_ofNat _ (by decide), en, decide_b2n_eq_one]
  · rw [bit_ofNat _ (by decide), err, decide_b2n_eq_one]
  · rw [fld_ofNat _ (by decide) (by decide)]; unfold ringgetCount; omega

theorem exec_ringget {s : State} {tag : Tag} {e : TagEntry} {n : Nat} (hs : started s tag .ringget = some e)
    (hc : e.cmd = some (.ringget n)) : exec (.ringget tag) s = .next (finish tag (ringgetReply s n) s) := by
  change execRingget tag s = _
  simp only [execRingget, hs, hc]

/-- Settles O18: the command completes with `ringgetReply`, whose count holds the entry and the weight in R303's fields and whose detail
is the doorbell bit alone. -/
theorem ringgetReports : Obligations.RinggetReports := by
  intro s tag e n hs hc
  obtain ⟨hhead, htail, hszlog, hen, herr, hweight⟩ := ringgetCount_fields (ringOf s n) (ringWeight s n)
  refine ⟨_, ringgetReply s n, exec_ringget hs hc, finish_completed _ _ _, ?_⟩
  rw [ringgetReply_eq]
  exact ⟨rfl, hhead, htail, hszlog, hen, herr, hweight, rfl⟩

end Sys2Proof.Proofs
end

section
/-! SUPPORT. Proofs about the status reply (R311): the fields of its two words, each read back from its place, and the words driven on
`sts_` by a completion that finds the interface idle. -/

namespace Sys2Proof.Proofs

open Sys2Proof.Machine Sys2Proof.Laws

/-! ### Fields of numbers put side by side -/

theorem fld_or {n : Nat} (x y : BitVec n) (hi lo : Nat) : fld (x ||| y) hi lo = fld x hi lo ||| fld y hi lo := by
  simp only [fld, BitVec.toNat_or, Nat.shiftRight_or_distrib, Nat.or_mod_two_pow]

/-- The field a number is put in reads the number, if it fits. -/
theorem fld_put_self {n v hi lo : Nat} (hl : lo ≤ hi) (hn : hi < n) (hv : v < 2 ^ (hi - lo + 1)) :
    fld (put v lo : BitVec n) hi lo = v := by
  rw [put, fld_ofNat _ hl hn, Nat.shiftLeft_eq, Nat.mul_div_cancel _ (Nat.two_pow_pos lo), Nat.mod_eq_of_lt hv]

/-- A field that ends below where a number is put reads 0. -/
theorem fld_put_above {n v p hi lo : Nat} (hl : lo ≤ hi) (hn : hi < n) (hp : hi < p) : fld (put v p : BitVec n) hi lo = 0 := by
  have hsplit : v <<< p = v * 2 ^ (p - (hi + 1)) * 2 ^ (hi - lo + 1) * 2 ^ lo := by
    rw [Nat.shiftLeft_eq, Nat.mul_assoc, Nat.mul_assoc, ← pow_add, ← pow_add]
    congr 2
    omega
  rw [put, fld_ofNat _ hl hn, hsplit, Nat.mul_div_cancel _ (Nat.two_pow_pos lo), Nat.mul_mod_left]

/-- A field that begins above a number put below it reads 0. -/
theorem fld_put_below {n v p hi lo : Nat} (hl : lo ≤ hi) (hn : hi < n) (hv : v * 2 ^ p < 2 ^ lo) :
    fld (put v p : BitVec n) hi lo = 0 := by
  rw [put, fld_ofNat _ hl hn, Nat.shiftLeft_eq, Nat.div_eq_of_lt hv, Nat.zero_mod]

/-- Two words put side by side are their concatenation. -/
theorem put_or_put_eq_append (x y : Word) : (put x.toNat 64 ||| put y.toNat 0 : BitVec 128) = x ++ y := by
  refine BitVec.eq_of_toNat_eq ?_
  have hx : x.toNat <<< 64 < 2 ^ 128 := by have := x.isLt; omega
  have hy : y.toNat < 2 ^ 128 := by have := y.isLt; omega
  rw [BitVec.toNat_or, BitVec.toNat_append, put, put, BitVec.toNat_ofNat, BitVec.toNat_ofNat, Nat.shiftLeft_zero,
    Nat.mod_eq_of_lt hx, Nat.mod_eq_of_lt hy]

/-! ### The two words of a reply -/

theorem status_code_lt (st : Status) : st.code < 2 ^ 8 := by cases st <;> decide

theorem hdrCtx_lt (h : Word) : hdrCtx h < 2 ^ 16 := Nat.mod_lt _ (by decide)

theorem hdrOp_lt (h : Word) : hdrOp h < 2 ^ 8 := Nat.mod_lt _ (by decide)

/-- The fields of reply word 0 (R311). -/
theorem replyW0_fields {ctx op : Nat} (hctx : ctx < 2 ^ 16) (hop : op < 2 ^ 8) (tag : Tag) (o : Outc) : let w := replyW0 ctx op tag o
    fld w 63 48 = ctx ∧ fld w 47 32 = o.detail.toNat ∧ fld w 31 24 = op ∧ fld w 23 16 = o.status.code ∧ fld w 15 9 = 0
    ∧ fld w 8 0 = tag.toNat := by
  have hdetail := o.detail.isLt
  have hcode := status_code_lt o.status
  have htag := tag.isLt
  -- of the numbers put in the word one lies in the field; the others lie above it or below it
  refine ⟨?_, ?_, ?_, ?_, ?_, ?_⟩ <;>
    simp (disch := omega) only [replyW0, fld_or, fld_put_self, fld_put_above, fld_put_below, Nat.or_zero, Nat.zero_or]

/-- The fields of reply word 1 (R311, R312). -/
theorem replyW1_fields (s : State) (o : Outc) :
    fld (replyW1 s o) 63 32 = (islOf s islC).cyc.toNat % 2 ^ 32 ∧ fld (replyW1 s o) 31 0 = o.count.toNat := by
  have hstamp : (stamp s islC).toNat = (islOf s islC).cyc.toNat % 2 ^ 32 := by simp [stamp]
  have hlt := (stamp s islC).isLt
  have hcount := o.count.isLt
  rw [← hstamp]
  constructor <;>
    simp (disch := omega) only [replyW1, fld_or, fld_put_self, fld_put_above, fld_put_below, Nat.or_zero, Nat.zero_or]

/-! ### A reply on an idle interface -/

/-- With nothing outstanding on `sts_` and island C running, a reply next in its queue is driven there (R30, R34). -/
theorem pumpSts_reply_pin {s : State} {t : Tag} {r : List StsXfer} (hcur : s.tly.stsCur = none) (hq : s.tly.stsQ = .reply t :: r)
    (hrun : running s islC = true) :
    (pumpSts s).pin
      = { s.pin with stsReq := !s.pin.stsReq, stsKind := false, stsData := (tagOf s t).w1 ++ (tagOf s t).w0 } := by
  unfold pumpSts
  rw [hcur, hq, ← put_or_put_eq_append]
  simp only [hrun, Bool.not_true, Bool.false_eq_true, if_false]

/-- With nothing on `sts_` and island C running, a reply that is sent is driven at once. -/
theorem sendSts_reply_pin {s : State} (t : Tag) (hcur : s.tly.stsCur = none) (hq : s.tly.stsQ = []) (hrun : running s islC = true) :
    (sendSts (.reply t) s).pin
      = { s.pin with stsReq := !s.pin.stsReq, stsKind := false, stsData := (tagOf s t).w1 ++ (tagOf s t).w0 } :=
  pumpSts_reply_pin (s := { s with tly := { s.tly with stsQ := s.tly.stsQ ++ [.reply t] } }) (r := []) hcur (by rw [hq]; rfl) hrun

/-- What a completion does before it sends its reply leaves the `sts_` interface, the pins and the clocks. -/
theorem finish_eq_sendSts (t : Tag) (o : Outc) (s : State) : ∃ u, finish t o s = sendSts (.reply t) u
    ∧ u.tly.stsCur = s.tly.stsCur ∧ u.tly.stsQ = s.tly.stsQ ∧ u.pin = s.pin ∧ u.isl = s.isl := by
  obtain ⟨hcur, hq⟩ : (dropHeld t s).tly.stsCur = s.tly.stsCur ∧ (dropHeld t s).tly.stsQ = s.tly.stsQ := by
    unfold dropHeld; cases (tagOf s t).recSlot <;> exact ⟨rfl, rfl⟩
  refine ⟨_, rfl, ?_, ?_, by simp, by simp⟩ <;> rw [traceEv_tly]
  · exact (noteActed_proj (·.tly.stsCur) (fun _ _ _ => rfl) _ _ _).trans hcur
  · exact (noteActed_proj (·.tly.stsQ) (fun _ _ _ => rfl) _ _ _).trans hq

/-- A completion that finds nothing on `sts_`, while island C runs, drives its own two reply words. -/
theorem finish_pin {s : State} (t : Tag) (o : Outc) (hcur : s.tly.stsCur = none) (hq : s.tly.stsQ = [])
    (hrun : running s islC = true) :
    (finish t o s).pin = { s.pin with stsReq := !s.pin.stsReq, stsKind := false,
                                      stsData := (tagOf (finish t o s) t).w1 ++ (tagOf (finish t o s) t).w0 } := by
  obtain ⟨u, hu, hucur, huq, hupin, huisl⟩ := finish_eq_sendSts t o s
  have hurun : running u islC = true := by simpa only [running, islOf, huisl] using hrun
  rw [hu, tagOf_sendSts, sendSts_reply_pin t (hucur.trans hcur) (huq.trans hq) hurun, hupin]

/-- Settles O8: the tag of a completed command holds `replyW0` and `replyW1`, whose fields lie where R311 puts them, and on an idle
interface the completion drives just these two words. -/
theorem replyLayout : Obligations.ReplyLayout := by
  intro s tag o
  have hdone := finish_completed tag o s
  obtain ⟨hctx, hdetail, hop, hcode, hzero, htag⟩ := replyW0_fields (hdrCtx_lt (tagOf s tag).hdr) (hdrOp_lt (tagOf s tag).own) tag o
  obtain ⟨hcycle, hcount⟩ := replyW1_fields s o
  rw [← hdone.word0] at hctx hdetail hop hcode hzero htag
  rw [← hdone.word1] at hcycle hcount
  refine ⟨hctx, hdetail, hop, hcode, hzero, htag, hcycle, hcount, fun hcur hq hrun => ?_⟩
  have hpin := finish_pin tag o hcur hq hrun
  exact ⟨congrArg Pins.stsReq hpin, congrArg Pins.stsKind hpin, congrArg Pins.stsData hpin⟩

end Sys2Proof.Proofs
end

section
/-! SUPPORT. Proofs about every command at once: what each does to the queue and to storage (log 3), and which of them can fault (log 67). -/

namespace Sys2Proof.Proofs

open Sys2Proof.Machine Sys2Proof.Laws

/-! ### Queue and storage -/

theorem store_eq_iff {s t : State} : store t = store s ↔ t.pending = s.pending ∧ t.shf.mem = s.shf.mem ∧ t.shf.chk = s.shf.chk
    ∧ t.hay.mem = s.hay.mem ∧ t.hay.chk = s.hay.chk := by
  simp only [store, Prod.mk.injEq]

theorem storeOk_iff {q : List Instr} {s : State} : StoreOk q (store s) ↔ s.pending = q ∧ StorageCanonical s := Iff.rfl

theorem nextOk_of_nextStore {q : List Instr} {s : State} {o : Host.Outcome State Fault Refusal} (h : NextStore (store s) o)
    (hs : StoreOk q (store s)) : NextOk q o := by
  cases o with
  | next u => rw [nextOk_next, (nextStore_next _ u).mp h]; exact hs
  | fault | refused => trivial

/-- A command that `keepsStorage` lists leaves the queue and all storage as they were. -/
theorem exec_store (c : Instr) (s : State) (h : c.keepsStorage = true) : NextStore (store s) (exec c s) := by
  cases c with
  | trel tag => exact store_execTrel tag s
  | tqry tag => exact store_execTqry tag s
  | tld tag => exact store_execTld tag s
  | tst tag => exact store_execTst tag s
  | tgat tag => exact store_execTgat tag s
  | tsct tag => exact store_execTsct tag s
  | tscta tag => exact store_execTscta tag s
  | tperm tag => exact store_execTperm tag s
  | dcre tag => exact store_execDcre tag s
  | dfree tag => exact store_execDfree tag s
  | twf tag => exact store_execTwf tag s
  | tmma tag => exact store_execTmma tag s
  | tmmas tag => exact store_execTmmas tag s
  | tvop tag => exact store_execTvop tag s
  | tsfu tag => exact store_execTsfu tag s
  | bkopen tag => exact store_execBkopen tag s
  | bkadd tag => exact store_execBkadd tag s
  | bkclose tag => exact store_execBkclose tag s
  | bkqry tag => exact store_execBkqry tag s
  | ctxset tag => exact store_execCtxset tag s
  | ctxget tag => exact store_execCtxget tag s
  | ctxpin tag => exact store_execCtxpin tag s
  | ctxevict tag => exact store_execCtxevict tag s
  | ringset tag => exact store_execRingset tag s
  | ringget tag => exact store_execRingget tag s
  | fence tag => exact store_execFence tag s
  | preempt tag => exact store_execPreempt tag s
  | resume tag => exact store_execResume tag s
  | audit tag => exact store_execAudit tag s
  | nop tag => exact store_execNop tag s
  | drdent tag => exact store_execDrdent tag s
  | dwrent tag => exact store_execDwrent tag s
  | drdhay tag => exact store_execDrdhay tag s
  | dwrhay tag => exact store_execDwrhay tag s
  | dscrub tag => exact store_execDscrub tag s
  | dretire tag => exact store_execDretire tag s
  | drepair tag => exact store_execDrepair tag s
  | dtrace tag => exact store_execDtrace tag s
  | commandPacket p => exact store_execCommandPacket p s
  | heldPacketAccept => exact store_execHeldPacketAccept s
  | packetDecode => exact store_execPacketDecode s
  | registerReadCmd off => exact store_execRegisterReadCmd off s
  | registerWrite off v => exact store_execRegisterWrite off v s
  | cmdKindReserved b => exact store_execCmdKindReserved b s
  | replyDelivered => exact store_execReplyDelivered s
  | notifyDelivered => exact store_execNotifyDelivered s
  | commandStart tag => exact store_execCommandStart tag s
  | nocCmd txid p => exact store_execNocCmd txid p s
  | ingwr hdr data be => exact store_execIngwr hdr data be s
  | regrd hdr => exact store_execRegrd hdr s
  | regwr hdr v => exact store_execRegwr hdr v s
  | rdrsp c txid status data => exact store_execRdrsp c txid status data s
  | wrack c txid status => exact store_execWrack c txid status s
  | raccack txid status added => exact store_execRaccack txid status added s
  | creditReturn c => exact store_execCreditReturn c s
  | stationWriteBeat n wd wchk wtag wlast => exact store_execStationWriteBeat n wd wchk wtag wlast s
  | stationDone n dtag dsts => exact store_execStationDone n dtag dsts s
  | stationErr n etag => exact store_execStationErr n etag s
  | drainBeat adv add adpt => exact store_execDrainBeat adv add adpt s
  | drainWatchdogExpire => exact store_execDrainWatchdogExpire s
  | drainRowRelease => exact store_execDrainRowRelease s
  | rowLaunch => exact store_execRowLaunch s
  | frontBeat => exact store_execFrontBeat s
  | portSlotGrant => exact store_execPortSlotGrant s
  | wheelCommit => exact store_execWheelCommit s
  | spillPathGrant => exact store_execSpillPathGrant s
  | raccSend => exact store_execRaccSend s
  | raccResendDue slot => exact store_execRaccResendDue slot s
  | ringSchedulerVisit => exact store_execRingSchedulerVisit s
  | trnResponse sid spa ssize sflt scode => exact store_execTrnResponse sid spa ssize sflt scode s
  | xlateTimeout sid => exact store_execXlateTimeout sid s
  | pwrRstRelease => exact store_execPwrRstRelease s
  | generatorLockCheck locked0 locked1 => exact store_execGeneratorLockCheck locked0 locked1 s
  | islandResetExit => exact store_execIslandResetExit s
  | registerServiceStart => exact store_execRegisterServiceStart s
  | arrRstRelease => exact store_execArrRstRelease s
  | stationCreditWindowClose => exact store_execStationCreditWindowClose s
  | arrMapv rowbyp colbyp => exact store_execArrMapv rowbyp colbyp s
  | arrayMapChange mapv rowbyp colbyp => exact store_execArrayMapChange mapv rowbyp colbyp s
  | skewSelfTest lane scale => exact store_execSkewSelfTest lane scale s
  | unplugWarn => exact store_execUnplugWarn s
  | unplugQuiesced => exact store_execUnplugQuiesced s
  | unplugPowerDown => exact store_execUnplugPowerDown s
  | secureEvent e => exact store_execSecureEvent e s
  | secureEventClear => exact store_execSecureEventClear s
  | fuseReady => exact store_execFuseReady s
  | fuseAck data => exact store_execFuseAck data s
  | serviceAccess wr addr wdata => exact store_execServiceAccess wr addr wdata s
  | svcPresentChange v => exact store_execSvcPresentChange v s
  | droopTrip isl x => exact store_execDroopTrip isl x s
  | stretchStepBack isl => exact store_execStretchStepBack isl s
  | thermalSample temps volts => exact store_execThermalSample temps volts s
  | frequencyChangeDone isl => exact store_execFrequencyChangeDone isl s
  | generatorLockLoss isl => exact store_execGeneratorLockLoss isl s
  | groupIdleExpire g => exact store_execGroupIdleExpire g s
  | hayloftBankIdleExpire b => exact store_execHayloftBankIdleExpire b s
  | scrubStep ctl => exact store_execScrubStep ctl s
  | ceWindowReset => exact store_execCeWindowReset s
  | retirementCopy => exact store_execRetirementCopy s
  | retirementSwitch => exact store_execRetirementSwitch s
  | pairLowRead src off => exact store_execPairLowRead src off s
  | crtWhlcommitWrite src v => exact store_execCrtWhlcommitWrite src v s
  | asyWselWrite src v => exact store_execAsyWselWrite src v s
  | asyWcommitWrite src v => exact store_execAsyWcommitWrite src v s
  | milSeedWrite src v => exact store_execMilSeedWrite src v s
  | chnDbellWrite src v => exact store_execChnDbellWrite src v s
  | tlyResdropWrite src v => exact store_execTlyResdropWrite src v s
  | tnkRmdataWrite src v => exact store_execTnkRmdataWrite src v s
  | tnkFuseaddrWrite src v => exact store_execTnkFuseaddrWrite src v s
  | skewgoWrite src v => exact store_execSkewgoWrite src v s
  | tnkLogpopWrite src v => exact store_execTnkLogpopWrite src v s
  | tnkLogcntWrite src v => exact store_execTnkLogcntWrite src v s
  | tnkTrcmarkWrite src v => exact store_execTnkTrcmarkWrite src v s
  | shadowValidClear src g v => exact store_execShadowValidClear src g v s
  | ringerrValidClear src v => exact store_execRingerrValidClear src v s
  | cmdenWrite src v => exact store_execCmdenWrite src v s
  | lockWrite src v => exact store_execLockWrite src v s
  | lmpFsetWrite src isl v => exact store_execLmpFsetWrite src isl v s
  | shfGpolWrite src v => exact store_execShfGpolWrite src v s
  | hayBsetWrite src v => exact store_execHayBsetWrite src v s
  | outboundFlitSend => exact store_execOutboundFlitSend s
  | trnQueryAck => exact store_execTrnQueryAck s
  | registerDataDelivered => exact store_execRegisterDataDelivered s
  | lmpEnvWrite src isl v => exact store_execLmpEnvWrite src isl v s
  | _ => cases h

/-- Every command leaves the queue as it was and keeps the memories in canonical form. -/
theorem exec_ok {q : List Instr} (c : Instr) (s : State) (hs : StoreOk q (store s)) : NextOk q (exec c s) := by
  cases h : c.keepsStorage with
  | true => exact nextOk_of_nextStore (exec_store c s h) hs
  | false =>
    cases c with
    | tcfg tag => exact ok_execTcfg tag s hs
    | tacc tag => exact ok_execTacc tag s hs
    | tred tag => exact ok_execTred tag s hs
    | tqnt tag => exact ok_execTqnt tag s hs
    | tscl tag => exact ok_execTscl tag s hs
    | taccc tag => exact ok_execTaccc tag s hs
    | tdq tag => exact ok_execTdq tag s hs
    | tzero tag => exact ok_execTzero tag s hs
    | bankCycleGrant bank mRead mWrite => exact ok_execBankCycleGrant bank mRead mWrite s hs
    | hayloftAccessGrant bank bFirst => exact ok_execHayloftAccessGrant bank bFirst s hs
    | pwrRstAssert => exact ok_execPwrRstAssert s hs
    | bistDone fails => exact ok_execBistDone fails s hs
    | zeroisationDone => exact ok_execZeroisationDone s hs
    | groupStateChangeDone g => exact ok_execGroupStateChangeDone g s hs
    | hayloftBankStateDone b => exact ok_execHayloftBankStateDone b s hs
    | powerLost => exact ok_execPowerLost s hs
    | fabricFirstPowered => exact ok_execFabricFirstPowered s hs
    | _ => cases h

/-- Settles O1: the definition of a step, at a queue that is not empty. -/
theorem stepTakesFront : Obligations.StepTakesFront := by
  intro c r s h
  simp only [step, h]

/-- Settles O4: at reset no byte is listed. -/
theorem storageCanonicalAtReset : Obligations.StorageCanonicalAtReset := ⟨rfl, rfl, rfl, rfl⟩

/-- Settles O5: an idle c-cycle leaves storage alone, and each command keeps its canonical form and the queue. -/
theorem storageCanonicalKept : Obligations.StorageCanonicalKept := by
  intro s t hs
  constructor
  · intro h
    cases hq : s.pending with
    | nil =>
      simp only [step, hq, Host.Outcome.next.injEq] at h
      obtain ⟨-, hmem, hchk, hmem', hchk'⟩ := store_eq_iff.1 (store_tick s)
      subst h
      rwa [StorageCanonical, hmem, hchk, hmem', hchk']
    | cons c r =>
      rw [stepTakesFront c r s hq] at h
      have hok : NextOk r (exec c { s with pending := r }) := exec_ok c _ ⟨rfl, hs⟩
      rw [h] at hok
      exact (storeOk_iff.1 hok).2
  · intro c h
    have hok : NextOk s.pending (exec c s) := exec_ok c s ⟨rfl, hs⟩
    rw [h] at hok
    exact (storeOk_iff.1 hok).1

/-- Settles O6: every command that `keepsStorage` lists leaves the four memories themselves as they were. -/
theorem storageFrame : Obligations.StorageFrame := by
  intro c s t hc h a
  have hstore := exec_store c s hc
  rw [h] at hstore
  obtain ⟨-, hmem, hchk, hmem', hchk'⟩ := store_eq_iff.1 hstore
  rw [hmem, hchk, hmem', hchk']
  exact ⟨rfl, rfl, rfl, rfl⟩

/-! ### Faults -/

/-- The outcome is a next state. -/
def Answers (o : Host.Outcome State Fault Refusal) : Prop := ∃ t, o = .next t

theorem answers_next (t : State) : Answers (.next t) := ⟨t, rfl⟩

/-- The commands whose operands can name a unit that the fabric does not have. -/
def namesUnit : Instr → Bool
  | .bankCycleGrant .. | .hayloftAccessGrant .. | .droopTrip .. | .stretchStepBack _ | .frequencyChangeDone _ | .generatorLockLoss _
  | .skewSelfTest .. | .bistDone _ | .lmpFsetWrite .. | .lmpEnvWrite .. => true
  | _ => false

/-- Every branch of a meaning that checks no unit ends in a next state. -/
theorem exec_answers (c : Instr) (s : State) (h : namesUnit c = false) : Answers (exec c s) := by
  cases c
  case bankCycleGrant | hayloftAccessGrant | droopTrip | stretchStepBack | frequencyChangeDone | generatorLockLoss | skewSelfTest | bistDone
    | lmpFsetWrite | lmpEnvWrite => cases h
  all_goals simp only [exec, bankStep, execTcfg, execTrel, execTqry, execTld, execTst, execTgat, execTsct, execTscta, execTperm, execDcre, execDfree, execTwf, execTmma,
    execTmmas, execTacc, execTred, execTqnt, execTscl, execTaccc, execTdq, execTzero, execTvop, execTsfu, execBkopen, execBkadd,
    execBkclose, execBkqry, execCtxset, execCtxget, execCtxpin, execCtxevict, execRingset, execRingget, execFence, execPreempt,
    execResume, execAudit, execNop, execDrdent, execDwrent, execDrdhay, execDwrhay, execDscrub, execDretire, execDrepair, execDtrace,
    execCommandPacket, execHeldPacketAccept, execPacketDecode, execRegisterReadCmd, execRegisterWrite, execCmdKindReserved,
    execReplyDelivered, execNotifyDelivered, execCommandStart, execNocCmd, execIngwr, execRegrd, execRegwr, execRdrsp, execWrack,
    execRaccack, execCreditReturn, execStationWriteBeat, execStationDone, execStationErr, execDrainBeat, execDrainWatchdogExpire,
    execDrainRowRelease, execRowLaunch, execFrontBeat, execPortSlotGrant, execWheelCommit, execSpillPathGrant, execRaccSend,
    execRaccResendDue, execRingSchedulerVisit, execTrnResponse, execXlateTimeout, execPwrRstAssert, execPwrRstRelease,
    execGeneratorLockCheck, execIslandResetExit, execRegisterServiceStart, execArrRstRelease, execStationCreditWindowClose,
    execArrMapv, execArrayMapChange, execUnplugWarn, execUnplugQuiesced, execUnplugPowerDown, execSecureEvent, execSecureEventClear,
    execZeroisationDone, execFuseReady, execFuseAck, execServiceAccess, execSvcPresentChange, execThermalSample, execGroupIdleExpire,
    execGroupStateChangeDone, execHayloftBankIdleExpire, execHayloftBankStateDone, execScrubStep, execCeWindowReset,
    execRetirementCopy, execRetirementSwitch, execPairLowRead, execCrtWhlcommitWrite, execAsyWselWrite, execAsyWcommitWrite,
    execMilSeedWrite, execChnDbellWrite, execTlyResdropWrite, execTnkRmdataWrite, execTnkFuseaddrWrite, execSkewgoWrite,
    execTnkLogpopWrite, execTnkLogcntWrite, execTnkTrcmarkWrite, execShadowValidClear, execRingerrValidClear, execCmdenWrite,
    execLockWrite, execShfGpolWrite, execHayBsetWrite, execOutboundFlitSend, execTrnQueryAck, execRegisterDataDelivered,
    execPowerLost, execFabricFirstPowered]
  all_goals (repeat' split) <;> exact answers_next _

/-- A meaning that faults on `n` and above, and has a next state below, does what R359 asks of a unit's number. -/
theorem fault_of_bound {k n : Nat} {o : Host.Outcome State Fault Refusal} (ho : Answers o) :
    if decide (k < n) = true then Answers (if n ≤ k then .fault .noSuchUnit else o)
    else (if n ≤ k then .fault .noSuchUnit else o) = .fault .noSuchUnit := by
  by_cases h : n ≤ k
  · simp [h]
  · simpa [h, Nat.lt_of_not_le h] using ho

/-- A meaning that tests its command's operands by `wf`, and else has a next state. -/
theorem fault_of_wf {b : Bool} {o : Host.Outcome State Fault Refusal} (ho : Answers o) :
    if b = true then Answers (if b = false then .fault .noSuchUnit else o)
    else (if b = false then .fault .noSuchUnit else o) = .fault .noSuchUnit := by
  cases b
  · simp
  · simpa using ho

/-- A command that names a unit is tested for it first, and has a next state where the unit exists. -/
theorem exec_of_namesUnit (c : Instr) (s : State) (h : namesUnit c = true) :
    if c.wf = true then Answers (exec c s) else exec c s = .fault .noSuchUnit := by
  cases c with
  | bankCycleGrant b mr mw => exact fault_of_bound (by (repeat' split) <;> exact answers_next _)
  | hayloftAccessGrant b bf => exact fault_of_bound (by (repeat' split) <;> exact answers_next _)
  | droopTrip i x => exact fault_of_bound (by (repeat' split) <;> exact answers_next _)
  | stretchStepBack i => exact fault_of_bound (by (repeat' split) <;> exact answers_next _)
  | frequencyChangeDone i => exact fault_of_bound (by (repeat' split) <;> exact answers_next _)
  | generatorLockLoss i => exact fault_of_bound (by (repeat' split) <;> exact answers_next _)
  | lmpFsetWrite src i v => exact fault_of_bound (answers_next _)
  | lmpEnvWrite src i v => exact fault_of_bound (answers_next _)
  | skewSelfTest k b => exact fault_of_wf (by (repeat' split) <;> exact answers_next _)
  | bistDone fs => exact fault_of_wf (by (repeat' split) <;> exact answers_next _)
  | _ => cases h

/-- Settles O7: a command that names no unit has a next state and is well formed; one that names a unit is tested for it. -/
theorem wellFormedNeverStops : Obligations.WellFormedNeverStops := by
  intro c s
  cases hu : namesUnit c with
  | true => exact exec_of_namesUnit c s hu
  | false =>
    have hwf : c.wf = true := by
      cases c
      case bankCycleGrant | hayloftAccessGrant | droopTrip | stretchStepBack | frequencyChangeDone | generatorLockLoss | skewSelfTest
        | bistDone | lmpFsetWrite | lmpEnvWrite => cases hu
      all_goals rfl
    rw [if_pos hwf]
    exact exec_answers c s hu

/-! ### Reset -/

/-- The offsets of `plainSpec`. -/
def plainOffs : List Nat :=
  [0x0000, 0x0004, 0x1000, 0x1004] ++ series 0x2000 4 4 ++ series 0x2010 4 4 ++ series 0x2020 4 16 ++ series 0x3000 4 2 ++ [0x3008]
  ++ series 0x3020 4 2 ++ [0x3028, 0x400C, 0x5000, 0x6000, 0x6010, 0x6014, 0x6018, 0x601C, 0x6020, 0x6024, 0x7000, 0x7004, 0x7008, 0x7020,
    0x7028, 0x7100, 0x8004, 0x8008, 0x900C, 0xA000, 0xA004, 0xA008, 0xB000, 0xC000, 0xC024] ++ series 0xC004 4 10 ++ [0xC080, 0xC0A4]
  ++ series 0xC084 4 10 ++ [0xC100, 0xC104, 0xD000, 0xD008, 0xD010, 0xD018, 0xD028, 0xD034, 0xD080, 0xD084]

theorem plainSpec_none {off : Nat} (h : off ∉ plainOffs) : plainSpec off = none := by
  simp only [plainOffs, List.mem_append, List.mem_cons, List.not_mem_nil, or_false, not_or] at h
  simp only [plainSpec, List.contains_eq_mem, decide_eq_true_eq, h, if_false]

/-- Every register lies in one of the three lists of the register map. -/
theorem mem_offs_of_regExists {off : Nat} (h : regExists off = true) : off ∈ counterOffs ++ derivedOffs ++ plainOffs := by
  by_contra hn
  simp only [List.mem_append, not_or] at hn
  obtain ⟨⟨hc, hd⟩, hp⟩ := hn
  simp [regExists, regSpec, hc, hd, plainSpec_none hp] at h

theorem readReg_reset_zero : ∀ off ∈ counterOffs ++ derivedOffs ++ plainOffs,
    off ∈ resetColumn.map (·.1) ∨ readReg State.reset off = 0 := by decide +kernel

theorem readReg_of_not_regExists {s : State} {off : Nat} (h : regExists off = false) : readReg s off = 0 := by
  simp [readReg, h]

/-- Settles O3: the state at reset lists nothing, so each reader answers its default; the registers are read one by one. -/
theorem resetState : Obligations.ResetState := by
  refine ⟨rfl, fun _ => rfl, fun _ => rfl, fun _ => rfl, by decide +kernel, fun off h => ?_, rfl, rfl, rfl, rfl, rfl, rfl, rfl, rfl, rfl, rfl,
    rfl, rfl, rfl, rfl, fun _ => rfl, fun _ => ?_, rfl, rfl⟩
  · cases hx : regExists off with
    | false => exact readReg_of_not_regExists hx
    | true => exact (readReg_reset_zero off (mem_offs_of_regExists hx)).resolve_left h
  · rfl

/-! ### The idle c-cycle -/

@[simp] theorem islOf_setIsl_self (i : Nat) (x : Island) (s : State) : islOf (setIsl i x s) i = x := tget_tset_self _ _ _ _

theorem islOf_setIsl_ne {i k : Nat} (h : k ≠ i) (x : Island) (s : State) : islOf (setIsl i x s) k = islOf s k := tget_tset_ne _ _ h _

/-- What a c-cycle does to island `i`, which it leaves as `x`: its cycle counter alone goes on (R312; log 5). -/
structure Ticked (s : State) (i : Nat) (x : Island) : Prop where
  frame : x = { islOf s i with cyc := x.cyc }
  islC : i = islC → islActive s i = true → x.cyc = (islOf s i).cyc + 1
  other : i ≠ Machine.islC → islActive s i = true → ∃ k, k ≤ 1 ∧ x.cyc = (islOf s i).cyc + BitVec.ofNat 64 (cyclesPer s i + k)
  stopped : islActive s i = false → x.cyc = (islOf s i).cyc

theorem countIsl_ne {i k : Nat} (h : k ≠ i) (s : State) : islOf (countIsl s i) k = islOf s k := by
  unfold countIsl
  split
  · rfl
  · split <;> exact islOf_setIsl_ne h _ s

theorem countIsl_ticked (s : State) (i : Nat) : Ticked s i (islOf (countIsl s i) i) := by
  unfold countIsl
  split
  · next h =>
    have hoff : islActive s i = false := by simpa using h
    exact ⟨rfl, fun _ ha => absurd (hoff.symm.trans ha) Bool.false_ne_true, fun _ ha => absurd (hoff.symm.trans ha) Bool.false_ne_true,
      fun _ => rfl⟩
  · next h =>
    split
    · next hi => rw [updIsl, islOf_setIsl_self]; exact ⟨rfl, fun _ _ => rfl, fun hn => absurd hi hn, by simp_all⟩
    · next hi =>
      have hset : islOf { updIsl i (fun x => { x with cyc := x.cyc + BitVec.ofNat 64 (cyclesPer s i + Config.freePick s.freeCtr % 2) }) s with
          freeCtr := s.freeCtr + 1 } i = _ := islOf_setIsl_self i _ s
      rw [hset]
      exact ⟨rfl, fun hn => absurd hn hi, fun _ _ => ⟨Config.freePick s.freeCtr % 2, by omega, rfl⟩, by simp_all⟩

theorem countIsl_frame (s : State) (i : Nat) :
    countIsl s i = { s with isl := (countIsl s i).isl, freeCtr := (countIsl s i).freeCtr } := by
  unfold countIsl
  split
  · rfl
  · split <;> rfl

/-- A counter's going on changes nothing of an island that the counting of others reads. -/
theorem countIsl_clock (s : State) (i k : Nat) :
    islOf (countIsl s i) k = { islOf s k with cyc := (islOf (countIsl s i) k).cyc } := by
  by_cases h : k = i
  · exact h ▸ (countIsl_ticked s i).frame
  · rw [countIsl_ne h]

theorem islActive_countIsl (s : State) (i k : Nat) : islActive (countIsl s i) k = islActive s k := by
  have hg : ∀ g, groupOf (countIsl s i) g = groupOf s g := fun g => by rw [countIsl_frame s i]; rfl
  simp only [islActive, running, hg]
  rw [countIsl_clock s i k]

theorem cyclesPer_countIsl (s : State) (i k : Nat) : cyclesPer (countIsl s i) k = cyclesPer s k := by
  unfold cyclesPer
  rw [countIsl_clock s i k, countIsl_clock s i Machine.islC]

/-- A c-cycle of the islands `l` (R312). -/
theorem foldl_countIsl {l : List Nat} (hl : l.Nodup) (s : State) :
    (∀ i ∈ l, Ticked s i (islOf (l.foldl countIsl s) i)) ∧ (∀ i, i ∉ l → islOf (l.foldl countIsl s) i = islOf s i)
    ∧ l.foldl countIsl s = { s with isl := (l.foldl countIsl s).isl, freeCtr := (l.foldl countIsl s).freeCtr } := by
  induction l generalizing s with
  | nil => exact ⟨by simp, fun _ _ => rfl, rfl⟩
  | cons a r ih =>
    obtain ⟨ha, hr⟩ := List.nodup_cons.1 hl
    obtain ⟨hin, hout, hframe⟩ := ih hr (countIsl s a)
    simp only [List.foldl_cons]
    refine ⟨fun i hi => ?_, fun i hi => ?_, ?_⟩
    · rcases List.mem_cons.1 hi with rfl | hi
      · rw [hout i ha]; exact countIsl_ticked s i
      · obtain ⟨h1, h2, h3, h4⟩ := hin i hi
        have hne : i ≠ a := fun h => ha (h ▸ hi)
        rw [islActive_countIsl, countIsl_ne hne] at h2 h3 h4
        rw [countIsl_ne hne] at h1
        rw [cyclesPer_countIsl] at h3
        exact ⟨h1, h2, h3, h4⟩
    · simp only [List.mem_cons, not_or] at hi
      rw [hout i hi.2, countIsl_ne hi.1]
    · rw [hframe, countIsl_frame s a]

/-- A c-cycle before the islands' counters go on: HAB_MISSWAIT counts, and runs of credit returns end (R43, R304). -/
def tickStart (s : State) : State :=
  let u := if s.tly.tags.any (fun p => !p.2.ctxWait.isEmpty) = true then cnt 0xA050 1 s else s
  { u with noc := { u.noc with o0 := u.noc.o0.close, o1 := u.noc.o1.close } }

theorem tickStart_frame (s : State) : tickStart s
    = { s with regs := (tickStart s).regs, noc := { s.noc with o0 := s.noc.o0.close, o1 := s.noc.o1.close } } := by
  unfold tickStart
  dsimp only
  split <;> rfl

theorem tick_eq {s : State} (hp : s.ctl.powered = true) (hr : s.ctl.inReset = false) (hc : running s islC = true) :
    tick s = (List.range 11).foldl countIsl (tickStart s) := by
  simp [tick, hp, hr, hc, tickStart]

theorem tick_eq_self {s : State} (h : s.ctl.powered = false ∨ s.ctl.inReset = true ∨ running s islC = false) : tick s = s := by
  rcases h with h | h | h <;> simp [tick, h]

/-- Settles O2: a c-cycle is the counting of the eleven islands, one after the other, none of which another's count reads. -/
theorem idleCycle : Obligations.IdleCycle := by
  intro s hq
  refine ⟨tick s, by simp only [step, hq], tick_eq_self, fun hp hr hc => ?_⟩
  obtain ⟨hin, hout, hframe⟩ := foldl_countIsl (l := List.range 11) (List.nodup_range) (tickStart s)
  rw [← tick_eq hp hr hc] at hin hout hframe
  have hstart := tickStart_frame s
  have hisl : ∀ i, islOf (tickStart s) i = islOf s i := fun i => by rw [hstart]; rfl
  have hact : ∀ i, islActive (tickStart s) i = islActive s i := fun i => by rw [hstart]; rfl
  have hper : ∀ i, cyclesPer (tickStart s) i = cyclesPer s i := fun i => by rw [hstart]; rfl
  have hactC : islActive s islC = true := by rw [islActive, hc]; rfl
  refine ⟨?_, fun i hi hn ha => ?_, fun i hi => ?_, fun i => ?_, ?_, fun k => ?_, ?_⟩
  · simpa only [hisl] using (hin islC (by decide)).islC rfl (by rw [hact]; exact hactC)
  · simpa only [hisl, hper] using (hin i (List.mem_range.2 hi)).other hn (by rw [hact]; exact ha)
  · by_cases h : i < 11
    · rw [(hin i (List.mem_range.2 h)).stopped (by rw [hact]; exact hi.resolve_left (by omega)), hisl]
    · rw [hout i (by simpa using h), hisl]
  · by_cases h : i < 11
    · simpa only [hisl] using (hin i (List.mem_range.2 h)).frame
    · rw [hout i (by simpa using h), hisl]
  · rw [hframe, hstart]
  · rw [hframe]
    unfold tickStart
    dsimp only
    split <;> rfl
  · rw [hframe, hstart]

/-! ### NOP and FENCE -/

/-- Settles O12: both complete with the same reply as soon as they have started. -/
theorem nopAndFenceComplete : Obligations.NopAndFenceComplete := by
  intro s tag e
  constructor
  · intro hs
    refine ⟨_, ?_, finish_completed tag (outc .ok 0 0) s⟩
    change execNop tag s = _
    simp only [execNop, hs]
  · intro hs
    refine ⟨_, ?_, finish_completed tag (outc .ok 0 0) s⟩
    change execFence tag s = _
    simp only [execFence, hs]

end Sys2Proof.Proofs
end

section
/-! SUPPORT. Proofs about the check code (R394): the syndrome and the parity of a word are linear, so what changing bits does to them is read
off the changed positions. -/

namespace Sys2Proof.Proofs

open Sys2Proof.Machine Sys2Proof.Laws

/-! ### Parity -/

theorem parity_xor (n x y : Nat) : parity n (x ^^^ y) = (parity n x != parity n y) := by
  have fold : ∀ (l : List Nat) (a b : Bool), l.foldl (fun s i => s != (x ^^^ y).testBit i) (a != b)
      = (l.foldl (fun s i => s != x.testBit i) a != l.foldl (fun s i => s != y.testBit i) b) := by
    intro l
    induction l with
    | nil => exact fun _ _ => rfl
    | cons i r ih =>
      intro a b
      simp only [List.foldl_cons, ← ih]
      congr 1
      rw [Nat.testBit_xor]
      cases a <;> cases b <;> cases x.testBit i <;> cases y.testBit i <;> rfl
  exact fold (List.range n) false false

theorem parity_succ (n x : Nat) : parity (n + 1) x = (parity n x != x.testBit n) := by
  simp only [parity, List.range_succ, List.foldl_append, List.foldl_cons, List.foldl_nil]

/-- The parity of `n` bits reads no bit above them. -/
theorem parity_congr {n x y : Nat} (h : ∀ i, i < n → x.testBit i = y.testBit i) : parity n x = parity n y := by
  induction n with
  | zero => rfl
  | succ n ih => rw [parity_succ, parity_succ, ih fun i hi => h i (by omega), h n (by omega)]

/-- One bit is odd. -/
theorem parity_two_pow : ∀ i, i < 64 → parity 64 (2 ^ i) = true := by decide +kernel

/-! ### The syndrome -/

/-- The fold of `checkLow`. -/
def posXor (d : Word) (l : List (Nat × Nat)) (a : Nat) : Nat := l.foldl (fun s pi => if bit d pi.2 then s ^^^ pi.1 else s) a

theorem posXor_xor (d e : Word) (l : List (Nat × Nat)) (a b : Nat) :
    posXor (d ^^^ e) l (a ^^^ b) = posXor d l a ^^^ posXor e l b := by
  induction l generalizing a b with
  | nil => rfl
  | cons p r ih =>
    have hbit : bit (d ^^^ e) p.2 = (bit d p.2 ^^ bit e p.2) := BitVec.getLsbD_xor
    have hstep : (if bit (d ^^^ e) p.2 then a ^^^ b ^^^ p.1 else a ^^^ b)
        = (if bit d p.2 then a ^^^ p.1 else a) ^^^ (if bit e p.2 then b ^^^ p.1 else b) := by
      rw [hbit]
      cases bit d p.2 <;> cases bit e p.2 <;> simp [Nat.xor_comm, Nat.xor_left_comm]
    simp only [posXor, List.foldl_cons, hstep] at ih ⊢
    exact ih _ _

theorem checkLow_xor (d e : Word) : checkLow (d ^^^ e) = checkLow d ^^^ checkLow e := posXor_xor d e _ 0 0

theorem checkLow_lt (d : Word) : checkLow d < 2 ^ 7 := by
  have fold : ∀ (l : List (Nat × Nat)), (∀ p ∈ l, p.1 < 2 ^ 7) → ∀ a, a < 2 ^ 7 → posXor d l a < 2 ^ 7 := by
    intro l
    induction l with
    | nil => exact fun _ _ h => h
    | cons p r ih =>
      intro hl a ha
      refine ih (fun q hq => hl q (by simp [hq])) _ ?_
      dsimp only
      split
      · exact Nat.xor_lt_two_pow ha (hl p (by simp))
      · exact ha
  exact fold _ (by decide) 0 (by decide)

/-- The exclusive OR of the positions of the bits that are 1, check bits included (R394). -/
def posSyndrome (d : Word) (c : Byte) : Nat := checkLow d ^^^ (c.toNat % 128)

/-- The parity of a word with its check byte. -/
def oddBits (d : Word) (c : Byte) : Bool := parity 64 d.toNat != parity 8 c.toNat

theorem eccTest_eq (d : Word) (c : Byte) : eccTest d c =
    if posSyndrome d c = 0 then (if oddBits d c then (d, .corrected) else (d, .good))
    else if oddBits d c then
      (if posSyndrome d c ≤ 71 then
        match findPos (fun q => q == posSyndrome d c) dataPos with
        | some i => (d ^^^ (1#64 <<< i), .corrected)
        | none => (d, .corrected)
      else (d, .uncorr))
    else (d, .uncorr) := by
  unfold eccTest posSyndrome oddBits
  rfl

/-- The position of bit `i` of a word with its check byte: the data bits first, then the check bits; the parity bit has none. -/
def posOf (i : Nat) : Nat := if i < 64 then dataPos.getD i 0 else if i < 71 then 2 ^ (i - 64) else 0

/-- A word and its check byte with bit `i` changed. -/
def flipBit (i : Nat) (x : Word × Byte) : Word × Byte :=
  if i < 64 then (x.1 ^^^ (1#64 <<< i), x.2) else (x.1, x.2 ^^^ (1#8 <<< (i - 64)))

theorem checkLow_bit : ∀ i, i < 64 → checkLow (1#64 <<< i) = posOf i := by decide +kernel

theorem checkBit_low : ∀ k, k < 8 → (1#8 <<< k).toNat % 128 = posOf (64 + k) ∧ parity 8 (1#8 <<< k).toNat = true := by decide +kernel

theorem toNat_bit : ∀ i, i < 64 → (1#64 <<< i).toNat = 2 ^ i := by decide +kernel

theorem posSyndrome_flipBit {i : Nat} (hi : i < 72) (x : Word × Byte) :
    posSyndrome (flipBit i x).1 (flipBit i x).2 = posSyndrome x.1 x.2 ^^^ posOf i := by
  unfold flipBit posSyndrome
  split
  · next h => simp only [checkLow_xor, checkLow_bit i h]; ac_rfl
  · next h =>
    have hk := (checkBit_low (i - 64) (by omega)).1
    rw [show 64 + (i - 64) = i by omega] at hk
    simp only [BitVec.toNat_xor, show (128 : Nat) = 2 ^ 7 by rfl, Nat.xor_mod_two_pow] at hk ⊢
    rw [hk]; ac_rfl

theorem oddBits_flipBit {i : Nat} (hi : i < 72) (x : Word × Byte) : oddBits (flipBit i x).1 (flipBit i x).2 = !oddBits x.1 x.2 := by
  unfold flipBit oddBits
  split
  · next h =>
    simp only [BitVec.toNat_xor, parity_xor, toNat_bit i h, parity_two_pow i h]
    cases parity 64 x.1.toNat <;> cases parity 8 x.2.toNat <;> rfl
  · next h =>
    simp only [BitVec.toNat_xor, parity_xor, (checkBit_low (i - 64) (by omega)).2]
    cases parity 64 x.1.toNat <;> cases parity 8 x.2.toNat <;> rfl

/-! ### A good word -/

theorem checkByte_toNat (d : Word) :
    (checkByte d).toNat = checkLow d + 2 ^ 7 * b2n (parity 64 d.toNat != parity 7 (checkLow d)) := by
  have h := checkLow_lt d
  simp only [checkByte, BitVec.toNat_ofNat]
  cases parity 64 d.toNat != parity 7 (checkLow d) <;> simp [b2n] <;> omega

theorem posSyndrome_checkByte (d : Word) : posSyndrome d (checkByte d) = 0 := by
  have h := checkLow_lt d
  have hlow : (checkByte d).toNat % 128 = checkLow d := by rw [checkByte_toNat]; omega
  rw [posSyndrome, hlow, Nat.xor_self]

theorem oddBits_checkByte (d : Word) : oddBits d (checkByte d) = false := by
  have h := checkLow_lt d
  have hb := b2n_lt_two (parity 64 d.toNat != parity 7 (checkLow d))
  have hlow : parity 7 (checkByte d).toNat = parity 7 (checkLow d) := by
    refine parity_congr fun i hi => ?_
    rw [checkByte_toNat, Nat.add_comm, Nat.testBit_two_pow_mul_add _ h, if_pos hi]
  have htop : (checkByte d).toNat.testBit 7 = (parity 64 d.toNat != parity 7 (checkLow d)) := by
    rw [checkByte_toNat, Nat.add_comm, Nat.testBit_two_pow_mul_add _ h, if_neg (by omega)]
    cases parity 64 d.toNat != parity 7 (checkLow d) <;> rfl
  rw [oddBits, parity_succ 7, hlow, htop]
  cases parity 64 d.toNat <;> cases parity 7 (checkLow d) <;> rfl

/-! ### Changed bits -/

/-- The positions of two bits differ, the parity bit's 0 included, and none lies beyond 71. -/
theorem posOf_inj : ∀ i, i < 72 → posOf i ≤ 71 ∧ ∀ j, j < 72 → posOf i = posOf j → i = j := by decide +kernel

/-- The position of a data bit leads back to it; that of a check bit to none. -/
theorem findPos_posOf : ∀ i, i < 72 → posOf i ≠ 0 → findPos (fun q => q == posOf i) dataPos = if i < 64 then some i else none := by
  decide +kernel

/-- A syndrome of odd parity leads to the one bit at its position. -/
theorem eccTest_one {i : Nat} (hi : i < 72) {x : Word × Byte} (hs : posSyndrome x.1 x.2 = posOf i) (ho : oddBits x.1 x.2 = true) :
    eccTest x.1 x.2 = ((flipBit i x).1, .corrected) := by
  rw [eccTest_eq, hs, ho]
  by_cases h0 : posOf i = 0
  · have h71 : i = 71 := ((posOf_inj i hi).2 71 (by decide) (h0.trans (by decide)))
    subst h71
    simp [posOf, flipBit]
  · simp only [h0, if_false, if_true, (posOf_inj i hi).1, findPos_posOf i hi h0, flipBit]
    by_cases h : i < 64 <;> simp only [h, if_true, if_false]

theorem eccTest_two {x : Word × Byte} (hs : posSyndrome x.1 x.2 ≠ 0) (ho : oddBits x.1 x.2 = false) : (eccTest x.1 x.2).2 = .uncorr := by
  rw [eccTest_eq, if_neg hs, ho]
  rfl

theorem flipBit_flipBit_fst (i : Nat) (x : Word × Byte) : (flipBit i (flipBit i x)).1 = x.1 := by
  unfold flipBit
  split
  · simp
  · rfl

/-- Settles O60: of a good word the syndrome is 0 and the parity even; one changed bit leaves its own position with odd parity, two leave
different positions with even parity. -/
theorem checkCodeCorrectsOneDetectsTwo : Obligations.CheckCodeCorrectsOneDetectsTwo := by
  intro d flip good
  have hs : posSyndrome good.1 good.2 = 0 := posSyndrome_checkByte d
  have ho : oddBits good.1 good.2 = false := oddBits_checkByte d
  refine ⟨?_, fun i hi => ?_, fun i j hij hj => ?_⟩
  · rw [eccTest_eq, show posSyndrome d (checkByte d) = 0 from hs, show oddBits d (checkByte d) = false from ho]
    rfl
  · have hfix := eccTest_one hi (x := flipBit i good) (by rw [posSyndrome_flipBit hi, hs, Nat.zero_xor]) (by rw [oddBits_flipBit hi, ho]; rfl)
    rwa [flipBit_flipBit_fst] at hfix
  · have hi : i < 72 := by omega
    refine eccTest_two (x := flipBit j (flipBit i good)) ?_ ?_
    · rw [posSyndrome_flipBit hj, posSyndrome_flipBit hi, hs, Nat.zero_xor]
      intro h
      have := (posOf_inj i hi).2 j hj (Nat.xor_eq_zero_iff.1 h)
      omega
    · rw [oddBits_flipBit hj, oddBits_flipBit hi, ho]
      rfl

end Sys2Proof.Proofs
end

section
/-! SUPPORT. Proofs about the context commands (R290-R293) and RINGSET (R302). -/

namespace Sys2Proof.Proofs

open Sys2Proof.Machine Sys2Proof.Laws

/-! ### Byte ranges -/

/-- The bits of `n` ones placed at `lo`. -/
theorem bit_ones {w n lo k : Nat} (hk : k < w) : bit (BitVec.ofNat w ((2 ^ n - 1) * 2 ^ lo)) k = true ↔ lo ≤ k ∧ k < lo + n := by
  rw [bit, BitVec.getLsbD_ofNat, Nat.testBit_mul_two_pow, Nat.testBit_two_pow_sub_one]
  simp only [hk, decide_true, Bool.true_and, Bool.and_eq_true, decide_eq_true_eq]
  omega

theorem bit_beRange {n lo k : Nat} (hk : k < 64) : bit (beRange lo n) k = true ↔ lo ≤ k ∧ k < lo + n := bit_ones hk

/-- Byte `i` of a value that begins at byte `lo` of a wider one. -/
theorem byteAt_placed {w n : Nat} (x : BitVec n) {lo i : Nat} (hw : 8 * (lo + i) + 8 ≤ w) :
    byteAt (BitVec.ofNat w (x.toNat * 2 ^ (8 * lo))) (lo + i) = byteAt x i := by
  refine BitVec.eq_of_getLsbD_eq fun k hk => ?_
  have h1 : 8 * (lo + i) + k < w := by omega
  have h2 : 8 * (lo + i) + k - 8 * lo = 8 * i + k := by omega
  have h3 : 8 * lo ≤ 8 * (lo + i) + k := by omega
  simp only [byteAt, BitVec.getLsbD_extractLsb', hk, decide_true, Bool.true_and, BitVec.getLsbD_ofNat, h1, Nat.testBit_mul_two_pow, h2, h3,
    BitVec.testBit_toNat]

/-! ### Asking for an access to the Hayloft -/

/-- Waking a bank changes the banks' power and a counter alone. -/
theorem holdAcc_frame (s : State) (a : HayAcc) :
    holdAcc s a = { s with regs := (holdAcc s a).regs, hay := { s.hay with banks := (holdAcc s a).hay.banks } } := by
  unfold holdAcc
  (repeat' split) <;> rfl

/-- An access asked for joins those that wait. -/
theorem askHay_frame (a : HayAcc) (s : State) : askHay a s
    = { s with regs := (askHay a s).regs, hay := { s.hay with waiting := s.hay.waiting ++ [a], banks := (askHay a s).hay.banks } } := by
  unfold askHay
  rw [holdAcc_frame]

/-! ### Writing an entry out -/

/-- The write of an entry to memory that a context command asks for (R290, R292). -/
def entryWr (tag : Tag) (a : Nat) (x : BitVec 128) : OutReq :=
  ⟨true, a - a % 128, BitVec.ofNat 1024 (x.toNat * 2 ^ (8 * (a % 128))), BitVec.ofNat 128 ((2 ^ 16 - 1) * 2 ^ (a % 128)), .ctxWrite tag⟩

/-- The write of an entry to the Hayloft, as master 9. -/
def entryHayWr (tag : Tag) (a : Nat) (x : BitVec 128) : HayAcc :=
  hayWr 9 (a - a % 64) (beRange (a % 64) 16) (BitVec.ofNat 512 (x.toNat * 2 ^ (8 * (a % 64)))) (.ctxWrite tag)

theorem writeEntry_mem (tag : Tag) (a : Nat) (x : BitVec 128) (k : Nat) (s : State) :
    writeEntry tag false a x k s = askMem (entryWr tag a x) (updJob tag (fun j => { j with stage := k, wrOut := 1 }) s) := rfl

theorem writeEntry_hay (tag : Tag) (a : Nat) (x : BitVec 128) (k : Nat) (s : State) :
    writeEntry tag true a x k s = askHay (entryHayWr tag a x) (updJob tag (fun j => { j with stage := k, wrOut := 1 }) s) := rfl

theorem tagOf_askHay (a : HayAcc) (t : Tag) (s : State) : tagOf (askHay a s) t = tagOf s t := by
  rw [askHay_frame]; rfl

/-! ### Rows -/

theorem rows_setRow (l : Nat) (r : Option CtxRow) (s : State) (k : Nat) :
    tget none (setRow l r s).hab.rows k = if k = l then r else tget none s.hab.rows k := by
  split
  · next h => rw [h]; exact tget_tset_self none r l s.hab.rows
  · next h => exact tget_tset_ne none r h s.hab.rows

theorem setRow_frame (l : Nat) (r : Option CtxRow) (s : State) : setRow l r s = { s with hab := { s.hab with rows := (setRow l r s).hab.rows } } :=
  rfl

theorem newEntry_frame (c : Nat) (img : BitVec 128) (s : State) : newEntry c img s = { s with hab := { s.hab with
    rows := (newEntry c img s).hab.rows
    fetches := s.hab.fetches.map fun f => if f.ctx = c then { f with fresh := some img } else f } } := by
  unfold newEntry
  dsimp only
  split <;> rfl

theorem newEntry_of_resident {c : Nat} {img : BitVec 128} {s : State} {l : Nat} {r : CtxRow} (h : residentRow s c = some (l, r)) (k : Nat) :
    tget none (newEntry c img s).hab.rows k = if k = l then some { r with entry := img } else tget none s.hab.rows k := by
  unfold newEntry
  simp only [residentRow] at h
  simp only [residentRow, h, rows_setRow]

theorem newEntry_of_not_resident {c : Nat} {img : BitVec 128} {s : State} (h : residentRow s c = none) (k : Nat) :
    tget none (newEntry c img s).hab.rows k = tget none s.hab.rows k := by
  unfold newEntry
  simp only [residentRow] at h
  simp only [residentRow, h]

/-! ### CTXSET and CTXGET -/

theorem started_tagOf {s : State} {t : Tag} {op : Opcode} {e : TagEntry} (h : started s t op = some e) : tagOf s t = e ∧ e.st = .started := by
  unfold started at h
  dsimp only at h
  split at h
  · split at h
    · next hc => simp only [Bool.and_eq_true, decide_eq_true_eq] at hc; cases h; exact ⟨rfl, hc.1.1⟩
    · cases h
  · cases h

section
variable {s : State} {tag : Tag} {e : TagEntry} {c : Nat} {img : BitVec 128} (hs : started s tag .ctxset = some e)
  (hc : e.cmd = some (.ctxset c img))
include hs hc

theorem exec_ctxset : exec (.ctxset tag) s = .next (if e.job.stage = 0 then
      (if !btEnabled s then finish tag (ctxFail .ctxFetchFail 3) s else writeEntry tag (btHay s) (btAddr s c) img 1 s)
    else if e.job.wrOut ≠ 0 then s
    else if e.job.wErr.isSome then finish tag (ctxFail .ctxFetchFail 1) s
    else finish tag (outc .ok 0 1) (newEntry c img s)) := by
  change execCtxset tag s = _
  simp only [execCtxset, hs, hc]

end

section
variable {s : State} {tag : Tag} {e : TagEntry} {c addr : Nat} {hay : Bool} (hs : started s tag .ctxget = some e)
  (hc : e.cmd = some (.ctxget c hay addr))
include hs hc

theorem exec_ctxget_of_resident {l : Nat} {r : CtxRow} (h0 : e.job.stage = 0) (hr : residentRow s c = some (l, r)) :
    exec (.ctxget tag) s = .next (writeEntry tag hay addr r.entry 3 s) := by
  change execCtxget tag s = _
  simp only [execCtxget, hs, hc, h0, residentEntry, hr, Option.map_some, if_true]

theorem exec_ctxget_of_not_resident (h0 : e.job.stage = 0) (hr : residentRow s c = none) (he : btEnabled s = true) (hh : btHay s = false) :
    exec (.ctxget tag) s = .next (askMem ⟨false, btAddr s c - btAddr s c % 128, 0, 0, .image tag⟩ (updJob tag (fun j => { j with stage := 1, base := btAddr s c }) s)) := by
  have hh' : btHay (updJob tag (fun j => { j with stage := 1, base := btAddr s c }) s) = false := hh
  change execCtxget tag s = _
  simp [execCtxget, hs, hc, h0, residentEntry, hr, he, hh']

theorem exec_ctxget_of_no_table (h0 : e.job.stage = 0) (hr : residentRow s c = none) (he : btEnabled s = false) :
    exec (.ctxget tag) s = .next (finish tag (ctxFail .ctxFetchFail 3) s) := by
  change execCtxget tag s = _
  simp [execCtxget, hs, hc, h0, residentEntry, hr, he]

theorem exec_ctxget_of_written (h3 : 3 ≤ e.job.stage) (hw : e.job.wrOut = 0) (he : e.job.wErr = none) :
    exec (.ctxget tag) s = .next (finish tag (ctxgetReply s e.bits c) s) := by
  have h0 : e.job.stage ≠ 0 := by omega
  have h1 : e.job.stage ≠ 1 := by omega
  have h2 : e.job.stage ≠ 2 := by omega
  change execCtxget tag s = _
  simp [execCtxget, hs, hc, h0, h1, h2, hw, he]

end

/-- Settles O15: each stage of the two commands is one case of its meaning; the write they ask for holds the entry's 16 bytes alone. -/
theorem ctxsetAndCtxget : Obligations.CtxsetAndCtxget := by
  constructor
  · intro s tag e c img hs hc a
    obtain ⟨htag, hst⟩ := started_tagOf hs
    have hx := exec_ctxset hs hc
    refine ⟨fun h0 hen => ?_, fun h0 hen hloc => ?_, fun h0 hen hloc => ?_, fun h0 hw herr => ?_, fun h0 hw herr => ?_⟩
    · refine ⟨_, hx.trans ?_, finish_completed _ _ _⟩
      rw [if_pos h0, if_pos (by simp [btEnabled, hen])]
      rfl
    · rw [if_pos h0, if_neg (by simp [btEnabled, hen]), show btHay s = false from hloc, writeEntry_mem] at hx
      refine ⟨_, entryWr tag a img, hx, rfl, rfl, rfl, rfl, fun k hk => bit_ones hk, fun i hi hk => byteAt_placed img (by omega),
        rfl, rfl, ?_, ?_⟩
      · rw [tagOf_askMem, tagOf_updJob_self, htag]; exact hst
      · rw [tagOf_askMem, tagOf_updJob_self]
    · rw [if_pos h0, if_neg (by simp [btEnabled, hen]), show btHay s = true from hloc, writeEntry_hay] at hx
      refine ⟨_, entryHayWr tag a img, hx, ?_, rfl, rfl, rfl, rfl, rfl, fun k hk => bit_beRange hk,
        fun i hi hk => byteAt_placed img (by omega), ?_, ?_, ?_, ?_, ?_⟩
      · rw [askHay_frame]; rfl
      · rw [askHay_frame]; rfl
      · rw [askHay_frame]; rfl
      · rw [askHay_frame]; rfl
      · rw [tagOf_askHay, tagOf_updJob_self, htag]; exact hst
      · rw [tagOf_askHay, tagOf_updJob_self]
    · refine ⟨_, hx.trans ?_, finish_completed _ _ _⟩
      simp only [h0, if_false, hw, ne_eq, not_true_eq_false, herr, if_true]
      rfl
    · refine ⟨newEntry c img s, _, hx.trans ?_, finish_completed _ _ _, newEntry_of_not_resident, fun l r => newEntry_of_resident, ?_,
        ?_⟩
      · simp only [h0, if_false, hw, ne_eq, not_true_eq_false, herr, Option.isSome_none, Bool.false_eq_true]
      · rw [newEntry_frame]
      · rw [newEntry_frame]
  · intro s tag e c addr hay hs hc
    refine ⟨fun h0 hr hen => ⟨_, exec_ctxget_of_no_table hs hc h0 hr hen, finish_completed _ _ _⟩, fun h0 hr hen hloc =>
      ⟨_, exec_ctxget_of_not_resident hs hc h0 hr hen hloc, rfl, rfl⟩, fun l r h0 hr hh => ?_, fun l r h0 hr hh => ?_, fun h3 hw herr hb hr => ?_, fun l r h3 hw herr hb hr => ?_⟩
    · subst hh
      exact ⟨_, entryWr tag addr r.entry, exec_ctxget_of_resident hs hc h0 hr, rfl, rfl, rfl, rfl, rfl, rfl⟩
    · subst hh
      refine ⟨_, entryHayWr tag addr r.entry, exec_ctxget_of_resident hs hc h0 hr, ?_, rfl, rfl, rfl, rfl, rfl, ?_⟩ <;>
        rw [writeEntry_hay, askHay_frame] <;> rfl
    · refine ⟨_, exec_ctxget_of_written hs hc h3 hw herr, ?_⟩
      simpa only [ctxgetReply, hb, hr, ne_eq, not_true_eq_false, if_false] using finish_completed tag (outc .ok 0 0) s
    · refine ⟨_, exec_ctxget_of_written hs hc h3 hw herr, ?_⟩
      simpa only [ctxgetReply, hb, hr, ne_eq, not_true_eq_false, if_false] using
        finish_completed tag (outc .ok (1 + 2 * b2n r.pin) (refCount s c)) s

/-! ### CTXPIN and CTXEVICT -/

/-- A command that needs a resident, valid context, and has neither waited nor failed for one, gets a reference to it and no more. -/
theorem needCtx_of_resident {tag : Tag} {s : State} {c : Nat} {l : Nat} {r : CtxRow} (hr : residentRow s c = some (l, r))
    (hv : ctxValid r.entry = true) (hw : (tagOf s tag).ctxWait = []) (hb : (tagOf s tag).ctxBad = []) :
    (tagOf (needCtx tag s c) tag).ctxBad = [] ∧ (needCtx tag s c)
      = { s with regs := (needCtx tag s c).regs, tly := { s.tly with tags := (needCtx tag s c).tly.tags } } := by
  unfold needCtx
  simp only [hw, hb, residentEntry, hr, Option.map_some, List.contains_nil, List.any_nil, Bool.or_false, hv, if_true]
  split
  · exact ⟨hb, rfl⟩
  · exact ⟨by rw [tagOf_updTag_self]; exact hb, rfl⟩

section
variable {s : State} {tag : Tag} {e : TagEntry} {c : Nat} {pin : Bool} (hs : started s tag .ctxpin = some e)
  (hc : e.cmd = some (.ctxpin c pin))
include hs hc

theorem exec_ctxpin_set (hp : pin = true) : exec (.ctxpin tag) s = .next (pinCtx tag c s) := by
  change execCtxpin tag s = _
  simp only [execCtxpin, hs, hc, hp, if_true]

theorem exec_ctxpin_clear (hp : pin = false) {l : Nat} {r : CtxRow} (hr : residentRow s c = some (l, r)) :
    exec (.ctxpin tag) s = .next (finish tag (outc .ok 0 (b2n r.pin)) (setRow l (some { r with pin := false }) s)) := by
  change execCtxpin tag s = _
  simp [execCtxpin, hs, hc, hp, hr]

theorem exec_ctxpin_clear_none (hp : pin = false) (hr : residentRow s c = none) :
    exec (.ctxpin tag) s = .next (finish tag (outc .ok 0 0) s) := by
  change execCtxpin tag s = _
  simp [execCtxpin, hs, hc, hp, hr]

end

theorem pinCtx_full {tag : Tag} {c : Nat} {s : State} (hr : ∀ l r, residentRow s c = some (l, r) → r.pin = false)
    (hfull : 16256 ≤ pinnedRows s) : pinCtx tag c s = finish tag (outc .capacity 0x8000 0) s := by
  unfold pinCtx
  split
  · next l r h => rw [hr l r h, if_neg Bool.false_ne_true, if_pos hfull]
  · rw [if_pos hfull]

/-- Settles O16: CTXPIN's cases are those of the row and of the number pinned; CTXEVICT's that of the row alone. -/
theorem ctxpinAndCtxevict : Obligations.CtxpinAndCtxevict := by
  constructor
  · intro s tag e c pin hs hc
    obtain ⟨htag, -⟩ := started_tagOf hs
    refine ⟨fun l r hp hr hpin => ⟨_, (exec_ctxpin_set hs hc hp).trans ?_, finish_completed _ _ _⟩, fun l r hp hr hpin hv hroom hw hb => ?_,
      fun hp hr hfull => ⟨_, (exec_ctxpin_set hs hc hp).trans ?_, finish_completed _ _ _⟩,
      fun hp hr => ⟨_, exec_ctxpin_clear_none hs hc hp hr, finish_completed _ _ _⟩,
      fun l r hp hr => ⟨_, _, exec_ctxpin_clear hs hc hp hr, finish_completed _ _ _, rows_setRow _ _ _, setRow_frame _ _ _⟩⟩
    · simp only [pinCtx, hr, hpin, if_true]
    · obtain ⟨hbad, hframe⟩ := needCtx_of_resident (tag := tag) hr hv (htag ▸ hw) (htag ▸ hb)
      refine ⟨setRow l (some { r with pin := true }) (needCtx tag s c), _, (exec_ctxpin_set hs hc hp).trans ?_, finish_completed _ _ _,
        fun k => ?_, ?_, ?_, ?_, ?_⟩
      · simp [pinCtx, hr, hpin, Nat.not_le.2 hroom, resolveCtxs, ctxFailure, hbad]
      · rw [rows_setRow, hframe]
      all_goals rw [setRow_frame, hframe]
    · rw [pinCtx_full hr hfull]
  · intro s tag e c hs hc
    constructor
    · intro hr
      refine ⟨_, ?_, finish_completed tag (outc .ok 0 0) s⟩
      change execCtxevict tag s = _
      simp only [execCtxevict, hs, hc, hr]
    · intro l r hr
      refine ⟨setRow l none s, _, ?_, finish_completed tag (outc .ok 0 1) _, rows_setRow _ _ _, setRow_frame _ _ _⟩
      change execCtxevict tag s = _
      simp only [execCtxevict, hs, hc, hr]

/-! ### RINGSET -/

@[simp] theorem ringOf_setRing_self (n : Nat) (r : Ring) (s : State) : ringOf (setRing n r s) n = r := tget_tset_self _ _ _ _

theorem ringOf_setRing_ne {n k : Nat} (h : k ≠ n) (r : Ring) (s : State) : ringOf (setRing n r s) k = ringOf s k := tget_tset_ne _ _ h _

/-- The entry of a ring after a RINGSET (R302). -/
def ringAfter (x : RingSet) (r : Ring) : Ring :=
  let r := { r with en := x.en, err := r.err && !x.clrErr }
  if x.full then { r with szlog := x.szlog, base := x.base, head := x.ptr, tail := x.ptr } else r

/-- What a RINGSET leaves of the ring table: the ring's entry and weight, and for form 1 the pair's owner and the doorbell bit. -/
theorem applyRingset_rng (x : RingSet) (s : State) :
    (applyRingset x s).rng.ents = tset Ring.zero s.rng.ents x.ring (ringAfter x (ringOf s x.ring))
    ∧ (applyRingset x s).rng.weights = tset 1 s.rng.weights x.ring x.weight
    ∧ (applyRingset x s).rng.bells = (if x.full then tset false s.rng.bells x.ring false else s.rng.bells)
    ∧ (applyRingset x s).rng.owners = (if x.full then tset 0 s.rng.owners (x.ring / 2) x.owner else s.rng.owners) := by
  unfold applyRingset ringAfter
  cases x.full
  · cases x.en <;> exact ⟨rfl, rfl, rfl, rfl⟩
  · exact ⟨rfl, rfl, rfl, rfl⟩

theorem applyRingset_frame (x : RingSet) (s : State) : applyRingset x s
    = { s with rng := (applyRingset x s).rng, noc := { s.noc with outQ := (applyRingset x s).noc.outQ } } := by
  unfold applyRingset
  cases x.full
  · cases x.en <;> rfl
  · rfl

/-- Settles O17: whether form 1 meets an enabled ring decides the two cases; the table after a RINGSET is read back field by field. -/
theorem ringsetApplies : Obligations.RingsetApplies := by
  intro s tag e x hs hc
  have hx : exec (.ringset tag) s = .next (if x.full && (ringOf s x.ring).en then finish tag (outc .ringState 0x1000 0) s
      else finish tag (outc .ok 0 1) (applyRingset x s)) := by
    change execRingset tag s = _
    simp only [execRingset, hs, hc]
  constructor
  · intro hfull hen
    rw [if_pos (by simp [hfull, hen])] at hx
    exact ⟨_, hx, finish_completed _ _ _⟩
  · intro hno
    rw [if_neg (by simpa using hno)] at hx
    obtain ⟨hents, hweights, hbells, howners⟩ := applyRingset_rng x s
    have hring : ringOf (applyRingset x s) x.ring = ringAfter x (ringOf s x.ring) := by
      rw [ringOf, hents, tget_tset_self]
    refine ⟨applyRingset x s, _, hx, finish_completed _ _ _, ?_, ?_, ?_, fun hfull => ?_, fun hfull => ?_, fun n hn => ⟨?_, ?_, ?_⟩,
      applyRingset_frame x s⟩
    · rw [hring]; unfold ringAfter; cases x.full <;> rfl
    · rw [hring]; unfold ringAfter; cases x.full <;> rfl
    · rw [ringWeight, hweights, tget_tset_self]
    · rw [hring, ringBell, hbells, ringOwner, howners]
      simp [ringAfter, hfull]
    · rw [hring, ringBell, hbells, ringOwner, howners]
      simp [ringAfter, hfull, ringBell, ringOwner]
    · rw [ringOf, hents, tget_tset_ne _ _ hn]; rfl
    · rw [ringWeight, hweights, tget_tset_ne _ _ hn]; rfl
    · rw [ringBell, hbells]
      split
      · rw [tget_tset_ne _ _ hn]; rfl
      · rfl

end Sys2Proof.Proofs
end

section
/-! SUPPORT. What a command that writes bytes out asks for (R340, R376): the lines of memory or words of the Hayloft that its bytes lie in, each
with its own bytes enabled. -/

namespace Sys2Proof.Proofs

open Sys2Proof.Machine Sys2Proof.Laws

/-! ### Bytes of a number -/

theorem ofBytes_byte (l : List Byte) (i : Nat) : ofBytes l / 2 ^ (8 * i) % 2 ^ 8 = (l.getD i 0).toNat := by
  induction l generalizing i with
  | nil => simp [ofBytes]
  | cons b r ih =>
    have hb := b.isLt
    cases i with
    | zero => simp only [ofBytes, List.getD_cons_zero]; omega
    | succ i =>
      have hsplit : ofBytes (b :: r) / 2 ^ (8 * (i + 1)) = ofBytes r / 2 ^ (8 * i) := by
        rw [show 8 * (i + 1) = 8 + 8 * i by omega, pow_add, ← Nat.div_div_eq_div_mul]
        congr 1
        simp only [ofBytes]
        omega
      rw [hsplit, ih]
      rfl

/-- Byte `i` of a number packed into `w` bits. -/
theorem byteAt_ofNat {w i : Nat} (x : Nat) (hi : 8 * i + 8 ≤ w) : (byteAt (BitVec.ofNat w x) i).toNat = x / 2 ^ (8 * i) % 2 ^ 8 := by
  refine Nat.eq_of_testBit_eq fun k => ?_
  by_cases hk : k < 8
  · have h : 8 * i + k < w := by omega
    rw [Nat.testBit_mod_two_pow, Nat.testBit_div_two_pow, decide_eq_true hk, Bool.true_and, BitVec.testBit_toNat, byteAt, BitVec.getLsbD_extractLsb',
      decide_eq_true hk, Bool.true_and, BitVec.getLsbD_ofNat, decide_eq_true h, Bool.true_and, Nat.add_comm k]
  · rw [Nat.testBit_mod_two_pow, decide_eq_false hk, Bool.false_and, BitVec.testBit_toNat, byteAt, BitVec.getLsbD_extractLsb', decide_eq_false hk, Bool.false_and]

/-- Byte `lo + j` of a list of bytes placed at byte `lo`. -/
theorem byteAt_ofBytes {w lo j : Nat} (l : List Byte) (hj : 8 * (lo + j) + 8 ≤ w) :
    byteAt (BitVec.ofNat w (ofBytes l * 2 ^ (8 * lo))) (lo + j) = l.getD j 0 := by
  refine BitVec.eq_of_toNat_eq ?_
  rw [byteAt_ofNat _ hj, Nat.mul_add 8 lo j, pow_add, ← Nat.div_div_eq_div_mul, Nat.mul_div_cancel _ (Nat.two_pow_pos _), ofBytes_byte]

/-! ### The units that a range of bytes lies in -/

/-- A part of the bytes `a` to `a + n - 1` within one unit of `u` bytes: the unit's address, the first byte in it, how many. -/
structure Span (u a n : Nat) (p : Nat × Nat × Nat) : Prop where
  aligned : p.1 % u = 0
  inside : p.2.1 + p.2.2 ≤ u
  lower : a ≤ p.1 + p.2.1
  upper : p.1 + p.2.1 + p.2.2 ≤ a + n

/-- Parts of a range of bytes that together hold each of them. -/
structure Spans (u a n : Nat) (l : List (Nat × Nat × Nat)) : Prop where
  each : ∀ p ∈ l, Span u a n p
  cover : ∀ i, i < n → ∃ p ∈ l, p.1 = u * ((a + i) / u) ∧ p.2.1 ≤ (a + i) % u ∧ (a + i) % u < p.2.1 + p.2.2

theorem Spans.ne_nil {u a n : Nat} {l : List (Nat × Nat × Nat)} (h : Spans u a n l) (hn : 0 < n) : 0 < l.length := by
  obtain ⟨p, hp, -⟩ := h.cover 0 hn
  exact List.length_pos_of_mem hp

/-- Part `i` of a range of bytes, in units of `u`. -/
def spanAt (u a n i : Nat) : Nat × Nat × Nat :=
  (u * (a / u + i), if i = 0 then a % u else 0, min u (a + n - u * (a / u + i)) - if i = 0 then a % u else 0)

theorem span_spanAt {u a n i : Nat} (hu : 0 < u) (h : u * (a / u + i) < a + n) (hlen : 0 < (spanAt u a n i).2.2) : Span u a n (spanAt u a n i) := by
  have hdiv := Nat.div_add_mod a u
  have hmod := Nat.mod_lt a hu
  have hmul : u * (a / u + i) = u * (a / u) + u * i := Nat.mul_add _ _ _
  refine ⟨Nat.mul_mod_right _ _, ?_, ?_, ?_⟩
  · simp only [spanAt] at hlen ⊢; omega
  · simp only [spanAt]
    split
    · next h0 => subst h0; omega
    · next h0 =>
      have : u * 1 ≤ u * i := Nat.mul_le_mul_left u (by omega)
      omega
  · simp only [spanAt] at hlen ⊢; omega

/-- Byte `i` of a range lies in the part of its unit. -/
theorem mem_spanAt {u a n i : Nat} (hu : 0 < u) (hi : i < n) : let k := (a + i) / u - a / u
    k < n / u + 2 ∧ u * (a / u + k) < a + n ∧ (spanAt u a n k).1 = u * ((a + i) / u) ∧ (spanAt u a n k).2.1 ≤ (a + i) % u
      ∧ (a + i) % u < (spanAt u a n k).2.1 + (spanAt u a n k).2.2 := by
  intro k
  have hle : a / u ≤ (a + i) / u := Nat.div_le_div_right (by omega)
  have hk : a / u + k = (a + i) / u := by omega
  have hdiv := Nat.div_add_mod a u
  have hdiv' := Nat.div_add_mod (a + i) u
  have hmod := Nat.mod_lt a hu
  have hmod' := Nat.mod_lt (a + i) hu
  have hlo : (if k = 0 then a % u else 0) ≤ (a + i) % u := by
    split
    · next h0 => rw [h0, Nat.add_zero] at hk; rw [← hk] at hdiv'; omega
    · omega
  have hsum : u * (a / u + k) = u * (a / u) + u * k := Nat.mul_add _ _ _
  refine ⟨?_, ?_, ?_, hlo, ?_⟩
  · by_contra hbig
    have h1 : u * (n / u + 2) ≤ u * k := Nat.mul_le_mul_left u (by omega)
    have h2 := Nat.div_add_mod n u
    have h3 := Nat.mod_lt n hu
    have h4 : u * (n / u + 2) = u * (n / u) + u * 2 := Nat.mul_add _ _ _
    rw [← hk] at hdiv'
    omega
  · rw [hk]; omega
  · exact congrArg (u * ·) hk
  · simp only [spanAt, hk]
    omega

theorem spans_haySplit (a n : Nat) : Spans 64 a n (haySplit a n) := by
  have heq : haySplit a n = ((List.range (n / 64 + 2)).map fun i =>
      if 64 * (a / 64 + i) < a + n then spanAt 64 a n i else ((spanAt 64 a n i).1, (spanAt 64 a n i).2.1, 0)).filter fun p => p.2.2 ≠ 0 := by
    unfold haySplit
    congr 1
    refine List.map_congr_left fun i _ => ?_
    simp only [spanAt]
    by_cases hlt : 64 * (a / 64 + i) < a + n
    · rw [if_pos hlt, if_pos hlt]
    · rw [if_neg hlt, if_neg hlt]
  rw [heq]
  constructor
  · intro p hp
    obtain ⟨hp, hne⟩ := List.mem_filter.1 hp
    obtain ⟨i, -, rfl⟩ := List.mem_map.1 hp
    split at hne
    · next h => rw [if_pos h]; exact span_spanAt (by decide) h (by simpa [Nat.pos_iff_ne_zero] using hne)
    · exact absurd hne (by simp)
  · intro i hi
    obtain ⟨hk, hlt, hbase, hlo, hhi⟩ := mem_spanAt (u := 64) (a := a) (by decide) hi
    refine ⟨_, List.mem_filter.2 ⟨List.mem_map.2 ⟨_, List.mem_range.2 hk, by rw [if_pos hlt]⟩, ?_⟩, hbase, hlo, hhi⟩
    simp only [decide_eq_true_eq]
    omega

/-- The lines of memory that the bytes `a` to `a + n - 1` lie in. -/
def lineSplit (a n : Nat) : List (Nat × Nat × Nat) :=
  (List.range (n / 128 + 2)).filterMap fun i =>
    if 128 * (a / 128 + i) < a + n ∧ (if i = 0 then a % 128 else 0) < min 128 (a + n - 128 * (a / 128 + i)) then some (spanAt 128 a n i) else none

theorem spans_lineSplit (a n : Nat) : Spans 128 a n (lineSplit a n) := by
  constructor
  · intro p hp
    obtain ⟨i, -, h⟩ := List.mem_filterMap.1 hp
    obtain ⟨⟨hlt, hlo⟩, heq⟩ := Option.ite_none_right_eq_some.1 h
    obtain rfl := Option.some.inj heq
    exact span_spanAt (by decide) hlt (by simp only [spanAt]; omega)
  · intro i hi
    obtain ⟨hk, hlt, hbase, hlo, hhi⟩ := mem_spanAt (u := 128) (a := a) (by decide) hi
    refine ⟨_, List.mem_filterMap.2 ⟨_, List.mem_range.2 hk, if_pos ⟨hlt, ?_⟩⟩, hbase, hlo, hhi⟩
    simp only [spanAt] at hlo hhi ⊢
    omega

/-- Byte `(a + i) % u` of the part that holds byte `i`, placed in its unit. -/
theorem byteAt_span {w u a i : Nat} {bs : List Byte} {p : Nat × Nat × Nat} (hp : Span u a bs.length p) (hw : 8 * u ≤ w)
    (hbase : p.1 = u * ((a + i) / u)) (hlo : p.2.1 ≤ (a + i) % u) (hhi : (a + i) % u < p.2.1 + p.2.2) :
    byteAt (BitVec.ofNat w (ofBytes ((bs.drop (p.1 + p.2.1 - a)).take p.2.2) * 2 ^ (8 * p.2.1))) ((a + i) % u) = bs.getD i 0 := by
  obtain ⟨-, hin, hlower, -⟩ := hp
  have hdiv := Nat.div_add_mod (a + i) u
  rw [← hbase] at hdiv
  obtain ⟨j, hj⟩ := Nat.exists_eq_add_of_le hlo
  rw [hj, byteAt_ofBytes _ (by omega), List.getD_eq_getElem?_getD, List.getElem?_take, if_pos (by omega), List.getElem?_drop,
    ← List.getD_eq_getElem?_getD]
  congr 1
  omega

/-! ### Accesses and requests asked for in order -/

theorem askHays_frame (as : List HayAcc) (s : State) : askHays as s
    = { s with regs := (askHays as s).regs, hay := { s.hay with waiting := s.hay.waiting ++ as, banks := (askHays as s).hay.banks } } := by
  induction as generalizing s with
  | nil => simp [askHays]
  | cons a r ih =>
    have h := ih (askHay a s)
    rw [show askHays (a :: r) s = askHays r (askHay a s) from rfl, h, askHay_frame]
    simp

theorem tagOf_askHays (as : List HayAcc) (t : Tag) (s : State) : tagOf (askHays as s) t = tagOf s t := by
  rw [askHays_frame]; rfl

theorem foldl_askMem {β : Type} (f : β → OutReq) (l : List β) (s : State) :
    l.foldl (fun s p => askMem (f p) s) s = { s with noc := { s.noc with outQ := s.noc.outQ ++ l.map f } } := by
  induction l generalizing s with
  | nil => simp
  | cons p r ih => rw [List.foldl_cons, ih]; simp [askMem]

/-! ### Writing bytes out -/

/-- The write of one line of a dump. -/
def lineWr (tag : Tag) (a : Nat) (bs : List Byte) (p : Nat × Nat × Nat) : OutReq :=
  ⟨true, p.1, BitVec.ofNat 1024 (ofBytes ((bs.drop (p.1 + p.2.1 - a)).take p.2.2) * 2 ^ (8 * p.2.1)),
    BitVec.ofNat 128 ((2 ^ p.2.2 - 1) * 2 ^ p.2.1), .dump tag⟩

/-- Requests put behind those that wait to be sent. -/
def queueOut (q : List OutReq) (s : State) : State := { s with noc := { s.noc with outQ := s.noc.outQ ++ q } }

theorem tagOf_queueOut (q : List OutReq) (s : State) (t : Tag) : tagOf (queueOut q s) t = tagOf s t := rfl

theorem writeOut_mem (tag : Tag) (m a : Nat) (bs : List Byte) (s : State) : writeOut tag m false a bs s
    = queueOut ((lineSplit a bs.length).map (lineWr tag a bs)) (updJob tag (fun j => { j with wrOut := j.wrOut + (lineSplit a bs.length).length }) s) :=
  foldl_askMem (lineWr tag a bs) (lineSplit a bs.length) _

theorem writeOut_hay (tag : Tag) (m a : Nat) (bs : List Byte) (s : State) : writeOut tag m true a bs s
    = askHays (writeAccs m a bs (.dump tag)) (updJob tag (fun j => { j with wrOut := j.wrOut + (writeAccs m a bs (.dump tag)).length }) s) := rfl

/-- Writing out changes what waits to be sent or performed, banks' power, counters and the command's count of its writes alone. -/
theorem writeOut_frame (tag : Tag) (m : Nat) (hay : Bool) (a : Nat) (bs : List Byte) (s : State) : let t := writeOut tag m hay a bs s
    t = { s with regs := t.regs, hay := { s.hay with waiting := t.hay.waiting, banks := t.hay.banks }, noc := { s.noc with outQ := t.noc.outQ },
                 tly := { s.tly with tags := t.tly.tags } } := by
  cases hay with
  | false => rw [writeOut_mem]; rfl
  | true => rw [writeOut_hay, askHays_frame]; rfl

/-- Writing out changes of its command the count of its writes alone, and of other commands nothing. -/
theorem tagOf_writeOut_self (tag : Tag) (m : Nat) (hay : Bool) (a : Nat) (bs : List Byte) (s : State) :
    ∃ n, tagOf (writeOut tag m hay a bs s) tag = { tagOf s tag with job := { (tagOf s tag).job with wrOut := n } } := by
  cases hay with
  | false => rw [writeOut_mem, tagOf_queueOut]; exact ⟨_, tagOf_updJob_self _ _ _⟩
  | true => rw [writeOut_hay, tagOf_askHays]; exact ⟨_, tagOf_updJob_self _ _ _⟩

theorem tagOf_writeOut_ne {tag x : Tag} (hx : x ≠ tag) (m : Nat) (hay : Bool) (a : Nat) (bs : List Byte) (s : State) :
    tagOf (writeOut tag m hay a bs s) x = tagOf s x := by
  cases hay with
  | false => rw [writeOut_mem, tagOf_queueOut]; exact tagOf_updJob_ne hx _ _
  | true => rw [writeOut_hay, tagOf_askHays]; exact tagOf_updJob_ne hx _ _

/-- The writes that a dump asks for (R340, R376), of a command that differs from `s`'s in progress but its state. -/
theorem writeOut_asked {tag : Tag} {m a : Nat} {hay : Bool} {bs : List Byte} (hbs : bs ≠ []) {s u : State} (hnoc : u.noc = s.noc)
    (hhay : u.hay = s.hay) (hshf : u.shf = s.shf) (hst : (tagOf u tag).st = (tagOf s tag).st) :
    AskedWrites s (writeOut tag m hay a bs u) tag hay a bs := by
  have hlen : 0 < bs.length := List.length_pos_iff.2 hbs
  have hmem := spans_lineSplit a bs.length
  have hwords := spans_haySplit a bs.length
  refine ⟨?_, ?_, ?_, ?_⟩
  · rintro rfl
    rw [writeOut_mem]
    refine ⟨(lineSplit a bs.length).map (lineWr tag a bs), by rw [← hnoc]; rfl, hhay, ?_, ?_, fun i hi => ?_⟩
    · intro r hr
      obtain ⟨p, hp, rfl⟩ := List.mem_map.1 hr
      exact ⟨rfl, rfl, (hmem.each p hp).aligned⟩
    · intro r hr k hk hbit
      obtain ⟨p, hp, rfl⟩ := List.mem_map.1 hr
      obtain ⟨-, -, hlower, hupper⟩ := hmem.each p hp
      obtain ⟨h1, h2⟩ := (bit_ones hk).1 hbit
      simp only [lineWr]
      omega
    · obtain ⟨p, hp, hbase, hlo, hhi⟩ := hmem.cover i hi
      exact ⟨_, List.mem_map_of_mem hp, hbase, (bit_ones (Nat.mod_lt _ (by decide))).2 ⟨hlo, hhi⟩,
        byteAt_span (hmem.each p hp) (by decide) hbase hlo hhi⟩
  · rintro rfl
    rw [writeOut_hay, askHays_frame]
    refine ⟨writeAccs m a bs (.dump tag), by rw [← hhay]; rfl, hnoc, by rw [← hhay]; rfl, ?_, ?_, fun i hi => ?_⟩
    · intro w hw
      obtain ⟨p, hp, rfl⟩ := List.mem_map.1 hw
      exact ⟨rfl, rfl, (hwords.each p hp).aligned⟩
    · intro w hw k hk hbit
      obtain ⟨p, hp, rfl⟩ := List.mem_map.1 hw
      obtain ⟨-, -, hlower, hupper⟩ := hwords.each p hp
      obtain ⟨h1, h2⟩ := (bit_beRange hk).1 hbit
      simp only [hayWr]
      omega
    · obtain ⟨p, hp, hbase, hlo, hhi⟩ := hwords.cover i hi
      exact ⟨_, List.mem_map_of_mem hp, hbase, (bit_beRange (Nat.mod_lt _ (by decide))).2 ⟨hlo, hhi⟩,
        byteAt_span (hwords.each p hp) (by decide) hbase hlo hhi⟩
  · cases hay with
    | false =>
      rw [writeOut_mem, tagOf_queueOut, tagOf_updJob_self]
      refine ⟨hst, ?_⟩
      have h := hmem.ne_nil hlen
      dsimp only
      omega
    | true =>
      rw [writeOut_hay, tagOf_askHays, tagOf_updJob_self]
      refine ⟨hst, ?_⟩
      have h := hwords.ne_nil hlen
      simp only [writeAccs, List.length_map]
      omega
  · rw [writeOut_frame]; exact hshf

end Sys2Proof.Proofs
end

section
/-! SUPPORT. Proofs about PREEMPT (R333, R334): what stopping a waiting command withdraws. -/

set_option maxRecDepth 20000

namespace Sys2Proof.Proofs

open Sys2Proof.Machine Sys2Proof.Tests

/-- The read of a descriptor slot that a waiting transfer in tag 6 has asked for. -/
def slotRead : HayAcc := hayRd 9 0 (-1) (.slot 6 0)

/-- Tag 5 is a PREEMPT of tag 6, a TLD through a descriptor that waits and has asked for its descriptor slot. -/
def preemptingAsker : State :=
  let s := setTag 6 (lay (.desc false default)) (on5 { lay (.preempt 1 0) with acc := 1, place := 1 })
  { s with hay := { s.hay with waiting := [slotRead] } }

theorem exec_preempt_preemptingAsker : ∃ t, exec (.preempt 5) preemptingAsker = .next t ∧ t.hay.waiting = [] := ⟨_, rfl, by decide⟩

/-- Refutes O13: its first clause says that all of `hay` stays as it was, but a waiting transfer may have asked for its descriptor slots, and
stopping it withdraws those reads (`dropAsks`). -/
theorem not_preemptAndResume : ¬ Obligations.PreemptAndResume := by
  rintro ⟨h, -⟩
  obtain ⟨hstops, -⟩ := h preemptingAsker 5 1 0 (by decide) (by decide)
  obtain ⟨t, ht, -, -, -, -, -, -, -, hhay, -⟩ :=
    hstops 6 (lay (.desc false default)) (by decide) (by decide) (by decide) (by decide) (by decide) (by decide) (by decide)
  obtain ⟨u, hu, hnone⟩ := exec_preempt_preemptingAsker
  obtain rfl : u = t := Host.Outcome.next.inj (hu.symm.trans ht)
  have hwaits : u.hay.waiting = [slotRead] := congrArg Hayloft.waiting hhay
  exact absurd (hnone.symm.trans hwaits) (by decide)

end Sys2Proof.Proofs
end

section
/-! SUPPORT. Proofs about AUDIT (R338-R344): its reply and what it logs. -/

namespace Sys2Proof.Proofs

open Sys2Proof.Machine Sys2Proof.Laws

/-! ### Logging the sums that fail -/

theorem foldl_logSum_of_passing {xs : List AuditSum} (h : ∀ x ∈ xs, x.fails = false) (s : State) : xs.foldl logSum s = s := by
  induction xs with
  | nil => rfl
  | cons x r ih =>
    rw [List.foldl_cons, logSum, h x List.mem_cons_self, if_neg Bool.false_ne_true]
    exact ih fun y hy => h y (List.mem_cons_of_mem _ hy)

/-- A part of the state that the error log leaves alone is as it was after the sums are logged. -/
theorem foldl_logSum_proj {γ : Type} (p : State → γ) (hp : ∀ kind isl unit loc info s, p (logErr kind isl unit loc info s) = p s)
    (xs : List AuditSum) (s : State) : p (xs.foldl logSum s) = p s := by
  refine foldl_proj p logSum (fun s x => ?_) xs s
  unfold logSum
  split
  · exact hp ..
  · rfl

/-! ### The reply -/

/-- The low bits of a detail that notes a class each. -/
def classBits (q : Nat → Bool) : Nat := (List.range 4).foldl (fun m c => m + if q c then 2 ^ c else 0) 0

theorem classBits_lt (q : Nat → Bool) : classBits q < 16 := by
  have h : ∀ (c k : Nat), (if q c then k else 0) ≤ k := fun c k => by split <;> omega
  have h0 := h 0 (2 ^ 0)
  have h1 := h 1 (2 ^ 1)
  have h2 := h 2 (2 ^ 2)
  have h3 := h 3 (2 ^ 3)
  simp only [classBits, List.range, List.range.loop, List.foldl]
  omega

theorem classBits_bit (q : Nat → Bool) {c : Nat} (hc : c < 4) : classBits q / 2 ^ c % 2 = b2n (q c) := by
  simp only [classBits, List.range, List.range.loop, List.foldl]
  rcases (by omega : c = 0 ∨ c = 1 ∨ c = 2 ∨ c = 3) with rfl | rfl | rfl | rfl <;>
    cases q 0 <;> cases q 1 <;> cases q 2 <;> cases q 3 <;> rfl

theorem bit_auditDetail (q : Nat → Bool) (low : Nat) {c : Nat} (hc : c < 4) : bit (BitVec.ofNat 16 (classBits q + 256 * low)) c = q c := by
  have hsplit : (classBits q + 256 * low) / 2 ^ c % 2 = classBits q / 2 ^ c % 2 := by
    rcases (by omega : c = 0 ∨ c = 1 ∨ c = 2 ∨ c = 3) with rfl | rfl | rfl | rfl <;> omega
  rw [bit_ofNat _ (by omega), hsplit, classBits_bit q hc, decide_b2n_eq_one]

theorem fld_auditDetail (q : Nat → Bool) (low : Nat) : fld (BitVec.ofNat 16 (classBits q + 256 * low)) 15 8 = low % 256 := by
  have h := classBits_lt q
  rw [fld_ofNat _ (by decide) (by decide)]
  omega

/-- The lowest identifier of a list of sums that is not empty. -/
def lowestId (b : AuditSum) (r : List AuditSum) : Nat := r.foldl (fun m x => min m x.id) b.id

theorem lowestId_eq (b : AuditSum) (r : List AuditSum) : ∃ x ∈ b :: r, x.id = lowestId b r ∧ ∀ y ∈ b :: r, x.id ≤ y.id := by
  have h : ∀ (l : List AuditSum) (m : Nat), l.foldl (fun m x => min m x.id) m ≤ m ∧ (∀ y ∈ l, l.foldl (fun m x => min m x.id) m ≤ y.id)
      ∧ (l.foldl (fun m x => min m x.id) m = m ∨ ∃ x ∈ l, x.id = l.foldl (fun m x => min m x.id) m) := by
    intro l
    induction l with
    | nil => simp
    | cons a l ih =>
      intro m
      obtain ⟨hle, hall, hex⟩ := ih (min m a.id)
      simp only [List.foldl_cons, List.mem_cons, forall_eq_or_imp, exists_eq_or_imp]
      refine ⟨by omega, ⟨by omega, hall⟩, ?_⟩
      rcases hex with hex | hex
      · rw [hex]; omega
      · exact .inr (.inr hex)
  obtain ⟨hle, hall, hex⟩ := h r b.id
  have hmin : ∀ y ∈ b :: r, lowestId b r ≤ y.id := fun y hy => (List.mem_cons.1 hy).elim (fun h => h ▸ hle) (hall y)
  rcases hex with hex | ⟨x, hx, hex⟩
  · exact ⟨b, List.mem_cons_self, hex.symm, fun y hy => hex.symm.trans_le (hmin y hy)⟩
  · exact ⟨x, List.mem_cons_of_mem _ hx, hex, fun y hy => hex.trans_le (hmin y hy)⟩

theorem auditReply_of_passing {xs : List AuditSum} (h : ∀ x ∈ xs, x.fails = false) : auditReply xs = outc .ok 0 xs.length := by
  have hnone : xs.filter AuditSum.fails = [] := List.filter_eq_nil_iff.2 fun x hx => by simp [h x hx]
  simp only [auditReply, hnone]

theorem outc_detail (st : Status) (d n : Nat) : (outc st d n).detail = BitVec.ofNat 16 d := rfl

/-- The reply of an AUDIT with sums that fail. -/
theorem auditReply_of_failing {xs : List AuditSum} (h : ∃ x ∈ xs, x.fails = true) : let o := auditReply xs
    o.status = .auditMismatch ∧ o.count = BitVec.ofNat 32 (xs.countP AuditSum.fails)
    ∧ (∀ c, c < 4 → (bit o.detail c = true ↔ ∃ x ∈ xs, x.fails = true ∧ sumClass x.id = c))
    ∧ ∃ x ∈ xs, x.fails = true ∧ fld o.detail 15 8 = x.id % 256 ∧ ∀ y ∈ xs, y.fails = true → x.id ≤ y.id := by
  intro o
  have hmem : ∀ x, x ∈ xs.filter AuditSum.fails ↔ x ∈ xs ∧ x.fails = true := fun x => List.mem_filter
  obtain ⟨x, hx, hf⟩ := h
  obtain ⟨b, r, hbad⟩ := List.exists_cons_of_ne_nil (List.ne_nil_of_mem ((hmem x).2 ⟨hx, hf⟩))
  have ho : o = outc .auditMismatch (classBits (fun c => (b :: r).any fun x => sumClass x.id == c) + 256 * lowestId b r) (b :: r).length := by
    simp only [o, auditReply, hbad]
    rfl
  rw [hbad] at hmem
  rw [ho, List.countP_eq_length_filter, hbad]
  refine ⟨rfl, rfl, fun c hc => ?_, ?_⟩
  · rw [outc_detail, bit_auditDetail _ _ hc]
    simp only [List.any_eq_true, beq_iff_eq, hmem, and_assoc]
  · obtain ⟨y, hy, hid, hlow⟩ := lowestId_eq b r
    obtain ⟨hy, hyf⟩ := (hmem y).1 hy
    refine ⟨y, hy, hyf, ?_, fun z hz hzf => hlow z ((hmem z).2 ⟨hz, hzf⟩)⟩
    rw [outc_detail, fld_auditDetail, hid]

theorem sumsOf_all_length (s : State) : (sumsOf s 15).length = 105 := by
  have h0 : (sums0 s).length = 94 := by simp [sums0, crossings, List.flatMap, List.range, List.range.loop]
  have h2 : (sums2 s).length = 8 := by simp [sums2]
  rw [sumsOf, if_pos (by decide), if_pos (by decide), if_pos (by decide), if_pos (by decide)]
  simp [h0, h2, sums1, sums3]

theorem auditDump_ne_nil (s : State) (mask : Nat) (xs : List AuditSum) : auditDump s mask xs ≠ [] := by
  simp [auditDump, leBytes, List.range, List.range.loop]

/-! ### The command -/

variable {s : State} {tag : Tag} {e : TagEntry} {mask addr : Nat} {dump hay : Bool}

theorem endAudit_completed (tag : Tag) (o : Outc) (s : State) : Completed (cnt 0x9050 1 s) (endAudit tag o s) tag o :=
  finish_completed tag o (cnt 0x9050 1 s)

theorem exec_audit_mask_zero (hs : started s tag .audit = some e) (hc : e.cmd = some (.audit 0 dump hay addr)) (h0 : e.job.stage = 0) :
    exec (.audit tag) s = .next (endAudit tag (outc .ok 0 0) s) := by
  change execAudit tag s = _
  simp only [execAudit, hs, hc, if_pos h0, if_pos]

theorem exec_audit_plain (hs : started s tag .audit = some e) (hc : e.cmd = some (.audit mask false hay addr)) (h0 : e.job.stage = 0)
    (hm : mask ≠ 0) : exec (.audit tag) s
      = .next (endAudit tag (auditReply (sumsOf s mask))
          (cnt 0x9054 ((sumsOf s mask).countP AuditSum.fails) ((sumsOf s mask).foldl logSum s))) := by
  change execAudit tag s = _
  simp only [execAudit, hs, hc, if_pos h0, if_neg hm, Bool.false_eq_true, if_false, List.countP_eq_length_filter]

/-- The progress of an AUDIT whose dump is being written. -/
def dumping (xs : List AuditSum) (j : Job) : Job :=
  { j with stage := 1, bad := if (auditReply xs).status = .ok then none else some (auditReply xs).detail, landed := (auditReply xs).count.toNat }

theorem exec_audit_dump (hs : started s tag .audit = some e) (hc : e.cmd = some (.audit mask true hay addr)) (h0 : e.job.stage = 0)
    (hm : mask ≠ 0) : exec (.audit tag) s
      = .next (writeOut tag 9 hay addr (auditDump s mask (sumsOf s mask)) (updJob tag (dumping (sumsOf s mask))
          (cnt 0x9054 ((sumsOf s mask).countP AuditSum.fails) ((sumsOf s mask).foldl logSum s)))) := by
  change execAudit tag s = _
  simp only [execAudit, hs, hc, if_pos h0, if_neg hm, if_true, List.countP_eq_length_filter]
  rfl

theorem exec_audit_dumped (hs : started s tag .audit = some e) (hc : e.cmd = some (.audit mask dump hay addr)) (h0 : e.job.stage ≠ 0)
    (hw : e.job.wrOut = 0) : exec (.audit tag) s = .next (endAudit tag (match e.job.bad with
      | some d => outc .auditMismatch d.toNat e.job.landed | none => outc .ok 0 e.job.landed) s) := by
  change execAudit tag s = _
  simp only [execAudit, hs, hc, if_neg h0, hw, ne_eq, not_true_eq_false, if_false] <;> rfl

/-- Settles O14, case by case of the command's progress; the reply's fields come from the list of the sums that fail. -/
theorem auditReplies : Obligations.AuditReplies := by
  constructor
  · intro s tag e mask addr dump hay hs hc h0 xs
    refine ⟨?_, ?_, ?_, sumsOf_all_length s⟩
    · rintro rfl
      exact ⟨_, exec_audit_mask_zero hs hc h0, endAudit_completed ..⟩
    · rintro hm rfl hpass
      refine ⟨_, exec_audit_plain hs hc h0 hm, ?_⟩
      rw [auditReply_of_passing hpass, foldl_logSum_of_passing hpass, List.countP_eq_zero.2 fun x hx => by simp [hpass x hx]]
      exact endAudit_completed ..
    · rintro hm rfl hfail
      obtain ⟨hst, hcount, hcls, hlow⟩ := auditReply_of_failing hfail
      exact ⟨_, _, exec_audit_plain hs hc h0 hm, endAudit_completed .., rfl, hst, hcount, hcls, hlow⟩
  · intro s tag e mask addr hay hs hc hm xs
    constructor
    · intro h0
      refine ⟨_, exec_audit_dump hs hc h0 hm, ?_⟩
      set v := cnt 0x9054 (xs.countP AuditSum.fails) (xs.foldl logSum s) with hv
      set u := updJob tag (dumping xs) v with hu
      have htag : ∀ x, tagOf v x = tagOf s x := fun x => foldl_logSum_proj (tagOf · x) (fun _ _ _ _ _ _ => tagOf_logErr ..) xs s
      have hhay : v.hay = s.hay := foldl_logSum_proj State.hay logErr_hay xs s
      obtain ⟨rfl, hst⟩ := started_tagOf hs
      have hself : tagOf u tag = { tagOf s tag with job := dumping xs (tagOf s tag).job } := by rw [hu, tagOf_updJob_self, htag]
      obtain ⟨n, hn⟩ := tagOf_writeOut_self tag 9 hay addr (auditDump s mask xs) u
      refine ⟨writeOut_asked (auditDump_ne_nil s mask xs) rfl rfl rfl (by rw [hself, htag]), ?_, ?_, ?_, ?_, ?_, fun x hx => ?_⟩
      · rw [hn, hself]; exact hst
      · rw [hn, hself]; rfl
      · rw [hn, hself]; rfl
      · rw [hn, hself]; rfl
      · rw [writeOut_frame, show u.hay.mem = s.hay.mem from congrArg Hayloft.mem hhay]
      · rw [tagOf_writeOut_ne hx, hu, tagOf_updJob_ne hx, htag]
    · intro h0 hw
      exact ⟨_, exec_audit_dumped hs hc h0 hw, endAudit_completed ..⟩

end Sys2Proof.Proofs
end

section
/-! SUPPORT. Proofs about the raw accesses and DSCRUB (R362, R375, R376): what a request of the Tinker changes. -/

namespace Sys2Proof.Proofs

open Sys2Proof.Machine Sys2Proof.Laws

/-! ### Waking groups and sending to a bank -/

theorem wakeGroups_frame (gs : List Nat) (s : State) : wakeGroups gs s = { s with shf := { s.shf with groups := (wakeGroups gs s).shf.groups } } := by
  induction gs generalizing s with
  | nil => rfl
  | cons g r ih =>
    rw [show wakeGroups (g :: r) s = wakeGroups r (if (groupOf s g).ready then s else wakeGroup g s) from rfl, ih]
    split <;> rfl

theorem groupOf_wakeGroups_one (b : Nat) (s : State) (g : Nat) :
    groupOf (wakeGroups [b] s) g = if g = b ∧ (groupOf s g).ready = false then (groupOf s g).wakeUp else groupOf s g := by
  rw [show wakeGroups [b] s = if (groupOf s b).ready then s else wakeGroup b s from rfl]
  by_cases hg : g = b
  · subst hg
    cases hr : (groupOf s g).ready with
    | true => simp
    | false => simp [wakeGroup]
  · rw [if_neg (not_and_of_not_left _ hg)]
    split
    · rfl
    · exact groupOf_setGroup_ne hg _ s

theorem crossIn_frame (c : Nat) (s : State) : crossIn c s = { s with crt := { s.crt with cross := (crossIn c s).crt.cross } } := by
  unfold crossIn
  split <;> rfl

theorem sendTink_frame (q : TinkReq) (s : State) : sendTink q s = { s with
    mil := { s.mil with tinker := s.mil.tinker ++ [q] }
    crt := { s.crt with cross := (sendTink q s).crt.cross }
    shf := { s.shf with groups := (sendTink q s).shf.groups } } := by
  unfold sendTink askTink
  rw [crossIn_frame, wakeGroups_frame]

theorem tagOf_sendTink (q : TinkReq) (t : Tag) (s : State) : tagOf (sendTink q s) t = tagOf s t := by
  rw [sendTink_frame]; rfl

theorem tagOf_rawAsked_self (tag : Tag) (k : Nat) (s : State) :
    tagOf (rawAsked tag k s) tag = { tagOf s tag with job := { (tagOf s tag).job with stage := k, wrOut := (tagOf s tag).job.wrOut + 1 } } :=
  tagOf_updJob_self ..

/-! ### Reading an image in -/

theorem askBytes_frame (m a n : Nat) (use : Nat → HayUse) (s : State) : askBytes m a n use s = { s with
    regs := (askBytes m a n use s).regs
    hay := { s.hay with waiting := s.hay.waiting ++ (haySplit a n).map fun p => hayRd m p.1 (beRange p.2.1 p.2.2) (use p.1)
                        banks := (askBytes m a n use s).hay.banks } } :=
  askHays_frame _ s

/-- The progress of a command that has asked for `n` bytes of an image. -/
def imageAsked (hay : Bool) (addr n : Nat) (j : Job) : Job :=
  { j with stage := 1, want := ((Side.of hay false false).units ((List.range n).map (addr + ·))).map fun u => (0, u) }

theorem readIn_mem (tag : Tag) (addr n : Nat) (s : State) : readIn tag false addr n s
    = queueOut (((Side.of false false false).units ((List.range n).map (addr + ·))).map fun u => ⟨false, u, 0, 0, .unitFor tag 0 u⟩)
        (updJob tag (imageAsked false addr n) s) :=
  foldl_askMem (fun u => ⟨false, u, 0, 0, .unitFor tag 0 u⟩) _ _

theorem readIn_hay (tag : Tag) (addr n : Nat) (s : State) : readIn tag true addr n s
    = askBytes 11 addr n (.unitFor tag 0) (updJob tag (imageAsked true addr n) s) := rfl

/-- What a raw write asks for first (R375). -/
theorem readIn_asks (tag : Tag) (hay : Bool) (addr n : Nat) (s : State) : let t := readIn tag hay addr n s
    (tagOf t tag).job.stage = 1
    ∧ (hay = false → t.noc.outQ = s.noc.outQ ++ ((Side.of false false false).units ((List.range n).map (addr + ·))).map
        (fun u => ⟨false, u, 0, 0, .unitFor tag 0 u⟩) ∧ t.hay = s.hay)
    ∧ (hay = true → t.hay.waiting = s.hay.waiting ++ (haySplit addr n).map (fun p => hayRd 11 p.1 (beRange p.2.1 p.2.2) (.unitFor tag 0 p.1))
        ∧ t.noc = s.noc) := by
  intro t
  have hjob : tagOf (updJob tag (imageAsked hay addr n) s) tag = _ := tagOf_updJob_self tag (imageAsked hay addr n) s
  cases hay with
  | false =>
    rw [show t = _ from readIn_mem tag addr n s]
    refine ⟨?_, fun _ => ⟨rfl, rfl⟩, nofun⟩
    rw [tagOf_queueOut, hjob]
    rfl
  | true =>
    rw [show t = _ from (readIn_hay tag addr n s).trans (askBytes_frame ..)]
    exact ⟨congrArg (·.job.stage) hjob, nofun, fun _ => ⟨rfl, rfl⟩⟩

/-! ### The commands -/

section
variable {s : State} {tag : Tag} {can hay : Bool} {ask : State → State} {addr n : Nat} {put : List Byte → State → State}

theorem rawRead_ask (h0 : (tagOf s tag).job.stage = 0) (hc : can = true) : rawRead tag can ask hay addr s = ask (rawAsked tag 1 s) := by
  simp only [rawRead, h0, hc, if_true]

theorem rawRead_write (h1 : (tagOf s tag).job.stage = 1) (hw : (tagOf s tag).job.wrOut = 0) : rawRead tag can ask hay addr s
    = writeOut tag 11 hay addr (tagOf s tag).job.raw (updJob tag (fun j => { j with stage := 2 }) s) := by
  simp [rawRead, h1, hw]

theorem rawRead_end (h2 : 2 ≤ (tagOf s tag).job.stage) (hw : (tagOf s tag).job.wrOut = 0) :
    rawRead tag can ask hay addr s = finish tag (outc .ok 0 1) s := by
  have h0 : (tagOf s tag).job.stage ≠ 0 := by omega
  have h1 : (tagOf s tag).job.stage ≠ 1 := by omega
  simp [rawRead, h0, h1, hw]

/-- A raw read whose image has come asks for its writes (R375, R376). -/
theorem rawRead_asked (h1 : (tagOf s tag).job.stage = 1) (hw : (tagOf s tag).job.wrOut = 0) (hraw : (tagOf s tag).job.raw ≠ []) :
    let t := rawRead tag can ask hay addr s
    AskedWrites s t tag hay addr (tagOf s tag).job.raw ∧ (tagOf t tag).job.stage = 2 ∧ t.tnk = s.tnk := by
  intro t
  rw [show t = _ from rawRead_write h1 hw]
  have hjob := tagOf_updJob_self tag (fun j => { j with stage := 2 }) s
  refine ⟨writeOut_asked hraw rfl rfl rfl (by rw [hjob]), ?_, by rw [writeOut_frame]; rfl⟩
  obtain ⟨n, hn⟩ := tagOf_writeOut_self tag 11 hay addr (tagOf s tag).job.raw (updJob tag (fun j => { j with stage := 2 }) s)
  rw [hn, hjob]

theorem rawWrite_read (h0 : (tagOf s tag).job.stage = 0) : rawWrite tag can n hay addr put s = readIn tag hay addr n s := by
  simp only [rawWrite, h0, if_true]

/-- The state in which a raw write asks for its write. -/
def imageHere (tag : Tag) (n : Nat) (bs : List Byte) (s : State) : State :=
  rawAsked tag 2 (updJob tag (fun j => { j with raw := bs }) { s with freeCtr := s.freeCtr + n })

theorem tagOf_imageHere (tag : Tag) (n : Nat) (bs : List Byte) (s : State) : tagOf (imageHere tag n bs s) tag
    = { tagOf s tag with job := { (tagOf s tag).job with raw := bs, stage := 2, wrOut := (tagOf s tag).job.wrOut + 1 } } := by
  rw [imageHere, tagOf_rawAsked_self, tagOf_updJob_self]
  rfl

theorem rawWrite_put (h1 : (tagOf s tag).job.stage = 1) (hw : (tagOf s tag).job.want = []) (hc : can = true) :
    rawWrite tag can n hay addr put s = put (readBytes s (tagOf s tag).job hay addr n) (imageHere tag n (readBytes s (tagOf s tag).job hay addr n) s) := by
  simp [rawWrite, h1, hw, hc, imageHere]

theorem rawWrite_end (h2 : 2 ≤ (tagOf s tag).job.stage) (hw : (tagOf s tag).job.wrOut = 0) :
    rawWrite tag can n hay addr put s = finish tag (outc .ok 0 1) s := by
  have h0 : (tagOf s tag).job.stage ≠ 0 := by omega
  have h1 : (tagOf s tag).job.stage ≠ 1 := by omega
  simp [rawWrite, h0, h1, hw]

end

section
variable {s : State} {tag : Tag} {e : TagEntry} {b n : Nat} {hay : Bool} {addr : Nat}

theorem exec_drdent (hs : started s tag .drdent = some e) (hc : e.cmd = some (.drdent b n hay addr)) : exec (.drdent tag) s
    = .next (rawRead tag (canTink s b) (sendTink ⟨b, n, false, .raw tag, 0⟩) hay addr s) := by
  change execDrdent tag s = _
  simp only [execDrdent, hs, hc]

theorem exec_drdhay (hs : started s tag .drdhay = some e) (hc : e.cmd = some (.drdhay b n hay addr)) : exec (.drdhay tag) s
    = .next (rawRead tag true (askHay (tinkHay b n false [] (.raw tag))) hay addr s) := by
  change execDrdhay tag s = _
  simp only [execDrdhay, hs, hc]

theorem exec_dwrent (hs : started s tag .dwrent = some e) (hc : e.cmd = some (.dwrent b n hay addr)) : exec (.dwrent tag) s
    = .next (rawWrite tag (canTink s b) 144 hay addr (fun _ => sendTink ⟨b, n, true, .raw tag, 0⟩) s) := by
  change execDwrent tag s = _
  simp only [execDwrent, hs, hc]

theorem exec_dwrhay (hs : started s tag .dwrhay = some e) (hc : e.cmd = some (.dwrhay b n hay addr)) : exec (.dwrhay tag) s
    = .next (rawWrite tag true 72 hay addr (fun bs => askHay (tinkHay b n true bs (.raw tag))) s) := by
  change execDwrhay tag s = _
  simp only [execDwrhay, hs, hc]

/-- The progress of a DSCRUB that asks for its next entry. -/
def scrubNext (tag : Tag) (s : State) : State := rawAsked tag 1 (updJob tag (fun j => { j with row := j.row + 1 }) s)

theorem exec_dscrub (hs : started s tag .dscrub = some e) (hc : e.cmd = some (.dscrub hay b)) : exec (.dscrub tag) s
    = .next (if e.job.wrOut ≠ 0 then s
        else if e.job.row = (if hay then 4096 else 64) then finish tag (outc .ok 0 e.job.landed) s
        else if !hay && !canTink s b then s
        else askScrub hay b e.job.row (some tag) (scrubNext tag s)) := by
  change execDscrub tag s = _
  simp only [execDscrub, hs, hc, scrubNext]

end

theorem askScrub_sheaf (b i : Nat) (by_ : Option Tag) (s : State) : askScrub false b i by_ s = sendTink ⟨b, i, false, .scrub by_, 0⟩ s := rfl

theorem askScrub_hayloft (b i : Nat) (by_ : Option Tag) (s : State) : askScrub true b i by_ s = askHay (tinkHay b i false [] (.scrub by_)) s := rfl

/-- Settles O32, each command stage by stage through the raw read and raw write that they share. -/
theorem rawAccessAndDscrub : Obligations.RawAccessAndDscrub := by
  constructor
  · intro s tag e b n hay addr
    refine ⟨fun hs hc => ?_, fun hs hc => ?_, fun hs hc => ?_, fun hs hc => ?_⟩
    · obtain ⟨rfl, -⟩ := started_tagOf hs
      have hx := exec_drdent hs hc
      refine ⟨fun h0 hcan => ⟨_, hx.trans (congrArg _ (rawRead_ask h0 hcan)), ?_⟩, fun h1 hw hraw => ⟨_, hx, rawRead_asked h1 hw hraw⟩,
        fun h2 hw => ⟨_, hx.trans (congrArg _ (rawRead_end h2 hw)), finish_completed ..⟩⟩
      rw [tagOf_sendTink, tagOf_rawAsked_self, sendTink_frame]
      exact ⟨rfl, rfl, rfl, rfl, rfl, rfl⟩
    · obtain ⟨rfl, -⟩ := started_tagOf hs
      have hx := exec_drdhay hs hc
      refine ⟨fun h0 => ⟨_, hx.trans (congrArg _ (rawRead_ask h0 rfl)), ?_⟩, fun h1 hw hraw => ⟨_, hx, rawRead_asked h1 hw hraw⟩,
        fun h2 hw => ⟨_, hx.trans (congrArg _ (rawRead_end h2 hw)), finish_completed ..⟩⟩
      rw [tagOf_askHay, tagOf_rawAsked_self, askHay_frame]
      exact ⟨rfl, rfl, rfl, rfl, rfl, rfl⟩
    · obtain ⟨rfl, -⟩ := started_tagOf hs
      have hx := exec_dwrent hs hc
      refine ⟨fun h0 => ⟨_, hx.trans (congrArg _ (rawWrite_read h0)), readIn_asks ..⟩, fun h1 hw hcan => ⟨_, hx.trans (congrArg _ (rawWrite_put h1 hw hcan)), ?_⟩,
        fun h2 hw => ⟨_, hx.trans (congrArg _ (rawWrite_end h2 hw)), finish_completed ..⟩⟩
      rw [tagOf_sendTink, tagOf_imageHere, sendTink_frame]
      exact ⟨rfl, rfl, rfl, rfl, rfl⟩
    · obtain ⟨rfl, -⟩ := started_tagOf hs
      have hx := exec_dwrhay hs hc
      refine ⟨fun h0 => ⟨_, hx.trans (congrArg _ (rawWrite_read h0)), readIn_asks ..⟩, fun h1 hw => ⟨_, hx.trans (congrArg _ (rawWrite_put h1 hw rfl)), ?_⟩,
        fun h2 hw => ⟨_, hx.trans (congrArg _ (rawWrite_end h2 hw)), finish_completed ..⟩⟩
      rw [tagOf_askHay, tagOf_imageHere, askHay_frame]
      exact ⟨rfl, rfl, rfl, rfl⟩
  · intro s tag e hay b hs hc n
    obtain ⟨rfl, -⟩ := started_tagOf hs
    have hx := exec_dscrub hs hc
    refine ⟨fun hw => ?_, fun hw hn => ?_, fun hw hn hcan => ?_⟩
    · rw [hx, if_pos hw]
    · rw [if_neg (not_not_intro hw), if_pos hn] at hx
      exact ⟨_, hx, finish_completed ..⟩
    · have hmay : ¬ (!hay && !canTink s b) = true := by cases hay <;> simp [hcan]
      rw [if_neg (not_not_intro hw), if_neg hn, if_neg hmay] at hx
      refine ⟨_, hx, ?_⟩
      have hjob : tagOf (scrubNext tag s) tag = _ := tagOf_rawAsked_self ..
      rw [tagOf_updJob_self] at hjob
      cases hay with
      | false =>
        rw [askScrub_sheaf, tagOf_sendTink, hjob, sendTink_frame]
        exact ⟨fun _ => ⟨rfl, rfl⟩, nofun, rfl, congrArg (· + 1) hw, rfl, rfl, rfl⟩
      | true =>
        rw [askScrub_hayloft, tagOf_askHay, hjob, askHay_frame]
        exact ⟨nofun, fun _ => ⟨rfl, rfl⟩, rfl, congrArg (· + 1) hw, rfl, rfl, rfl⟩

end Sys2Proof.Proofs
end

section
/-! SUPPORT. Proofs about DRETIRE, DREPAIR and DTRACE (R359, R360, R364, R365, R375-R378): the repair map after an assignment. -/

namespace Sys2Proof.Proofs

open Sys2Proof.Machine Sys2Proof.Laws

/-! ### The repair map -/

/-- Give bit `l` of a number the value of `p`. -/
theorem testBit_replaceBit {x l p m : Nat} (hp : p < 2) :
    (x - (x / 2 ^ l % 2) * 2 ^ l + (p % 2) * 2 ^ l).testBit m = if m = l then decide (p = 1) else x.testBit m := by
  have hq := Nat.two_pow_pos l
  set q := 2 ^ l with hqdef
  have hx : x = q * (2 * (x / q / 2) + x / q % 2) + x % q := by
    rw [Nat.div_add_mod (x / q) 2, Nat.div_add_mod x q]
  have hlt := Nat.mod_lt x hq
  have hv : x - (x / q % 2) * q + (p % 2) * q = q * (2 * (x / q / 2) + p) + x % q := by
    have h1 : q * (2 * (x / q / 2) + x / q % 2) = q * (2 * (x / q / 2)) + (x / q % 2) * q := by ring
    have h2 : q * (2 * (x / q / 2) + p) = q * (2 * (x / q / 2)) + p * q := by ring
    rw [Nat.mod_eq_of_lt hp]
    omega
  rw [hv]
  rcases lt_trichotomy m l with hm | rfl | hm
  · have hlow : ∀ a, (q * a + x % q).testBit m = x.testBit m := fun a => by
      rw [hqdef, Nat.testBit_two_pow_mul_add _ (by rwa [← hqdef]), if_pos hm, Nat.testBit_mod_two_pow, decide_eq_true hm, Bool.true_and]
    rw [hlow, if_neg (by omega)]
  · rw [if_pos rfl, hqdef, Nat.testBit_two_pow_mul_add _ (by rwa [← hqdef]), if_neg (lt_irrefl _), Nat.sub_self, Nat.testBit_zero]
    congr 1
    exact propext (by omega)
  · obtain ⟨k, rfl⟩ := Nat.exists_eq_add_of_lt hm
    rw [if_neg (by omega)]
    conv_rhs => rw [hx]
    rw [hqdef, Nat.testBit_two_pow_mul_add _ (by rwa [← hqdef]), Nat.testBit_two_pow_mul_add _ (by rwa [← hqdef]), if_neg (by omega),
      if_neg (by omega), show l + k + 1 - l = k + 1 by omega, Nat.testBit_succ, Nat.testBit_succ]
    congr 1
    omega

theorem bit_eq_testBit {w : Nat} (x : BitVec w) (i : Nat) : bit x i = x.toNat.testBit i := (BitVec.testBit_toNat x).symm

theorem b2n_bit {w : Nat} (x : BitVec w) (i : Nat) : b2n (bit x i) = x.toNat / 2 ^ i % 2 := by
  rw [bit_eq_testBit, Nat.testBit_eq_decide_div_mod_eq]
  rcases Nat.mod_two_eq_zero_or_one (x.toNat / 2 ^ i) with h | h <;> rw [h] <;> rfl

/-- LMP_GENSEL after an assignment of kind 7. -/
theorem bit_rget_setPhys_gensel (l p : Nat) (hl : l < 11) (hp : p < 2) (s : State) (m : Nat) (hm : m < 11) :
    bit (rget (setPhys 7 l p s) 0xC100) m = if m = l then decide (p = 1) else bit (rget s 0xC100) m := by
  have hlow : ∀ i, i < 11 → ((rget s 0xC100).toNat % 2048).testBit i = bit (rget s 0xC100) i := fun i hi => by
    rw [show 2048 = 2 ^ 11 from rfl, Nat.testBit_mod_two_pow, decide_eq_true hi, Bool.true_and, bit_eq_testBit]
  have hold : b2n (bit (rget s 0xC100) l) = (rget s 0xC100).toNat % 2048 / 2 ^ l % 2 := by
    rw [← hlow l hl, Nat.testBit_eq_decide_div_mod_eq]
    rcases Nat.mod_two_eq_zero_or_one ((rget s 0xC100).toNat % 2048 / 2 ^ l) with h | h <;> rw [h] <;> rfl
  have hnew := testBit_replaceBit (x := (rget s 0xC100).toNat % 2048) (l := l) (m := m) hp
  rw [← hold, hlow m hm] at hnew
  rw [show setPhys 7 l p s = _ from if_pos rfl, rget_rset_self, ← hnew, bit, BitVec.getLsbD_ofNat, decide_eq_true (by omega), Bool.true_and]

/-- The physical unit of a logical unit after an assignment (R359). -/
theorem physOf_setPhys {k l p m : Nat} (hl : l < kindSize k) (hm : m < kindSize k) (hp : k = 7 → p < 2) (s : State) :
    physOf (setPhys k l p s) k m = if m = l then p else physOf s k m := by
  by_cases h7 : k = 7
  · subst h7
    simp only [physOf, if_true]
    rw [bit_rget_setPhys_gensel l p hl (hp rfl) s m hm]
    have := hp rfl
    split
    · rcases (by omega : p = 0 ∨ p = 1) with rfl | rfl <;> rfl
    · rfl
  · simp only [physOf, setPhys, if_neg h7]
    split
    · next h => subst h; exact tget_tset_self ..
    · next h => exact tget_tset_ne _ _ (by omega) _

theorem setPhys_frame (k l p : Nat) (s : State) :
    setPhys k l p s = { s with regs := (setPhys k l p s).regs, tnk := { s.tnk with map := (setPhys k l p s).tnk.map } } := by
  unfold setPhys
  split <;> rfl

theorem physOk_two {l p : Nat} (h : physOk 7 l p = true) : p < 2 := of_decide_eq_true h

/-- The unit that serves a physical unit is one of its kind. -/
theorem servedBy_some {s : State} {k l p l' : Nat} (h : servedBy s k l p = some l') : l' < kindSize k ∧ physOf s k l' = p := by
  have hp := List.find?_some h
  simp only [Bool.and_eq_true, beq_iff_eq] at hp
  exact ⟨List.mem_range.1 (List.mem_of_find?_eq_some h), hp.2⟩

theorem physOf_gensel_lt (s : State) (m : Nat) : physOf s 7 m < 2 := by
  simp only [physOf, if_true]; exact b2n_lt_two _

/-- The state in which a logical unit that an assignment displaces has what the assignment frees (R360). -/
def displaced (k l p : Nat) (s : State) : State :=
  match servedBy s k l p with
  | some l' => if l' = l then s else setPhys k l' (physOf s k l) s
  | none => s

theorem displaced_frame (k l p : Nat) (s : State) :
    displaced k l p s = { s with regs := (displaced k l p s).regs, tnk := { s.tnk with map := (displaced k l p s).tnk.map } } := by
  unfold displaced
  split
  · split
    · rfl
    · exact setPhys_frame ..
  · rfl

theorem physOf_displaced {k l p m : Nat} (hml : m ≠ l) (hm : m < kindSize k) (s : State) :
    physOf (displaced k l p s) k m = if servedBy s k l p = some m then physOf s k l else physOf s k m := by
  unfold displaced
  cases hby : servedBy s k l p with
  | none => rw [if_neg (by simp)]
  | some l' =>
    obtain ⟨hl', -⟩ := servedBy_some hby
    simp only [Option.some.injEq]
    by_cases hll : l' = l
    · rw [if_pos hll, if_neg (by omega)]
    · rw [if_neg hll, physOf_setPhys hl' hm (fun h7 => h7 ▸ physOf_gensel_lt s l)]
      simp only [eq_comm (a := m)]

theorem assignMap_some {k l p : Nat} {s : State} (hl : l < kindSize k) (hp : physOk k l p = true)
    (h0 : k = 0 → p ∉ s.tnk.retired ∧ copyingIn s (l / 8) = false) : assignMap k l p s = some (setPhys k l p (displaced k l p s)) := by
  have hfree : (k == 0 && (s.tnk.retired.contains p || copyingIn s (l / 8))) = false := by
    by_cases hk : k = 0
    · obtain ⟨hr, hc⟩ := h0 hk
      simp [hr, hc]
    · simp [hk]
  have hno : ¬ (decide (kindSize k ≤ l) || !physOk k l p || (k == 0 && (s.tnk.retired.contains p || copyingIn s (l / 8)))) = true := by
    rw [hfree, hp]
    simpa using hl
  exact if_neg hno

theorem assignMap_none {k l p : Nat} {s : State}
    (h : kindSize k ≤ l ∨ physOk k l p = false ∨ (k = 0 ∧ (p ∈ s.tnk.retired ∨ copyingIn s (l / 8) = true))) : assignMap k l p s = none := by
  rw [assignMap, if_pos]
  rcases h with h | h | ⟨rfl, h | h⟩ <;> simp [h]

/-- A swap (R360): the unit has what was asked for, and what served the physical unit has what this frees. -/
theorem physOf_assigned {k l p : Nat} (hl : l < kindSize k) (hp : physOk k l p = true) (s : State) : let u := setPhys k l p (displaced k l p s)
    physOf u k l = p ∧ (∀ m, m < kindSize k → m ≠ l → physOf u k m = if servedBy s k l p = some m then physOf s k l else physOf s k m)
      ∧ u = { s with regs := u.regs, tnk := { s.tnk with map := u.tnk.map } } := by
  have h7 : k = 7 → p < 2 := by rintro rfl; exact physOk_two hp
  refine ⟨(physOf_setPhys hl hl h7 _).trans (if_pos rfl), fun m hm hne => ?_, ?_⟩
  · rw [physOf_setPhys hl hm h7, if_neg hne, physOf_displaced hne hm]
  · rw [setPhys_frame, displaced_frame]

/-! ### DRETIRE -/

section
variable {s : State} {tag : Tag} {e : TagEntry} {b : Nat}

/-- The state in which the trigger of a DRETIRE arrives. -/
def retiring (tag : Tag) (b : Nat) (s : State) : State := wakeGroups [b / 9] (updJob tag (fun j => { j with stage := 1 }) s)

theorem retiring_frame (tag : Tag) (b : Nat) (s : State) : retiring tag b s
    = { s with shf := { s.shf with groups := (retiring tag b s).shf.groups }, tly := { s.tly with tags := (retiring tag b s).tly.tags } } := by
  unfold retiring
  rw [wakeGroups_frame]
  rfl

theorem tagOf_retiring (tag : Tag) (b : Nat) (s : State) (x : Tag) :
    tagOf (retiring tag b s) x = tagOf (updJob tag (fun j => { j with stage := 1 }) s) x := by
  unfold retiring
  rw [wakeGroups_frame]
  rfl

theorem groupOf_retiring (tag : Tag) (b : Nat) (s : State) (g : Nat) :
    groupOf (retiring tag b s) g = if g = b / 9 ∧ (groupOf s g).ready = false then (groupOf s g).wakeUp else groupOf s g :=
  groupOf_wakeGroups_one ..

theorem mayRetire_retiring (tag : Tag) (b : Nat) (s : State) (g : Nat) : mayRetire (retiring tag b s) g = mayRetire s g := by
  rw [retiring_frame]; rfl

theorem exec_dretire_unserved (hs : started s tag .dretire = some e) (hc : e.cmd = some (.dretire b)) (h0 : e.job.stage = 0)
    (hb : servedBank s b = none) : exec (.dretire tag) s = .next (finish tag (outc .cfgInconsistent (0xB00 + b) 0) s) := by
  change execDretire tag s = _
  simp only [execDretire, hs, hc, h0, hb, ne_eq, not_true_eq_false, if_false, Option.isNone_none, if_true]

theorem exec_dretire_served (hs : started s tag .dretire = some e) (hc : e.cmd = some (.dretire b)) (h0 : e.job.stage = 0)
    (hb : (servedBank s b).isSome = true) : exec (.dretire tag) s = .next (trigger b (some tag) (retiring tag b s)) := by
  have hnone : (servedBank s b).isNone = false := by simpa using hb
  change execDretire tag s = _
  simp only [execDretire, hs, hc, h0, hnone, ne_eq, not_true_eq_false, if_false, Bool.false_eq_true]
  rfl

end

/-- What a DRETIRE that has started does (R364, R365). -/
theorem dretire_replies (s : State) (tag : Tag) (e : TagEntry) (b : Nat) (hs : started s tag .dretire = some e)
    (hc : e.cmd = some (.dretire b)) (h0 : e.job.stage = 0) :
    let woken := fun (u : State) => ∀ g, groupOf u g = if g = b / 9 ∧ (groupOf s g).ready = false then (groupOf s g).wakeUp else groupOf s g
    (servedBank s b = none → ∃ t, exec (.dretire tag) s = .next t ∧ Completed s t tag (outc .cfgInconsistent (0xB00 + b) 0))
    ∧ ((servedBank s b).isSome = true → s.tnk.copying = none → mayRetire s (b / 9) = false →
        ∃ u t, exec (.dretire tag) s = .next t ∧ Completed u t tag (outc .capacity (0xA000 + b) 0) ∧ u.tnk = s.tnk
          ∧ u.shf.mem = s.shf.mem ∧ woken u)
    ∧ ((servedBank s b).isSome = true → s.tnk.copying.isSome = true ∨ mayRetire s (b / 9) = true →
        ∃ t, exec (.dretire tag) s = .next t ∧ t.tnk = { s.tnk with trigs := s.tnk.trigs ++ [(b, some tag)] } ∧ woken t
          ∧ tagOf t tag = { e with job := { e.job with stage := 1 } } ∧ (∀ x, x ≠ tag → tagOf t x = tagOf s x)
          ∧ t.shf.mem = s.shf.mem ∧ t.hay = s.hay) := by
  intro woken
  obtain ⟨rfl, -⟩ := started_tagOf hs
  have hframe := retiring_frame tag b s
  have htnk : (retiring tag b s).tnk = s.tnk := by rw [hframe]
  have hmem : (retiring tag b s).shf.mem = s.shf.mem := by rw [hframe]
  have hhay : (retiring tag b s).hay = s.hay := by rw [hframe]
  have hwoken : woken (retiring tag b s) := groupOf_retiring tag b s
  refine ⟨fun hb => ⟨_, exec_dretire_unserved hs hc h0 hb, finish_completed ..⟩, fun hb hcopy hmay => ?_, fun hb hmay => ?_⟩
  · refine ⟨retiring tag b s, _, (exec_dretire_served hs hc h0 hb).trans (congrArg _ (if_neg ?_)), finish_completed .., htnk, hmem, hwoken⟩
    rw [mayRetire_retiring, htnk, hcopy, hmay]
    decide
  · refine ⟨_, (exec_dretire_served hs hc h0 hb).trans (congrArg _ (if_pos ?_)), ?_, hwoken, ?_, fun x hx => ?_, hmem, hhay⟩
    · rw [mayRetire_retiring, htnk, Bool.or_eq_true]
      exact hmay
    · rw [htnk]
    · exact (tagOf_retiring tag b s tag).trans (tagOf_updJob_self ..)
    · exact (tagOf_retiring tag b s x).trans (tagOf_updJob_ne hx ..)

/-! ### DREPAIR -/

section
variable {s : State} {tag : Tag} {e : TagEntry} {k l p : Nat}

/-- A group of banks holds a configured tile. -/
def groupInUse (s : State) (g : Nat) : Bool :=
  (List.range 64).any fun t => decide ((tileOf s t).st ≠ .unconfigured) && !(tileOf s t).spill && (tileOf s t).group == g

theorem groupInUse_iff {s : State} {g : Nat} : groupInUse s g = true
    ↔ ∃ x, x < 64 ∧ (tileOf s x).st ≠ .unconfigured ∧ (tileOf s x).spill = false ∧ (tileOf s x).group = g := by
  simp [groupInUse, List.any_eq_true, and_assoc]

theorem exec_drepair (hs : started s tag .drepair = some e) (hc : e.cmd = some (.drepair k l p)) : exec (.drepair tag) s
    = .next (if bit (rget s 0xE004) 0 || !booted s then finish tag (outc .bootLocked 0 0) s
      else if k = 0 ∧ groupInUse s (l / 8) = true then finish tag (outc .cfgInconsistent (0xA00 + l % 64) 0) s
      else match assignMap k l p s with
        | none => finish tag (outc .cfgInconsistent (0xA00 + l % 64) 0) s
        | some u => finish tag (outc .ok 0 1) u) := by
  change execDrepair tag s = _
  simp only [execDrepair, hs, hc]
  change (if _ then _ else if k = 0 ∧ groupInUse s (l / 8) = true then _ else _) = _
  split
  · rfl
  · split
    · rfl
    · cases assignMap k l p s <;> rfl

end

/-- What a DREPAIR that has started does (R360). -/
theorem drepair_replies (s : State) (tag : Tag) (e : TagEntry) (k l p : Nat) (hs : started s tag .drepair = some e)
    (hc : e.cmd = some (.drepair k l p)) :
    let inUse := k = 0 ∧ ∃ x, x < 64 ∧ (tileOf s x).st ≠ .unconfigured ∧ (tileOf s x).spill = false ∧ (tileOf s x).group = l / 8
    (bit (rget s 0xE004) 0 = true ∨ booted s = false → ∃ t, exec (.drepair tag) s = .next t ∧ Completed s t tag (outc .bootLocked 0 0))
    ∧ (bit (rget s 0xE004) 0 = false → booted s = true →
        kindSize k ≤ l ∨ physOk k l p = false ∨ (k = 0 ∧ (p ∈ s.tnk.retired ∨ copyingIn s (l / 8) = true)) ∨ inUse →
        ∃ t, exec (.drepair tag) s = .next t ∧ Completed s t tag (outc .cfgInconsistent (0xA00 + l % 64) 0))
    ∧ (bit (rget s 0xE004) 0 = false → booted s = true → l < kindSize k → physOk k l p = true →
        (k = 0 → p ∉ s.tnk.retired ∧ copyingIn s (l / 8) = false) → ¬ inUse →
        ∃ u t, exec (.drepair tag) s = .next t ∧ Completed u t tag (outc .ok 0 1) ∧ physOf u k l = p
          ∧ (∀ m, m < kindSize k → m ≠ l → physOf u k m = if servedBy s k l p = some m then physOf s k l else physOf s k m)
          ∧ u = { s with regs := u.regs, tnk := { s.tnk with map := u.tnk.map } }) := by
  intro inUse
  have hx := exec_drepair hs hc
  refine ⟨fun h => ?_, fun hlock hboot h => ?_, fun hlock hboot hl hp h0 huse => ?_⟩
  · rw [if_pos (by rcases h with h | h <;> simp [h])] at hx
    exact ⟨_, hx, finish_completed ..⟩
  · rw [if_neg (by simp [hlock, hboot])] at hx
    by_cases huse : k = 0 ∧ groupInUse s (l / 8) = true
    · rw [if_pos huse] at hx
      exact ⟨_, hx, finish_completed ..⟩
    · rw [if_neg huse, assignMap_none] at hx
      · exact ⟨_, hx, finish_completed ..⟩
      · rw [groupInUse_iff] at huse
        rcases h with h | h | h | h
        · exact .inl h
        · exact .inr (.inl h)
        · exact .inr (.inr h)
        · exact absurd h huse
  · have huse : ¬ (k = 0 ∧ groupInUse s (l / 8) = true) := by rwa [groupInUse_iff]
    rw [if_neg (by simp [hlock, hboot]), if_neg huse, assignMap_some hl hp h0] at hx
    exact ⟨_, _, hx, finish_completed .., physOf_assigned hl hp s⟩

/-! ### DTRACE -/

section
variable {s : State} {tag : Tag} {e : TagEntry} {a addr : Nat} {hay : Bool}

theorem exec_dtrace_end (hs : started s tag .dtrace = some e) (hc : e.cmd = some (.dtrace a hay addr)) (h1 : e.job.stage = 1)
    (hw : e.job.wrOut = 0) : exec (.dtrace tag) s = .next (finish tag (outc .ok 0 e.job.landed) s) := by
  change execDtrace tag s = _
  simp only [execDtrace, hs, hc, h1, hw, if_true]

theorem exec_dtrace (hs : started s tag .dtrace = some e) (hc : e.cmd = some (.dtrace a hay addr)) (h1 : e.job.stage ≠ 1) : exec (.dtrace tag) s
    = .next (if a = 0 then finish tag (outc .ok 0 0) (rset 0xD080 (rget s 0xD080 &&& 0xFFFFFFFE) s)
      else if a = 1 then finish tag (outc .ok 0 0) (rset 0xD080 (rget s 0xD080 ||| 1) s)
      else if a = 2 then writeOut tag 11 hay addr (traceDump s) (updJob tag (fun j => { j with stage := 1, landed := s.tnk.trace.length }) s)
      else finish tag (outc .ok 0 0) { s with tnk := { s.tnk with trace := [], traceOld := 0 } }) := by
  change execDtrace tag s = _
  simp only [execDtrace, hs, hc, if_neg h1]
  split
  · rfl
  · split
    · rfl
    · split <;> rfl

theorem bit_and_not_one (r : Reg) (i : Nat) : bit (r &&& 0xFFFFFFFE) i = if i = 0 then false else bit r i := by
  by_cases hi : i < 32
  · have hmask : ∀ i, i < 32 → (0xFFFFFFFE : Reg).getLsbD i = decide (i ≠ 0) := by decide
    rw [bit, BitVec.getLsbD_and, hmask i hi]
    split
    · next h => simp [h]
    · next h => simp [h, bit]
  · rw [bit, BitVec.getLsbD_of_ge _ _ (by omega), if_neg (by omega), bit, BitVec.getLsbD_of_ge _ _ (by omega)]

theorem bit_or_one (r : Reg) (i : Nat) : bit (r ||| 1) i = if i = 0 then true else bit r i := by
  rw [bit, BitVec.getLsbD_or]
  by_cases hi : i = 0
  · subst hi; simp
  · simp [hi, bit, BitVec.getLsbD_one]

theorem traceDump_ne_nil (s : State) : traceDump s ≠ [] := by
  simp [traceDump, leBytes, List.range, List.range.loop]

end

/-- What a DTRACE that has started does (R375, R378). -/
theorem dtrace_replies (s : State) (tag : Tag) (e : TagEntry) (a : Nat) (hay : Bool) (addr : Nat) (hs : started s tag .dtrace = some e)
    (hc : e.cmd = some (.dtrace a hay addr)) :
    (e.job.stage ≠ 1 → a = 0 → ∃ u t, exec (.dtrace tag) s = .next t ∧ Completed u t tag (outc .ok 0 0) ∧ bit (rget u 0xD080) 0 = false
      ∧ (∀ i, i ≠ 0 → bit (rget u 0xD080) i = bit (rget s 0xD080) i) ∧ (∀ k, k ≠ 0xD080 → rget u k = rget s k) ∧ u = { s with regs := u.regs })
    ∧ (e.job.stage ≠ 1 → a = 1 → ∃ u t, exec (.dtrace tag) s = .next t ∧ Completed u t tag (outc .ok 0 0) ∧ bit (rget u 0xD080) 0 = true
      ∧ (∀ i, i ≠ 0 → bit (rget u 0xD080) i = bit (rget s 0xD080) i) ∧ (∀ k, k ≠ 0xD080 → rget u k = rget s k) ∧ u = { s with regs := u.regs })
    ∧ (e.job.stage ≠ 1 → a = 2 → ∃ t, exec (.dtrace tag) s = .next t ∧ AskedWrites s t tag hay addr (traceDump s)
      ∧ (tagOf t tag).job.landed = s.tnk.trace.length ∧ (tagOf t tag).job.stage = 1)
    ∧ (e.job.stage ≠ 1 → a = 3 → ∃ u t, exec (.dtrace tag) s = .next t ∧ Completed u t tag (outc .ok 0 0)
      ∧ u = { s with tnk := { s.tnk with trace := [], traceOld := 0 } })
    ∧ (e.job.stage = 1 → e.job.wrOut = 0 → ∃ t, exec (.dtrace tag) s = .next t ∧ Completed s t tag (outc .ok 0 e.job.landed)) := by
  refine ⟨?_, ?_, ?_, ?_, fun h1 hw => ⟨_, exec_dtrace_end hs hc h1 hw, finish_completed ..⟩⟩
  · rintro h1 rfl
    refine ⟨_, _, exec_dtrace hs hc h1, finish_completed .., ?_, fun i hi => ?_, fun k hk => rget_rset_ne hk .., rfl⟩
    · rw [rget_rset_self, bit_and_not_one, if_pos rfl]
    · rw [rget_rset_self, bit_and_not_one, if_neg hi]
  · rintro h1 rfl
    refine ⟨_, _, exec_dtrace hs hc h1, finish_completed .., ?_, fun i hi => ?_, fun k hk => rget_rset_ne hk .., rfl⟩
    · rw [rget_rset_self, bit_or_one, if_pos rfl]
    · rw [rget_rset_self, bit_or_one, if_neg hi]
  · rintro h1 rfl
    have hjob := tagOf_updJob_self tag (fun j => { j with stage := 1, landed := s.tnk.trace.length }) s
    obtain ⟨n, hn⟩ := tagOf_writeOut_self tag 11 hay addr (traceDump s) (updJob tag (fun j => { j with stage := 1, landed := s.tnk.trace.length }) s)
    refine ⟨_, exec_dtrace hs hc h1, writeOut_asked (traceDump_ne_nil s) rfl rfl rfl (by rw [hjob]), ?_, ?_⟩
    · rw [if_neg (by decide), if_neg (by decide), if_pos rfl, hn, hjob]
    · rw [if_neg (by decide), if_neg (by decide), if_pos rfl, hn, hjob]
  · rintro h1 rfl
    exact ⟨_, _, exec_dtrace hs hc h1, finish_completed .., rfl⟩

/-- Settles O33, command by command. -/
theorem retireRepairTrace : Obligations.RetireRepairTrace := fun s tag e =>
  ⟨dretire_replies s tag e, drepair_replies s tag e, dtrace_replies s tag e⟩

end Sys2Proof.Proofs
end

section
/-! SUPPORT. Proofs about the clocks of the islands (R346-R352): their stretch, their frequency, and what a reading of the sensors does. -/

namespace Sys2Proof.Proofs

open Sys2Proof.Machine Sys2Proof.Laws

/-! ### Changing an island -/

@[simp] theorem islOf_updIsl_self (i : Nat) (f : Island → Island) (s : State) : islOf (updIsl i f s) i = f (islOf s i) := islOf_setIsl_self ..

theorem islOf_updIsl_ne {i k : Nat} (h : k ≠ i) (f : Island → Island) (s : State) : islOf (updIsl i f s) k = islOf s k := islOf_setIsl_ne h ..

theorem updIsl_frame (i : Nat) (f : Island → Island) (s : State) : updIsl i f s = { s with isl := (updIsl i f s).isl } := rfl

/-- Islands changed one after the other. -/
theorem islOf_foldl_updIsl (f : Nat → Island → Island) {l : List Nat} (hl : l.Nodup) (s : State) (k : Nat) :
    islOf (l.foldl (fun s i => updIsl i (f i) s) s) k = if k ∈ l then f k (islOf s k) else islOf s k := by
  induction l generalizing s with
  | nil => simp
  | cons a r ih =>
    obtain ⟨ha, hr⟩ := List.nodup_cons.1 hl
    rw [List.foldl_cons, ih hr]
    by_cases hk : k = a
    · subst hk; simp [ha]
    · simp [hk, islOf_updIsl_ne hk]

theorem foldl_updIsl_frame (f : Nat → Island → Island) (l : List Nat) (s : State) :
    l.foldl (fun s i => updIsl i (f i) s) s = { s with isl := (l.foldl (fun s i => updIsl i (f i) s) s).isl } := by
  induction l generalizing s with
  | nil => rfl
  | cons a r ih => rw [List.foldl_cons, ih]; rfl

@[simp] theorem islOf_traceEv (ev isl unit loc info : Nat) (k : Nat) (s : State) : islOf (traceEv ev isl unit loc info s) k = islOf s k := by
  unfold islOf; simp

@[simp] theorem islOf_logErr (kind isl unit loc info : Nat) (k : Nat) (s : State) : islOf (logErr kind isl unit loc info s) k = islOf s k := by
  unfold islOf; simp

theorem rget_logErr (kind isl unit loc info : Nat) {k : Nat} (h : k ≠ 0xD080) (s : State) :
    rget (logErr kind isl unit loc info s) k = rget s k := (logErr_logged ..).regs k h

/-! ### Stretching -/

theorem islOf_setStretch_self (i lvl : Nat) (s : State) : islOf (setStretch i lvl s) i = { islOf s i with stretch := lvl } := by
  unfold setStretch
  split
  · next h => rw [← h]
  · simp

theorem islOf_setStretch_ne {i k : Nat} (h : k ≠ i) (lvl : Nat) (s : State) : islOf (setStretch i lvl s) k = islOf s k := by
  unfold setStretch
  split
  · rfl
  · simp [islOf_updIsl_ne h]

theorem rget_setStretch (i lvl : Nat) {k : Nat} (h : k ≠ 0xD080) (s : State) : rget (setStretch i lvl s) k = rget s k := by
  unfold setStretch
  split
  · rfl
  · rw [rget_traceEv _ _ _ _ _ h]; rfl

theorem setStretch_shf_tly (i lvl : Nat) (s : State) : (setStretch i lvl s).shf = s.shf ∧ (setStretch i lvl s).tly = s.tly := by
  unfold setStretch
  split
  · exact ⟨rfl, rfl⟩
  · simp only [traceEv_shf, traceEv_tly]; exact ⟨rfl, rfl⟩

theorem setStretch_onlyTrace (i lvl : Nat) (s : State) : OnlyTrace { s with isl := (setStretch i lvl s).isl } (setStretch i lvl s) := by
  unfold setStretch
  split
  · exact ⟨fun _ _ => rfl, rfl⟩
  · rw [traceEv_isl]
    exact traceEv_onlyTrace ..

/-- The island after a detector's reading, its stretch as it was. -/
def sensed (x : DroopReading) (y : Island) : Island :=
  { y with volt := x.avg, drops := tset 0 y.drops x.det.toNat (x.avg.toNat - x.sensed.toNat) }

/-- The state in which a detector's reading sets the stretch: a stretch that begins is counted. -/
def tripped (i : Nat) (x : DroopReading) (s : State) : State :=
  if (islOf s i).stretch = 0 ∧ 0 < dropLevel s (x.avg.toNat - x.sensed.toNat) then cnt (0xC140 + 4 * i) 1 (updIsl i (sensed x) s)
  else updIsl i (sensed x) s

theorem exec_droopTrip {s : State} {i : Nat} (hi : i < 11) (x : DroopReading) (ha : islActive s i = true) : exec (.droopTrip i x) s
    = .next (setStretch i (max (islOf s i).stretch (dropLevel s (x.avg.toNat - x.sensed.toNat))) (tripped i x s)) := by
  change execDroopTrip i x s = _
  have hstretch : (islOf (updIsl i (sensed x) s) i).stretch = (islOf s i).stretch := by rw [islOf_updIsl_self]; rfl
  rw [execDroopTrip, if_neg (by omega), if_neg (by simp [ha])]
  simp only [tripped, ← hstretch]
  rfl

theorem islOf_tripped (i : Nat) (x : DroopReading) (s : State) (k : Nat) : islOf (tripped i x s) k = islOf (updIsl i (sensed x) s) k := by
  unfold tripped; split <;> rfl

theorem tripped_shf_tly (i : Nat) (x : DroopReading) (s : State) : (tripped i x s).shf = s.shf ∧ (tripped i x s).tly = s.tly := by
  unfold tripped; split <;> exact ⟨rfl, rfl⟩

/-! ### Throttling -/

/-- A reading of the sensors and what follows it leave the other temperatures, the levels and most registers alone. -/
structure SameClimate (s u : State) : Prop where
  temp : ∀ k, (islOf u k).temp = (islOf s k).temp
  regs : ∀ k, k ≠ 0xC180 → k ≠ 0xD080 → rget u k = rget s k
  ctl : u.ctl = s.ctl
  shf : u.shf = s.shf
  hay : u.hay = s.hay
  tly : u.tly = s.tly

theorem SameClimate.refl (s : State) : SameClimate s s := ⟨fun _ => rfl, fun _ _ _ => rfl, rfl, rfl, rfl, rfl⟩

theorem SameClimate.trans {s u v : State} (h : SameClimate s u) (g : SameClimate u v) : SameClimate s v :=
  ⟨fun k => (g.temp k).trans (h.temp k), fun k h1 h2 => (g.regs k h1 h2).trans (h.regs k h1 h2), g.ctl.trans h.ctl, g.shf.trans h.shf,
    g.hay.trans h.hay, g.tly.trans h.tly⟩

/-- An island is hot (R352). -/
def isHot (s : State) (i : Nat) : Bool := decide (100 < tempOf s i) || !within s i 25

/-- An island and its neighbours are cool (R352). -/
def isCool (s : State) (i : Nat) : Bool := within s i 20 && decide (tempOf s i ≤ 95)

/-- An island after a reading of the sensors (R352). -/
def throttled (s : State) (i : Nat) : Island :=
  { islOf s i with
    throt := isHot s i
    target :=
      if isHot s i = true then
        if aimed s i ≤ envMin s i then (islOf s i).target
        else some (if heldLow s i = true then envMin s i else max (envMin s i) (aimed s i - fset s i / 16))
      else if isCool s i = true ∧ aimed s i < fset s i ∧ heldLow s i = false then some (min (fset s i) (aimed s i + fset s i / 16))
      else (islOf s i).target }

theorem throttled_throt (s : State) (i : Nat) : (throttled s i).throt = isHot s i := rfl

/-- An island, its mark of throttling set or cleared. -/
def marked (i : Nat) (b : Bool) (s : State) : State := updIsl i (fun x => { x with throt := b }) s

theorem throttle_eq (s : State) (i : Nat) : throttle s i =
    if isHot s i = true then
      if aimed s i ≤ envMin s i then logErr 0x0B i i 0 (aimed s i) (marked i (isHot s i) s)
      else traceEv 7 i i 0 (max (envMin s i) (aimed s i - fset s i / 16))
        (cnt 0xC180 1 (startFreq i (max (envMin s i) (aimed s i - fset s i / 16)) (marked i (isHot s i) s)))
    else if isCool s i = true ∧ aimed s i < fset s i ∧ heldLow s i = false then
      traceEv 7 i i 0 (min (fset s i) (aimed s i + fset s i / 16)) (startFreq i (min (fset s i) (aimed s i + fset s i / 16)) (marked i (isHot s i) s))
    else marked i (isHot s i) s := by
  have hcool : (isCool s i && decide (aimed s i < fset s i) && !heldLow s i) = true
      ↔ isCool s i = true ∧ aimed s i < fset s i ∧ heldLow s i = false := by simp [and_assoc]
  rw [← if_congr hcool rfl rfl]
  rfl

theorem islOf_startFreq_self (i f : Nat) (s : State) :
    islOf (startFreq i f s) i = { islOf s i with target := some (if heldLow s i = true then envMin s i else f) } := islOf_updIsl_self ..

theorem islOf_throttle_self (s : State) (i : Nat) : islOf (throttle s i) i = throttled s i := by
  have hmark : islOf (marked i (isHot s i) s) i = { islOf s i with throt := isHot s i } := islOf_updIsl_self ..
  have hlow : heldLow (marked i (isHot s i) s) i = heldLow s i := rfl
  have hmin : envMin (marked i (isHot s i) s) i = envMin s i := rfl
  rw [throttle_eq, throttled]
  split
  · split
    · rw [islOf_logErr, hmark]
    · rw [islOf_traceEv, islOf_cnt, islOf_startFreq_self, hmark, hlow, hmin]
  · split
    · next h => rw [islOf_traceEv, islOf_startFreq_self, hmark, hlow, h.2.2, if_neg Bool.false_ne_true]
    · rw [hmark]

theorem islOf_startFreq_ne {i k : Nat} (h : k ≠ i) (f : Nat) (s : State) : islOf (startFreq i f s) k = islOf s k := islOf_updIsl_ne h ..

theorem islOf_throttle_ne {i k : Nat} (h : k ≠ i) (s : State) : islOf (throttle s i) k = islOf s k := by
  have hmark : islOf (marked i (isHot s i) s) k = islOf s k := islOf_updIsl_ne h ..
  rw [throttle_eq]
  split
  · split
    · rw [islOf_logErr, hmark]
    · rw [islOf_traceEv, islOf_cnt, islOf_startFreq_ne h, hmark]
  · split
    · rw [islOf_traceEv, islOf_startFreq_ne h, hmark]
    · exact hmark

theorem sameClimate_marked (i : Nat) (b : Bool) (s : State) : SameClimate s (marked i b s) where
  temp k := by
    by_cases h : k = i
    · subst h; rw [marked, islOf_updIsl_self]
    · rw [marked, islOf_updIsl_ne h]
  regs _ _ _ := rfl
  ctl := rfl
  shf := rfl
  hay := rfl
  tly := rfl

theorem sameClimate_startFreq (i f : Nat) (s : State) : SameClimate s (startFreq i f s) where
  temp k := by
    by_cases h : k = i
    · subst h; rw [islOf_startFreq_self]
    · rw [islOf_startFreq_ne h]
  regs _ _ _ := rfl
  ctl := rfl
  shf := rfl
  hay := rfl
  tly := rfl

theorem sameClimate_cnt (n : Nat) (s : State) : SameClimate s (cnt 0xC180 n s) :=
  ⟨fun _ => rfl, fun _ h _ => rget_cnt_ne h n s, rfl, rfl, rfl, rfl⟩

theorem sameClimate_traceEv (ev isl unit loc info : Nat) (s : State) : SameClimate s (traceEv ev isl unit loc info s) :=
  ⟨fun k => by rw [islOf_traceEv], fun _ _ h => rget_traceEv _ _ _ _ _ h s, by simp, by simp, by simp, by simp⟩

theorem sameClimate_logErr (kind isl unit loc info : Nat) (s : State) : SameClimate s (logErr kind isl unit loc info s) :=
  ⟨fun k => by rw [islOf_logErr], fun _ _ h => rget_logErr _ _ _ _ _ h s, by simp, by simp, by simp, by simp⟩

theorem sameClimate_throttle (i : Nat) (s : State) : SameClimate s (throttle s i) := by
  have hmark := sameClimate_marked i (isHot s i) s
  rw [throttle_eq]
  split
  · split
    · exact hmark.trans (sameClimate_logErr ..)
    · exact hmark.trans ((sameClimate_startFreq ..).trans ((sameClimate_cnt ..).trans (sameClimate_traceEv ..)))
  · split
    · exact hmark.trans ((sameClimate_startFreq ..).trans (sameClimate_traceEv ..))
    · exact hmark

theorem sameClimate_foldl (l : List Nat) (s : State) : SameClimate s (l.foldl throttle s) := by
  induction l generalizing s with
  | nil => exact .refl s
  | cons a r ih => exact (sameClimate_throttle a s).trans (ih _)

theorem islOf_foldl_throttle_of_notMem {l : List Nat} {i : Nat} (h : i ∉ l) (s : State) : islOf (l.foldl throttle s) i = islOf s i := by
  induction l generalizing s with
  | nil => rfl
  | cons a r ih =>
    rw [List.mem_cons, not_or] at h
    rw [List.foldl_cons, ih h.2, islOf_throttle_ne h.1]

/-- What throttling an island depends on. -/
theorem throttled_congr {s u : State} {i : Nat} (h : SameClimate s u) (hi : i < 11) (hisl : islOf u i = islOf s i) : throttled u i = throttled s i := by
  have htemp : ∀ k, tempOf u k = tempOf s k := fun k => by simp only [tempOf, h.temp]
  have hwithin : ∀ d, within u i d = within s i d := fun d => by simp only [within, htemp]
  have hhot : isHot u i = isHot s i := by simp only [isHot, htemp, hwithin]
  have hcool : isCool u i = isCool s i := by simp only [isCool, htemp, hwithin]
  have haim : aimed u i = aimed s i := by simp only [aimed, hisl]
  have hmin : envMin u i = envMin s i := congrArg (fld · 7 0) (h.regs _ (by omega) (by omega))
  have hset : fset u i = fset s i := congrArg (fld · 7 0) (h.regs _ (by omega) (by omega))
  have hlow : heldLow u i = heldLow s i := by simp only [heldLow, h.ctl]
  simp only [throttled, hisl, hhot, hcool, haim, hmin, hset, hlow]

/-- Each island of a list is throttled once, as the state before has it. -/
theorem islOf_foldl_throttle {l : List Nat} (hl : l.Nodup) {i : Nat} (h : i ∈ l) (hi : i < 11) (s : State) :
    islOf (l.foldl throttle s) i = throttled s i := by
  obtain ⟨a, b, rfl⟩ := List.append_of_mem h
  obtain ⟨-, hb, hdisj⟩ := List.nodup_append.1 hl
  have ha : i ∉ a := fun hm => hdisj i hm i List.mem_cons_self rfl
  rw [List.foldl_append, List.foldl_cons, islOf_foldl_throttle_of_notMem (List.nodup_cons.1 hb).1, islOf_throttle_self]
  exact throttled_congr (sameClimate_foldl a s) hi (islOf_foldl_throttle_of_notMem ha s)

/-! ### A reading of the sensors -/

/-- Every island throttled as its sensor reads. -/
def throttleAll (s : State) : State := (List.range 11).foldl throttle s

theorem islOf_throttleAll {i : Nat} (hi : i < 11) (s : State) : islOf (throttleAll s) i = throttled s i :=
  islOf_foldl_throttle List.nodup_range (List.mem_range.2 hi) hi s

theorem sameClimate_throttleAll (s : State) : SameClimate s (throttleAll s) := sameClimate_foldl _ s

/-- The fabric with a reading of the sensors held. -/
def sampled (temps : BitVec 88) (volts : BitVec 176) (s : State) : State :=
  (List.range 11).foldl (fun s i => updIsl i (fun x => { x with temp := temps.extractLsb' (8 * i) 8, volt := volts.extractLsb' (16 * i) 16 }) s) s

theorem islOf_sampled (temps : BitVec 88) (volts : BitVec 176) (s : State) {k : Nat} (hk : k < 11) : islOf (sampled temps volts s) k
    = { islOf s k with temp := temps.extractLsb' (8 * k) 8, volt := volts.extractLsb' (16 * k) 16 } :=
  (islOf_foldl_updIsl _ List.nodup_range s k).trans (if_pos (List.mem_range.2 hk))

theorem sampled_frame (temps : BitVec 88) (volts : BitVec 176) (s : State) : sampled temps volts s = { s with isl := (sampled temps volts s).isl } :=
  foldl_updIsl_frame _ _ s

theorem sampled_regs (temps : BitVec 88) (volts : BitVec 176) (s : State) : (sampled temps volts s).regs = s.regs := by rw [sampled_frame]
theorem sampled_ctl (temps : BitVec 88) (volts : BitVec 176) (s : State) : (sampled temps volts s).ctl = s.ctl := by rw [sampled_frame]
theorem sampled_shf (temps : BitVec 88) (volts : BitVec 176) (s : State) : (sampled temps volts s).shf = s.shf := by rw [sampled_frame]
theorem sampled_hay (temps : BitVec 88) (volts : BitVec 176) (s : State) : (sampled temps volts s).hay = s.hay := by rw [sampled_frame]
theorem sampled_tly (temps : BitVec 88) (volts : BitVec 176) (s : State) : (sampled temps volts s).tly = s.tly := by rw [sampled_frame]

theorem exec_thermalSample {s : State} (temps : BitVec 88) (volts : BitVec 176) (hr : running s islC = true) :
    exec (.thermalSample temps volts) s = .next (throttleAll (sampled temps volts s)) := by
  change execThermalSample temps volts s = _
  rw [execThermalSample, if_neg (by simp [hr])]
  rfl

/-- What a reading of the sensors does to one island (R352). -/
theorem thermalSample_island {s : State} {i : Nat} (hi : i < 11) (temps : BitVec 88) (volts : BitVec 176) (hr : running s islC = true) :
    let deg := fun j : Nat => signed 8 (BitVec.toNat (BitVec.extractLsb' (8 * j) 8 temps))
    ∃ t, exec (.thermalSample temps volts) s = .next t
    ∧ (islOf t i).temp = temps.extractLsb' (8 * i) 8 ∧ (islOf t i).volt = volts.extractLsb' (16 * i) 16
    ∧ (100 < deg i → envMin s i < aimed s i → (islOf t i).throt = true
        ∧ (islOf t i).target = some (if heldLow s i = true then envMin s i else max (envMin s i) (aimed s i - fset s i / 16)))
    ∧ (100 < deg i → aimed s i ≤ envMin s i → (islOf t i).throt = true ∧ (islOf t i).target = (islOf s i).target)
    ∧ (deg i ≤ 95 → (∀ j, j < 11 → neighbours i j = true → deg i - deg j ≤ 20) → (islOf t i).throt = false
        ∧ (islOf t i).target = if aimed s i < fset s i ∧ heldLow s i = false then some (min (fset s i) (aimed s i + fset s i / 16))
            else (islOf s i).target)
    ∧ t.shf = s.shf ∧ t.hay = s.hay ∧ t.tly = s.tly := by
  intro deg
  have hisl := fun k (hk : k < 11) => islOf_sampled temps volts s hk
  have htemp : ∀ k, k < 11 → tempOf (sampled temps volts s) k = deg k := fun k hk => by simp only [tempOf, hisl k hk, deg]
  have haim : aimed (sampled temps volts s) i = aimed s i := by simp only [aimed, hisl i hi]
  have hmin : envMin (sampled temps volts s) i = envMin s i := by simp only [envMin, rget, sampled_regs]
  have hset : fset (sampled temps volts s) i = fset s i := by simp only [fset, rget, sampled_regs]
  have hlow : heldLow (sampled temps volts s) i = heldLow s i := by simp only [heldLow, sampled_ctl]
  have hafter := islOf_throttleAll hi (sampled temps volts s)
  have hclimate := sameClimate_throttleAll (sampled temps volts s)
  have hwithin : ∀ d, within (sampled temps volts s) i d = true ↔ ∀ j, j < 11 → neighbours i j = true → deg i - deg j ≤ d := fun d => by
    simp only [within, List.all_eq_true, List.mem_range, Bool.or_eq_true, Bool.not_eq_true', decide_eq_true_eq, htemp i hi]
    refine forall_congr' fun j => forall_congr' fun hj => ?_
    rw [htemp j hj]
    cases neighbours i j <;> simp
  refine ⟨_, exec_thermalSample temps volts hr, ?_⟩
  rw [hafter, hclimate.shf, hclimate.hay, hclimate.tly]
  refine ⟨?_, ?_, fun hdeg haimed => ?_, fun hdeg haimed => ?_, fun hdeg hnear => ?_,
    sampled_shf .., sampled_hay .., sampled_tly ..⟩
  · rw [throttled, hisl i hi]
  · rw [throttled, hisl i hi]
  · have hhot : isHot (sampled temps volts s) i = true := by simp [isHot, htemp i hi, hdeg]
    refine ⟨(throttled_throt ..).trans hhot, ?_⟩
    simp only [throttled, hhot, haim, hmin, hset, hlow, if_true]
    exact if_neg (by omega)
  · have hhot : isHot (sampled temps volts s) i = true := by simp [isHot, htemp i hi, hdeg]
    refine ⟨(throttled_throt ..).trans hhot, ?_⟩
    simp only [throttled, hhot, haim, hmin, if_true]
    rw [if_pos haimed, hisl i hi]
  · have hhot : isHot (sampled temps volts s) i = false := by
      have h25 : within (sampled temps volts s) i 25 = true := (hwithin 25).2 fun j hj hn => (hnear j hj hn).trans (by decide)
      simp only [isHot, htemp i hi, h25, Bool.not_true, Bool.or_false, decide_eq_false_iff_not]
      omega
    have hcool : isCool (sampled temps volts s) i = true := by
      rw [isCool, (hwithin 20).2 hnear, htemp i hi, decide_eq_true hdeg, Bool.and_self]
    refine ⟨(throttled_throt ..).trans hhot, ?_⟩
    simp only [throttled, hhot, hcool, haim, hset, hlow, Bool.false_eq_true, if_false, true_and, hisl i hi]

/-! ### Locks and frequencies -/

theorem exec_generatorLockLoss {s : State} {i : Nat} (hi : i < 11) (hr : running s i = true) : exec (.generatorLockLoss i) s
    = .next (logErr 0x13 i i 0 0 (updIsl i (fun x => { x with lock := false })
        { s with crt := { s.crt with cross := s.crt.cross.filter fun p => crossRx p.1 != i } })) := by
  change execGeneratorLockLoss i s = _
  rw [execGeneratorLockLoss, if_neg (by omega), if_neg (by simp [hr])]

theorem generatorLockLoss_stops {s : State} {i : Nat} (hi : i < 11) (hr : running s i = true) :
    ∃ u t, exec (.generatorLockLoss i) s = .next t ∧ islOf t i = { islOf s i with lock := false } ∧ running t i = false
      ∧ (∀ k, k ≠ i → islOf t k = islOf s k)
      ∧ u = { s with isl := t.isl, crt := { s.crt with cross := s.crt.cross.filter fun p => crossRx p.1 != i } } ∧ Logged u t 0x13 i i 0 0 := by
  refine ⟨_, _, exec_generatorLockLoss hi hr, ?_, ?_, fun k hk => ?_, ?_, logErr_logged ..⟩
  · rw [islOf_logErr, islOf_updIsl_self]
    rfl
  · rw [running, islOf_logErr, islOf_updIsl_self, Bool.and_false]
  · rw [islOf_logErr, islOf_updIsl_ne hk]
    rfl
  · rw [logErr_isl]
    rfl

/-- Settles O55, event by event; a reading of the sensors goes island by island, each throttled as the readings have it. -/
theorem clocksFollow : Obligations.ClocksFollow := by
  intro s i hi
  refine ⟨?_, fun det avg sensed ha => ?_, fun ha htrip => ?_, fun h => ?_, fun f hf => ?_,
    fun hr => generatorLockLoss_stops hi hr, fun temps volts hr => thermalSample_island hi temps volts hr⟩
  · intro det avg sensed ha d lvl
    refine ⟨_, exec_droopTrip hi ⟨det, avg, sensed⟩ ha, ?_, fun k hk => ?_, fun h0 hlvl => ?_, fun h => ?_, ?_, ?_⟩
    · rw [islOf_setStretch_self, islOf_tripped, islOf_updIsl_self]
      rfl
    · rw [islOf_setStretch_ne hk, islOf_tripped, islOf_updIsl_ne hk]
    · rw [rget_setStretch _ _ (by omega), tripped, if_pos ⟨h0, hlvl⟩, rget_cnt_self]
      rfl
    · rw [rget_setStretch _ _ (by omega), tripped, if_neg (fun hc => h.elim (· hc.1) fun h => absurd hc.2 (by rw [show dropLevel s _ = 0 from h]; decide))]
      rfl
    · rw [(setStretch_shf_tly ..).1, (tripped_shf_tly ..).1]
    · rw [(setStretch_shf_tly ..).2, (tripped_shf_tly ..).2]
  · change execDroopTrip i _ s = _
    rw [execDroopTrip, if_neg (by omega), if_pos (by simp [ha])]
  · have hx : exec (.stretchStepBack i) s = .next (setStretch i ((islOf s i).stretch - 1) s) := by
      change execStretchStepBack i s = _
      rw [execStretchStepBack, if_neg (by omega), if_neg (by simp [ha, htrip])]
    exact ⟨_, hx, islOf_setStretch_self .., fun k hk => islOf_setStretch_ne hk .., setStretch_onlyTrace ..⟩
  · change execStretchStepBack i s = _
    rw [execStretchStepBack, if_neg (by omega), if_pos (by rcases h with h | h <;> simp [h])]
  · have hx : exec (.frequencyChangeDone i) s = .next (updIsl i (fun x => { x with freq := f, target := none }) s) := by
      change execFrequencyChangeDone i s = _
      rw [execFrequencyChangeDone, if_neg (by omega), hf]
    exact ⟨_, hx, islOf_updIsl_self .., fun k hk => islOf_updIsl_ne hk .., rfl⟩

end Sys2Proof.Proofs
end

section
/-! SUPPORT. Proofs about the power states of groups and Hayloft banks (R110, R111, R255, R353, R354): what storage holds after a change. -/

namespace Sys2Proof.Proofs

open Sys2Proof.Machine Sys2Proof.Laws

/-! ### Storage outside a filled range -/

section
variable {α : Type}

theorem tget_append_of_notMem_left (d : α) {l₁ : Tbl α} (l₂ : Tbl α) {k : Nat} (h : ∀ p ∈ l₁, p.1 ≠ k) : tget d (l₁ ++ l₂) k = tget d l₂ k := by
  induction l₁ with
  | nil => rfl
  | cons p r ih => exact (if_neg (h p List.mem_cons_self)).trans (ih fun q hq => h q (List.mem_cons_of_mem _ hq))

theorem tget_of_notMem (d : α) {l : Tbl α} {k : Nat} (h : ∀ p ∈ l, p.1 ≠ k) : tget d l k = d := by
  have := tget_append_of_notMem_left d [] h
  rwa [List.append_nil] at this

theorem tget_append_of_notMem_right (d : α) (l₁ : Tbl α) {l₂ : Tbl α} {k : Nat} (h : ∀ p ∈ l₂, p.1 ≠ k) : tget d (l₁ ++ l₂) k = tget d l₁ k := by
  induction l₁ with
  | nil => exact tget_of_notMem d h
  | cons p r ih =>
    change (if p.1 = k then p.2 else tget d (r ++ l₂) k) = if p.1 = k then p.2 else tget d r k
    rw [ih]

theorem tget_filter (d : α) {q : Nat × α → Bool} {k : Nat} (h : ∀ v, q (k, v) = true) (l : Tbl α) : tget d (l.filter q) k = tget d l k := by
  induction l with
  | nil => rfl
  | cons p r ih =>
    obtain ⟨a, v⟩ := p
    by_cases hq : q (a, v) = true
    · rw [List.filter_cons_of_pos hq]
      change (if a = k then v else tget d (r.filter q) k) = if a = k then v else tget d r k
      rw [ih]
    · have hne : a ≠ k := fun ha => hq (ha ▸ h v)
      rw [List.filter_cons_of_neg hq, ih]
      exact (if_neg hne).symm

end

theorem read_fill_out (m : Memory) {a n c : Nat} (f : Nat → Byte) (h : c < a ∨ a + n ≤ c) : (m.fill a n f).read c = m.read c := by
  have hmid : ∀ p ∈ (List.range n).filterMap (fun i => if f i = 0 then none else some (a + i, f i)), p.1 ≠ c := by
    intro p hp
    obtain ⟨i, hi, heq⟩ := List.mem_filterMap.1 hp
    rw [List.mem_range] at hi
    split at heq
    · cases heq
    · cases heq
      dsimp only
      omega
  unfold Memory.fill Memory.read
  rcases h with h | h
  · have hhigh : ∀ p ∈ m.filter (fun q => decide (a + n ≤ q.1)), p.1 ≠ c := fun p hp => by
      have := of_decide_eq_true (List.mem_filter.1 hp).2
      omega
    rw [tget_append_of_notMem_right _ _ hhigh, tget_append_of_notMem_right _ _ hmid, tget_filter _ fun _ => decide_eq_true h]
  · have hlow : ∀ p ∈ m.filter (fun q => decide (q.1 < a)), p.1 ≠ c := fun p hp => by
      have := of_decide_eq_true (List.mem_filter.1 hp).2
      omega
    rw [List.append_assoc, tget_append_of_notMem_left _ _ hlow, tget_append_of_notMem_left _ _ hmid, tget_filter _ fun _ => decide_eq_true h]

theorem read_clear (m : Memory) (a n c : Nat) : (m.clear a n).read c = if a ≤ c ∧ c < a + n then 0 else m.read c := by
  split
  · next h => exact read_clear_in m h.1 h.2
  · exact read_clear_out m (by omega)

/-! ### Where a unit goes -/

theorem PwrUnit.goTo_of_on {u : PwrUnit} (h : u.ready = true) {p : PState} (hp : p ≠ .on) : u.goTo p = ⟨.on, some p, none⟩ := by
  simp only [PwrUnit.ready, Bool.and_eq_true, decide_eq_true_eq, Option.isNone_iff_eq_none] at h
  simp only [PwrUnit.goTo, h.1, h.2, if_neg hp.symm]

theorem PwrUnit.arrive_eq (u : PwrUnit) (x : PState) : u.arrive x
    = match u.after with | none => ⟨x, none, none⟩ | some y => if x = y then ⟨x, none, none⟩ else ⟨x, some y, none⟩ := by
  unfold PwrUnit.arrive
  cases u.after <;> rfl

/-! ### Groups -/

section
variable {s : State} {g : BitVec 3}

theorem exec_groupIdleExpire_enters {p : PState} (hr : running s islC = true) (hidle : fld (rget s 0x0004) 15 0 ≠ 0)
    (hq : groupQuiet s g.toNat = true) (hp : groupPol s g.toNat ≠ 1) (hto : idleTo s g.toNat = some p) :
    exec (.groupIdleExpire g) s = .next (setGroup g.toNat { groupOf s g.toNat with entering := some p } s) := by
  change execGroupIdleExpire g s = _
  rw [execGroupIdleExpire, if_neg (by simp [hidle, hp, hq, hr])]
  simp only [hto]

theorem idleTo_off (he : (groupOf s g.toNat).entering = none) (hp : groupPol s g.toNat = 0) (ht : tileIn s g.toNat = false)
    (hst : (groupOf s g.toNat).st ≠ .off) : idleTo s g.toNat = some .off := by
  simp only [idleTo, he, hp, ht, Option.isSome_none, Bool.false_eq_true, if_false, and_self, if_true]
  cases h : (groupOf s g.toNat).st with
  | off => exact absurd h hst
  | retention => rfl
  | on => rfl

theorem idleTo_retention (he : (groupOf s g.toNat).entering = none) (hst : (groupOf s g.toNat).st = .on)
    (hp : groupPol s g.toNat = 2 ∨ (groupPol s g.toNat = 0 ∧ tileIn s g.toNat = true)) : idleTo s g.toNat = some .retention := by
  have hno : ¬ (groupPol s g.toNat = 0 ∧ tileIn s g.toNat = false) := by
    rintro ⟨h0, ht⟩
    rcases hp with hp | ⟨-, hp⟩
    · omega
    · exact absurd (hp.symm.trans ht) (by decide)
  simp only [idleTo, he, hst, if_neg hno, Option.isSome_none, Bool.false_eq_true, if_false]

/-- The trace's code of a power state (R378). -/
def pstateCode : PState → Nat
  | .off => 0 | .retention => 1 | .on => 2

/-- A group in the state it was entering, before what comes ON takes its seed. -/
def groupArrived (g : Nat) (x : PState) (s : State) : State :=
  traceEv 6 islC g 0 (pstateCode x)
    (setGroup g ((groupOf s g).arrive x) (if x = .on ∧ (groupOf s g).st = .off then loseGroup g s else s))

theorem exec_groupStateChangeDone {x : PState} (he : (groupOf s g.toNat).entering = some x) : exec (.groupStateChangeDone g) s
    = .next (if x = .on ∧ tget false (groupArrived g.toNat x s).mil.reseed g.toNat = true then reseedGroup g.toNat (groupArrived g.toNat x s)
        else groupArrived g.toNat x s) := by
  change execGroupStateChangeDone g s = _
  rw [execGroupStateChangeDone, he]
  rfl

theorem groupOf_groupArrived_self (g : Nat) (x : PState) (s : State) : groupOf (groupArrived g x s) g = (groupOf s g).arrive x := by
  rw [groupArrived, groupOf, traceEv_shf]
  exact groupOf_setGroup_self ..

theorem groupOf_groupArrived_ne {g k : Nat} (h : k ≠ g) (x : PState) (s : State) : groupOf (groupArrived g x s) k = groupOf s k := by
  rw [groupArrived, groupOf, traceEv_shf]
  refine (groupOf_setGroup_ne h ..).trans ?_
  split <;> rfl

theorem groupArrived_parts (g : Nat) (x : PState) (s : State) : let t := groupArrived g x s
    t.mil = s.mil ∧ t.hay = s.hay ∧ t.tly = s.tly ∧ t.shf.tiles = s.shf.tiles ∧ rget t 0x1004 = rget s 0x1004 := by
  intro t
  simp only [t, groupArrived, traceEv_mil, traceEv_hay, traceEv_tly, traceEv_shf, rget_traceEv _ _ _ _ _ (show 0x1004 ≠ 0xD080 by decide)]
  split <;> exact ⟨rfl, rfl, rfl, rfl, rfl⟩

theorem read_groupArrived {g a : Nat} {x : PState} {s : State}
    (h : a < 73728 * g ∨ 73728 * (g + 1) ≤ a ∨ x ≠ .on ∨ (groupOf s g).st ≠ .off) :
    Memory.read (groupArrived g x s).shf.mem a = Memory.read s.shf.mem a := by
  rw [groupArrived, traceEv_shf]
  by_cases hlose : x = .on ∧ (groupOf s g).st = .off
  · rw [if_pos hlose]
    refine read_fill_out _ _ ?_
    rcases h with h | h | h | h
    · omega
    · omega
    · exact absurd hlose.1 h
    · exact absurd hlose.2 h
  · rw [if_neg hlose]
    rfl

theorem reseedGroup_seeds (g : Nat) (s : State) :
    tget 1 (reseedGroup g s).mil.seeds g = rget s 0x1004 ∧ tget false (reseedGroup g s).mil.reseed g = false :=
  ⟨tget_tset_self 1 (rget s 0x1004) g _, tget_tset_self false false g _⟩

/-- What the end of a group's change does (R110, R353, R354). -/
theorem groupStateChangeDone_arrives {x : PState} (he : (groupOf s g.toNat).entering = some x) :
    ∃ t, exec (.groupStateChangeDone g) s = .next t
      ∧ groupOf t g.toNat = (match (groupOf s g.toNat).after with
          | none => ⟨x, none, none⟩
          | some y => if x = y then ⟨x, none, none⟩ else ⟨x, some y, none⟩)
      ∧ (∀ k, k ≠ g.toNat → groupOf t k = groupOf s k)
      ∧ (∀ a, a < 73728 * g.toNat ∨ 73728 * (g.toNat + 1) ≤ a ∨ x ≠ .on ∨ (groupOf s g.toNat).st ≠ .off →
          Memory.read t.shf.mem a = Memory.read s.shf.mem a)
      ∧ (x = .on → tget false s.mil.reseed g.toNat = true → tget 1 t.mil.seeds g.toNat = rget s 0x1004 ∧ tget false t.mil.reseed g.toNat = false)
      ∧ t.shf.tiles = s.shf.tiles ∧ t.hay = s.hay ∧ t.tly = s.tly := by
  obtain ⟨hmil, hhay, htly, htiles, hseed⟩ := groupArrived_parts g.toNat x s
  have hunit := (groupOf_groupArrived_self g.toNat x s).trans (PwrUnit.arrive_eq _ x)
  refine ⟨_, exec_groupStateChangeDone he, ?_⟩
  by_cases hre : x = .on ∧ tget false (groupArrived g.toNat x s).mil.reseed g.toNat = true
  · rw [if_pos hre]
    refine ⟨hunit.trans (by cases (groupOf s g.toNat).after <;> rfl), fun k hk => groupOf_groupArrived_ne hk x s, fun a ha => read_groupArrived ha, fun _ _ => ?_, htiles, hhay, htly⟩
    rw [← hseed]
    exact reseedGroup_seeds ..
  · rw [if_neg hre]
    refine ⟨hunit.trans (by cases (groupOf s g.toNat).after <;> rfl), fun k hk => groupOf_groupArrived_ne hk x s, fun a ha => read_groupArrived ha, fun hx hr => ?_, htiles, hhay, htly⟩
    rw [hmil] at hre
    exact absurd ⟨hx, hr⟩ hre

end

/-! ### Hayloft banks -/

section
variable {s : State} {h : BitVec 4}

theorem rget_cnt_zero (off k : Nat) (s : State) : rget (cnt off 0 s) k = rget s k := by
  by_cases hk : k = off
  · subst hk
    have hlt := (rget s k).isLt
    rw [rget_cnt_self, Nat.add_zero, Nat.min_eq_right (by omega), BitVec.ofNat_toNat, BitVec.setWidth_eq]
  · exact rget_cnt_ne hk 0 s

theorem parkBank_of_unawaited {h : Nat} {p : PState} (hw : waitingAt s h = 0) (hr : (hbankOf s h).ready = true) :
    parkBank h p s = setHbank h ((hbankOf s h).goTo p) (cnt 0x7038 0 s) := by
  simp only [parkBank, hw, hr, if_true]

/-- The state an idle Hayloft bank enters (R255, R357). -/
theorem exec_hayloftBankIdleExpire {p : PState} (hr : running s islH = true) (hready : (hbankOf s h.toNat).ready = true)
    (hz : zeroHeld s h.toNat = false) (hl : lockedBank s h.toNat = false) (hw : waitingAt s h.toNat = 0)
    (hp : (s.ctl.unplug < 5 ∧ fld (rget s 0x7028) 15 0 ≠ 0 ∧ p = setState s h.toNat ∧ p ≠ .on) ∨ (5 ≤ s.ctl.unplug ∧ p = .retention)) :
    exec (.hayloftBankIdleExpire h) s = .next (parkBank h.toNat p s) := by
  change execHayloftBankIdleExpire h s = _
  rcases hp with ⟨hu, hidle, rfl, hon⟩ | ⟨hu, rfl⟩
  · simp [execHayloftBankIdleExpire, hr, hready, hz, hl, hw, hidle, hon, show ¬ 5 ≤ s.ctl.unplug by omega]
  · simp [execHayloftBankIdleExpire, hr, hready, hz, hl, hw, hu, show ¬ s.ctl.unplug < 5 by omega]

/-- A Hayloft bank in the state it was entering, before the trace. -/
def hbankArrived (h : Nat) (x : PState) (s : State) : State :=
  let s := if x = .on ∧ (hbankOf s h).st = .off then clearHbank h s else if x = .off then loseHbank h s else s
  let u := (hbankOf s h).arrive x
  setHbank h (if u.ready || decide (waitingAt s h = 0) then u else u.wakeUp) s

theorem exec_hayloftBankStateDone {x : PState} (hr : running s islH = true) (he : (hbankOf s h.toNat).entering = some x) :
    ∃ phys code, exec (.hayloftBankStateDone h) s = .next (traceEv 6 islH phys 0 code (hbankArrived h.toNat x s)) := by
  change ∃ phys code, execHayloftBankStateDone h s = _
  rw [execHayloftBankStateDone, he]
  simp only [hr, Bool.not_true, Bool.false_eq_true, if_false]
  have hbank : ∀ v, v = (if x = .on ∧ (hbankOf s h.toNat).st = .off then clearHbank h.toNat s else if x = .off then loseHbank h.toNat s else s) →
      hbankOf v h.toNat = hbankOf s h.toNat := by
    rintro v rfl
    split
    · rfl
    · split <;> rfl
  exact ⟨_, _, by rw [hbankArrived, hbank _ rfl]⟩

theorem hbankOf_clearHbank (b h : Nat) (s : State) : hbankOf (clearHbank b s) h = hbankOf s h := rfl

theorem hbankOf_loseHbank (b h : Nat) (s : State) : hbankOf (loseHbank b s) h = hbankOf s h := rfl

theorem waitingAt_loseHbank (b h : Nat) (s : State) : waitingAt (loseHbank b s) h = waitingAt s h := rfl

@[simp] theorem hbankOf_traceEv (ev isl unit loc info : Nat) (k : Nat) (s : State) : hbankOf (traceEv ev isl unit loc info s) k = hbankOf s k := by
  unfold hbankOf; simp

theorem hbankArrived_parts (h : Nat) (x : PState) (s : State) : let t := hbankArrived h x s
    (∀ k, k ≠ h → hbankOf t k = hbankOf s k) ∧ t.shf = s.shf ∧ t.tly = s.tly := by
  intro t
  simp only [t, hbankArrived]
  split
  · exact ⟨fun k hk => hbankOf_setHbank_ne hk .., rfl, rfl⟩
  · split <;> exact ⟨fun k hk => hbankOf_setHbank_ne hk .., rfl, rfl⟩

theorem arrive_of_rest {u : PwrUnit} (x : PState) (ha : u.after = none) : u.arrive x = ⟨x, none, none⟩ := by rw [PwrUnit.arrive, ha]

theorem hbankOf_hbankArrived_on {h : Nat} (ha : (hbankOf s h).after = none) : hbankOf (hbankArrived h .on s) h = PwrUnit.on := by
  have harr := arrive_of_rest .on ha
  unfold hbankArrived
  split
  · simp only [hbankOf_clearHbank, harr, hbankOf_setHbank_self]
    rfl
  · simp only [show ¬ (PState.on = .off) by decide, if_false, harr, hbankOf_setHbank_self]
    rfl

theorem hbankArrived_off {h : Nat} (ha : (hbankOf s h).after = none) (hw : waitingAt s h = 0) :
    hbankArrived h .off s = setHbank h ⟨.off, none, none⟩ (loseHbank h s) := by
  have harr := arrive_of_rest .off ha
  simp only [hbankArrived, show ¬ (PState.off = .on) by decide, false_and, if_false, if_true, hbankOf_loseHbank, waitingAt_loseHbank, hw, harr,
    decide_true, Bool.or_true]

theorem hbankArrived_retention {h : Nat} (ha : (hbankOf s h).after = some .on) :
    hbankArrived h .retention s = setHbank h ⟨.retention, some .on, none⟩ s := by
  have harr : (hbankOf s h).arrive .retention = ⟨.retention, some .on, none⟩ := by rw [PwrUnit.arrive, ha]; rfl
  simp only [hbankArrived, show ¬ (PState.retention = .on) by decide, show ¬ (PState.retention = .off) by decide, false_and, if_false, harr]
  split <;> rfl

theorem read_hbankArrived_on (h : Nat) (s : State) (a : Nat) : Memory.read (hbankArrived h .on s).hay.mem a
    = if (hbankOf s h).st = .off ∧ hayCell (physOf s 4 h) 0 0 ≤ a ∧ a < hayCell (physOf s 4 h) 4096 0 then 0 else Memory.read s.hay.mem a := by
  unfold hbankArrived
  by_cases hoff : (hbankOf s h).st = .off
  · simp only [hoff, and_self, if_true, true_and]
    refine (read_clear ..).trans (if_congr ?_ rfl rfl)
    simp only [hayCell]
    omega
  · simp only [hoff, and_false, if_false, false_and]
    rfl

end

/-- Settles O56, event by event: the units by `goTo` and `arrive`, the bytes by what a cleared and a filled range hold. -/
theorem powerStatesFollow : Obligations.PowerStatesFollow := by
  intro s
  refine ⟨fun g hr hidle hq he => ⟨fun hp ht hst => ?_, fun hst hp => ?_, fun hp => ?_⟩, fun g x he => groupStateChangeDone_arrives he,
    fun h hr hready hz hl hw p hp => ?_, fun h hr he ha => ?_, fun h hr he ha hw => ?_, fun h hr he ha => ?_, fun h hr => ?_⟩
  · exact ⟨_, exec_groupIdleExpire_enters hr hidle hq (by omega) (idleTo_off he hp ht hst), groupOf_setGroup_self ..,
      fun k hk => groupOf_setGroup_ne hk .., rfl⟩
  · exact ⟨_, exec_groupIdleExpire_enters hr hidle hq (by omega) (idleTo_retention he hst hp), groupOf_setGroup_self .., rfl⟩
  · change execGroupIdleExpire g s = _
    rw [execGroupIdleExpire, if_pos (by simp [hp])]
  · have hon : p ≠ .on := by
      rcases hp with ⟨-, -, -, hp⟩ | ⟨-, rfl⟩
      · exact hp
      · decide
    refine ⟨_, exec_hayloftBankIdleExpire hr hready hz hl hw hp, ?_⟩
    rw [parkBank_of_unawaited hw hready, PwrUnit.goTo_of_on hready hon]
    exact ⟨hbankOf_setHbank_self .., fun k hk => (hbankOf_setHbank_ne hk ..).trans (hbankOf_cnt ..), fun k => rget_cnt_zero 0x7038 k s, rfl⟩
  · obtain ⟨phys, code, hx⟩ := exec_hayloftBankStateDone hr he
    obtain ⟨hother, hshf, htly⟩ := hbankArrived_parts h.toNat .on s
    refine ⟨_, hx, ?_, fun k hk => ?_, fun a => ?_, by rw [traceEv_shf, hshf], by rw [traceEv_tly, htly]⟩
    · rw [hbankOf_traceEv, hbankOf_hbankArrived_on ha]
    · rw [hbankOf_traceEv, hother k hk]
    · rw [traceEv_hay, read_hbankArrived_on]
  · obtain ⟨phys, code, hx⟩ := exec_hayloftBankStateDone hr he
    obtain ⟨hother, hshf, htly⟩ := hbankArrived_parts h.toNat .off s
    refine ⟨_, hx, ?_, fun k hk => ?_, fun a hout => ?_, by rw [traceEv_shf, hshf], by rw [traceEv_tly, htly]⟩
    · rw [hbankOf_traceEv, hbankArrived_off ha hw, hbankOf_setHbank_self]
    · rw [hbankOf_traceEv, hother k hk]
    · rw [traceEv_hay, hbankArrived_off ha hw]
      simp only [hayCell] at hout
      exact read_fill_out _ _ (by omega)
  · obtain ⟨phys, code, hx⟩ := exec_hayloftBankStateDone hr he
    rw [hbankArrived_retention ha] at hx
    exact ⟨_, hx, by rw [hbankOf_traceEv, hbankOf_setHbank_self], by rw [traceEv_hay]; rfl⟩
  · change execHayloftBankStateDone h s = _
    unfold execHayloftBankStateDone
    dsimp only
    split
    · rfl
    · rw [hr]; rfl

end Sys2Proof.Proofs
end

section
/-! SUPPORT. Proofs about scrubbing and retirement (R362-R368): a scrub step, the copy of a bank to its spare, and the switch. -/

namespace Sys2Proof.Proofs

open Sys2Proof.Machine Sys2Proof.Laws

/-! ### Scrubbing -/

section
variable {s : State}

theorem rotFind_start {n b : Nat} {p : Nat → Bool} (hb : b < n) (hp : p b = true) : rotFind n b p = some b := by
  obtain ⟨m, rfl⟩ := Nat.exists_eq_succ_of_ne_zero (Nat.ne_of_gt (Nat.zero_lt_of_lt hb))
  have h0 : (b + 0) % (m + 1) = b := Nat.mod_eq_of_lt hb
  rw [rotFind, List.range_succ_eq_map, List.map_cons, h0]
  exact List.find?_cons_of_pos hp

/-- The state that a scrub step takes to the Hayloft: the control store's entry is passed, the Sheaf's asked for. -/
def scrubAsked (s : State) : State :=
  scrubHayloft (scrubSheaf { s with tnk := { s.tnk with scrubC := (s.tnk.scrubC + 1) % controlEntries } })

theorem exec_scrubStep (hr : running s islC = true) (hi : fld (rget s 0xD000) 15 0 ≠ 0) (c : CtlCheck) :
    exec (.scrubStep c) s = .next (checkControl s.tnk.scrubC c (scrubAsked s)) := by
  change execScrubStep c s = _
  rw [execScrubStep, if_neg (by simp [hr]), if_neg hi]
  rfl

theorem exec_scrubStep_stopped (hr : running s islC = true) (hi : fld (rget s 0xD000) 15 0 = 0) (c : CtlCheck) :
    exec (.scrubStep c) s = .next (checkControl ((pick s).1 % controlEntries) c (pick s).2) := by
  change execScrubStep c s = _
  rw [execScrubStep, if_neg (by simp [hr]), if_pos hi]

/-- The scrub of one Sheaf entry asked for, unless it waits already. -/
def scrubEntry (i : Nat) (s : State) : State :=
  if s.mil.tinker.any fun x => x.bank == i / 64 && x.entry == i % 64 && x.use == .scrub none then s
  else sendTink ⟨i / 64, i % 64, false, .scrub none, 0⟩ s

/-- The Sheaf part of a scrub step that visits entry `i`. -/
def scrubEntryStep (i : Nat) (s : State) : State :=
  if !canTink s (i / 64) then s else { scrubEntry i s with tnk := { (scrubEntry i s).tnk with scrubS := (i + 1) % 4608 } }

theorem scrubSheaf_eq (s : State) : scrubSheaf s = match rotFind 8 (s.tnk.scrubS / 576) (scrubbable s) with
    | none => s
    | some g => scrubEntryStep (if g = s.tnk.scrubS / 576 then s.tnk.scrubS else 576 * g) s := rfl

/-- The Hayloft part of a scrub step that visits word `i` of bank `b`. -/
def scrubWordStep (b i : Nat) (s : State) : State :=
  if s.hay.waiting.any fun a => a.use == .scrub none then s
  else askScrub true b (i % 4096) none { s with tnk := { s.tnk with scrubH := (i + 1) % 69632 } }

theorem scrubHayloft_eq (s : State) : scrubHayloft s = match rotFind 17 (s.tnk.scrubH / 4096) (wordOpen s) with
    | none => s
    | some b => scrubWordStep b (if b = s.tnk.scrubH / 4096 then s.tnk.scrubH else 4096 * b) s := rfl

/-- What asking for the scrub of an entry may change. -/
theorem scrubEntryStep_frame (i : Nat) (s : State) : scrubEntryStep i s = { s with
    mil := { s.mil with tinker := (scrubEntryStep i s).mil.tinker }
    crt := { s.crt with cross := (scrubEntryStep i s).crt.cross }
    shf := { s.shf with groups := (scrubEntryStep i s).shf.groups }
    tnk := { s.tnk with scrubS := (scrubEntryStep i s).tnk.scrubS } } := by
  unfold scrubEntryStep
  split
  · rfl
  · unfold scrubEntry
    split
    · rfl
    · rw [sendTink_frame]

/-- What the Sheaf part of a scrub step may change. -/
theorem scrubSheaf_frame (s : State) : scrubSheaf s = { s with
    mil := { s.mil with tinker := (scrubSheaf s).mil.tinker }
    crt := { s.crt with cross := (scrubSheaf s).crt.cross }
    shf := { s.shf with groups := (scrubSheaf s).shf.groups }
    tnk := { s.tnk with scrubS := (scrubSheaf s).tnk.scrubS } } := by
  rw [scrubSheaf_eq]
  split
  · rfl
  · exact scrubEntryStep_frame ..

theorem scrubWordStep_frame (b i : Nat) (s : State) : scrubWordStep b i s = { s with
    regs := (scrubWordStep b i s).regs
    hay := { s.hay with waiting := (scrubWordStep b i s).hay.waiting, banks := (scrubWordStep b i s).hay.banks }
    tnk := { s.tnk with scrubH := (scrubWordStep b i s).tnk.scrubH } } := by
  unfold scrubWordStep
  split
  · rfl
  · rw [askScrub_hayloft, askHay_frame]

/-- What the Hayloft part of a scrub step may change. -/
theorem scrubHayloft_frame (s : State) : scrubHayloft s = { s with
    regs := (scrubHayloft s).regs
    hay := { s.hay with waiting := (scrubHayloft s).hay.waiting, banks := (scrubHayloft s).hay.banks }
    tnk := { s.tnk with scrubH := (scrubHayloft s).tnk.scrubH } } := by
  rw [scrubHayloft_eq]
  split
  · rfl
  · exact scrubWordStep_frame ..

theorem scrubSheaf_asks {g : Nat} (hg : s.tnk.scrubS / 576 = g) (hlt : g < 8) (hmay : scrubbable s g = true)
    (hcan : canTink s (s.tnk.scrubS / 64) = true) (hfree : ∀ q ∈ s.mil.tinker, q.use ≠ .scrub none) :
    (scrubSheaf s).tnk.scrubS = (s.tnk.scrubS + 1) % 4608
    ∧ (scrubSheaf s).mil.tinker = s.mil.tinker ++ [⟨s.tnk.scrubS / 64, s.tnk.scrubS % 64, false, .scrub none, 0⟩] := by
  have hnone : (s.mil.tinker.any fun x => x.bank == s.tnk.scrubS / 64 && x.entry == s.tnk.scrubS % 64 && x.use == .scrub none) = false := by
    rw [List.any_eq_false]
    intro q hq
    simp [hfree q hq]
  subst hg
  rw [scrubSheaf_eq, rotFind_start hlt hmay]
  simp only [if_true, scrubEntryStep, scrubEntry, hcan, Bool.not_true, Bool.false_eq_true, if_false, hnone, true_and]
  rw [sendTink_frame]

theorem scrubHayloft_asks {b : Nat} (hb : s.tnk.scrubH / 4096 = b) (hlt : b < 17) (hopen : wordOpen s b = true)
    (hfree : ∀ a ∈ s.hay.waiting, a.use ≠ .scrub none) :
    (scrubHayloft s).tnk.scrubH = (s.tnk.scrubH + 1) % 69632
    ∧ (scrubHayloft s).hay.waiting = s.hay.waiting ++ [tinkHay b (s.tnk.scrubH % 4096) false [] (.scrub none)] := by
  have hnone : (s.hay.waiting.any fun a => a.use == .scrub none) = false := by
    rw [List.any_eq_false]
    intro a ha
    simp [hfree a ha]
  subst hb
  rw [scrubHayloft_eq, rotFind_start hlt hopen]
  simp only [scrubWordStep, hnone, if_true, Bool.false_eq_true, if_false, askScrub_hayloft]
  rw [askHay_frame]
  exact ⟨rfl, rfl⟩

/-- The Sheaf part of a scrub step leaves what the Hayloft part looks at. -/
theorem wordOpen_scrubSheaf (s : State) (b : Nat) : wordOpen (scrubSheaf s) b = wordOpen s b := by
  rw [scrubSheaf_frame]; rfl

/-- The parts of the state that a scrub step leaves. -/
theorem scrubAsked_parts (s : State) : let t := scrubAsked s
    t.hay.mem = s.hay.mem ∧ t.shf.mem = s.shf.mem ∧ t.tly = s.tly ∧ t.ctl = s.ctl ∧ t.tnk.scrubC = (s.tnk.scrubC + 1) % controlEntries := by
  intro t
  simp only [t, scrubAsked]
  rw [scrubHayloft_frame, scrubSheaf_frame]
  exact ⟨rfl, rfl, rfl, rfl, rfl⟩

/-- The step asks for the Hayloft word it visits (R362). -/
theorem scrubAsked_hayloft {b : Nat} (hb : s.tnk.scrubH / 4096 = b) (hlt : b < 17) (hopen : wordOpen s b = true)
    (hfree : ∀ a ∈ s.hay.waiting, a.use ≠ .scrub none) :
    (scrubAsked s).tnk.scrubH = (s.tnk.scrubH + 1) % 69632
    ∧ (scrubAsked s).hay.waiting = s.hay.waiting ++ [tinkHay b (s.tnk.scrubH % 4096) false [] (.scrub none)] := by
  set v : State := { s with tnk := { s.tnk with scrubC := (s.tnk.scrubC + 1) % controlEntries } } with hv
  have hframe := scrubSheaf_frame v
  have hH : (scrubSheaf v).tnk.scrubH = s.tnk.scrubH := by rw [hframe]
  have hwait : (scrubSheaf v).hay.waiting = s.hay.waiting := by rw [hframe]
  have h := scrubHayloft_asks (s := scrubSheaf v) (by rw [hH, hb]) hlt ((wordOpen_scrubSheaf v b).trans hopen) (by rwa [hwait])
  rwa [hH, hwait] at h

/-- The step asks for the Sheaf entry it visits (R362). -/
theorem scrubAsked_sheaf {g : Nat} (hg : s.tnk.scrubS / 576 = g) (hlt : g < 8) (hmay : scrubbable s g = true)
    (hcan : canTink s (s.tnk.scrubS / 64) = true) (hfree : ∀ q ∈ s.mil.tinker, q.use ≠ .scrub none) :
    (scrubAsked s).tnk.scrubS = (s.tnk.scrubS + 1) % 4608
    ∧ (scrubAsked s).mil.tinker = s.mil.tinker ++ [⟨s.tnk.scrubS / 64, s.tnk.scrubS % 64, false, .scrub none, 0⟩] := by
  unfold scrubAsked
  rw [scrubHayloft_frame]
  exact scrubSheaf_asks (s := { s with tnk := { s.tnk with scrubC := (s.tnk.scrubC + 1) % controlEntries } }) hg hlt hmay hcan hfree

/-- FATAL stops acceptance (R363). -/
theorem fatal_stops (loc : Nat) (s : State) : let t := fatal loc s
    t.tnk.fatal = true ∧ t.ctl.halted = true ∧ t.tly = s.tly ∧ ∀ p, canAccept t p = false := by
  refine ⟨rfl, rfl, by simp only [fatal, logErr_tly], fun p => ?_⟩
  simp [canAccept, fatal]

/-! ### Retirement -/

theorem wakeGroups_ready {g : Nat} (h : (groupOf s g).ready = true) : wakeGroups [g] s = s := if_pos h

theorem sendTink_ready {q : TinkReq} (h : (groupOf s (q.bank / 9)).ready = true) : sendTink q s
    = { s with mil := { s.mil with tinker := s.mil.tinker ++ [q] }, crt := { s.crt with cross := (sendTink q s).crt.cross } } := by
  unfold sendTink askTink
  rw [wakeGroups_ready h, crossIn_frame]

/-- The state in which the earliest trigger is taken. -/
def triggerTaken (r : List (Nat × Option Tag)) (s : State) : State := { s with tnk := { s.tnk with trigs := r } }

theorem exec_retirementCopy {b : Nat} {by_ : Option Tag} {r : List (Nat × Option Tag)} {l : Nat} (hr : running s islC = true)
    (hc : s.tnk.copying = none) (ht : s.tnk.trigs = (b, by_) :: r) (hb : servedBank s b = some l) : exec .retirementCopy s
      = if !mayRetire s (b / 9) then .next (dropTrigger b by_ (triggerTaken r s))
        else if (groupOf s (b / 9)).ready && canTink s b then .next (beginCopy b l by_ (triggerTaken r s)) else .next s := by
  change execRetirementCopy s = _
  rw [execRetirementCopy, if_neg (by simp [hc, hr]), ht]
  simp only [hb]
  rfl

/-- A trigger that cannot begin leaves storage, and no copy runs. -/
theorem dropTrigger_parts {b : Nat} (by_ : Option Tag) (hc : s.tnk.copying = none) :
    (dropTrigger b by_ s).tnk.copying = none ∧ (dropTrigger b by_ s).shf = s.shf := by
  unfold dropTrigger
  cases by_ with
  | some t =>
    have honly := finish_only t (outc .capacity (0xA000 + b) 0) s
    exact ⟨(congrArg Tinker.copying honly.tnk).trans hc, honly.shf⟩
  | none =>
    dsimp only
    split
    · exact ⟨hc, rfl⟩
    · rw [(logErr_logged ..).only]
      exact ⟨hc, rfl⟩

/-! ### The switch -/

/-- The state in which the spare has taken the position of the bank (R367). -/
def switched (c : Retire) (s : State) : State :=
  let v := setPhys 0 c.lbank c.spare s
  logErr 0x0C (1 + c.bank / 9) c.bank 0 c.spare { v with tnk := { v.tnk with
    copying := none
    lastBank := c.bank
    trigs := v.tnk.trigs.filter fun x => x.1 != c.bank
    retired := v.tnk.retired ++ [c.bank]
    used := v.tnk.used + 1
    shadow := tset 0 v.tnk.shadow (c.bank / 9) (put 1 31 ||| put (c.lbank % 8) 8 ||| put c.bank 0) } }

/-- Every command of a list completes OK with count 1. -/
def finishAll (ts : List Tag) (s : State) : State := ts.foldl (fun s t => finish t (outc .ok 0 1) s) s

theorem exec_retirementSwitch {c : Retire} (hr : running s islC = true) (hc : s.tnk.copying = some c) (he : 64 ≤ c.entry) :
    exec .retirementSwitch s = .next (finishAll (retirers s c) (switched c s)) := by
  change execRetirementSwitch s = _
  rw [execRetirementSwitch, hc]
  dsimp only
  rw [if_neg (by simp [hr, he])]
  rfl

theorem switched_frame (c : Retire) (s : State) : (switched c s).shf = s.shf ∧ (switched c s).hay = s.hay ∧ (switched c s).tly = s.tly
    ∧ (switched c s).tnk.copying = none ∧ (switched c s).tnk.used = s.tnk.used + 1 ∧ (switched c s).tnk.retired = s.tnk.retired ++ [c.bank]
    ∧ (switched c s).tnk.trigs = s.tnk.trigs.filter (fun x => x.1 != c.bank)
    ∧ tget 0 (switched c s).tnk.shadow (c.bank / 9) = (put 1 31 ||| put (c.lbank % 8) 8 ||| put c.bank 0) := by
  unfold switched
  rw [(logErr_logged ..).only, setPhys_frame]
  exact ⟨rfl, rfl, rfl, rfl, rfl, rfl, rfl, tget_tset_self ..⟩

theorem physOf_switched {c : Retire} {l : Nat} (hc : c.lbank < 64) (hl : l < 64) (s : State) :
    physOf (switched c s) 0 l = if l = c.lbank then c.spare else physOf s 0 l := by
  have h : physOf (switched c s) 0 l = physOf (setPhys 0 c.lbank c.spare s) 0 l := by
    simp only [physOf, if_neg (show ¬ (0 = 7) by decide)]
    rw [switched, (logErr_logged ..).only]
  rw [h, physOf_setPhys hc hl (fun h => absurd h (by decide))]

/-- The shadow of a retirement (R369). -/
theorem shadow_fields : ∀ a, a < 8 → ∀ b, b < 72 → (put 1 31 ||| put a 8 ||| put b 0 : Reg) = BitVec.ofNat 32 (2 ^ 31 + 256 * a + b) := by
  decide +kernel

theorem mem_insertAcc (p q : Tag × TagEntry) (l : List (Tag × TagEntry)) : q ∈ insertAcc p l ↔ q = p ∨ q ∈ l := by
  induction l with
  | nil => simp [insertAcc]
  | cons a r ih =>
    rw [insertAcc]
    split
    · simp
    · simp only [List.mem_cons, ih]
      tauto

theorem mem_foldr_insertAcc (q : Tag × TagEntry) (l : List (Tag × TagEntry)) : q ∈ l.foldr insertAcc [] ↔ q ∈ l := by
  induction l with
  | nil => simp
  | cons a r ih => rw [List.foldr_cons, mem_insertAcc, ih, List.mem_cons]

theorem mem_retirers {c : Retire} {tag : Tag} : tag ∈ retirers s c ↔ c.by_ = some tag ∨ (c.bank, some tag) ∈ s.tnk.trigs := by
  simp only [retirers, List.mem_map, mem_foldr_insertAcc, List.mem_append, Option.mem_toList, List.mem_filterMap, List.mem_filter]
  constructor
  · rintro ⟨p, ⟨t, ht, rfl⟩, rfl⟩
    refine ht.imp (fun h => h) ?_
    rintro ⟨⟨b, x⟩, ⟨hmem, hb⟩, rfl⟩
    obtain rfl : b = c.bank := beq_iff_eq.1 hb
    exact hmem
  · intro h
    exact ⟨_, ⟨tag, h.imp (fun h => h) fun h => ⟨_, ⟨h, beq_self_eq_true _⟩, rfl⟩, rfl⟩, rfl⟩

theorem finishAll_storage (ts : List Tag) (s : State) : (finishAll ts s).shf = s.shf ∧ (finishAll ts s).hay = s.hay :=
  ⟨foldl_proj State.shf _ (fun s t => (finish_only t _ s).shf) ts s, foldl_proj State.hay _ (fun s t => (finish_only t _ s).hay) ts s⟩

/-- A tag holds an OK reply. -/
def RepliesOk (s : State) (t : Tag) : Prop := (tagOf s t).st = .replying ∧ fld (tagOf s t).w0 23 16 = Status.ok.code

theorem repliesOk_finish (t : Tag) (s : State) : RepliesOk (finish t (outc .ok 0 1) s) t := by
  have hdone := finish_completed t (outc .ok 0 1) s
  obtain ⟨-, -, -, hcode, -⟩ := replyW0_fields (hdrCtx_lt (tagOf s t).hdr) (hdrOp_lt (tagOf s t).own) t (outc .ok 0 1)
  exact ⟨hdone.replying, by rw [hdone.word0, hcode]; rfl⟩

theorem RepliesOk.finish {t : Tag} (h : RepliesOk s t) (u : Tag) : RepliesOk (Machine.finish u (outc .ok 0 1) s) t := by
  by_cases hu : t = u
  · subst hu
    exact repliesOk_finish t s
  · obtain ⟨j, hj⟩ := finish_other u (outc .ok 0 1) hu s
    rw [RepliesOk, hj]
    exact h

theorem repliesOk_finishAll {ts : List Tag} {t : Tag} (h : t ∈ ts ∨ RepliesOk s t) : RepliesOk (finishAll ts s) t := by
  induction ts generalizing s with
  | nil => exact h.resolve_left List.not_mem_nil
  | cons a r ih =>
    refine ih ?_
    rcases h with h | h
    · rcases List.mem_cons.1 h with rfl | h
      · exact .inr (repliesOk_finish _ s)
      · exact .inl h
    · exact .inr (h.finish a)

/-- What the switch does (R367). -/
theorem retirementSwitch_serves {c : Retire} (hr : running s islC = true) (hc : s.tnk.copying = some c) (he : 64 ≤ c.entry) (hl : c.lbank < 64) :
    ∃ u t, exec .retirementSwitch s = .next t ∧ physOf u 0 c.lbank = c.spare
        ∧ (∀ l, l < 64 → l ≠ c.lbank → physOf u 0 l = physOf s 0 l) ∧ u.tnk.copying = none ∧ u.tnk.used = s.tnk.used + 1
        ∧ u.tnk.retired = s.tnk.retired ++ [c.bank] ∧ u.tnk.trigs = s.tnk.trigs.filter (fun x => x.1 != c.bank)
        ∧ (c.bank < 72 → tget 0 u.tnk.shadow (c.bank / 9) = BitVec.ofNat 32 (2 ^ 31 + 256 * (c.lbank % 8) + c.bank))
        ∧ u.shf = s.shf ∧ u.hay = s.hay ∧ u.tly = s.tly ∧ t.shf = s.shf ∧ t.hay.mem = s.hay.mem
        ∧ (retirers s c = [] → t = u) ∧ (∀ tag, retirers s c = [tag] → Completed u t tag (outc .ok 0 1))
        ∧ (∀ tag, c.by_ = some tag ∨ (c.bank, some tag) ∈ s.tnk.trigs → (tagOf t tag).st = .replying
            ∧ fld (tagOf t tag).w0 23 16 = Status.ok.code) := by
  obtain ⟨hshf, hhay, htly, hcopy, hused, hretired, htrigs, hshadow⟩ := switched_frame c s
  obtain ⟨hshf', hhay'⟩ := finishAll_storage (retirers s c) (switched c s)
  refine ⟨switched c s, _, exec_retirementSwitch hr hc he, (physOf_switched hl hl s).trans (if_pos rfl), fun l hlt hne => ?_, hcopy, hused, hretired,
    htrigs, fun hb => ?_, hshf, hhay, htly, hshf'.trans hshf, congrArg Hayloft.mem (hhay'.trans hhay), fun h => ?_, fun tag h => ?_, fun tag h => ?_⟩
  · rw [physOf_switched hl hlt, if_neg hne]
  · rw [hshadow, shadow_fields _ (Nat.mod_lt _ (by decide)) _ hb]
  · rw [h]; rfl
  · rw [h]; exact finish_completed ..
  · exact repliesOk_finishAll (.inl (mem_retirers.2 h))

end

/-- Settles O57, event by event. -/
theorem reliabilitySteps : Obligations.ReliabilitySteps := by
  intro s hr
  obtain ⟨hmem, hshf, htly, -, hctl⟩ := scrubAsked_parts s
  refine ⟨fun b hi hb hlt hopen hfree => ?_, fun g hi hg hlt hmay hcan hfree => ?_, ?_, fun hi => ?_, ?_,
    fun b by_ r l hc ht hb hmay hready hcan => ?_, fun b by_ r l hc ht hb hmay => ?_, fun c hc he hl => retirementSwitch_serves hr hc he hl⟩
  · obtain ⟨hH, hwait⟩ := scrubAsked_hayloft hb hlt hopen hfree
    exact ⟨_, _, exec_scrubStep hr hi .good, hH, hctl, hwait, rfl, rfl, rfl, rfl, hmem, hshf, htly⟩
  · obtain ⟨hS, htink⟩ := scrubAsked_sheaf hg hlt hmay hcan hfree
    exact ⟨_, exec_scrubStep hr hi .good, hS, htink, hmem, hshf, htly⟩
  · by_cases hi : fld (rget s 0xD000) 15 0 = 0
    · exact ⟨_, exec_scrubStep_stopped hr hi .uncorr, fatal_stops _ (pick s).2⟩
    · obtain ⟨hf, hh, ht, ha⟩ := fatal_stops s.tnk.scrubC (scrubAsked s)
      exact ⟨_, exec_scrubStep hr hi .uncorr, hf, hh, ht.trans htly, ha⟩
  · exact ⟨_, exec_scrubStep_stopped hr hi .good, rfl⟩
  · change execCeWindowReset s = _
    rw [execCeWindowReset, if_neg (by simp [hr])]
  · have hx := exec_retirementCopy hr hc ht hb
    rw [if_neg (by simp [hmay]), if_pos (by simp [hready, hcan]), beginCopy, sendTink_ready hready] at hx
    exact ⟨_, hx, rfl, rfl, rfl, rfl, rfl, rfl⟩
  · have hx := exec_retirementCopy hr hc ht hb
    rw [if_pos (by simp [hmay])] at hx
    obtain ⟨hnone, hkeep⟩ := dropTrigger_parts (b := b) by_ (s := triggerTaken r s) hc
    refine ⟨_, _, hx, rfl, hnone, ?_, hkeep⟩
    rintro tag rfl
    exact finish_completed ..

end Sys2Proof.Proofs
end

section
/-! SUPPORT. Proofs about translation (R48, R49), reset and power (R28, R54, R336, R369) and the visits of the ring scheduler (R298-R301). -/

namespace Sys2Proof.Proofs

open Sys2Proof.Machine Sys2Proof.Laws

/-! ### Buckets -/

/-- A bucket's slot is all that setting it changes, but for the trace. -/
theorem setBucket_frame (b : Nat) (x : Bucket) (s : State) : setBucket b x s = { s with
    regs := (setBucket b x s).regs
    thr := { s.thr with slots := tset (bucket0 b) s.thr.slots b x }
    tnk := { s.tnk with trace := (setBucket b x s).tnk.trace, traceOld := (setBucket b x s).tnk.traceOld } } := by
  unfold setBucket
  dsimp only
  split
  · rfl
  · rw [(traceEv_onlyTrace ..).only]

@[simp] theorem bucketOf_setBucket_self (b : Nat) (x : Bucket) (s : State) : bucketOf (setBucket b x s) b = x := by
  rw [setBucket_frame]; exact tget_tset_self ..

theorem bucketOf_setBucket_ne {b k : Nat} (h : k ≠ b) (x : Bucket) (s : State) : bucketOf (setBucket b x s) k = bucketOf s k := by
  rw [setBucket_frame]; exact tget_tset_ne _ _ h _

@[simp] theorem bucketOf_updBucket_self (b : Nat) (f : Bucket → Bucket) (s : State) : bucketOf (updBucket b f s) b = f (bucketOf s b) :=
  bucketOf_setBucket_self ..

theorem bucketOf_updBucket_ne {b k : Nat} (h : k ≠ b) (f : Bucket → Bucket) (s : State) : bucketOf (updBucket b f s) k = bucketOf s k :=
  bucketOf_setBucket_ne h ..

/-- The parts of the state that a bucket's change leaves. -/
theorem updBucket_frame (b : Nat) (f : Bucket → Bucket) (s : State) : updBucket b f s = { s with
    regs := (updBucket b f s).regs
    thr := { s.thr with slots := tset (bucket0 b) s.thr.slots b (f (bucketOf s b)) }
    tnk := { s.tnk with trace := (updBucket b f s).tnk.trace, traceOld := (updBucket b f s).tnk.traceOld } } := setBucket_frame ..

theorem updBucket_tly (b : Nat) (f : Bucket → Bucket) (s : State) : (updBucket b f s).tly = s.tly := by rw [updBucket_frame]

theorem rget_updBucket (b : Nat) (f : Bucket → Bucket) {k : Nat} (h : k ≠ 0xD080) (s : State) : rget (updBucket b f s) k = rget s k := by
  unfold updBucket setBucket
  dsimp only
  split
  · rfl
  · exact rget_traceEv _ _ _ _ _ h s

theorem tagOf_updBucket (b : Nat) (f : Bucket → Bucket) (t : Tag) (s : State) : tagOf (updBucket b f s) t = tagOf s t := by
  rw [updBucket_frame]; rfl

/-! ### Translation -/

section
variable {s : State}

theorem pumpTrn_of_none_waiting (h : s.asy.waiting = []) : pumpTrn s = s := by
  unfold pumpTrn
  rw [h]
  cases s.asy.sending <;> rfl

theorem query_setQuery_self (i : Nat) (q : Option Query) (s : State) : tget none (setQuery i q s).asy.queries i = q := tget_tset_self ..

theorem query_setQuery_ne {i k : Nat} (h : k ≠ i) (q : Option Query) (s : State) :
    tget none (setQuery i q s).asy.queries k = tget none s.asy.queries k := tget_tset_ne _ _ h _

/-- Who answers a query changes no query and no pin. -/
theorem answerQuery_asy_pin (q : Query) (size : Nat) (r : Nat ⊕ Nat) (s : State) :
    (answerQuery q size r s).asy = s.asy ∧ (answerQuery q size r s).pin = s.pin := by
  unfold answerQuery
  cases q.use with
  | job t => cases r <;> exact ⟨rfl, rfl⟩
  | bucket b => cases r <;> (dsimp only; rw [updBucket_frame]; exact ⟨rfl, rfl⟩)

/-- What a response says: a physical address, or a fault code. -/
def responseOf (sflt : Bool) (scode : BitVec 4) (spa : BitVec 48) : Nat ⊕ Nat := if sflt then .inr scode.toNat else .inl spa.toNat

/-- The state in which a response is taken from its query. -/
def responseTaken (i : Nat) (s : State) : State := setQuery i none { s with pin := { s.pin with sack := !s.pin.sack } }

theorem exec_trnResponse {sid : BitVec 4} {q : Query} (ha : awake s = true) (hr : running s islH = true)
    (hq : tget none s.asy.queries sid.toNat = some q) (hack : q.acked = true) (hw : s.asy.waiting = []) (spa : BitVec 48) (ssize : BitVec 2)
    (sflt : Bool) (scode : BitVec 4) : exec (.trnResponse sid spa ssize sflt scode) s = .next (if q.timedOut then responseTaken sid.toNat s
      else answerQuery q (pageSize ssize.toNat) (responseOf sflt scode spa) (responseTaken sid.toNat s)) := by
  change execTrnResponse sid spa ssize sflt scode s = _
  rw [execTrnResponse, if_neg (by simp [ha, hr])]
  simp only [hq, hack, Bool.not_true, Bool.false_eq_true, if_false]
  rw [pumpTrn_of_none_waiting]
  · rfl
  · split
    · exact hw
    · rw [(answerQuery_asy_pin ..).1]
      exact hw

/-- A response or timeout for a command gives it the page, or a fault from its unit on (R217). -/
theorem answerQuery_job_page {q : Query} {tag : Tag} (hu : q.use = .job tag) (size p : Nat) (s : State) : let t := answerQuery q size (.inl p) s
    (tagOf t tag).job = { (tagOf s tag).job with
        xlWait := false, xl := (tagOf s tag).job.xl ++ [⟨q.va - q.va % size, size, (p + 2 ^ 48 - q.va % size) % 2 ^ 48⟩] }
      ∧ ∀ x, x ≠ tag → tagOf t x = tagOf s x := by
  intro t
  simp only [t, answerQuery, hu]
  refine ⟨?_, fun x hx => tagOf_updJob_ne hx ..⟩
  rw [tagOf_updJob_self]

theorem answerQuery_job_fault {q : Query} {tag : Tag} (hu : q.use = .job tag) (size c : Nat) (s : State) : let t := answerQuery q size (.inr c) s
    (tagOf t tag).job = { (tagOf s tag).job with xlWait := false, lim := limMin (tagOf s tag).job.lim (tagOf s tag).job.xlRow (.xlate c) }
      ∧ (∀ x, x ≠ tag → tagOf t x = tagOf s x)
      ∧ rget t 0x604C = BitVec.ofNat 32 (min 0xFFFFFFFF ((rget s 0x604C).toNat + 1)) := by
  intro t
  simp only [t, answerQuery, hu]
  refine ⟨?_, fun x hx => tagOf_updJob_ne hx .., ?_⟩
  · rw [tagOf_updJob_self, tagOf_cnt]
  · rw [rget_updJob, rget_cnt_self]

theorem answerQuery_bucket_page {q : Query} {b : Nat} (hu : q.use = .bucket b) (size p : Nat) (s : State) : let t := answerQuery q size (.inl p) s
    bucketOf t b = { bucketOf s b with
        pages := (bucketOf s b).pages ++ [⟨q.va - q.va % size, size, some ((p + 2 ^ 48 - q.va % size) % 2 ^ 48), 0⟩] } ∧ t.tly = s.tly := by
  intro t
  simp only [t, answerQuery, hu]
  exact ⟨bucketOf_updBucket_self .., updBucket_tly ..⟩

theorem answerQuery_bucket_fault {q : Query} {b : Nat} (hu : q.use = .bucket b) (size c : Nat) (s : State) : let t := answerQuery q size (.inr c) s
    bucketOf t b = { bucketOf s b with pages := (bucketOf s b).pages ++ [⟨q.va - q.va % size, size, none, c⟩], fault := true } ∧ t.tly = s.tly := by
  intro t
  simp only [t, answerQuery, hu]
  exact ⟨bucketOf_updBucket_self .., updBucket_tly ..⟩

/-- A response to a query that has been acknowledged and has not timed out. -/
theorem trnResponse_answers {sid : BitVec 4} {q : Query} (ha : awake s = true) (hr : running s islH = true)
    (hq : tget none s.asy.queries sid.toNat = some q) (hack : q.acked = true) (hin : q.timedOut = false) (hw : s.asy.waiting = [])
    (spa : BitVec 48) (ssize : BitVec 2) (sflt : Bool) (scode : BitVec 4) :
      let t := answerQuery q (pageSize ssize.toNat) (responseOf sflt scode spa) (responseTaken sid.toNat s)
      exec (.trnResponse sid spa ssize sflt scode) s = .next t ∧ tget none t.asy.queries sid.toNat = none ∧ t.pin.sack = !s.pin.sack := by
  intro t
  have hx := exec_trnResponse ha hr hq hack hw spa ssize sflt scode
  rw [hin, if_neg Bool.false_ne_true] at hx
  obtain ⟨hasy, hpin⟩ := answerQuery_asy_pin q (pageSize ssize.toNat) (responseOf sflt scode spa) (responseTaken sid.toNat s)
  exact ⟨hx, by rw [hasy]; exact query_setQuery_self .., by rw [hpin]; rfl⟩

theorem exec_trnQueryAck {i : Nat} {q : Query} (ha : awake s = true) (hr : running s islH = true) (hs : s.asy.sending = some i)
    (hq : tget none s.asy.queries i = some q) (hw : s.asy.waiting = []) : exec .trnQueryAck s
      = .next { setQuery i (some { q with acked := true }) s with asy := { (setQuery i (some { q with acked := true }) s).asy with sending := none } } := by
  change execTrnQueryAck s = _
  simp only [execTrnQueryAck, hs, ha, hr, hq, Bool.not_true, Bool.or_self, Bool.false_eq_true, if_false]
  rw [pumpTrn_of_none_waiting]
  exact hw

theorem exec_trnResponse_unasked {sid : BitVec 4} (ha : awake s = true) (hr : running s islH = true)
    (hq : tget none s.asy.queries sid.toNat = none ∨ ∃ q, tget none s.asy.queries sid.toNat = some q ∧ q.acked = false) (spa : BitVec 48)
    (ssize : BitVec 2) (sflt : Bool) (scode : BitVec 4) : exec (.trnResponse sid spa ssize sflt scode) s
      = .next (unusable islH 0 sid.toNat 0x30 { s with pin := { s.pin with sack := !s.pin.sack } }) := by
  change execTrnResponse sid spa ssize sflt scode s = _
  rw [execTrnResponse, if_neg (by simp [ha, hr])]
  rcases hq with hq | ⟨q, hq, hack⟩
  · simp only [hq]
  · simp only [hq, hack, Bool.not_false, if_true]

theorem exec_xlateTimeout {sid : BitVec 4} {q : Query} (ha : awake s = true) (hr : running s islH = true)
    (hq : tget none s.asy.queries sid.toNat = some q) (hack : q.acked = true) (hin : q.timedOut = false) :
    exec (.xlateTimeout sid) s = .next (answerQuery q 4096 (.inr 0xF) (setQuery sid.toNat (some { q with timedOut := true }) s)) := by
  change execXlateTimeout sid s = _
  simp only [execXlateTimeout, hq, hack, hin, ha, hr, Bool.not_true, Bool.or_self, Bool.false_eq_true, if_false]

end

/-- Settles O50, event by event; what an answer does is `answerQuery` of its asker and its kind. -/
theorem translationsAnswered : Obligations.TranslationsAnswered := by
  intro s ha hr
  refine ⟨fun i q hs hq hw => ?_, ?_, fun sid spa ssize sflt scode q hq hack hin hw => ?_, fun sid spa ssize sflt scode hq => ?_,
    fun sid q tag hq hack hin hu => ?_⟩
  · exact ⟨_, exec_trnQueryAck ha hr hs hq hw, query_setQuery_self i (some { q with acked := true }) s, fun j hj => query_setQuery_ne hj (some { q with acked := true }) s, rfl, rfl⟩
  · intro sid spa ssize scode q hq hack hin hw size page
    obtain ⟨hx, hnone, hsack⟩ := trnResponse_answers ha hr hq hack hin hw spa ssize false scode
    obtain ⟨hx', hnone', -⟩ := trnResponse_answers ha hr hq hack hin hw spa ssize true scode
    refine ⟨fun tag hu => ⟨?_, ?_⟩, fun b hu => ⟨?_, ?_⟩⟩
    · obtain ⟨hjob, hothers⟩ := answerQuery_job_page hu (pageSize ssize.toNat) spa.toNat (responseTaken sid.toNat s)
      exact ⟨_, hx, hnone, hsack, hjob, hothers⟩
    · obtain ⟨hjob, -, hcount⟩ := answerQuery_job_fault hu (pageSize ssize.toNat) scode.toNat (responseTaken sid.toNat s)
      exact ⟨_, hx', hnone', hjob, hcount⟩
    · obtain ⟨hb, htly⟩ := answerQuery_bucket_page hu (pageSize ssize.toNat) spa.toNat (responseTaken sid.toNat s)
      exact ⟨_, hx, hnone, hb, htly⟩
    · obtain ⟨hb, htly⟩ := answerQuery_bucket_fault hu (pageSize ssize.toNat) scode.toNat (responseTaken sid.toNat s)
      exact ⟨_, hx', hnone', hb, htly⟩
  · have hx := exec_trnResponse ha hr hq hack hw spa ssize sflt scode
    rw [hin, if_pos rfl] at hx
    exact ⟨_, hx, query_setQuery_self .., rfl, rfl⟩
  · exact ⟨_, _, exec_trnResponse_unasked ha hr hq spa ssize sflt scode, rfl, logErr_logged ..⟩
  · obtain ⟨hjob, hothers, -⟩ := answerQuery_job_fault hu 4096 0xF (setQuery sid.toNat (some { q with timedOut := true }) s)
    refine ⟨_, exec_xlateTimeout ha hr hq hack hin, ?_, hjob, hothers⟩
    rw [(answerQuery_asy_pin ..).1]
    exact query_setQuery_self ..

/-! ### Reset and power -/

theorem exec_pwrRstAssert {s : State} (hp : s.ctl.powered = true) : exec .pwrRstAssert s = .next (underReset s) := by
  change execPwrRstAssert s = _
  rw [execPwrRstAssert, if_pos hp]

theorem exec_pwrRstRelease {s : State} (hp : s.ctl.powered = true) (hr : s.ctl.inReset = true) : exec .pwrRstRelease s
    = .next { s with ctl := { s.ctl with inReset := false, halted := s.ctl.unplugWarn, unplug := b2n s.ctl.unplugWarn } } := by
  change execPwrRstRelease s = _
  rw [execPwrRstRelease, if_neg (by simp [hp, hr])]

theorem exec_fabricFirstPowered {s : State} (hp : s.ctl.powered = false) :
    exec .fabricFirstPowered s = .next { State.reset with pending := s.pending, freeCtr := s.freeCtr } := by
  change execFabricFirstPowered s = _
  rw [execFabricFirstPowered, if_neg (by simp [hp])]

/-- Settles O51: the state under reset is the reset state but for the fields that `underReset` keeps. -/
theorem resetAndPower : Obligations.ResetAndPower := by
  refine fun s => ⟨fun hp => ⟨_, exec_pwrRstAssert hp, ?_⟩, exec_pwrRstRelease, ⟨_, rfl, rfl, rfl, rfl, rfl, rfl, rfl, rfl⟩, exec_fabricFirstPowered⟩
  exact ⟨rfl, rfl, rfl, rfl, rfl, rfl, rfl, rfl, rfl, rfl, rfl, rfl, rfl, rfl, fun i => ⟨rfl, rfl⟩, fun _ => rfl, fun _ => rfl, fun _ => rfl,
    fun _ => rfl, rfl, rfl, rfl, rfl, rfl, rfl, rfl, rfl, rfl, rfl⟩

/-! ### The ring scheduler -/

section
variable {s : State}

/-- The ring a visit begins with is one that may be visited (R298). -/
theorem visitable_of_nextRing {n : Nat} (h : nextRing s = some n) : visitable s n = true := by
  have hfold : ∀ (l : List Nat) (b : Option Nat), (∀ m ∈ l, visitable s m = true) → (∀ m, b = some m → visitable s m = true) →
      ∀ m, l.foldl (fun (b : Option Nat) n => match b with
        | some m => if fromPtr s n < fromPtr s m then some n else some m
        | none => some n) b = some m → visitable s m = true := by
    intro l
    induction l with
    | nil => exact fun b _ hb m hm => hb m hm
    | cons a r ih =>
      intro b hl hb
      refine ih _ (fun m hm => hl m (List.mem_cons_of_mem _ hm)) fun m hm => ?_
      have ha := hl a List.mem_cons_self
      cases b with
      | none => exact Option.some.inj hm ▸ ha
      | some c =>
        dsimp only at hm
        split at hm
        · exact Option.some.inj hm ▸ ha
        · exact hb m hm
  exact hfold _ none (fun m hm => (List.mem_filter.1 hm).2) (fun _ h => by cases h) n h

theorem pumpIn1_of_empty (h : s.noc.in1 = []) : pumpIn1 s = s := by rw [pumpIn1, h]; rfl

@[simp] theorem ringBell_setBell_self (n : Nat) (b : Bool) (s : State) : ringBell (setBell n b s) n = b := tget_tset_self ..

theorem ringBell_setBell_ne {n k : Nat} (h : k ≠ n) (b : Bool) (s : State) : ringBell (setBell n b s) k = ringBell s k := tget_tset_ne _ _ h _

theorem schedule_begins {n : Nat} (ha : awake s = true) (hb : booted s = true) (hh : s.ctl.halted = false) (hr : running s islC = true)
    (hv : s.rng.visit = none) (hn : nextRing s = some n) : schedule s = beginVisit n s := by
  rw [schedule, if_neg (by simp [ha, hb, hh, hr])]
  simp only [hv, hn]

theorem schedule_idle (hv : s.rng.visit = none) (hn : nextRing s = none) : schedule s = s := by
  unfold schedule
  split
  · rfl
  · simp only [hv, hn]

/-- A visit of ring `n`, of which no packet has been taken. -/
def visiting (n : Nat) (s : State) : State := { s with rng := { s.rng with visit := some (n, 0) } }

theorem beginVisit_serves {n : Nat} {x : BitVec 128} (hc : (ringOf s n).count ≠ 0) (ho : residentEntry s (ringOwner s n) = some x)
    (hs : ctxSuspend x = false) (hv : ctxValid x = true) : beginVisit n s = serveRing n 0 (visiting n s) := by
  simp only [beginVisit, if_neg hc, ho, hs, hv, Bool.not_true, Bool.or_self, Bool.false_eq_true, if_false]
  rfl

/-- The network's packets and those of `cmd_` come before the scheduler's in either state. -/
theorem hasTurn_visiting (n : Nat) (s : State) : hasTurn (visiting n s) 2 = hasTurn s 2 := by
  have hturn : ∀ v : State, hasTurn v 2 = !((srcReady v 0 && decide ((0 + 3 - v.tly.turn) % 3 < (2 + 3 - v.tly.turn) % 3))
      || (srcReady v 1 && decide ((1 + 3 - v.tly.turn) % 3 < (2 + 3 - v.tly.turn) % 3))) := fun v => by
    simp [hasTurn, List.range, List.range.loop]
  rw [hturn, hturn]
  rfl

theorem serveRing_ready {n k : Nat} {p : Packet} (he : (ringOf s n).en = true) (hr : (ringOf s n).err = false) (hc : (ringOf s n).count ≠ 0)
    (hb : bit (rget s 0x8004) 0 = true) (hw : k < ringWeight s n) (hp : ringPacket s n (ringOf s n).head = some p) (ha : canAccept s p = true) :
    serveRing n k s = if hasTurn s 2 then takePacket n k p s else s := by
  simp [serveRing, he, hr, hc, hb, hw, hp, ha]

/-- A packet accepted from ring `n`, HEAD advanced. -/
def ringAccepted (n : Nat) (p : Packet) (s : State) : State :=
  accept (.ring n (ringOwner s n)) p (setRing n { ringOf s n with head := ((ringOf s n).head + 1) % 2048 } s)

theorem accept_rng (src : Origin) (p : Packet) (s : State) : (accept src p s).rng = s.rng := by
  unfold accept
  rw [traceEv_rng]
  rfl

theorem accept_noc (src : Origin) (p : Packet) (s : State) : (accept src p s).noc = s.noc := by
  unfold accept
  rw [traceEv_noc]
  rfl

/-- The entry of a packet that is accepted (R31, R60). -/
def acceptedEntry (src : Origin) (p : Packet) (s : State) : TagEntry :=
  { TagEntry.free with st := .waiting, own := p.w0, hdr := p.w0, pkt := p, src := src, place := s.tly.accNext, acc := s.tly.accNext }

/-- What acceptance does to the tags and the input queue (R31, R60). -/
theorem accept_tly (src : Origin) (p : Packet) (s : State) : (accept src p s).tly.inq = s.tly.inq ++ [hdrTag p.w0]
    ∧ tagOf (accept src p s) (hdrTag p.w0) = acceptedEntry src p s
    ∧ ∀ u, u ≠ hdrTag p.w0 → tagOf (accept src p s) u = tagOf s u := by
  unfold accept
  refine ⟨?_, ?_, fun u hu => ?_⟩
  · rw [traceEv_tly]; rfl
  · rw [tagOf_traceEv]; exact tagOf_setTag_self (hdrTag p.w0) (acceptedEntry src p s) s
  · rw [tagOf_traceEv]; exact tagOf_setTag_ne hu (acceptedEntry src p s) s

/-- The state after the last packet that a visit of ring `n` takes. -/
def lastTaken (n : Nat) (p : Packet) (s : State) : State :=
  endVisit n (dropTaken n { ringAccepted n p s with rng := { (ringAccepted n p s).rng with visit := some (n, 1) } })

/-- A packet taken from a ring of WEIGHT 1: the visit ends (R298). -/
theorem takePacket_last {n : Nat} {p : Packet} (hw : ringWeight s n = 1) : takePacket n 0 p s = lastTaken n p s := by
  have hweight : ringWeight (dropTaken n { ringAccepted n p s with rng := { (ringAccepted n p s).rng with visit := some (n, 0 + 1) } }) n ≤ 0 + 1 := by
    rw [ringWeight, dropTaken, ringAccepted, accept_rng]
    exact hw.le
  exact if_pos (.inl hweight)

theorem lastTaken_parts (n : Nat) (p : Packet) (s : State) : let t := lastTaken n p s
    (∀ k, ringOf t k = ringOf (ringAccepted n p s) k) ∧ t.rng.ptr = (n + 1) % 32768 ∧ t.rng.visit = none ∧ t.tly = (ringAccepted n p s).tly
    ∧ t.noc = (ringAccepted n p s).noc := by
  unfold lastTaken
  generalize ringAccepted n p s = u
  exact ⟨fun _ => rfl, rfl, rfl, rfl, rfl⟩

theorem ringOf_ringAccepted (n : Nat) (p : Packet) (s : State) (k : Nat) : ringOf (ringAccepted n p s) k
    = if k = n then { ringOf s n with head := ((ringOf s n).head + 1) % 2048 } else ringOf s k := by
  rw [ringOf, ringAccepted, accept_rng]
  split
  · next h => subst h; exact ringOf_setRing_self ..
  · next h => exact ringOf_setRing_ne h ..

/-- What the last packet of a visit leaves (R298, R301). -/
theorem lastTaken_accepts (n : Nat) (p : Packet) (s : State) : let t := lastTaken n p s
    ringOf t n = { ringOf s n with head := ((ringOf s n).head + 1) % 2048 } ∧ (∀ k, k ≠ n → ringOf t k = ringOf s k)
    ∧ t.rng.ptr = (n + 1) % 32768 ∧ t.rng.visit = none ∧ t.tly.inq = s.tly.inq ++ [hdrTag p.w0]
    ∧ (tagOf t (hdrTag p.w0)).pkt = p ∧ (tagOf t (hdrTag p.w0)).src = .ring n (ringOwner s n)
    ∧ (tagOf t (hdrTag p.w0)).st = .waiting ∧ (∀ u, u ≠ hdrTag p.w0 → tagOf t u = tagOf s u) ∧ t.noc = s.noc := by
  intro t
  obtain ⟨hring, hptr, hvisit, htly, hnoc⟩ := lastTaken_parts n p s
  obtain ⟨hinq, hself, hothers⟩ := accept_tly (.ring n (ringOwner s n)) p (setRing n { ringOf s n with head := ((ringOf s n).head + 1) % 2048 } s)
  have htag : ∀ x, tagOf t x = tagOf (ringAccepted n p s) x := fun x => congrArg (fun y : Tallyman => tget TagEntry.free y.tags x.toNat) htly
  refine ⟨?_, fun k hk => ?_, hptr, hvisit, ?_, ?_, ?_, ?_, fun u hu => ?_, ?_⟩
  · rw [hring, ringOf_ringAccepted, if_pos rfl]
  · rw [hring, ringOf_ringAccepted, if_neg hk]
  · rw [htly, ringAccepted, hinq]
    rfl
  · rw [htag, ringAccepted, hself]
    rfl
  · rw [htag, ringAccepted, hself]
    rfl
  · rw [htag, ringAccepted, hself]
    rfl
  · rw [htag, ringAccepted, hothers u hu]
    rfl
  · rw [hnoc, ringAccepted, accept_noc]
    rfl

end

/-- Settles O49, by what the next ring is and holds. -/
theorem schedulerVisits : Obligations.SchedulerVisits := by
  intro s ha hb hh hr hv hin
  have hexec : ∀ t, schedule s = t → t.noc.in1 = [] → exec .ringSchedulerVisit s = .next t := by
    rintro t rfl ht
    exact congrArg Host.Outcome.next (pumpIn1_of_empty ht)
  refine ⟨fun hn => hexec s (schedule_idle hv hn) hin, fun n hn => ?_⟩
  have hbegin := schedule_begins ha hb hh hr hv hn
  refine ⟨fun hc => ?_, fun x hc ho hx => ?_, fun x p hc ho hs hval hw hbit hp hacc => ?_⟩
  · refine ⟨passRing n (setBell n false s), hexec _ (hbegin.trans (if_pos hc)) hin, ringBell_setBell_self n false s, fun k hk => ringBell_setBell_ne hk false s, rfl, rfl⟩
  · have hpass : beginVisit n s = passRing n (cnt 0x8050 1 s) := by
      simp only [beginVisit, if_neg hc, ho]
      exact if_pos (by rcases hx with h | h <;> simp [h])
    exact ⟨_, hexec _ (hbegin.trans hpass) hin, rfl, rfl, rfl⟩
  · obtain ⟨⟨⟨⟨-, hen⟩, herr⟩, -⟩, -⟩ : (((ringBell s n = true ∧ (ringOf s n).en = true) ∧ (ringOf s n).err = false) ∧ 0 < ringWeight s n) ∧ _ := by
      simpa only [visitable, Bool.and_eq_true, Bool.not_eq_true', decide_eq_true_eq] using visitable_of_nextRing hn
    have hserve : schedule s = if hasTurn s 2 then takePacket n 0 p (visiting n s) else visiting n s := by
      rw [hbegin, beginVisit_serves hc ho hs hval, ← hasTurn_visiting n s]
      exact serveRing_ready (s := visiting n s) hen herr hc hbit (show 0 < ringWeight s n by omega) hp hacc
    refine ⟨fun hturn => ?_, fun hturn => ?_⟩
    · rw [if_pos hturn, takePacket_last (s := visiting n s) hw] at hserve
      obtain ⟨hself, hothers, hptr, hvisit, hinq, hpkt, hsrc, hst, htags, hnoc⟩ := lastTaken_accepts n p (visiting n s)
      exact ⟨_, hexec _ hserve ((congrArg Noc.in1 hnoc).trans hin), hself, hothers, hptr, hvisit, hinq, hpkt, hsrc, hst, htags⟩
    · rw [if_neg (by simp [hturn])] at hserve
      exact hexec _ hserve hin

end Sys2Proof.Proofs
end

section
/-! SUPPORT. Proofs about the unplug sequence (R55, R56, R355, R356, R368): what stops, and how the power goes down. -/

namespace Sys2Proof.Proofs

open Sys2Proof.Machine Sys2Proof.Laws

/-! ### The warning -/

section
variable {s : State}

/-- What the warning leaves once no packet is accepted and no copy runs: the rest acts on commands alone. -/
structure SameShutdown (s t : State) : Prop where
  ctl : t.ctl = s.ctl
  copying : t.tnk.copying = s.tnk.copying
  trigs : t.tnk.trigs = s.tnk.trigs
  mil : t.mil = s.mil
  rng : t.rng = s.rng
  shf : t.shf = s.shf
  hayMem : t.hay.mem = s.hay.mem

theorem SameShutdown.refl (s : State) : SameShutdown s s := ⟨rfl, rfl, rfl, rfl, rfl, rfl, rfl⟩

theorem SameShutdown.trans {s t u : State} (h : SameShutdown s t) (g : SameShutdown t u) : SameShutdown s u :=
  ⟨g.ctl.trans h.ctl, g.copying.trans h.copying, g.trigs.trans h.trigs, g.mil.trans h.mil, g.rng.trans h.rng, g.shf.trans h.shf,
    g.hayMem.trans h.hayMem⟩

theorem sameShutdown_finish (t : Tag) (o : Outc) (s : State) : SameShutdown s (finish t o s) := by
  have honly := finish_only t o s
  have hcopying := congrArg Tinker.copying honly.tnk
  have htrigs := congrArg Tinker.trigs honly.tnk
  exact ⟨honly.ctl, hcopying, htrigs, honly.mil, honly.rng, honly.shf, congrArg Hayloft.mem honly.hay⟩

theorem sameShutdown_dropAsks (t : Tag) (w : Bool) (s : State) : SameShutdown s (dropAsks t w s) := ⟨rfl, rfl, rfl, rfl, rfl, rfl, rfl⟩

theorem sameShutdown_unplugEnd (t : Tag) (s : State) : SameShutdown s (unplugEnd t s) :=
  (sameShutdown_dropAsks t true s).trans (sameShutdown_finish ..)

theorem sameShutdown_updTag (t : Tag) (f : TagEntry → TagEntry) (s : State) : SameShutdown s (updTag t f s) := ⟨rfl, rfl, rfl, rfl, rfl, rfl, rfl⟩

theorem sameShutdown_arrayStop (t : Tag) (s : State) : SameShutdown s (arrayStop t s) := ⟨rfl, rfl, rfl, rfl, rfl, rfl, rfl⟩

theorem sameShutdown_unplugOne (s : State) (p : Tag × TagEntry) : SameShutdown s (unplugOne s p) := by
  unfold unplugOne
  dsimp only
  split
  · exact .refl s
  · split
    · split
      · exact sameShutdown_updTag ..
      · exact sameShutdown_unplugEnd ..
    · have hstop : ∀ b : Bool, SameShutdown s (if b then updTag p.1 (fun e => { e with stop := some .unplug }) s else s) := fun b => by
        split
        · exact sameShutdown_updTag ..
        · exact .refl s
      split
      · exact (hstop _).trans (sameShutdown_unplugEnd ..)
      · split
        · exact (hstop _).trans (sameShutdown_arrayStop ..)
        · exact hstop _

theorem sameShutdown_foldl (l : List (Tag × TagEntry)) (s : State) : SameShutdown s (l.foldl unplugOne s) := by
  induction l generalizing s with
  | nil => exact .refl s
  | cons a r ih => exact (sameShutdown_unplugOne s a).trans (ih _)

/-- The state in which the warning turns to the commands: acceptance and copies have stopped. -/
def warned (s : State) : State :=
  abandonCopy (dropLines (fun _ => true) { s with ctl := { s.ctl with unplugWarn := true, halted := true, unplug := 1 } })

theorem warned_tly (s : State) : (warned s).tly = s.tly := by
  unfold warned abandonCopy
  split
  · exact logErr_tly ..
  · rfl

theorem warned_parts (s : State) : (warned s).ctl = { s.ctl with unplugWarn := true, halted := true, unplug := 1 }
    ∧ (warned s).tnk.copying = none ∧ (warned s).tnk.trigs = [] ∧ (warned s).mil.tinker = s.mil.tinker.filter (fun q => q.use != .copy)
    ∧ (warned s).rng.lines = [] ∧ (warned s).shf.mem = s.shf.mem ∧ (warned s).hay.mem = s.hay.mem := by
  have hlines : (dropLines (fun _ => true) s).rng.lines = [] := by simp [dropLines]
  unfold warned abandonCopy
  split
  · rw [(logErr_logged ..).only]
    exact ⟨rfl, rfl, rfl, rfl, hlines, rfl, rfl⟩
  · exact ⟨rfl, rfl, rfl, rfl, hlines, rfl, rfl⟩

/-- The commands in flight, in acceptance order. -/
def inFlightTags (s : State) : List (Tag × TagEntry) := ((allocTags s).filter fun p => p.2.inFlight).foldr insertAcc []

theorem exec_unplugWarn_starts (hp : s.ctl.powered = true) (hr : s.ctl.inReset = false) (hu : s.ctl.unplug = 0) (hw : s.ctl.unplugWarn = false) :
    exec .unplugWarn s = .next ((inFlightTags (warned s)).foldl unplugOne (warned s)) := by
  change execUnplugWarn s = _
  rw [execUnplugWarn, hw]
  exact if_neg (by simp [hp, hr, hu])

theorem exec_unplugWarn_only (h : s.ctl.unplugWarn = true ∨ 1 ≤ s.ctl.unplug) :
    exec .unplugWarn s = .next { s with ctl := { s.ctl with unplugWarn := !s.ctl.unplugWarn } } := by
  change execUnplugWarn s = _
  exact if_pos (by rcases h with h | h <;> simp [h])

theorem inFlightTags_single {u : Tag} {e : TagEntry} (ht : s.tly.tags = [(u.toNat, e)]) (hw : e.st = .waiting) : inFlightTags s = [(u, e)] := by
  have hin : e.inFlight = true := by simp [TagEntry.inFlight, hw]
  simp [inFlightTags, allocTags, ht, hin, insertAcc]

theorem unplugOne_waiting {u : Tag} {e : TagEntry} {c : Command} (hw : e.st = .waiting) (hc : e.cmd = some c) (hb : ∀ b f, c ≠ .bkclose b f) :
    unplugOne s (u, e) = unplugEnd u s := by
  simp only [unplugOne, hc, hw, if_true]

theorem unplugOne_bkclose {u : Tag} {e : TagEntry} {b : Nat} {f : Bool} (hw : e.st = .waiting) (hc : e.cmd = some (.bkclose b f)) :
    unplugOne s (u, e) = updTag u stopClose s := by
  simp only [unplugOne, hc, hw, if_true]

theorem unplugEnd_aborts (u : Tag) (s : State) :
    (tagOf (unplugEnd u s) u).st = .replying ∧ fld (tagOf (unplugEnd u s) u).w0 23 16 = Status.abortedPower.code := by
  have hdone := finish_completed u (outc .abortedPower 0 (tagOf s u).job.row) (dropAsks u true s)
  obtain ⟨-, -, -, hcode, -⟩ := replyW0_fields (hdrCtx_lt (tagOf (dropAsks u true s) u).hdr) (hdrOp_lt (tagOf (dropAsks u true s) u).own) u
    (outc .abortedPower 0 (tagOf s u).job.row)
  exact ⟨hdone.replying, by rw [unplugEnd, hdone.word0, hcode]; rfl⟩

/-- What the warning does (R55, R368). -/
theorem unplugWarn_stops (hp : s.ctl.powered = true) (hr : s.ctl.inReset = false) (hu : s.ctl.unplug = 0) (hw : s.ctl.unplugWarn = false) :
    ∃ t, exec .unplugWarn s = .next t ∧ t.ctl = { s.ctl with unplugWarn := true, halted := true, unplug := 1 }
      ∧ t.tnk.copying = none ∧ t.tnk.trigs = [] ∧ t.mil.tinker = s.mil.tinker.filter (fun q => q.use != .copy) ∧ t.rng.lines = []
      ∧ t.shf.mem = s.shf.mem ∧ t.hay.mem = s.hay.mem ∧ ∀ p, canAccept t p = false := by
  obtain ⟨hctl, hcopy, htrigs, htink, hlines, hshf, hhay⟩ := warned_parts s
  have hsame := sameShutdown_foldl (inFlightTags (warned s)) (warned s)
  have hctl' := hsame.ctl.trans hctl
  refine ⟨_, exec_unplugWarn_starts hp hr hu hw, hctl', hsame.copying.trans hcopy, hsame.trigs.trans htrigs, ?_, ?_, ?_, hsame.hayMem.trans hhay, fun p => ?_⟩
  · rw [hsame.mil, htink]
  · rw [hsame.rng, hlines]
  · rw [hsame.shf, hshf]
  · simp [canAccept, hctl']

/-- What the warning does to the one command there is (R55, R276). -/
theorem unplugWarn_single {u : Tag} {e : TagEntry} {c : Command} (hp : s.ctl.powered = true) (hr : s.ctl.inReset = false) (hu : s.ctl.unplug = 0)
    (hw : s.ctl.unplugWarn = false) (ht : s.tly.tags = [(u.toNat, e)]) (hst : e.st = .waiting) (hc : e.cmd = some c) :
    ((∀ b f, c ≠ .bkclose b f) → ∃ t, exec .unplugWarn s = .next t ∧ (tagOf t u).st = .replying
      ∧ fld (tagOf t u).w0 23 16 = Status.abortedPower.code)
    ∧ (∀ b f, c = .bkclose b f → ∃ t, exec .unplugWarn s = .next t ∧ tagOf t u = { e with st := .started, stop := some .unplug }) := by
  have ht' : (warned s).tly.tags = [(u.toNat, e)] := by rw [warned_tly, ht]
  have hx := exec_unplugWarn_starts hp hr hu hw
  rw [inFlightTags_single ht' hst, List.foldl_cons, List.foldl_nil] at hx
  constructor
  · intro hb
    rw [unplugOne_waiting hst hc hb] at hx
    exact ⟨_, hx, unplugEnd_aborts ..⟩
  · rintro b f rfl
    rw [unplugOne_bkclose hst hc] at hx
    refine ⟨_, hx, ?_⟩
    have he : tagOf (warned s) u = e := by rw [tagOf, ht']; exact if_pos rfl
    rw [tagOf_updTag_self, he]
    rfl

/-! ### Quiescence -/

theorem exec_unplugQuiesced (hu : s.ctl.unplug = 1) (htags : ∀ p ∈ s.tly.tags, p.2.st = .free) (htx : ∀ p ∈ s.noc.tx, p.2 = none) :
    exec .unplugQuiesced s = .next { s with ctl := { s.ctl with unplug := 2 }, pin := { s.pin with quiesced := true } } := by
  have h1 : (s.tly.tags.any fun p => p.2.alloc) = false := List.any_eq_false.2 fun p hp => by simp [TagEntry.alloc, htags p hp]
  have h2 : (s.noc.tx.any fun p => p.2.isSome) = false := List.any_eq_false.2 fun p hp => by simp [htx p hp]
  change execUnplugQuiesced s = _
  exact if_neg (by simp only [h1, h2, hu]; decide)

theorem exec_unplugQuiesced_busy (h : ∃ p ∈ s.tly.tags, p.2.st ≠ .free) : exec .unplugQuiesced s = .next s := by
  obtain ⟨p, hp, hst⟩ := h
  have h1 : (s.tly.tags.any fun p => p.2.alloc) = true := List.any_eq_true.2 ⟨p, hp, by simp [TagEntry.alloc, hst]⟩
  change execUnplugQuiesced s = _
  exact if_pos (.inr (by simp only [h1, Bool.true_or]))

/-! ### The power side -/

/-- The state in which a step of the power side is counted. -/
def stepCounted (k : Nat) (s : State) : State := { s with ctl := { s.ctl with unplug := k } }

theorem exec_unplugPowerDown (h2 : 2 ≤ s.ctl.unplug) (h6 : s.ctl.unplug < 6) (hq : s.ctl.unplug = 2 → (List.range 8).all (groupQuiet s) = true) :
    exec .unplugPowerDown s = .next (if s.ctl.unplug = 2 then (List.range 8).foldl offGroup (stepCounted (s.ctl.unplug + 1) s)
      else if s.ctl.unplug = 3 then updIsl islA (fun x => { x with up := false })
        { stepCounted (s.ctl.unplug + 1) s with ctl := { (stepCounted (s.ctl.unplug + 1) s).ctl with arrRstN := false } }
      else if s.ctl.unplug = 4 then
        startFreq islH (envMin (stepCounted (s.ctl.unplug + 1) s) islH)
          ((List.range 16).foldl retainBank (stepCounted (s.ctl.unplug + 1) s))
      else startFreq islC (envMin (stepCounted (s.ctl.unplug + 1) s) islC) (stepCounted (s.ctl.unplug + 1) s)) := by
  change execUnplugPowerDown s = _
  rw [execUnplugPowerDown]
  dsimp only
  rw [if_neg (by omega), if_neg (fun h => by rw [hq h.1] at h; exact absurd h.2 (by decide))]
  rfl

theorem exec_unplugPowerDown_waits (hu : s.ctl.unplug = 2) (h : ∃ g, g < 8 ∧ groupQuiet s g = false) : exec .unplugPowerDown s = .next s := by
  obtain ⟨g, hg, hq⟩ := h
  have hall : (List.range 8).all (groupQuiet s) = false := List.all_eq_false.2 ⟨g, List.mem_range.2 hg, by simp [hq]⟩
  change execUnplugPowerDown s = _
  rw [execUnplugPowerDown]
  dsimp only
  rw [if_neg (by omega), if_pos ⟨hu, hall⟩]

theorem goTo_of_rest {u : PwrUnit} {p : PState} (he : u.entering = none) (hst : u.st ≠ p) : u.goTo p = ⟨u.st, some p, none⟩ := by
  simp only [PwrUnit.goTo, he, if_neg hst]

theorem goTo_of_entering {u : PwrUnit} {p x : PState} (he : u.entering = some x) (hx : x ≠ p) : u.goTo p = { u with after := some p } := by
  simp only [PwrUnit.goTo, he, if_neg hx]

theorem groupOf_foldl_offGroup {l : List Nat} (hl : l.Nodup) (s : State) (g : Nat) :
    groupOf (l.foldl offGroup s) g = if g ∈ l then (groupOf s g).goTo .off else groupOf s g := by
  induction l generalizing s with
  | nil => simp
  | cons a r ih =>
    obtain ⟨ha, hr⟩ := List.nodup_cons.1 hl
    rw [List.foldl_cons, ih hr]
    by_cases hg : g = a
    · subst hg; simp [ha, offGroup]
    · simp [hg, offGroup, groupOf_setGroup_ne hg]

theorem foldl_offGroup_frame (l : List Nat) (s : State) :
    l.foldl offGroup s = { s with shf := { s.shf with groups := (l.foldl offGroup s).shf.groups } } := by
  induction l generalizing s with
  | nil => rfl
  | cons a r ih => rw [List.foldl_cons, ih]; rfl

theorem hbankOf_retainBank_self (h : Nat) (s : State) :
    hbankOf (retainBank s h) h = if zeroHeld s h = true then hbankOf s h else (hbankOf s h).goTo .retention := by
  unfold retainBank
  split
  · rfl
  · exact hbankOf_setHbank_self ..

theorem hbankOf_retainBank_ne {h k : Nat} (hk : k ≠ h) (s : State) : hbankOf (retainBank s h) k = hbankOf s k := by
  unfold retainBank
  split
  · rfl
  · exact hbankOf_setHbank_ne hk ..

theorem retainBank_frame (h : Nat) (s : State) : retainBank s h = { s with hay := { s.hay with banks := (retainBank s h).hay.banks } } := by
  unfold retainBank
  split <;> rfl

theorem zeroHeld_retainBank (h k : Nat) (s : State) : zeroHeld (retainBank s h) k = zeroHeld s k := by
  rw [retainBank_frame]; rfl

theorem foldl_retainBank_frame (l : List Nat) (s : State) :
    l.foldl retainBank s = { s with hay := { s.hay with banks := (l.foldl retainBank s).hay.banks } } := by
  induction l generalizing s with
  | nil => rfl
  | cons a r ih => rw [List.foldl_cons, ih, retainBank_frame]

theorem hbankOf_foldl_retainBank {l : List Nat} (hl : l.Nodup) (s : State) (h : Nat) :
    hbankOf (l.foldl retainBank s) h = if h ∈ l ∧ zeroHeld s h = false then (hbankOf s h).goTo .retention else hbankOf s h := by
  induction l generalizing s with
  | nil => simp
  | cons a r ih =>
    obtain ⟨ha, hr⟩ := List.nodup_cons.1 hl
    rw [List.foldl_cons, ih hr, zeroHeld_retainBank]
    by_cases hh : h = a
    · subst hh
      simp only [ha, false_and, if_false, hbankOf_retainBank_self, List.mem_cons_self, true_and]
      cases zeroHeld s h <;> rfl
    · simp only [List.mem_cons, hh, false_or, hbankOf_retainBank_ne hh]

/-- The groups go OFF (R355, R356). -/
theorem powerDown_groups (hu : s.ctl.unplug = 2) (hq : ∀ g, g < 8 → groupQuiet s g = true) : ∃ t, exec .unplugPowerDown s = .next t
    ∧ t.ctl = { s.ctl with unplug := 3 }
    ∧ (∀ g, g < 8 → (groupOf s g).entering = none → (groupOf s g).st ≠ .off → groupOf t g = ⟨(groupOf s g).st, some .off, none⟩)
    ∧ (∀ g x, g < 8 → (groupOf s g).entering = some x → x ≠ .off → groupOf t g = { groupOf s g with after := some .off })
    ∧ t.shf.mem = s.shf.mem ∧ t.hay = s.hay := by
  have hx := exec_unplugPowerDown (by omega) (by omega) fun _ => List.all_eq_true.2 fun g hg => hq g (List.mem_range.1 hg)
  rw [hu, if_pos rfl] at hx
  have hgroup : ∀ g, g < 8 → groupOf ((List.range 8).foldl offGroup (stepCounted 3 s)) g = (groupOf s g).goTo .off := fun g hg =>
    (groupOf_foldl_offGroup List.nodup_range _ g).trans (if_pos (List.mem_range.2 hg))
  have hframe := foldl_offGroup_frame (List.range 8) (stepCounted 3 s)
  refine ⟨_, hx, ?_, fun g hg he hst => (hgroup g hg).trans (goTo_of_rest he hst), fun g x hg he hne => (hgroup g hg).trans (goTo_of_entering he hne), ?_, ?_⟩
  · rw [hframe]; rfl
  · rw [hframe]; rfl
  · rw [hframe]; rfl

/-- The Hayloft goes to RETENTION, and H to its FMIN (R356). -/
theorem powerDown_hayloft (hu : s.ctl.unplug = 4) : ∃ t, exec .unplugPowerDown s = .next t ∧ t.ctl = { s.ctl with unplug := 5 }
    ∧ islOf t islH = { islOf s islH with target := some (envMin s islH) }
    ∧ (∀ h, h < 16 → zeroHeld s h = false → (hbankOf s h).entering = none → (hbankOf s h).st ≠ .retention →
        hbankOf t h = ⟨(hbankOf s h).st, some .retention, none⟩)
    ∧ (∀ h x, h < 16 → zeroHeld s h = false → (hbankOf s h).entering = some x → x ≠ .retention →
        hbankOf t h = { hbankOf s h with after := some .retention })
    ∧ ∀ h, h < 16 → zeroHeld s h = true → hbankOf t h = hbankOf s h := by
  have hx := exec_unplugPowerDown (s := s) (by omega) (by omega) (by omega)
  rw [hu, if_neg (by decide), if_neg (by decide), if_pos rfl] at hx
  set v := (List.range 16).foldl retainBank (stepCounted 5 s) with hv
  have hframe : v = _ := foldl_retainBank_frame (List.range 16) (stepCounted 5 s)
  have hctl : v.ctl = { s.ctl with unplug := 5 } := by rw [hframe]; rfl
  have hregs : v.regs = s.regs := by rw [hframe]; rfl
  have hisl : v.isl = s.isl := by rw [hframe]; rfl
  have hmin : envMin v islH = envMin s islH := by simp only [envMin, rget, hregs]
  have hbank : ∀ h, h < 16 → hbankOf (startFreq islH (envMin (stepCounted 5 s) islH) v) h
      = if zeroHeld s h = false then (hbankOf s h).goTo .retention else hbankOf s h := fun h hh =>
    (hbankOf_foldl_retainBank List.nodup_range _ h).trans (if_congr (and_iff_right (List.mem_range.2 hh)) rfl rfl)
  refine ⟨_, hx, hctl, ?_, fun h hh hz he hst => ?_, fun h x hh hz he hne => ?_, fun h hh hz => ?_⟩
  · have hsame : islOf v islH = islOf s islH := by simp only [islOf, hisl]
    rw [islOf_startFreq_self, hmin, hsame, show envMin (stepCounted 5 s) islH = envMin s islH from rfl, ite_self]
  · rw [hbank h hh, if_pos hz, goTo_of_rest he hst]
  · rw [hbank h hh, if_pos hz, goTo_of_entering he hne]
  · rw [hbank h hh, if_neg (by simp [hz])]

/-- Island A is reset and switched off (R356). -/
theorem powerDown_array (hu : s.ctl.unplug = 3) : ∃ t, exec .unplugPowerDown s = .next t ∧ t.ctl = { s.ctl with arrRstN := false, unplug := 4 }
    ∧ islOf t islA = { islOf s islA with up := false } ∧ ∀ i, i ≠ islA → islOf t i = islOf s i := by
  have hx := exec_unplugPowerDown (s := s) (by omega) (by omega) (by omega)
  rw [hu, if_neg (by decide), if_pos rfl] at hx
  exact ⟨_, hx, rfl, islOf_updIsl_self .., fun i hi => islOf_updIsl_ne hi ..⟩

/-- C goes to its FMIN (R356). -/
theorem powerDown_control (hu : s.ctl.unplug = 5) : ∃ t, exec .unplugPowerDown s = .next t ∧ t.ctl = { s.ctl with unplug := 6 }
    ∧ islOf t islC = { islOf s islC with target := some (envMin s islC) } := by
  have hx := exec_unplugPowerDown (s := s) (by omega) (by omega) (by omega)
  rw [hu, if_neg (by decide), if_neg (by decide), if_neg (by decide)] at hx
  refine ⟨_, hx, rfl, ?_⟩
  rw [islOf_startFreq_self, ite_self]
  rfl

end

/-- Settles O53, step by step of the sequence. -/
theorem unplugSequence : Obligations.UnplugSequence := fun s hp hr =>
  ⟨fun hu hw => unplugWarn_stops hp hr hu hw, fun hw => by rw [exec_unplugWarn_only (.inl hw), hw]; rfl, fun hu => exec_unplugWarn_only (.inr hu),
    fun hu hw _ _ _ ht hst hc _ => unplugWarn_single hp hr hu hw ht hst hc, fun hu ht hx => exec_unplugQuiesced hu ht hx,
    fun _ h => exec_unplugQuiesced_busy h,
    exec_unplugPowerDown_waits,
    fun hu hq => powerDown_groups hu hq, powerDown_array, powerDown_hayloft, powerDown_control⟩

end Sys2Proof.Proofs
end

section
/-! SUPPORT. Proofs about security events, zeroisation and fuses (R51-R53, R257, R258, R361): which bytes the zeroisation of the secure partition
clears. -/

namespace Sys2Proof.Proofs

open Sys2Proof.Machine Sys2Proof.Laws

section
variable {s : State}

/-! ### Starting a zeroisation -/

theorem wakePartition_frame (s : State) : wakePartition s = { s with hay := { s.hay with banks := (wakePartition s).hay.banks } } := by
  have h : ∀ (l : List Nat) (s : State), let t := l.foldl (fun s h => if zeroHeld s h then setHbank h (hbankOf s h).wakeUp s else s) s
      t = { s with hay := { s.hay with banks := t.hay.banks } } := by
    intro l
    induction l with
    | nil => exact fun _ => rfl
    | cons a r ih =>
      intro s t
      rw [show t = _ from ih _]
      dsimp only
      split <;> rfl
  exact h _ s

theorem zeroise_frame (h : (secRange s).2 ≠ 0) :
    zeroise s = { s with hay := { s.hay with zeroing := true, banks := (zeroise s).hay.banks } } := by
  rw [zeroise, if_neg h, wakePartition_frame]

theorem zeroise_empty (h : (secRange s).2 = 0) : zeroise s = { s with pin := { s.pin with zeroDone := true } } := if_pos h

/-- A bank of a partition under zeroisation grants nothing (R258). -/
theorem hayOpen_zeroing {h : Nat} (hz : s.hay.zeroing = true) (hb : bankInRange h (secRange s).1 (secRange s).2 = true) : hayOpen s h = false := by
  simp [hayOpen, zeroHeld, hz, hb]

theorem exec_secureEvent_tamper (hr : running s islC = true) :
    exec (.secureEvent .tamper) s = .next (zeroise { s with ctl := { s.ctl with tamper := true } }) := by
  change execSecureEvent .tamper s = _
  exact if_neg (show ¬ (!running s islC) = true by simp [hr])

theorem exec_secureEvent_lifeCycle (hr : running s islC = true) (st : BitVec 2) : exec (.secureEvent (.lifeCycle st)) s
    = .next (zeroise (sampleLc { s with ctl := { s.ctl with lcChange := true, lcDriven := st } })) := by
  change execSecureEvent (.lifeCycle st) s = _
  exact if_neg (show ¬ (!running s islC) = true by simp [hr])

theorem exec_secureEvent_early (hr : running s islC = false) :
    exec (.secureEvent .tamper) s = .next { s with ctl := { s.ctl with tamper := true, secLatch := true } }
    ∧ ∀ st, exec (.secureEvent (.lifeCycle st)) s
        = .next { s with ctl := { s.ctl with lcChange := true, lcDriven := st, secLatch := true } } :=
  ⟨if_pos (show (!running s islC) = true by simp [hr]), fun _ => if_pos (show (!running s islC) = true by simp [hr])⟩

/-! ### The bytes of the partition -/

/-- The words of a logical bank that lie in a byte range of the Hayloft: the first, and the one after the last. -/
def zeroWords (base size h : Nat) : Nat × Nat :=
  ((max base (2 ^ 20 * (h / 4)) - 2 ^ 20 * (h / 4)) / 256, (min (base + size) (2 ^ 20 * (h / 4) + 2 ^ 20) - 2 ^ 20 * (h / 4)) / 256)

/-- Storage byte `c` lies in a word of bank `h` that is zeroed, of `w` bytes each, where a physical bank holds 4,096 words. -/
def inZeroed (s : State) (w base size h c : Nat) : Bool :=
  decide (4096 * w * physOf s 4 h + w * (zeroWords base size h).1 ≤ c) && decide (c < 4096 * w * physOf s 4 h + w * (zeroWords base size h).2)

theorem inZeroed_iff {w base size h c : Nat} : inZeroed s w base size h c = true
    ↔ 4096 * w * physOf s 4 h + w * (zeroWords base size h).1 ≤ c ∧ c < 4096 * w * physOf s 4 h + w * (zeroWords base size h).2 := by
  simp [inZeroed]

theorem zeroBank_frame (base size : Nat) (s : State) (h : Nat) : zeroBank base size s h
    = { s with hay := { s.hay with mem := (zeroBank base size s h).hay.mem, chk := (zeroBank base size s h).hay.chk } } := by
  unfold zeroBank
  dsimp only
  split <;> rfl

theorem physOf_zeroBank (base size : Nat) (s : State) (h k l : Nat) : physOf (zeroBank base size s h) k l = physOf s k l := by
  rw [zeroBank_frame]; rfl

theorem read_zeroBank (base size : Nat) (s : State) (h c : Nat) :
    Memory.read (zeroBank base size s h).hay.mem c = (if inZeroed s 64 base size h c then 0 else Memory.read s.hay.mem c)
    ∧ Memory.read (zeroBank base size s h).hay.chk c = if inZeroed s 8 base size h c then 0 else Memory.read s.hay.chk c := by
  have hbank : zeroBank base size s h = if (zeroWords base size h).2 ≤ (zeroWords base size h).1 then s else { s with hay := { s.hay with
      mem := Memory.clear s.hay.mem (262144 * physOf s 4 h + 64 * (zeroWords base size h).1)
        (64 * ((zeroWords base size h).2 - (zeroWords base size h).1))
      chk := Memory.clear s.hay.chk (32768 * physOf s 4 h + 8 * (zeroWords base size h).1)
        (8 * ((zeroWords base size h).2 - (zeroWords base size h).1)) } } := rfl
  rw [hbank]
  simp only [inZeroed_iff]
  split
  · exact ⟨(if_neg (by omega)).symm, (if_neg (by omega)).symm⟩
  · exact ⟨(read_clear ..).trans (if_congr (by omega) rfl rfl), (read_clear ..).trans (if_congr (by omega) rfl rfl)⟩

theorem read_foldl_zeroBank (base size : Nat) (l : List Nat) (s : State) (c : Nat) :
    Memory.read (l.foldl (zeroBank base size) s).hay.mem c = (if l.any (inZeroed s 64 base size · c) then 0 else Memory.read s.hay.mem c)
    ∧ Memory.read (l.foldl (zeroBank base size) s).hay.chk c = if l.any (inZeroed s 8 base size · c) then 0 else Memory.read s.hay.chk c := by
  induction l generalizing s with
  | nil => simp
  | cons a r ih =>
    have hin : ∀ w h, inZeroed (zeroBank base size s a) w base size h c = inZeroed s w base size h c := fun w h => by
      simp only [inZeroed, physOf_zeroBank]
    obtain ⟨hmem, hchk⟩ := ih (zeroBank base size s a)
    rw [List.foldl_cons, hmem, hchk, (read_zeroBank base size s a c).1, (read_zeroBank base size s a c).2]
    simp only [hin, List.any_cons]
    constructor
    · by_cases hz : inZeroed s 64 base size a c = true <;> simp [hz]
    · by_cases hz : inZeroed s 8 base size a c = true <;> simp [hz]

theorem foldl_zeroBank_frame (base size : Nat) (l : List Nat) (s : State) : let t := l.foldl (zeroBank base size) s
    t = { s with hay := { s.hay with mem := t.hay.mem, chk := t.hay.chk } } := by
  induction l generalizing s with
  | nil => rfl
  | cons a r ih =>
    intro t
    rw [show t = _ from ih _, zeroBank_frame]

/-- A byte of a range lies in a word that is zeroed, in the bank that holds it, which the range reaches. -/
theorem inZeroed_of_mem {base size a : Nat} (hb : base % 65536 = 0) (hs : size % 65536 = 0) (hend : base + size ≤ 2 ^ 22) (hlo : base ≤ a)
    (hhi : a < base + size) : hayBank a < 16 ∧ bankInRange (hayBank a) base size = true
      ∧ (zeroWords base size (hayBank a)).1 ≤ hayWord a ∧ hayWord a < (zeroWords base size (hayBank a)).2 := by
  have hbank : hayBank a / 4 = a / 2 ^ 20 := by unfold hayBank; omega
  refine ⟨by unfold hayBank; omega, ?_, ?_, ?_⟩
  · simp only [bankInRange, hbank, Bool.and_eq_true, decide_eq_true_eq]
    omega
  · simp only [zeroWords, hbank, hayWord]
    omega
  · simp only [zeroWords, hbank, hayWord]
    omega

/-- A byte of a word that is zeroed is the byte of an address of the range. -/
theorem mem_of_inZeroed {base size h c : Nat} (hb : base % 65536 = 0) (hs : size % 65536 = 0) (hh : h < 16) (hin : inZeroed s 64 base size h c = true) :
    ∃ a, base ≤ a ∧ a < base + size ∧ c = hayByteCell s a := by
  obtain ⟨hlo, hhi⟩ := inZeroed_iff.1 hin
  obtain ⟨w, b, hb64, hc⟩ : ∃ w b, b < 64 ∧ c = 262144 * physOf s 4 h + 64 * w + b :=
    ⟨(c - 262144 * physOf s 4 h) / 64, (c - 262144 * physOf s 4 h) % 64, Nat.mod_lt _ (by decide), by omega⟩
  have hwlo : (zeroWords base size h).1 ≤ w := by omega
  have hwhi : w < (zeroWords base size h).2 := by omega
  simp only [zeroWords] at hwlo hwhi
  have hquad : h / 4 < 4 := by omega
  set q := h / 4 with hq
  have hw : w < 4096 := by omega
  set a := 2 ^ 20 * q + 256 * w + 64 * (h % 4) + b with ha
  have hmib : a / 2 ^ 20 = q := by omega
  have hbank : hayBank a = h := by
    rw [hayBank, hmib]
    omega
  have hword : hayWord a = w := by
    rw [hayWord]
    omega
  refine ⟨a, by omega, by omega, ?_⟩
  rw [hayByteCell, hbank, hword, hayCell, hc]
  omega

theorem secRange_mod (s : State) : (secRange s).1 % 65536 = 0 ∧ (secRange s).2 % 65536 = 0 := ⟨Nat.mul_mod_left .., Nat.mul_mod_left ..⟩

/-! ### The end of a zeroisation -/

/-- The partition's bytes zero. -/
def partitionZeroed (s : State) : State := ((List.range 16).filter (zeroHeld s)).foldl (zeroBank (secRange s).1 (secRange s).2) s

theorem exec_zeroisationDone (hz : s.hay.zeroing = true) (hr : running s islH = true)
    (hon : ∀ h, h < 16 → bankInRange h (secRange s).1 (secRange s).2 = true → (hbankOf s h).ready = true) : exec .zeroisationDone s
      = .next { partitionZeroed s with
          hay := { (partitionZeroed s).hay with zeroing := false, zcount := min 0xFFFF ((partitionZeroed s).hay.zcount + 1) }
          pin := { (partitionZeroed s).pin with zeroDone := true } } := by
  have hall : ((List.range 16).filter (zeroHeld s)).all (fun h => (hbankOf s h).ready) = true := by
    rw [List.all_eq_true]
    intro h hh
    obtain ⟨hlt, hheld⟩ := List.mem_filter.1 hh
    simp only [zeroHeld, hz, Bool.true_and] at hheld
    exact hon h (List.mem_range.1 hlt) hheld
  change execZeroisationDone s = _
  exact if_neg (show ¬ (!s.hay.zeroing || !((List.range 16).filter (zeroHeld s)).all (fun h => (hbankOf s h).ready) || !running s islH) = true by
    simp [hz, hall, hr])

/-- A byte of the partition is in a word that the zeroisation clears. -/
theorem exists_inZeroed {a w i : Nat} (hz : s.hay.zeroing = true) (hend : (secRange s).1 + (secRange s).2 ≤ 2 ^ 22) (hlo : (secRange s).1 ≤ a)
    (hhi : a < (secRange s).1 + (secRange s).2) (hi : i < w) : ((List.range 16).filter (zeroHeld s)).any
      (inZeroed s w (secRange s).1 (secRange s).2 · (4096 * w * physOf s 4 (hayBank a) + w * hayWord a + i)) = true := by
  obtain ⟨hb, hs⟩ := secRange_mod s
  obtain ⟨h16, hbank, hwlo, hwhi⟩ := inZeroed_of_mem hb hs hend hlo hhi
  refine List.any_eq_true.2 ⟨hayBank a, List.mem_filter.2 ⟨List.mem_range.2 h16, by simp [zeroHeld, hz, hbank]⟩, inZeroed_iff.2 ⟨?_, ?_⟩⟩
  · have := Nat.mul_le_mul_left w hwlo
    omega
  · have := Nat.mul_le_mul_left w (Nat.succ_le_of_lt hwhi)
    rw [Nat.mul_succ] at this
    omega

set_option maxRecDepth 20000 in
theorem checkByte_zero : checkByte 0 = 0 := by decide

theorem hayRaw_partitionZeroed {a : Nat} (hz : s.hay.zeroing = true) (hend : (secRange s).1 + (secRange s).2 ≤ 2 ^ 22) (hlo : (secRange s).1 ≤ a)
    (hhi : a < (secRange s).1 + (secRange s).2) :
    hayRaw (partitionZeroed s) (physOf s 4 (hayBank a)) (hayWord a) (a % 64 / 8) = (0, checkByte 0) := by
  have hbyte : ∀ i, i < 8 → Memory.read (partitionZeroed s).hay.mem (hayCell (physOf s 4 (hayBank a)) (hayWord a) (8 * (a % 64 / 8)) + i) = 0 := by
    intro i hi
    rw [partitionZeroed, (read_foldl_zeroBank ..).1, hayCell, Nat.add_assoc]
    exact if_pos (exists_inZeroed (w := 64) hz hend hlo hhi (by omega))
  have hchk : Memory.read (partitionZeroed s).hay.chk (32768 * physOf s 4 (hayBank a) + 8 * hayWord a + a % 64 / 8) = 0 := by
    rw [partitionZeroed, (read_foldl_zeroBank ..).2]
    exact if_pos (exists_inZeroed (w := 8) hz hend hlo hhi (by omega))
  have hword : Memory.read64 (partitionZeroed s).hay.mem (hayCell (physOf s 4 (hayBank a)) (hayWord a) (8 * (a % 64 / 8))) = 0 := by
    have hbytes : (List.range 8).map (fun i => Memory.read (partitionZeroed s).hay.mem
        (hayCell (physOf s 4 (hayBank a)) (hayWord a) (8 * (a % 64 / 8)) + i)) = List.replicate 8 0 :=
      List.eq_replicate_iff.2 ⟨by simp, fun b hb => by
        obtain ⟨i, hi, rfl⟩ := List.mem_map.1 hb
        exact hbyte i (List.mem_range.1 hi)⟩
    rw [Memory.read64, hbytes]
    rfl
  rw [hayRaw, hword, hchk, checkByte_zero]

theorem read_partitionZeroed_out {c : Nat}
    (hout : ∀ a, (secRange s).1 ≤ a → a < (secRange s).1 + (secRange s).2 → c ≠ hayByteCell s a) :
    Memory.read (partitionZeroed s).hay.mem c = Memory.read s.hay.mem c := by
  obtain ⟨hb, hs⟩ := secRange_mod s
  rw [partitionZeroed, (read_foldl_zeroBank ..).1, if_neg]
  intro hany
  obtain ⟨h, hh, hin⟩ := List.any_eq_true.1 hany
  obtain ⟨a, hlo, hhi, hc⟩ := mem_of_inZeroed hb hs (List.mem_range.1 (List.mem_filter.1 hh).1) hin
  exact hout a hlo hhi hc

/-- What the end of a zeroisation does (R258). -/
theorem zeroisationDone_clears (hz : s.hay.zeroing = true) (hr : running s islH = true)
    (hon : ∀ h, h < 16 → bankInRange h (secRange s).1 (secRange s).2 = true → (hbankOf s h).ready = true)
    (hend : (secRange s).1 + (secRange s).2 ≤ 2 ^ 22) : ∃ t, exec .zeroisationDone s = .next t ∧ t.pin.zeroDone = true ∧ t.hay.zeroing = false
      ∧ t.hay.zcount = min 0xFFFF (s.hay.zcount + 1)
      ∧ (∀ a, (secRange s).1 ≤ a → a < (secRange s).1 + (secRange s).2 → hayRaw t (physOf s 4 (hayBank a)) (hayWord a) (a % 64 / 8) = (0, checkByte 0))
      ∧ (∀ c, (∀ a, (secRange s).1 ≤ a → a < (secRange s).1 + (secRange s).2 → c ≠ hayByteCell s a) →
          Memory.read t.hay.mem c = Memory.read s.hay.mem c) ∧ t.shf = s.shf := by
  have hframe : partitionZeroed s = _ := foldl_zeroBank_frame (secRange s).1 (secRange s).2 ((List.range 16).filter (zeroHeld s)) s
  have hzcount : (partitionZeroed s).hay.zcount = s.hay.zcount := by rw [hframe]
  have hshf : (partitionZeroed s).shf = s.shf := by rw [hframe]
  have hraw := fun a hlo hhi => hayRaw_partitionZeroed (a := a) hz hend hlo hhi
  have hkept := fun c => read_partitionZeroed_out (s := s) (c := c)
  have hexec := exec_zeroisationDone hz hr hon
  clear hframe
  generalize partitionZeroed s = u at hraw hkept hexec hzcount hshf
  refine ⟨_, hexec, rfl, rfl, ?_, ?_, ?_, ?_⟩
  · rw [← hzcount]
  · exact hraw
  · exact hkept
  · exact hshf

end

/-! ### Fuses and the probe -/

theorem exec_fuseAck {s : State} {d : Reg} (hb : s.tnk.fuseBusy = true) (hf : s.tnk.fuseReady = true) (hr : running s islC = true)
    (ha : fld (rget s 0xD018) 7 0 = s.pin.fuseAddr.toNat) :
    exec (.fuseAck d) s = .next { rset 0xD01C d s with tnk := { s.tnk with fuseBusy := false } } := by
  change execFuseAck d s = _
  have haddr : rget (rset 0xD01C d s) 0xD018 = rget s 0xD018 := rget_rset_ne (by decide) ..
  rw [execFuseAck, if_neg (by simp [hb, hf, hr])]
  dsimp only
  rw [haddr]
  exact if_pos ha

theorem exec_svcPresentChange {s : State} {v : Bool} (h : v ≠ s.ctl.svcPresent) : exec (.svcPresentChange v) s
    = .next (traceEv 13 islC 0 0 (b2n v) { s with ctl := { s.ctl with svcPresent := v } }) := by
  change execSvcPresentChange v s = _
  exact if_neg h

theorem exec_fuseReady {s : State} (hf : s.tnk.fuseReady = false) (hb : s.tnk.fuseBusy = true) :
    exec .fuseReady s = .next (sendFuse { s with tnk := { s.tnk with fuseReady := true } }) := by
  change execFuseReady s = _
  simp only [execFuseReady, hf, hb, Bool.not_false, Bool.and_self, if_true]

/-- Settles O54, event by event. -/
theorem securityAndFuses : Obligations.SecurityAndFuses := by
  intro s
  refine ⟨fun hr hsize => ?_, fun hr hsize => ?_, fun st hr hsize => ?_, fun hr => (exec_secureEvent_early hr).1,
    fun st hr => (exec_secureEvent_early hr).2 st, rfl, zeroisationDone_clears, fun hf hb => ?_, fun d hb hf hr ha => ?_, fun v hv => ?_⟩
  · have hframe := zeroise_frame (s := { s with ctl := { s.ctl with tamper := true } }) hsize
    refine ⟨_, exec_secureEvent_tamper hr, ?_⟩
    rw [hframe]
    exact ⟨rfl, rfl, fun h hb => hayOpen_zeroing rfl hb, rfl⟩
  · refine ⟨_, exec_secureEvent_tamper hr, ?_⟩
    rw [zeroise_empty (s := { s with ctl := { s.ctl with tamper := true } }) hsize]
    exact ⟨rfl, rfl⟩
  · have hframe := zeroise_frame (s := sampleLc { s with ctl := { s.ctl with lcChange := true, lcDriven := st } }) hsize
    refine ⟨_, exec_secureEvent_lifeCycle hr st, ?_⟩
    rw [hframe]
    exact ⟨rfl, rfl, rfl⟩
  · exact ⟨_, exec_fuseReady hf hb, rfl, rfl⟩
  · exact ⟨_, exec_fuseAck hb hf hr ha, rget_rset_self 0xD01C d s, fun k hk => rget_rset_ne hk d s, rfl, rfl⟩
  · exact ⟨_, exec_svcPresentChange hv, traceEv_onlyTrace ..⟩

end Sys2Proof.Proofs
end

section
/-! SUPPORT. Proofs about boot and the skew self-test (R27, R170-R172, R372, R373): the folds over islands, stations and trims entry by entry. -/

namespace Sys2Proof.Proofs

open Sys2Proof.Machine Sys2Proof.Laws

/-! ### One entry of a fold -/

/-- Where step `k` alone acts on an entry, and each step is taken once, a fold acts on the entry as step `k` does. -/
theorem foldl_at {α : Type} (g : State → α) (F : α → α) (f : State → Nat → State) (k : Nat) {l : List Nat} (hl : l.Nodup)
    (hf : ∀ s, ∀ i ∈ l, g (f s i) = if i = k then F (g s) else g s) (s : State) : g (l.foldl f s) = if k ∈ l then F (g s) else g s := by
  induction l generalizing s with
  | nil => simp
  | cons a r ih =>
    obtain ⟨ha, hr⟩ := List.nodup_cons.1 hl
    rw [List.foldl_cons, ih hr fun s i hi => hf s i (List.mem_cons_of_mem a hi), hf s a List.mem_cons_self]
    by_cases hk : a = k
    · subst hk; simp [ha]
    · simp [hk, Ne.symm hk]

theorem foldl_range_at {α : Type} (g : State → α) (F : α → α) (f : State → Nat → State) {k n : Nat} (hk : k < n)
    (hf : ∀ s i, i < n → g (f s i) = if i = k then F (g s) else g s) (s : State) : g ((List.range n).foldl f s) = F (g s) :=
  (foldl_at g F f k List.nodup_range (fun s i hi => hf s i (List.mem_range.1 hi)) s).trans (if_pos (List.mem_range.2 hk))

section
variable {s : State}

/-! ### The check of the generators -/

theorem islOf_setPhys (k l p : Nat) (s : State) (i : Nat) : islOf (setPhys k l p s) i = islOf s i := by
  rw [setPhys_frame]; rfl

theorem islOf_checkLock (l0 l1 : BitVec 11) (s : State) (i k : Nat) : islOf (checkLock l0 l1 s i) k
    = if i = k then (if bit l0 k then islOf s k else { islOf s k with lock := bit l1 k }) else islOf s k := by
  unfold checkLock
  by_cases hik : i = k
  · subst hik
    split <;> simp_all [islOf_setPhys]
  · rw [if_neg hik]
    split
    · rfl
    · rw [islOf_updIsl_ne (Ne.symm hik), islOf_logErr, islOf_setPhys]

theorem bit_gensel_checkLock (l0 l1 : BitVec 11) (s : State) {i k : Nat} (hi : i < 11) (hk : k < 11) :
    bit (rget (checkLock l0 l1 s i) 0xC100) k
      = if i = k then (if bit l0 k then bit (rget s 0xC100) k else true) else bit (rget s 0xC100) k := by
  have hlog : ∀ f : Island → Island, rget (updIsl i f (logErr 0x13 i i 0xC100 0 (setPhys 7 i 1 s))) 0xC100 = rget (setPhys 7 i 1 s) 0xC100 :=
    fun _ => rget_logErr 0x13 i i 0xC100 0 (k := 0xC100) (by decide) (setPhys 7 i 1 s)
  unfold checkLock
  by_cases hik : i = k
  · subst hik
    split
    · simp_all
    · rw [hlog, bit_rget_setPhys_gensel i 1 hi (by decide) s i hi]
      simp_all
  · rw [if_neg hik]
    split
    · rfl
    · rw [hlog, bit_rget_setPhys_gensel i 1 hi (by decide) s k hk, if_neg (Ne.symm hik)]

theorem checkLock_keeps (l0 l1 : BitVec 11) (s : State) (i : Nat) :
    (checkLock l0 l1 s i).shf = s.shf ∧ (checkLock l0 l1 s i).hay = s.hay := by
  unfold checkLock
  split
  · exact ⟨rfl, rfl⟩
  · have hp := setPhys_frame 7 i 1 s
    exact ⟨(logErr_shf ..).trans (by rw [hp]), (logErr_hay ..).trans (by rw [hp])⟩

theorem generatorLockCheck_switches (ha : awake s = true) (hup : (islOf s islC).up = false) (l0 l1 : BitVec 11) :
    ∃ t, exec (.generatorLockCheck l0 l1) s = .next t
      ∧ (∀ i, i < 11 → bit l0 i = true → islOf t i = islOf s i ∧ bit (rget t 0xC100) i = bit (rget s 0xC100) i)
      ∧ (∀ i, i < 11 → bit l0 i = false → (islOf t i).lock = bit l1 i ∧ bit (rget t 0xC100) i = true) ∧ t.shf = s.shf ∧ t.hay = s.hay := by
  have hexec : exec (.generatorLockCheck l0 l1) s = .next ((List.range 11).foldl (checkLock l0 l1) s) := by
    change execGeneratorLockCheck l0 l1 s = _
    simp [execGeneratorLockCheck, ha, hup]
  have hisl : ∀ i, i < 11 → islOf ((List.range 11).foldl (checkLock l0 l1) s) i
      = if bit l0 i then islOf s i else { islOf s i with lock := bit l1 i } := fun i hi =>
    foldl_range_at (islOf · i) (fun x => if bit l0 i then x else { x with lock := bit l1 i }) _ hi
      (fun s j _ => islOf_checkLock l0 l1 s j i) s
  have hbit : ∀ i, i < 11 → bit (rget ((List.range 11).foldl (checkLock l0 l1) s) 0xC100) i
      = if bit l0 i then bit (rget s 0xC100) i else true := fun i hi =>
    foldl_range_at (fun s => bit (rget s 0xC100) i) (fun x => if bit l0 i then x else true) _ hi
      (fun s j hj => bit_gensel_checkLock l0 l1 s hj hi) s
  refine ⟨_, hexec, fun i hi h => ?_, fun i hi h => ?_, foldl_proj State.shf _ (fun s i => (checkLock_keeps l0 l1 s i).1) _ s,
    foldl_proj State.hay _ (fun s i => (checkLock_keeps l0 l1 s i).2) _ s⟩
  · exact ⟨(hisl i hi).trans (if_pos h), (hbit i hi).trans (if_pos h)⟩
  · exact ⟨by rw [hisl i hi, h]; rfl, by rw [hbit i hi, h]; rfl⟩

/-! ### Islands leave reset -/

theorem exitReset_frame (s : State) (i : Nat) : exitReset s i
    = { s with isl := (exitReset s i).isl, tnk := { s.tnk with dead := (exitReset s i).tnk.dead } } := by
  unfold exitReset
  split <;> rfl

theorem foldl_exitReset_frame (l : List Nat) (s : State) : let t := l.foldl exitReset s
    t = { s with isl := t.isl, tnk := { s.tnk with dead := t.tnk.dead } } := by
  induction l generalizing s with
  | nil => rfl
  | cons a r ih =>
    intro t
    rw [show t = _ from ih _, exitReset_frame]

theorem islOf_exitReset (s : State) (i k : Nat) : islOf (exitReset s i) k
    = if i = k then (if (islOf s k).lock then { islOf s k with up := true, cyc := 0 } else islOf s k) else islOf s k := by
  unfold exitReset
  by_cases hik : i = k
  · subst hik
    rw [if_pos rfl]
    split
    · exact islOf_updIsl_self ..
    · rfl
  · rw [if_neg hik]
    split
    · exact islOf_updIsl_ne (Ne.symm hik) ..
    · rfl

theorem islOf_foldl_exitReset (s : State) {i : Nat} (hi : i < 11) : islOf ((List.range 11).foldl exitReset s) i
    = if (islOf s i).lock then { islOf s i with up := true, cyc := 0 } else islOf s i :=
  foldl_range_at (islOf · i) (fun x => if x.lock then { x with up := true, cyc := 0 } else x) _ hi (fun s j _ => islOf_exitReset s j i) s

/-- After the first `n` islands, the set of those without a lock is below `2 ^ n` and holds each of them. -/
theorem dead_foldl_exitReset (hd : s.tnk.dead = 0) (n : Nat) : ((List.range n).foldl exitReset s).tnk.dead < 2 ^ n
    ∧ (∀ k, n ≤ k → islOf ((List.range n).foldl exitReset s) k = islOf s k)
    ∧ ∀ i, i < n → (islOf s i).lock = false → ((List.range n).foldl exitReset s).tnk.dead.testBit i = true := by
  induction n with
  | zero => simp [hd]
  | succ n ih =>
    obtain ⟨hlt, hisl, hset⟩ := ih
    rw [List.range_succ, List.foldl_concat]
    set t := (List.range n).foldl exitReset s with ht
    have hnext : ∀ k, n + 1 ≤ k → islOf (exitReset t n) k = islOf s k := fun k hk => by
      rw [islOf_exitReset, if_neg (by omega), hisl k (by omega)]
    refine ⟨?_, hnext, fun i hi hl => ?_⟩
    · unfold exitReset
      split
      · exact hlt.trans (Nat.pow_lt_pow_right (by decide) (Nat.lt_succ_self n))
      · rw [Nat.pow_succ]
        change t.tnk.dead + 2 ^ n < _
        omega
    · rcases Nat.lt_succ_iff_lt_or_eq.1 hi with hin | rfl
      · have hbit : (t.tnk.dead + 2 ^ n).testBit i = true := by
          rw [Nat.add_comm, Nat.testBit_two_pow_add_gt hin]
          exact hset i hin hl
        unfold exitReset
        split
        · exact hset i hin hl
        · exact hbit
      · have hlock : (islOf t i).lock = false := by rw [hisl i (Nat.le_refl i), hl]
        have hnew : (exitReset t i).tnk.dead = 2 ^ i + t.tnk.dead := by
          simp [exitReset, hlock, Nat.add_comm]
        rw [hnew, Nat.testBit_two_pow_add_eq, Nat.testBit_lt_two_pow hlt]
        rfl

/-- The late events touch the life-cycle state, the latch, and the Hayloft's banks. -/
theorem lateEvents_frame (s : State) : let t := lateEvents s
    t = { s with ctl := t.ctl, pin := { s.pin with zeroDone := t.pin.zeroDone }, hay := { s.hay with zeroing := t.hay.zeroing, banks := t.hay.banks } } := by
  have hz : ∀ s, let t := zeroise s
      t = { s with pin := { s.pin with zeroDone := t.pin.zeroDone }, hay := { s.hay with zeroing := t.hay.zeroing, banks := t.hay.banks } } := fun s => by
    dsimp only
    by_cases h : (secRange s).2 = 0
    · rw [zeroise_empty h]
    · rw [zeroise_frame h]
  unfold lateEvents
  split
  · dsimp only
    split
    · rw [hz]; rfl
    · rw [hz]
  · rfl

theorem lateEvents_quiet (hl : s.ctl.secLatch = false) (ht : s.ctl.tamper = false) (hc : s.ctl.lcChange = false) : lateEvents s = s :=
  if_neg (by simp [hl, ht, hc])

theorem lateEvents_zeroises (h : s.ctl.secLatch = true ∨ s.ctl.tamper = true ∨ s.ctl.lcChange = true) (hsize : (secRange s).2 ≠ 0) :
    (lateEvents s).hay.zeroing = true ∧ (lateEvents s).ctl.secLatch = false
      ∧ (s.ctl.lcChange = true → (lateEvents s).ctl.lcValid = true ∧ (lateEvents s).ctl.lcState = s.ctl.lcDriven) := by
  have hcond : (s.ctl.secLatch || s.ctl.tamper || s.ctl.lcChange) = true := by
    rcases h with h | h | h <;> simp [h]
  have hz := zeroise_frame (s := { s with ctl := { s.ctl with secLatch := false } }) hsize
  unfold lateEvents
  rw [if_pos hcond]
  dsimp only
  rw [hz]
  split
  · exact ⟨rfl, rfl, fun _ => ⟨rfl, rfl⟩⟩
  · next hlc => exact ⟨rfl, rfl, fun h => absurd h hlc⟩

theorem islandResetExit_wakes (ha : awake s = true) (hup : (islOf s islC).up = false) (hd : s.tnk.dead = 0) :
    ∃ t, exec .islandResetExit s = .next t
      ∧ (∀ i, i < 11 → (islOf s i).lock = true → islOf t i = { islOf s i with up := true, cyc := 0 })
      ∧ (∀ i, i < 11 → (islOf s i).lock = false → islOf t i = islOf s i ∧ t.tnk.dead.testBit i = true)
      ∧ (∀ n, stnOf t n = stnOf s n)
      ∧ ((islOf s islC).lock = true → t.noc.i0Out = 16 ∧ t.noc.i1Out = 16 ∧ t.pin.i0crd = true ∧ t.pin.i1crd = true)
      ∧ (s.ctl.secLatch = false → s.ctl.tamper = false → s.ctl.lcChange = false → t.ctl = s.ctl ∧ t.hay = s.hay)
      ∧ ((islOf s islC).lock = true → s.ctl.secLatch = true ∨ s.ctl.tamper = true ∨ s.ctl.lcChange = true → (secRange s).2 ≠ 0 →
          t.hay.zeroing = true ∧ t.ctl.secLatch = false ∧ (s.ctl.lcChange = true → t.ctl.lcValid = true ∧ t.ctl.lcState = s.ctl.lcDriven))
      ∧ t.shf = s.shf ∧ t.hay.mem = s.hay.mem := by
  have hisl := fun i hi => islOf_foldl_exitReset s (i := i) hi
  have hdead := (dead_foldl_exitReset hd 11).2.2
  have hframe : (List.range 11).foldl exitReset s = _ := foldl_exitReset_frame (List.range 11) s
  have hexec : exec .islandResetExit s = .next (let u := (List.range 11).foldl exitReset s
      if running u islC then lateEvents (grantFlits u) else u) := by
    change execIslandResetExit s = _
    exact if_neg (by simp [ha, hup, hd])
  dsimp only at hexec
  generalize (List.range 11).foldl exitReset s = u at hisl hdead hframe hexec
  have hrun : running u islC = (islOf s islC).lock := by
    rw [running, hisl islC (by decide)]
    cases hl : (islOf s islC).lock <;> simp [hl, hup]
  rw [hrun] at hexec
  have hlocked : ∀ i, i < 11 → (islOf s i).lock = true → islOf u i = { islOf s i with up := true, cyc := 0 } :=
    fun i hi hl => (hisl i hi).trans (if_pos hl)
  have hunlocked : ∀ i, i < 11 → (islOf s i).lock = false → islOf u i = islOf s i ∧ u.tnk.dead.testBit i = true :=
    fun i hi hl => ⟨(hisl i hi).trans (by rw [hl]; rfl), hdead i hi hl⟩
  cases hl : (islOf s islC).lock with
  | false =>
    rw [hl] at hexec
    refine ⟨u, hexec, hlocked, hunlocked, ?_⟩
    rw [hframe]
    exact ⟨fun _ => rfl, nofun, fun _ _ _ => ⟨rfl, rfl⟩, nofun, rfl, rfl⟩
  | true =>
    rw [hl, if_pos rfl] at hexec
    have hlate : lateEvents (grantFlits u) = _ := lateEvents_frame (grantFlits u)
    have hquiet := lateEvents_quiet (s := grantFlits u)
    have hzero := lateEvents_zeroises (s := grantFlits u)
    have hisl' : (lateEvents (grantFlits u)).isl = u.isl := by rw [hlate]; rfl
    have htnk : (lateEvents (grantFlits u)).tnk = u.tnk := by rw [hlate]; rfl
    refine ⟨lateEvents (grantFlits u), hexec, ?_, ?_, ?_, ?_, ?_, ?_, ?_⟩
    · simpa only [islOf, hisl'] using hlocked
    · simpa only [islOf, hisl', htnk] using hunlocked
    · intro n
      rw [hlate, hframe]
      rfl
    · intro _
      rw [hlate]
      exact ⟨rfl, rfl, rfl, rfl⟩
    · intro h1 h2 h3
      rw [hframe] at hquiet ⊢
      rw [hquiet h1 h2 h3]
      exact ⟨rfl, rfl⟩
    · intro _ h hsize
      rw [hframe] at hzero ⊢
      exact hzero h hsize
    · rw [hlate, hframe]
      exact ⟨rfl, rfl⟩

/-! ### Access service, credits and BIST -/

theorem exec_registerServiceStart (ha : awake s = true) (hr : running s islC = true) (hs : s.ctl.service = false) (hcmd : s.tly.cmdHeld = [])
    (hsvc : s.tly.svcHeld = []) (hin : s.noc.in1 = []) :
    exec .registerServiceStart s = .next { s with ctl := { s.ctl with service := true } } := by
  change execRegisterServiceStart s = _
  rw [execRegisterServiceStart, if_neg (by simp [ha, hr, hs]), pumpCmd]
  dsimp only
  rw [hcmd, List.length_nil, drainCmd, pumpSvc]
  dsimp only
  rw [hsvc, List.length_nil, drainSvc, pumpIn1_of_empty (by exact hin)]

/-- What the receivers inside the fabric grant to station `n`. -/
def granted (n : Nat) (x : Station) : Station := { x with wHeld := x.wTotal, rHeld := if external n = true then 0 else x.rTotal }

/-- A station is granted its credits. -/
def grantOne (s : State) (n : Nat) : State :=
  let s := updStn n (granted n) s
  if external n then drive n (fun p => { p with wcrd := true }) s else s

theorem grantCredits_eq (s : State) : grantCredits s = (List.range 16).foldl grantOne s := rfl

theorem stnOf_setStn_self (n : Nat) (x : Station) (s : State) : stnOf (setStn n x s) n = x := tget_tset_self (Station.init n) x n s.crt.stns

theorem stnOf_setStn_ne {n k : Nat} (h : k ≠ n) (x : Station) (s : State) : stnOf (setStn n x s) k = stnOf s k :=
  tget_tset_ne (Station.init n) x h s.crt.stns

theorem stnOf_updStn (n k : Nat) (f : Station → Station) (s : State) : stnOf (updStn n f s) k = if n = k then f (stnOf s k) else stnOf s k := by
  by_cases h : n = k
  · subst h
    exact (stnOf_setStn_self ..).trans (if_pos rfl).symm
  · exact (stnOf_setStn_ne (Ne.symm h) ..).trans (if_neg h).symm

theorem stnOf_grantOne (s : State) (n k : Nat) : stnOf (grantOne s n) k = if n = k then granted k (stnOf s k) else stnOf s k := by
  have hgrant : stnOf (grantOne s n) k = stnOf (updStn n (granted n) s) k := by
    unfold grantOne
    dsimp only
    split <;> rfl
  rw [hgrant, stnOf_updStn]
  split
  · next h => rw [h]
  · rfl

theorem wcrd_grantOne (s : State) (n k : Nat) : (tget StnPins.zero (grantOne s n).pin.stn k).wcrd
    = if n = k then (if external k then true else (tget StnPins.zero s.pin.stn k).wcrd) else (tget StnPins.zero s.pin.stn k).wcrd := by
  unfold grantOne
  dsimp only
  by_cases hk : n = k
  · subst hk
    rw [if_pos rfl]
    split
    · exact congrArg StnPins.wcrd (tget_tset_self StnPins.zero _ n s.pin.stn)
    · rfl
  · rw [if_neg hk]
    split
    · exact congrArg StnPins.wcrd (tget_tset_ne StnPins.zero _ (Ne.symm hk) s.pin.stn)
    · rfl

theorem grantOne_frame (s : State) (n : Nat) : grantOne s n
    = { s with crt := { s.crt with stns := (grantOne s n).crt.stns }, pin := { s.pin with stn := (grantOne s n).pin.stn } } := by
  unfold grantOne
  dsimp only
  split <;> rfl

theorem foldl_grantOne_frame (l : List Nat) (s : State) : let t := l.foldl grantOne s
    t = { s with crt := { s.crt with stns := t.crt.stns }, pin := { s.pin with stn := t.pin.stn } } := by
  induction l generalizing s with
  | nil => rfl
  | cons a r ih =>
    intro t
    rw [show t = _ from ih _, grantOne_frame]

theorem arrRstRelease_grants (hr : running s islA = true) (hu : s.ctl.unplug < 4) (hs : s.ctl.service = true) (hn : s.ctl.arrRstN = false) :
    ∃ t, exec .arrRstRelease s = .next t ∧ t.ctl = { s.ctl with arrRstN := true }
      ∧ (∀ n, n < 16 → stnOf t n = { stnOf s n with wHeld := (stnOf s n).wTotal, rHeld := if external n = true then 0 else (stnOf s n).rTotal }
          ∧ (external n = true → (tget StnPins.zero t.pin.stn n).wcrd = true))
      ∧ t = { s with ctl := t.ctl, crt := { s.crt with stns := t.crt.stns }, pin := { s.pin with stn := t.pin.stn } } := by
  have hexec : exec .arrRstRelease s = .next ((List.range 16).foldl grantOne { s with ctl := { s.ctl with arrRstN := true } }) := by
    rw [← grantCredits_eq]
    change execArrRstRelease s = _
    rw [execArrRstRelease, if_pos (by simp [hr, hu, hs, hn])]
  have hframe : (List.range 16).foldl grantOne { s with ctl := { s.ctl with arrRstN := true } } = _ :=
    foldl_grantOne_frame (List.range 16) { s with ctl := { s.ctl with arrRstN := true } }
  have hstn : ∀ n, n < 16 → stnOf ((List.range 16).foldl grantOne { s with ctl := { s.ctl with arrRstN := true } }) n = granted n (stnOf s n) :=
    fun n hn => foldl_range_at (stnOf · n) (granted n) _ hn (fun s i _ => stnOf_grantOne s i n) _
  have hcrd : ∀ n, n < 16 → (tget StnPins.zero ((List.range 16).foldl grantOne { s with ctl := { s.ctl with arrRstN := true } }).pin.stn n).wcrd
      = if external n then true else (tget StnPins.zero s.pin.stn n).wcrd :=
    fun n hn => foldl_range_at (fun s => (tget StnPins.zero s.pin.stn n).wcrd) (fun x => if external n then true else x) _ hn
      (fun s i _ => wcrd_grantOne s i n) { s with ctl := { s.ctl with arrRstN := true } }
  generalize (List.range 16).foldl grantOne { s with ctl := { s.ctl with arrRstN := true } } = t at hexec hframe hstn hcrd
  have hctl : t.ctl = { s.ctl with arrRstN := true } := by rw [hframe]
  refine ⟨t, hexec, hctl, fun n hn => ⟨hstn n hn, fun he => (hcrd n hn).trans (if_pos he)⟩, ?_⟩
  rw [hctl]
  exact hframe

theorem exec_arrRstRelease_early (hs : s.ctl.service = false) : exec .arrRstRelease s = .next s := by
  change execArrRstRelease s = _
  rw [execArrRstRelease, if_neg (by simp [hs])]

/-- The totals of the stations outside the fabric are what they have granted. -/
def fixTotals (s : State) : State := [3, 4, 5].foldl (fun s n => updStn n (fun x => { x with rTotal := x.rHeld, oTotal := x.oHeld }) s) s

theorem stationCreditWindowClose_fixes (hn : s.ctl.arrRstN = true) (hw : s.ctl.winClosed = false) : ∃ t, exec .stationCreditWindowClose s = .next t
      ∧ t.ctl = { s.ctl with winClosed := true }
      ∧ (∀ n, external n = true → stnOf t n = { stnOf s n with rTotal := (stnOf s n).rHeld, oTotal := (stnOf s n).oHeld })
      ∧ (∀ n, external n = false → stnOf t n = stnOf s n) ∧ t = { s with ctl := t.ctl, crt := { s.crt with stns := t.crt.stns } } := by
  have hexec : exec .stationCreditWindowClose s
      = .next { fixTotals s with ctl := { (fixTotals s).ctl with winClosed := true } } := by
    change execStationCreditWindowClose s = _
    rw [execStationCreditWindowClose, if_neg (by simp [hn, hw])]
    rfl
  have hstn := fun n => foldl_at (stnOf · n) (fun x => { x with rTotal := x.rHeld, oTotal := x.oHeld })
    (fun s n => updStn n (fun x => { x with rTotal := x.rHeld, oTotal := x.oHeld }) s) n (l := [3, 4, 5]) (by decide)
    (fun s i _ => stnOf_updStn i n _ s) s
  have hmem : ∀ n, n ∈ [3, 4, 5] ↔ external n = true := fun n => by
    simp [external, or_assoc]
  refine ⟨_, hexec, rfl, fun n he => (hstn n).trans (if_pos ((hmem n).2 he)), fun n he => (hstn n).trans (if_neg ?_), rfl⟩
  rw [hmem, he]
  decide

theorem exec_bistDone {fs : List (Nat × Nat)} (hwf : (Instr.bistDone fs).wf = true) (hr : running s islC = true) (hb : s.tnk.bistDone = false) :
    exec (.bistDone fs) s = .next { s with
      shf := { s.shf with mem := [], chk := [] }
      hay := { s.hay with mem := [], chk := [] }
      rng := { s.rng with ents := [] }
      tnk := { s.tnk with fails := fs, failCount := fs.length, bistDone := true } } := by
  change execBistDone fs s = _
  rw [execBistDone, if_neg (by simp [hwf]), if_neg (by simp [hr, hb])]

/-! ### Maps, trims and latency -/

/-- The number whose base-4 digits are `d 0`, `d 1`, and so on. -/
theorem foldl_base4 (d : Nat → Nat) (hd : ∀ m, d m ≤ 3) (n : Nat) : (List.range n).foldl (fun v m => v + d m * 4 ^ m) 0 < 4 ^ n
    ∧ ∀ m, m < n → (List.range n).foldl (fun v m => v + d m * 4 ^ m) 0 / 4 ^ m % 4 = d m := by
  induction n with
  | zero => simp
  | succ n ih =>
    obtain ⟨hlt, hdig⟩ := ih
    rw [List.range_succ, List.foldl_concat]
    set v := (List.range n).foldl (fun v m => v + d m * 4 ^ m) 0
    refine ⟨?_, fun m hm => ?_⟩
    · have := Nat.mul_le_mul_right (4 ^ n) (hd n)
      rw [Nat.pow_succ]
      omega
    · rcases Nat.lt_succ_iff_lt_or_eq.1 hm with hmn | rfl
      · obtain ⟨k, rfl⟩ : ∃ k, n = m + (k + 1) := ⟨n - m - 1, by omega⟩
        have hsplit : v + d (m + (k + 1)) * 4 ^ (m + (k + 1)) = v + 4 ^ m * (4 * (d (m + (k + 1)) * 4 ^ k)) := by ring
        rw [hsplit, Nat.add_mul_div_left _ _ (Nat.pow_pos (by decide)), Nat.add_mul_mod_self_left]
        exact hdig m hmn
      · rw [Nat.add_mul_div_right _ _ (Nat.pow_pos (by decide)), Nat.div_eq_of_lt hlt, Nat.zero_add]
        exact Nat.mod_eq_of_lt (Nat.lt_succ_of_le (hd m))

/-- TIL_AFEFFq as the Tinker computes it. -/
def trimWord (s : State) (q : Nat) : Reg :=
  BitVec.ofNat 32 ((List.range (if q = 2 then 2 else 16)).foldl (fun v m => v + min 3 (afSum s (16 * q + m)) * 4 ^ m) 0)

theorem setTrims_eq (s : State) : setTrims s = (List.range 3).foldl (fun s q => rset (0x3010 + 4 * q) (trimWord s q) s) s := rfl

theorem fld_trimWord {q : Nat} (hq : q < 34) : fld (trimWord s (q / 16)) (2 * (q % 16) + 1) (2 * (q % 16)) = min 3 (afSum s q) := by
  have hlen : q % 16 < if q / 16 = 2 then 2 else 16 := by split <;> omega
  have hdig := (foldl_base4 (fun m => min 3 (afSum s (16 * (q / 16) + m))) (fun m => Nat.min_le_left ..) _).2 _ hlen
  have hsub : 2 * (q % 16) + 1 - 2 * (q % 16) + 1 = 2 := by omega
  rw [trimWord, fld_ofNat _ (by omega) (by omega), hsub, Nat.pow_mul]
  rw [Nat.div_add_mod] at hdig
  exact hdig

theorem afSum_rset {k q : Nat} (hk : 0x300C ≤ k) (hq : q < 34) (v : Reg) (s : State) : afSum (rset k v s) q = afSum s q := by
  rw [afSum, rget_rset_ne (by omega), afSum]
  rfl

theorem trimWord_rset {k q : Nat} (hk : 0x300C ≤ k) (hq : q < 3) (v : Reg) (s : State) : trimWord (rset k v s) q = trimWord s q := by
  unfold trimWord
  congr 1
  refine List.foldl_ext _ _ _ fun v' m hm => ?_
  have hm' : m < if q = 2 then 2 else 16 := List.mem_range.1 hm
  rw [afSum_rset hk (by split at hm' <;> omega)]

theorem setTrims_writes (s : State) :
    setTrims s = rset 0x3018 (trimWord s 2) (rset 0x3014 (trimWord s 1) (rset 0x3010 (trimWord s 0) s)) := by
  have hfold : setTrims s = rset 0x3018 (trimWord (rset 0x3014 (trimWord (rset 0x3010 (trimWord s 0) s) 1) (rset 0x3010 (trimWord s 0) s)) 2)
      (rset 0x3014 (trimWord (rset 0x3010 (trimWord s 0) s) 1) (rset 0x3010 (trimWord s 0) s)) := rfl
  rw [hfold, trimWord_rset (by decide) (by decide), trimWord_rset (by decide) (by decide), trimWord_rset (by decide) (by decide)]

theorem setTrims_frame (s : State) : setTrims s = { s with regs := (setTrims s).regs } := by
  have hfold : ∀ (l : List Nat) (s : State), let t := l.foldl (fun s q => rset (0x3010 + 4 * q) (trimWord s q) s) s
      t = { s with regs := t.regs } := by
    intro l
    induction l with
    | nil => exact fun _ => rfl
    | cons a r ih =>
      intro s t
      rw [show t = _ from ih _]
      rfl
  exact hfold (List.range 3) s

theorem setLatency_frame (s : State) : setLatency s = { s with regs := (setLatency s).regs } := rfl

theorem rget_setTrims {k : Nat} (h0 : k ≠ 0x3010) (h1 : k ≠ 0x3014) (h2 : k ≠ 0x3018) (s : State) : rget (setTrims s) k = rget s k := by
  rw [setTrims_writes, rget_rset_ne h2, rget_rset_ne h1, rget_rset_ne h0]

theorem rget_setLatency {k : Nat} (h0 : k ≠ 0x4000) (h1 : k ≠ 0x4004) (s : State) : rget (setLatency s) k = rget s k := by
  unfold setLatency
  dsimp only
  rw [rget_rset_ne h1, rget_rset_ne h0]

theorem afSum_setMaps {q : Nat} (hq : q < 34) (s : State) : afSum (setLatency (setTrims s)) q = afSum s q := by
  have hbyp : bypBelow (setLatency (setTrims s)) q = bypBelow s q := by rw [setLatency_frame, setTrims_frame]; rfl
  rw [afSum, hbyp, rget_setLatency (by omega) (by omega), rget_setTrims (by omega) (by omega) (by omega), afSum]

theorem afTrim_setMaps {q : Nat} (hq : q < 34) (s : State) : afTrim (setLatency (setTrims s)) q = min 3 (afSum s q) := by
  have hword : rget (setLatency (setTrims s)) (0x3010 + 4 * (q / 16)) = trimWord s (q / 16) := by
    rw [rget_setLatency (by omega) (by omega), setTrims_writes]
    rcases (by omega : q / 16 = 0 ∨ q / 16 = 1 ∨ q / 16 = 2) with h | h | h <;> rw [h]
    · rw [rget_rset_ne (by decide), rget_rset_ne (by decide)]
      exact rget_rset_self ..
    · rw [rget_rset_ne (by decide)]
      exact rget_rset_self ..
    · exact rget_rset_self ..
  rw [afTrim, hword, fld_trimWord hq]

theorem bypBelow_le (s : State) (q : Nat) : bypBelow s q ≤ q := (List.length_filter_le ..).trans_eq List.length_range

theorem physRow_lt (s : State) {i : Nat} (hi : i < 34) : physRow s i < 34 := by
  unfold physRow
  cases h : ((List.range 34).filter fun q => !bit s.arr.rowbyp q)[i]? with
  | none => exact hi
  | some q => exact List.mem_range.1 (List.mem_filter.1 (List.mem_of_getElem? h)).1

theorem fld_latency : ∀ b, b < 34 → fld (put b 8 ||| put (32 + b) 0 : BitVec 32) 7 0 = 32 + b
    ∧ fld (put b 8 ||| put (32 + b) 0 : BitVec 32) 15 8 = b := by decide

theorem rget_setLatency_lat (s : State) : rget (setLatency s) 0x4000 = put (bypBelow s (physRow s 31)) 8 ||| put (32 + bypBelow s (physRow s 31)) 0 := by
  unfold setLatency
  dsimp only
  rw [rget_rset_ne (by decide)]
  exact rget_rset_self ..

/-- What the Tinker computes from the maps goes to registers. -/
theorem setMaps_fields (s : State) : (setLatency (setTrims s)).arr = s.arr ∧ (setLatency (setTrims s)).shf = s.shf
    ∧ (setLatency (setTrims s)).tly = s.tly ∧ (setLatency (setTrims s)).tnk = s.tnk := by
  have hframe : setLatency (setTrims s) = { s with regs := (setLatency (setTrims s)).regs } := by rw [setLatency_frame, setTrims_frame]
  generalize (setLatency (setTrims s)).regs = r at hframe
  rw [hframe]
  exact ⟨rfl, rfl, rfl, rfl⟩

theorem bypBelow_congr {t : State} (h : t.arr = s.arr) (q : Nat) : bypBelow t q = bypBelow s q := by rw [bypBelow, h, bypBelow]

theorem physRow_congr {t : State} (h : t.arr = s.arr) (i : Nat) : physRow t i = physRow s i := by rw [physRow, h, physRow]

theorem setLatency_arr (s : State) : (setLatency s).arr = s.arr := rfl

theorem fld_latency_setLatency (s : State) :
    fld (rget (setLatency s) 0x4000) 7 0 = 32 + bypBelow (setLatency s) (physRow (setLatency s) 31)
    ∧ fld (rget (setLatency s) 0x4000) 15 8 = bypBelow (setLatency s) (physRow (setLatency s) 31) := by
  have hlt : bypBelow s (physRow s 31) < 34 := (bypBelow_le s _).trans_lt (physRow_lt s (by decide))
  rw [rget_setLatency_lat, physRow_congr (setLatency_arr s), bypBelow_congr (setLatency_arr s)]
  exact fld_latency _ hlt

/-- The state whose maps have been sampled. -/
def withMaps (rb : BitVec 34) (cb : BitVec 33) (s : State) : State := { s with arr := { s.arr with
  mapSampled := true, mapv := true, rowbyp := rb, colbyp := cb, nowMapv := true, nowRow := rb, nowCol := cb } }

theorem exec_arrMapv (ha : awake s = true) (hm : s.arr.mapSampled = false) (rb : BitVec 34) (cb : BitVec 33) :
    exec (.arrMapv rb cb) s = .next (setLatency (setTrims (withMaps rb cb s))) := by
  change execArrMapv rb cb s = _
  unfold execArrMapv withMaps
  exact if_neg (by simp [ha, hm])

/-! ### A change of the maps -/

theorem arrayMapChange_follows (ha : awake s = true) (mv : Bool) (rb : BitVec 34) (cb : BitVec 33) :
    let u := { s with arr := { s.arr with nowMapv := mv, nowRow := rb, nowCol := cb } }
    (mv = s.arr.nowMapv → rb = s.arr.nowRow → cb = s.arr.nowCol → exec (.arrayMapChange mv rb cb) s = .next s)
    ∧ (mv ≠ s.arr.nowMapv ∨ rb ≠ s.arr.nowRow ∨ cb ≠ s.arr.nowCol → booted s = true →
        ∃ t, exec (.arrayMapChange mv rb cb) s = .next t ∧ Logged u t 0x12 islA 0 0 (b2n mv))
    ∧ (mv ≠ s.arr.nowMapv ∨ rb ≠ s.arr.nowRow ∨ cb ≠ s.arr.nowCol → booted s = false →
        exec (.arrayMapChange mv rb cb) s = .next { u with arr := { u.arr with mapv := mv } }) := by
  intro u
  have hexec : exec (.arrayMapChange mv rb cb) s = if mv == s.arr.nowMapv && rb == s.arr.nowRow && cb == s.arr.nowCol then .next u
      else if booted s then .next (logErr 0x12 islA 0 0 (b2n mv) u) else .next { u with arr := { u.arr with mapv := mv } } := by
    have hu : awake u = true := ha
    change execArrayMapChange mv rb cb s = _
    simp only [execArrayMapChange, u, awake] at hu ⊢
    simp only [hu, Bool.not_true, Bool.false_or]
    rfl
  have hdiff : mv ≠ s.arr.nowMapv ∨ rb ≠ s.arr.nowRow ∨ cb ≠ s.arr.nowCol →
      ¬ (mv == s.arr.nowMapv && rb == s.arr.nowRow && cb == s.arr.nowCol) = true := fun h => by
    simp only [Bool.and_eq_true, beq_iff_eq]
    tauto
  refine ⟨fun h1 h2 h3 => ?_, fun h hb => ?_, fun h hb => ?_⟩
  · subst h1 h2 h3
    rw [hexec, if_pos (by simp)]
  · exact ⟨_, by rw [hexec, if_neg (hdiff h), if_pos hb], logErr_logged ..⟩
  · rw [hexec, if_neg (hdiff h), if_neg (by simp [hb])]

/-! ### The skew self-test -/

/-- The conditions under which a step of the self-test is taken. -/
def TestOpen (s : State) : Prop :=
  s.arr.mapSampled = true ∧ s.arr.mapv = true ∧ s.tnk.skewGo = true ∧ bit (rget s 0x3030) 0 = false ∧ running s islA = true ∧ running s islC = true

/-- R170's and R143's conditions on the maps. -/
def MapsGood (s : State) : Prop :=
  popCount 34 s.arr.rowbyp.toNat = 2 ∧ popCount 33 s.arr.colbyp.toNat = 1 ∧ ∀ q, q < 34 → afSum s q ≤ 3

theorem mapsOk_of_good (h : MapsGood s) : mapsOk s = true := by
  obtain ⟨hr, hc, -⟩ := h
  simp [mapsOk, hr, hc]

theorem trimBad_of_good (h : MapsGood s) : trimBad s = none := by
  obtain ⟨-, -, hsum⟩ := h
  rw [trimBad, List.find?_eq_none]
  intro q hq
  simpa using hsum q (List.mem_range.1 hq)

theorem exec_skewSelfTest (h : TestOpen s) {k : Nat} {b : Bool} (hwf : (Instr.skewSelfTest k b).wf = true) : exec (.skewSelfTest k b) s
    = match s.tnk.skew with
      | some x => .next (if testRuns s || x.step != (if b = true then 32 + k else k) then s else nextTest x s)
      | none => .next (if (if b = true then 32 + k else k) = 0 then beginTest s else s) := by
  obtain ⟨hm, hv, hg, hd, ha, hc⟩ := h
  change execSkewSelfTest k b s = _
  simp only [execSkewSelfTest, hwf, hm, hv, hg, hd, ha, hc]
  rfl

theorem exec_skewSelfTest_next (h : TestOpen s) {x : Skew} (hx : s.tnk.skew = some x) (hr : testRuns s = false) {k : Nat} {b : Bool}
    (hwf : (Instr.skewSelfTest k b).wf = true) (hk : x.step = if b = true then 32 + k else k) :
    exec (.skewSelfTest k b) s = .next (nextTest x s) := by
  rw [exec_skewSelfTest h hwf, hx]
  simp [hr, hk]

theorem exec_skewSelfTest_begin (h : TestOpen s) (hx : s.tnk.skew = none) : exec (.skewSelfTest 0 false) s = .next (beginTest s) := by
  rw [exec_skewSelfTest h (by decide), hx]
  simp

theorem rget_endTest (bad : Option (Nat × BitVec 32)) (b : Bool) (s : State) :
    rget (endTest bad b s) 0x3030 = BitVec.ofNat 32 (skewStatus s bad b) := rget_rset_self 0x3030 _ _

theorem testStep_fields (k : Nat) (b : Bool) (s : State) : (testStep k b s).tnk = { s.tnk with skew := some ⟨k, 0, 0, b⟩ }
    ∧ (testStep k b s).arr = { s.arr with passes := s.arr.passes ++ [{ testPass k with uid := s.arr.nextUid }], nextUid := s.arr.nextUid + 1 }
    ∧ rget (testStep k b s) 0x3030 = rget s 0x3030 ∧ (testStep k b s).tly = s.tly ∧ (testStep k b s).shf = s.shf := ⟨rfl, rfl, rfl, rfl, rfl⟩

theorem endTest_fields (bad : Option (Nat × BitVec 32)) (b : Bool) (s : State) : (endTest bad b s).tnk = { s.tnk with skew := none }
    ∧ (endTest bad b s).arr = s.arr ∧ (endTest bad b s).tly = s.tly := ⟨rfl, rfl, rfl⟩

/-- TIL_STATUS where no lane has failed. -/
theorem skewStatus_good (h : MapsGood s) (b : Bool) : skewStatus s none b = 1 + 2 + 8 + (if b then 0 else 4) := by
  simp [skewStatus, trimBad_of_good h, mapsOk_of_good h]

/-- TIL_STATUS where every column of logical row `k` has failed: the physical row is the failing lane. -/
theorem skewStatus_row (h : MapsGood s) (k : Nat) (b : Bool) : skewStatus s (some (k, -1)) b = 1 + 8 + 256 + 1024 * physRow s k := by
  simp [skewStatus, trimBad_of_good h, mapsOk_of_good h]

theorem skewStatus_maps (h : mapsOk s = false) (bad : Option (Nat × BitVec 32)) (b : Bool) : skewStatus s bad b = 1 := by
  simp [skewStatus, h]

theorem beginTest_good (h : MapsGood s) : beginTest s = testStep 0 false (setLatency (setTrims s)) := by
  obtain ⟨hr, hc, hsum⟩ := h
  have harr := (setMaps_fields s).1
  have hgood : MapsGood (setLatency (setTrims s)) := by
    refine ⟨by rw [harr, hr], by rw [harr, hc], fun q hq => ?_⟩
    rw [afSum_setMaps hq]
    exact hsum q hq
  simp only [beginTest, mapsOk_of_good hgood, trimBad_of_good hgood]
  exact if_neg nofun

theorem beginTest_maps (h : mapsOk s = false) : beginTest s = endTest none false (setLatency (setTrims s)) := by
  have hmaps : mapsOk (setLatency (setTrims s)) = mapsOk s := by rw [mapsOk, (setMaps_fields s).1, mapsOk]
  simp only [beginTest, hmaps, h]
  exact if_pos rfl

end

/-- Settles O52, step by step. -/
theorem bootSteps : Obligations.BootSteps := by
  intro s ha
  refine ⟨fun hup l0 l1 => generatorLockCheck_switches ha hup l0 l1, fun hup hd => islandResetExit_wakes ha hup hd,
    fun hr hs h1 h2 h3 => exec_registerServiceStart ha hr hs h1 h2 h3, arrRstRelease_grants, exec_arrRstRelease_early,
    stationCreditWindowClose_fixes, fun fs hwf hr hb => ⟨_, exec_bistDone hwf hr hb, fun a => ⟨rfl, rfl, rfl, rfl⟩, checkByte_zero, rfl, rfl⟩,
    fun hm rb cb => ?_, fun mv rb cb => arrayMapChange_follows ha mv rb cb, fun hA hC hm hv hg hd => ?_⟩
  · obtain ⟨harr, hshf, htly, -⟩ := setMaps_fields (withMaps rb cb s)
    obtain ⟨hlo, hhi⟩ := fld_latency_setLatency (setTrims (withMaps rb cb s))
    refine ⟨_, exec_arrMapv ha hm rb cb, harr, fun q hq => ?_, hlo, hhi, hshf, htly⟩
    rw [afTrim_setMaps hq, afSum_setMaps hq]
  have hopen : TestOpen s := ⟨hm, hv, hg, hd, hA, hC⟩
  obtain ⟨harr, hshf, htly, htnk⟩ := setMaps_fields s
  have hstatus : rget (setLatency (setTrims s)) 0x3030 = rget s 0x3030 := by
    rw [rget_setLatency (by decide) (by decide), rget_setTrims (by decide) (by decide) (by decide)]
  intro good
  refine ⟨fun hx hgood => ?_, fun hx hbad => ?_, fun x k b hx hwf h => ?_, fun x hx hr hk hw => ?_, fun x hx hr hk hw hgood => ?_,
    fun x hx hr hk => ?_, fun x hx hr hk hgood => ?_⟩
  · obtain ⟨htnk', harr', hstatus', htly', hshf'⟩ := testStep_fields 0 false (setLatency (setTrims s))
    refine ⟨_, exec_skewSelfTest_begin hopen hx, ?_⟩
    rw [beginTest_good hgood, htnk', harr', hstatus', htly', hshf', htnk, harr, hstatus]
    exact ⟨rfl, rfl, hd, htly, hshf⟩
  · have hmaps : mapsOk s = false := by
      simp only [mapsOk, Bool.and_eq_false_iff, beq_eq_false_iff_ne]
      exact hbad
    have hmaps' : mapsOk (setLatency (setTrims s)) = false := by rw [mapsOk, harr]; exact hmaps
    obtain ⟨htnk', harr', -⟩ := endTest_fields none false (setLatency (setTrims s))
    refine ⟨_, exec_skewSelfTest_begin hopen hx, ?_⟩
    rw [beginTest_maps hmaps, rget_endTest, skewStatus_maps hmaps', htnk', harr', htnk, harr]
    refine ⟨rfl, ?_, rfl⟩
    rw [← hx]
  · rw [exec_skewSelfTest hopen hwf, hx]
    dsimp only
    rw [if_pos]
    rcases h with h | h
    · rw [h]; rfl
    · simp [h]
  · have hwf : (Instr.skewSelfTest x.step false).wf = true := by simpa [Instr.wf] using hk
    refine ⟨_, exec_skewSelfTest_next hopen hx hr hwf rfl, ?_⟩
    rw [nextTest, if_pos hk, if_pos hw]
    exact ⟨rfl, rfl⟩
  · have hwf : (Instr.skewSelfTest x.step false).wf = true := by simpa [Instr.wf] using hk
    have hnext : nextTest x s = endTest (some (x.step, -1)) false s := by
      rw [nextTest, if_pos hk, if_neg (by rw [hw]; decide), hw]
    refine ⟨_, exec_skewSelfTest_next hopen hx hr hwf rfl, ?_⟩
    rw [hnext]
    have hreg : rget (endTest (some (x.step, -1)) false s) 0x3030 = BitVec.ofNat 32 (1 + 8 + 256 + 1024 * physRow s x.step) := by
      rw [rget_endTest, skewStatus_row hgood]
    refine ⟨hreg, ?_, rfl⟩
    rw [arrayOk, hreg, bit_ofNat _ (by decide)]
    exact decide_eq_false (by omega)
  · refine ⟨_, exec_skewSelfTest_next hopen hx hr (by decide) hk, ?_⟩
    rw [nextTest, if_neg (by omega)]
    dsimp only
    rw [if_pos hk]
    exact ⟨rfl, rfl⟩
  · have hnext : nextTest x s = endTest none (x.scaleBad || x.wrong != 0) s := by
      rw [nextTest, if_neg (by omega)]
      dsimp only
      rw [if_neg (by omega)]
    have hreg : rget (endTest none (x.scaleBad || x.wrong != 0) s) 0x3030 = if x.scaleBad = true ∨ x.wrong ≠ 0 then 0xB else 0xF := by
      rw [rget_endTest, skewStatus_good hgood]
      by_cases h : x.scaleBad = true ∨ x.wrong ≠ 0
      · rw [if_pos h, if_pos (by simpa using h)]
        rfl
      · rw [if_neg h, if_neg (by simpa using h)]
        rfl
    refine ⟨_, exec_skewSelfTest_next hopen hx hr (by decide) hk, ?_⟩
    rw [hnext]
    refine ⟨hreg, ?_, ?_, rfl, rfl, rfl⟩
    · rw [arrayOk, hreg]
      split <;> decide
    · rw [mxOk, hreg]
      by_cases h : x.scaleBad = true ∨ x.wrong ≠ 0
      · rw [if_pos h]
        refine ⟨fun h' => absurd h' (by decide), fun ⟨h1, h2⟩ => ?_⟩
        rcases h with h | h
        · rw [h1] at h; cases h
        · exact absurd h2 h
      · rw [if_neg h]
        rw [not_or, not_not, Bool.not_eq_true] at h
        exact ⟨fun _ => h, fun _ => by decide⟩

end Sys2Proof.Proofs
end

section
/-! SUPPORT. Proofs about gradient buckets (R264-R271, R275-R277): opening, placing, closing and querying. -/

namespace Sys2Proof.Proofs

open Sys2Proof.Machine Sys2Proof.Laws

section
variable {s : State} {tag : Tag} {e : TagEntry}

/-! ### Closing and querying -/

theorem exec_bkclose {k : Nat} {force : Bool} (h : started s tag .bkclose = some e) (hc : e.cmd = some (.bkclose k force)) :
    exec (.bkclose tag) s = .next (if e.stop = some .unplug then bkcloseStop tag k e s
      else match (bucketOf s k).st with
        | .closed => finish tag (bkState 1 k) s
        | .opened => if force then updBucket k (fun b => { b with st := .draining }) s else finish tag (bkState 5 k) s
        | .draining => if (bucketOf s k).drained then closeBucket tag k s else s) := by
  change execBkclose tag s = _
  simp only [execBkclose, h, hc] <;> rfl

theorem exec_bkqry {k : Nat} (h : started s tag .bkqry = some e) (hc : e.cmd = some (.bkqry k)) :
    exec (.bkqry tag) s = .next (finish tag (outc .ok ((bucketOf s k).st.code + 4 * b2n (decide (0 < (bucketOf s k).cNonf))
      + 8 * b2n (decide (0 < (bucketOf s k).cSat)) + 16 * (bucketOf s k).raccs) (bucketOf s k).cAcked) s) := by
  change execBkqry tag s = _
  simp only [execBkqry, h, hc]

/-- A bucket closed: what was read of its packets goes, and so do its pages and its packets still due. -/
def closed (k : Nat) (s : State) : State := updBucket k (fun b => { b with st := .closed, due := [], retried := [], pages := [] }) (dropCodes k s)

theorem closeBucket_eq (tag : Tag) (k : Nat) (s : State) : closeBucket tag k s = finish tag (bkcloseReply k (bucketOf s k)) (closed k s) := rfl

theorem closed_keeps (k : Nat) (s : State) : (bucketOf (closed k s) k).st = .closed ∧ (∀ j, j ≠ k → bucketOf (closed k s) j = bucketOf s j)
    ∧ (closed k s).shf = s.shf ∧ (closed k s).hay = { s.hay with waiting := (closed k s).hay.waiting } ∧ (closed k s).tly = s.tly := by
  refine ⟨by rw [closed, bucketOf_updBucket_self], fun j hj => bucketOf_updBucket_ne hj .., ?_, ?_, updBucket_tly ..⟩
  · rw [closed, updBucket_frame]
    rfl
  · rw [closed, updBucket_frame]
    rfl

/-- A bucket that the unplug sequence stops. -/
def stopped (k : Nat) (s : State) : State := updBucket k (fun b => { b with stopped := true }) s

theorem bkcloseReply_stopped (k : Nat) (s : State) :
    bkcloseReply k (bucketOf (stopped k s) k) = outc .abortedPower k ((bucketOf s k).cPlaced - (bucketOf s k).cAcked) := by
  rw [stopped, bucketOf_updBucket_self, bkcloseReply]
  exact if_pos rfl

theorem closed_stopped_keeps (k : Nat) (s : State) : (bucketOf (closed k (stopped k s)) k).st = .closed
    ∧ (∀ j, j ≠ k → bucketOf (closed k (stopped k s)) j = bucketOf s j) ∧ (closed k (stopped k s)).shf = s.shf
    ∧ (closed k (stopped k s)).hay = { s.hay with waiting := (closed k (stopped k s)).hay.waiting } ∧ (closed k (stopped k s)).tly = s.tly := by
  obtain ⟨hst, hother, hshf, hhay, htly⟩ := closed_keeps k (stopped k s)
  have hhay' : (stopped k s).hay = s.hay := by rw [stopped, updBucket_frame]
  have hshf' : (stopped k s).shf = s.shf := by rw [stopped, updBucket_frame]
  rw [hhay'] at hhay
  exact ⟨hst, fun j hj => (hother j hj).trans (bucketOf_updBucket_ne hj ..), hshf.trans hshf', hhay, htly.trans (updBucket_tly ..)⟩

end

/-- Settles O31, by the state of the bucket. -/
theorem bkcloseAndBkqry : Obligations.BkcloseAndBkqry := by
  intro s tag e k
  refine ⟨fun force h hc => ?_, fun h hc => ⟨_, exec_bkqry h hc, finish_completed ..⟩⟩
  have hexec := exec_bkclose h hc
  refine ⟨fun hu hst => ⟨_, ?_, finish_completed ..⟩, fun hu hst hf => ⟨_, ?_, finish_completed ..⟩, fun hu hst hf => ?_, fun hu hst hd => ?_,
    fun hu hst hd => ?_, fun hu hb hr => ?_⟩
  · rw [hexec, if_neg hu, hst]
    rfl
  · rw [hexec, if_neg hu, hst, hf]
    rfl
  · rw [if_neg hu, hst, hf] at hexec
    refine ⟨updBucket k (fun b => { b with st := .draining }) s, hexec, bucketOf_updBucket_self .., fun j hj => bucketOf_updBucket_ne hj .., updBucket_tly .., ?_, ?_⟩ <;> rw [updBucket_frame]
  · rw [hexec, if_neg hu, hst]
    simp [hd]
  · rw [if_neg hu, hst, hd] at hexec
    exact ⟨closed k s, _, hexec, finish_completed .., closed_keeps k s⟩
  · have hstop : bkcloseStop tag k e s = closeBucket tag k (stopped k s) := if_neg (by simp [hb, hr])
    rw [if_pos hu, hstop, closeBucket_eq, bkcloseReply_stopped] at hexec
    exact ⟨closed k (stopped k s), _, hexec, finish_completed .., closed_stopped_keeps k s⟩

section
variable {s : State} {tag : Tag} {e : TagEntry}

/-! ### Opening -/

theorem exec_bkopen {x : BkOpen} (h : started s tag .bkopen = some e) (hc : e.cmd = some (.bkopen x)) :
    exec (.bkopen tag) s = .next (if x.nelem = 0 then finish tag (outc .ok 0 0) s
        else if e.job.stage = 0 then
          (if bkopenBusy s then s
           else match bkopenChecks s x (scaleArray s e x) with
            | some o => finish tag o s
            | none => bkopenBegin tag x (scaleArray s e x) s)
        else if e.job.stage = 1 then
          (if e.job.want.isEmpty then askWriteBytes tag 8 ((bucketOf s x.bucket).lo + (bucketOf s x.bucket).nelem)
              (scalesRead e.job (bucketOf s x.bucket).blocks) (.store tag) (updJob tag (fun j => { j with stage := 2 }) s)
           else s)
        else if e.job.wrOut = 0 then bkopenEnd tag x e s
        else s) := by
  change execBkopen tag s = _
  simp only [execBkopen, h, hc] <;> rfl

/-- The bucket recorded by a BKOPEN that passes. -/
def recorded (tag : Tag) (x : BkOpen) (src : Nat) (s : State) : State :=
  updJob tag (fun j => { j with stage := 1, base := src, want := (haySplit src (openedSlot s x).blocks).map fun p => (0, p.1) })
    (setBucket x.bucket (openedSlot s x) s)

theorem bkopenBegin_eq (tag : Tag) (x : BkOpen) (src : Nat) (s : State) :
    bkopenBegin tag x src s = askBytes 8 src (openedSlot s x).blocks (.unitFor tag 0) (recorded tag x src s) := rfl

theorem tagOf_setBucket (b : Nat) (x : Bucket) (u : Tag) (s : State) : tagOf (setBucket b x s) u = tagOf s u := by rw [setBucket_frame]; rfl

theorem bkopenBegin_asks (tag : Tag) (x : BkOpen) (src : Nat) (s : State) : let t := bkopenBegin tag x src s
    bucketOf t x.bucket = openedSlot s x ∧ (∀ k, k ≠ x.bucket → bucketOf t k = bucketOf s k)
    ∧ t.hay.waiting = s.hay.waiting
        ++ (haySplit src (openedSlot s x).blocks).map (fun p => hayRd 8 p.1 (beRange p.2.1 p.2.2) (.unitFor tag 0 p.1))
    ∧ (tagOf t tag).job.stage = 1 ∧ (tagOf t tag).job.base = src
    ∧ (tagOf t tag).job.want = (haySplit src (openedSlot s x).blocks).map (fun p => (0, p.1)) ∧ t.shf = s.shf ∧ t.hay.mem = s.hay.mem
    ∧ ∀ u, u ≠ tag → tagOf t u = tagOf s u := by
  intro t
  have hslot : bucketOf (recorded tag x src s) x.bucket = openedSlot s x := bucketOf_setBucket_self ..
  have hslots : ∀ k, k ≠ x.bucket → bucketOf (recorded tag x src s) k = bucketOf s k := fun k hk => bucketOf_setBucket_ne hk ..
  have hhay : (recorded tag x src s).hay = s.hay := (congrArg State.hay (setBucket_frame x.bucket (openedSlot s x) s) :)
  have hshf : (recorded tag x src s).shf = s.shf := (congrArg State.shf (setBucket_frame x.bucket (openedSlot s x) s) :)
  have htag : tagOf (recorded tag x src s) tag = _ := tagOf_updJob_self ..
  have htags : ∀ u, u ≠ tag → tagOf (recorded tag x src s) u = tagOf s u := fun u hu =>
    (tagOf_updJob_ne hu ..).trans (tagOf_setBucket ..)
  have ht : t = _ := (bkopenBegin_eq ..).trans (askBytes_frame ..)
  rw [ht]
  refine ⟨hslot, hslots, congrArg (·.waiting ++ _) hhay, congrArg (·.job.stage) htag, congrArg (·.job.base) htag, congrArg (·.job.want) htag, hshf,
    congrArg (·.mem) hhay, htags⟩

theorem askWriteBytes_eq (m a : Nat) (bs : List Byte) (use : HayUse) (s : State) :
    askWriteBytes tag m a bs use s
      = askHays (writeAccs m a bs use) (updJob tag (fun j => { j with wrOut := j.wrOut + (writeAccs m a bs use).length }) s) := rfl

theorem bucketOf_congr {t : State} (h : t.thr = s.thr) (k : Nat) : bucketOf t k = bucketOf s k := by rw [bucketOf, h, bucketOf]

theorem askHays_waiting (as : List HayAcc) (s : State) : (askHays as s).hay.waiting = s.hay.waiting ++ as := by rw [askHays_frame]

theorem askHays_keeps (as : List HayAcc) (s : State) : (askHays as s).hay.mem = s.hay.mem ∧ (askHays as s).shf = s.shf
    ∧ (askHays as s).thr = s.thr ∧ (askHays as s).crt = s.crt := by
  rw [askHays_frame]
  exact ⟨rfl, rfl, rfl, rfl⟩

theorem bkopenWrites (a : Nat) (bs : List Byte) (s : State) :
    let t := askWriteBytes tag 8 a bs (.store tag) (updJob tag (fun j => { j with stage := 2 }) s)
    t.hay.waiting = s.hay.waiting ++ writeAccs 8 a bs (.store tag) ∧ (tagOf t tag).job.stage = 2 ∧ (∀ k, bucketOf t k = bucketOf s k)
    ∧ t.shf = s.shf ∧ t.hay.mem = s.hay.mem ∧ ∀ u, u ≠ tag → tagOf t u = tagOf s u := by
  intro t
  have ht : t = _ := askWriteBytes_eq 8 a bs (.store tag) _
  obtain ⟨hmem, hshf, hthr, -⟩ := askHays_keeps (writeAccs 8 a bs (.store tag))
    (updJob tag (fun j => { j with wrOut := j.wrOut + (writeAccs 8 a bs (.store tag)).length }) (updJob tag (fun j => { j with stage := 2 }) s))
  rw [ht]
  refine ⟨askHays_waiting .., ?_, bucketOf_congr hthr, hshf, hmem, fun u hu => ?_⟩
  · rw [tagOf_askHays, tagOf_updJob_self, tagOf_updJob_self]
  · rw [tagOf_askHays, tagOf_updJob_ne hu, tagOf_updJob_ne hu]

end

/-- Settles O29, by the stage of the command. -/
theorem bkopenOpens : Obligations.BkopenOpens := by
  intro s tag e x h hc src n b
  have hexec := exec_bkopen h hc
  refine ⟨fun hn => ⟨_, by rw [hexec, if_pos hn], finish_completed ..⟩, fun hn hst hb => ?_, fun o hn hst hb hck => ?_, fun hn hst hb hck => ?_,
    fun hn hst hw => ?_, fun hn hst hw hbad => ?_, fun hn hst hw hgood => ?_⟩
  · rw [hexec, if_neg hn, if_pos hst, if_pos hb]
  · rw [if_neg hn, if_pos hst, if_neg (by simp [hb]), hck] at hexec
    exact ⟨_, hexec, finish_completed ..⟩
  · rw [if_neg hn, if_pos hst, if_neg (by simp [hb]), hck] at hexec
    exact ⟨_, hexec, bkopenBegin_asks tag x src s⟩
  · rw [if_neg hn, if_neg (by omega), if_pos hst, hw] at hexec
    exact ⟨_, hexec, bkopenWrites _ _ s⟩
  · have hany : (e.job.units.any fun u => u.bad != 0) = true := by simpa using hbad
    rw [if_neg hn, if_neg (by omega), if_neg (by omega), if_pos hw, bkopenEnd, if_pos hany] at hexec
    exact ⟨_, hexec, finish_completed ..⟩
  · have hany : (e.job.units.any fun u => u.bad != 0) = false := by simpa using hgood
    rw [if_neg hn, if_neg (by omega), if_neg (by omega), if_pos hw, bkopenEnd, if_neg (by simp [hany])] at hexec
    refine ⟨setBucket x.bucket { b with st := .opened } s, _, hexec, finish_completed .., bucketOf_setBucket_self ..,
      fun k hk => bucketOf_setBucket_ne hk .., ?_, ?_, ?_⟩ <;> rw [setBucket_frame]

section
variable {s : State} {tag : Tag} {e : TagEntry}

/-! ### Waking groups -/

theorem PwrUnit.wakeUp_wakeUp (u : PwrUnit) : u.wakeUp.wakeUp = u.wakeUp := by
  unfold PwrUnit.wakeUp PwrUnit.goTo
  cases h : u.entering with
  | none =>
    by_cases hs : u.st = .on <;> simp [hs, h]
  | some x =>
    by_cases hx : x = .on <;> simp [hx]

theorem PwrUnit.wakeUp_not_ready {u : PwrUnit} (h : u.ready = false) : u.wakeUp.ready = false := by
  unfold PwrUnit.wakeUp PwrUnit.goTo
  cases he : u.entering with
  | none =>
    by_cases hs : u.st = .on
    · rw [PwrUnit.ready, he, hs] at h
      exact absurd h (by decide)
    · simp [hs, PwrUnit.ready]
  | some x =>
    by_cases hx : x = .on <;> simp [hx, PwrUnit.ready]

theorem groupOf_wakeGroups (gs : List Nat) (s : State) (g : Nat) :
    groupOf (wakeGroups gs s) g = if g ∈ gs ∧ (groupOf s g).ready = false then (groupOf s g).wakeUp else groupOf s g := by
  induction gs generalizing s with
  | nil => simp [wakeGroups]
  | cons b r ih =>
    rw [show wakeGroups (b :: r) s = wakeGroups r (wakeGroups [b] s) from rfl, ih, groupOf_wakeGroups_one]
    by_cases hb : g = b ∧ (groupOf s g).ready = false
    · obtain ⟨rfl, hr⟩ := hb
      simp [hr, PwrUnit.wakeUp_not_ready hr, PwrUnit.wakeUp_wakeUp]
    · rw [if_neg hb]
      refine if_congr ?_ rfl rfl
      rw [List.mem_cons]
      tauto

theorem mem_dedup (l : List Nat) (g : Nat) : g ∈ dedup l ↔ g ∈ l := by
  induction l with
  | nil => simp [dedup]
  | cons a r ih =>
    rw [dedup, List.mem_cons, List.mem_filter, ih, List.mem_cons]
    by_cases h : g = a <;> simp [h]

/-! ### Asking for rows -/

/-- The beats of entry `p.1`, the `p.2`-th of `n`, of a BKADD. -/
def entryDemands (tag : Tag) (n : Nat) (tl : Nat → Tile) (p : BkEnt × Nat) : List RdDemand :=
  let rb := (tl p.1.tile).rowBytes
  let js := beatsOf (p.1.first * rb) ((p.1.first + p.1.count) * rb)
  js.zipIdx.map fun q => ⟨tag, p.1.tile, q.1, p.2 + 1 == n && q.2 + 1 == js.length⟩

/-- A BKADD asks for the rows of one entry. -/
def askEntry (tag : Tag) (n : Nat) (s : State) (p : BkEnt × Nat) : State :=
  let rb := (tileOf s p.1.tile).rowBytes
  askRead 14 tag p.1.tile (p.1.first * rb) ((p.1.first + p.1.count) * rb) (p.2 + 1 == n) s

theorem askEntry_eq (tag : Tag) (n : Nat) (s : State) (p : BkEnt × Nat) : askEntry tag n s p
    = updJob tag (fun j => { j with rdOut := j.rdOut + (entryDemands tag n (tileOf s) p).length })
        (updStn 14 (fun x => { x with rdQ := x.rdQ ++ entryDemands tag n (tileOf s) p }) s) := rfl

/-- What asking for rows leaves: all but the station's demands and the count of the command's reads. -/
structure AskedRows (s t : State) (tag : Tag) (n : Nat) (l : List (BkEnt × Nat)) : Prop where
  demands : (stnOf t 14).rdQ = (stnOf s 14).rdQ ++ l.flatMap (entryDemands tag n (tileOf s))
  self : ∃ k, tagOf t tag = { tagOf s tag with job := { (tagOf s tag).job with rdOut := k } }
  others : ∀ u, u ≠ tag → tagOf t u = tagOf s u
  shf : t.shf = s.shf
  hay : t.hay = s.hay
  thr : t.thr = s.thr

theorem foldl_askEntry (tag : Tag) (n : Nat) (l : List (BkEnt × Nat)) (s : State) : AskedRows s (l.foldl (askEntry tag n) s) tag n l := by
  induction l generalizing s with
  | nil => exact ⟨by simp, ⟨_, rfl⟩, fun _ _ => rfl, rfl, rfl, rfl⟩
  | cons p r ih =>
    obtain ⟨hd, ⟨k, hself⟩, ho, hshf, hhay, hthr⟩ := ih (askEntry tag n s p)
    have htile : tileOf (askEntry tag n s p) = tileOf s := rfl
    have hstn : (stnOf (askEntry tag n s p) 14).rdQ = (stnOf s 14).rdQ ++ entryDemands tag n (tileOf s) p := by
      rw [askEntry_eq]
      exact congrArg (·.rdQ) (stnOf_setStn_self 14 _ s)
    have htag : tagOf (askEntry tag n s p) tag = _ := (congrArg (tagOf · tag) (askEntry_eq ..)).trans (tagOf_updJob_self ..)
    refine ⟨?_, ⟨k, by rw [List.foldl_cons, hself, htag]; rfl⟩, fun u hu => ?_, hshf, hhay, hthr⟩
    · rw [List.foldl_cons, hd, hstn, htile, List.flatMap_cons, List.append_assoc]
    · rw [List.foldl_cons, ho u hu, askEntry_eq, tagOf_updJob_ne hu]
      rfl

/-! ### Reserving blocks -/

theorem testBit_foldl_place (bl : List (Nat × Nat × Nat)) (m i : Nat) :
    (bl.foldl (fun m p => m ||| 2 ^ p.2.2) m).testBit i = (m.testBit i || bl.any fun p => p.2.2 == i) := by
  induction bl generalizing m with
  | nil => simp
  | cons p r ih =>
    rw [List.foldl_cons, ih, Nat.testBit_or, Nat.testBit_two_pow, List.any_cons, Bool.or_assoc]
    rfl

theorem exec_bkadd {b : Nat} {nw : Bool} {es : List BkEnt} (h : started s tag .bkadd = some e) (hc : e.cmd = some (.bkadd b nw es)) :
    exec (.bkadd tag) s = if es = [] then .next (finish tag (outc .ok 0 0) s)
      else if e.job.stage = 0 then
        if e.stop = some .unplug then .next (finish tag (outc .abortedPower 0 0) s)
        else match bkaddChecks s e b es with
        | some o => .next (finish tag o s)
        | none => .next (bkaddBegin tag (bkaddSlot s e b) (bkaddBlocks s (tileOf s) e b es) es s)
      else if (bkaddBlocks s (jobTile s tag) e b es).length ≤ e.job.row then
        (if e.job.wrOut = 0 then .next (bkaddDone tag e.job.base (bkaddBlocks s (jobTile s tag) e b es).length s) else .next s)
      else if e.stop = some .unplug then
        (if e.job.wrOut = 0 then .next (bkaddStop tag e.job.base (bkaddBlocks s (jobTile s tag) e b es) s) else .next s)
      else .next (bkaddStep tag e.job.base (bkaddBlocks s (jobTile s tag) e b es) e.job s) := by
  change execBkadd tag s = _
  simp only [execBkadd, h, hc] <;> rfl

/-- A bucket with more blocks reserved. -/
def reserve (bl : List (Nat × Nat × Nat)) (b : Bucket) : Bucket :=
  { b with placed := bl.foldl (fun m p => m ||| 2 ^ p.2.2) b.placed, cPlaced := b.cPlaced + 32 * bl.length }

/-- The groups that a BKADD reads. -/
def addGroups (s : State) (es : List BkEnt) : List Nat :=
  dedup ((es.filter fun x => !(tileOf s x.tile).spill).map fun x => (tileOf s x.tile).group)

theorem mem_addGroups {s : State} {es : List BkEnt} {g : Nat} :
    g ∈ addGroups s es ↔ ∃ x ∈ es, (tileOf s x.tile).spill = false ∧ (tileOf s x.tile).group = g := by
  simp [addGroups, mem_dedup, and_assoc]

theorem tileOf_updBucket (b : Nat) (f : Bucket → Bucket) (s : State) : tileOf (updBucket b f s) = tileOf s := by
  rw [updBucket_frame]; rfl

theorem tileOf_wakeGroups (gs : List Nat) (s : State) : tileOf (wakeGroups gs s) = tileOf s := by
  rw [wakeGroups_frame]; rfl

theorem tagOf_wakeGroups (gs : List Nat) (s : State) (u : Tag) : tagOf (wakeGroups gs s) u = tagOf s u := by
  rw [wakeGroups_frame]; rfl

/-- A bucket's blocks reserved, and the groups of a BKADD waked. -/
def wakened (slot : Nat) (bl : List (Nat × Nat × Nat)) (es : List BkEnt) (s : State) : State :=
  let u := updBucket slot (reserve bl) s
  wakeGroups (addGroups u es) u

/-- A BKADD that has reserved its blocks and waked its groups, and goes by the tile registers as they are. -/
def reserved (tag : Tag) (slot : Nat) (bl : List (Nat × Nat × Nat)) (es : List BkEnt) (s : State) : State :=
  updJob tag (fun j => { j with stage := 1, imgs := [], base := slot }) (snapTiles tag (es.map (·.tile)) (wakened slot bl es s))

theorem bkaddBegin_eq (slot : Nat) (bl : List (Nat × Nat × Nat)) (es : List BkEnt) (s : State) :
    bkaddBegin tag slot bl es s = es.zipIdx.foldl (askEntry tag es.length) (reserved tag slot bl es s) := rfl

theorem addGroups_updBucket (slot : Nat) (f : Bucket → Bucket) (es : List BkEnt) (s : State) :
    addGroups (updBucket slot f s) es = addGroups s es := by
  rw [addGroups, tileOf_updBucket, addGroups]

theorem wakened_frame (slot : Nat) (bl : List (Nat × Nat × Nat)) (es : List BkEnt) (s : State) : (wakened slot bl es s).hay = s.hay
    ∧ (wakened slot bl es s).crt = s.crt ∧ (wakened slot bl es s).thr = (updBucket slot (reserve bl) s).thr ∧ (wakened slot bl es s).tly = s.tly
    ∧ tileOf (wakened slot bl es s) = tileOf s ∧ ∀ g, groupOf (wakened slot bl es s) g
      = if (∃ x ∈ es, (tileOf s x.tile).spill = false ∧ (tileOf s x.tile).group = g) ∧ (groupOf s g).ready = false
        then (groupOf s g).wakeUp else groupOf s g := by
  have hgroup : ∀ g, groupOf (updBucket slot (reserve bl) s) g = groupOf s g := fun g => by rw [updBucket_frame]; rfl
  unfold wakened
  dsimp only
  refine ⟨?_, ?_, ?_, ?_, (tileOf_wakeGroups ..).trans (tileOf_updBucket ..), fun g => ?_⟩
  · rw [wakeGroups_frame, updBucket_frame]
  · rw [wakeGroups_frame, updBucket_frame]
  · rw [wakeGroups_frame]
  · rw [wakeGroups_frame]
    exact updBucket_tly ..
  · rw [groupOf_wakeGroups, hgroup, addGroups_updBucket]
    exact if_congr (and_congr_left' mem_addGroups) rfl rfl

theorem bkaddBegin_reserves (slot : Nat) (bl : List (Nat × Nat × Nat)) (es : List BkEnt) (hst : (tagOf s tag).st = .started) :
    let t := bkaddBegin tag slot bl es s
    bucketOf t slot = reserve bl (bucketOf s slot) ∧ (∀ j, j ≠ slot → bucketOf t j = bucketOf s j)
      ∧ (tagOf t tag).st = .started ∧ (tagOf t tag).job.stage = 1 ∧ (tagOf t tag).job.base = slot
      ∧ (stnOf t 14).rdQ = (stnOf s 14).rdQ ++ es.zipIdx.flatMap (entryDemands tag es.length (tileOf s))
      ∧ (∀ g, groupOf t g = if (∃ x ∈ es, (tileOf s x.tile).spill = false ∧ (tileOf s x.tile).group = g) ∧ (groupOf s g).ready = false
          then (groupOf s g).wakeUp else groupOf s g)
      ∧ (∀ u, u ≠ tag → tagOf t u = tagOf s u) ∧ t.hay = s.hay := by
  intro t
  obtain ⟨hhay, hcrt, hthr, htly, htile, hgroup⟩ := wakened_frame slot bl es s
  obtain ⟨hd, ⟨k, hself⟩, ho, hshf', hhay', hthr'⟩ := foldl_askEntry tag es.length es.zipIdx (reserved tag slot bl es s)
  have ht : t = _ := bkaddBegin_eq slot bl es s
  have htag : tagOf (wakened slot bl es s) tag = tagOf s tag := by rw [tagOf, htly, tagOf]
  have hres : tagOf (reserved tag slot bl es s) tag = _ := (tagOf_updJob_self ..).trans
    (congrArg (fun e : TagEntry => { e with job := { e.job with stage := 1, imgs := [], base := slot } }) (tagOf_updJob_self ..))
  have hslots : ∀ j, bucketOf t j = bucketOf (updBucket slot (reserve bl) s) j := bucketOf_congr (by rw [ht]; exact hthr'.trans hthr)
  rw [← ht] at hd hself ho hshf' hhay'
  refine ⟨?_, fun j hj => ?_, ?_, ?_, ?_, ?_, fun g => ?_, fun u hu => ?_, ?_⟩
  · rw [hslots, bucketOf_updBucket_self]
  · rw [hslots, bucketOf_updBucket_ne hj]
  · rw [hself, hres, htag]
    exact hst
  · rw [hself, hres]
  · rw [hself, hres]
  · have hcrt' : (reserved tag slot bl es s).crt = s.crt := hcrt
    have htile' : tileOf (reserved tag slot bl es s) = tileOf s := htile
    rw [hd, htile', stnOf, hcrt', stnOf]
  · rw [groupOf, hshf']
    exact hgroup g
  · rw [ho u hu, reserved, tagOf_updJob_ne hu, snapTiles, tagOf_updJob_ne hu, tagOf, htly, tagOf]
  · exact hhay'.trans hhay

/-! ### Placing a block -/

theorem askScale_asks (slot k n : Nat) (s : State) : let t := askScale tag slot k n s
    let sa := (bucketOf s slot).lo + (bucketOf s slot).nelem + k
    t.hay.waiting = s.hay.waiting ++ [hayRd 8 (sa - sa % 64) (beRange (sa % 64) 1) (.unitFor tag n (sa - sa % 64))]
      ∧ (tagOf t tag).job.reqRow = n + 1 ∧ (∀ j, bucketOf t j = bucketOf s j) ∧ t.shf = s.shf := by
  intro t sa
  have ht : t = _ := askHay_frame ..
  refine ⟨by rw [ht]; rfl, ?_, fun j => by rw [ht]; rfl, by rw [ht]; rfl⟩
  rw [show tagOf t tag = _ from tagOf_askHay .., tagOf_updJob_self]

/-- The part of a block's placing that counts its nonfinite and saturated elements, and notes a bad scale byte. -/
def countBlock (tag : Tag) (slot nf sat : Nat) (bad : Bool) (s : State) : State :=
  let s := if bad then addUncorrFree tag s else s
  let s := if nf = 0 then s else addBits tag bNonfin (cnt 0xB054 nf s)
  let s := if sat = 0 then s else addBits tag bSat (cnt 0xB058 sat s)
  updBucket slot (fun b => { b with cNonf := b.cNonf + nf, cSat := b.cSat + sat }) s

/-- The codes of a block under its scale byte. -/
def blockCodes (sc : Byte) (v : Nat) : List (Nat × Bool × Bool) := (unpackElems 32 32 v).map fun y => encode sc.toNat (BitVec.ofNat 32 y)

/-- The scale byte of block `k` of a slot, and whether its word is uncorrectable. -/
def blockScale (s : State) (tag : Tag) (slot k : Nat) : Byte × Bool :=
  byteIn (tagOf s tag).job (Side.of true false false) (tagOf s tag).job.row ((bucketOf s slot).lo + (bucketOf s slot).nelem + k)

/-- The write of a block of codes at byte `a`. -/
def blockWrite (tag : Tag) (a : Nat) (cs : List (Nat × Bool × Bool)) : HayAcc :=
  hayWr 8 (a - a % 64) (beRange (a % 64) 32) (BitVec.ofNat 512 (packElems 8 (cs.map (·.1)) * 2 ^ (8 * (a % 64)))) (.store tag)

theorem bkaddBlock_eq (slot k v : Nat) (s : State) : bkaddBlock tag slot k v s
    = let cs := blockCodes (blockScale s tag slot k).1 v
      askHay (blockWrite tag ((bucketOf s slot).lo + 32 * k) cs)
        (updJob tag (fun j => { j with row := j.row + 1, wrOut := j.wrOut + 1, units := [] })
          (countBlock tag slot (cs.filter fun c => c.2.1).length (cs.filter fun c => c.2.2).length (blockScale s tag slot k).2 s)) := rfl

theorem countBlock_keeps (slot nf sat : Nat) (bad : Bool) (s : State) : let t := countBlock tag slot nf sat bad s
    bucketOf t slot = { bucketOf s slot with cNonf := (bucketOf s slot).cNonf + nf, cSat := (bucketOf s slot).cSat + sat }
      ∧ (∀ j, j ≠ slot → bucketOf t j = bucketOf s j) ∧ (tagOf t tag).job = (tagOf s tag).job ∧ t.shf = s.shf ∧ t.hay = s.hay := by
  have hstep : ∀ u : State, u.thr = s.thr → (tagOf u tag).job = (tagOf s tag).job → u.shf = s.shf → u.hay = s.hay →
      let t := updBucket slot (fun b => { b with cNonf := b.cNonf + nf, cSat := b.cSat + sat }) u
      bucketOf t slot = { bucketOf s slot with cNonf := (bucketOf s slot).cNonf + nf, cSat := (bucketOf s slot).cSat + sat }
        ∧ (∀ j, j ≠ slot → bucketOf t j = bucketOf s j) ∧ (tagOf t tag).job = (tagOf s tag).job ∧ t.shf = s.shf ∧ t.hay = s.hay := by
    intro u hthr hjob hshf hhay t
    refine ⟨?_, fun j hj => ?_, ?_, ?_, ?_⟩
    · rw [bucketOf_updBucket_self, bucketOf_congr hthr]
    · rw [bucketOf_updBucket_ne hj, bucketOf_congr hthr]
    · rw [tagOf_updBucket, hjob]
    · exact (congrArg State.shf (updBucket_frame ..)).trans hshf
    · exact (congrArg State.hay (updBucket_frame ..)).trans hhay
  have huncorr : ∀ u : State, (tagOf (addUncorrFree tag u) tag).job = (tagOf u tag).job := fun u => by
    unfold addUncorrFree
    rw [tagOf_updTag_self]
    rfl
  have hbits : ∀ (b : BitVec 16) (k n : Nat) (u : State), (tagOf (addBits tag b (cnt k n u)) tag).job = (tagOf u tag).job := fun b k n u => by
    rw [addBits, tagOf_updTag_self]
    rfl
  refine hstep _ ?_ ?_ ?_ ?_
  · (repeat' split) <;> rfl
  · (repeat' split) <;> simp only [hbits, huncorr]
  · (repeat' split) <;> rfl
  · (repeat' split) <;> rfl

theorem bkaddBlock_writes (slot k v : Nat) (s : State) : let t := bkaddBlock tag slot k v s
    let cs := blockCodes (blockScale s tag slot k).1 v
    t.hay.waiting = s.hay.waiting ++ [blockWrite tag ((bucketOf s slot).lo + 32 * k) cs]
      ∧ bucketOf t slot = { bucketOf s slot with
          cNonf := (bucketOf s slot).cNonf + cs.countP (·.2.1), cSat := (bucketOf s slot).cSat + cs.countP (·.2.2) }
      ∧ (∀ j, j ≠ slot → bucketOf t j = bucketOf s j) ∧ (tagOf t tag).job.row = (tagOf s tag).job.row + 1
      ∧ (tagOf t tag).job.wrOut = (tagOf s tag).job.wrOut + 1 ∧ t.shf = s.shf ∧ t.hay.mem = s.hay.mem := by
  intro t cs
  have ht : t = _ := bkaddBlock_eq slot k v s
  rw [ht]
  dsimp only
  rw [List.countP_eq_length_filter, List.countP_eq_length_filter]
  obtain ⟨hslot, hslots, hjob, hshf, hhay⟩ := countBlock_keeps (tag := tag) slot (cs.filter fun c => c.2.1).length
    (cs.filter fun c => c.2.2).length (blockScale s tag slot k).2 s
  generalize countBlock tag slot (cs.filter fun c => c.2.1).length (cs.filter fun c => c.2.2).length (blockScale s tag slot k).2 s = u
    at hslot hslots hjob hshf hhay
  generalize blockWrite tag ((bucketOf s slot).lo + 32 * k) cs = a
  have hframe := askHay_frame a (updJob tag (fun j => { j with row := j.row + 1, wrOut := j.wrOut + 1, units := [] }) u)
  have hjob' : (tagOf (askHay a (updJob tag (fun j => { j with row := j.row + 1, wrOut := j.wrOut + 1, units := [] }) u)) tag).job
      = { (tagOf u tag).job with row := (tagOf u tag).job.row + 1, wrOut := (tagOf u tag).job.wrOut + 1, units := [] } := by
    rw [tagOf_askHay, tagOf_updJob_self]
  generalize askHay a (updJob tag (fun j => { j with row := j.row + 1, wrOut := j.wrOut + 1, units := [] }) u) = w at hframe hjob'
  have hthr : w.thr = u.thr := by rw [hframe]; rfl
  refine ⟨?_, (bucketOf_congr hthr slot).trans hslot, fun j hj => (bucketOf_congr hthr j).trans (hslots j hj), ?_, ?_, ?_, ?_⟩
  · rw [hframe]
    exact congrArg (·.waiting ++ _) hhay
  · rw [hjob', hjob]
  · rw [hjob', hjob]
  · rw [hframe]
    exact hshf
  · rw [hframe]
    exact congrArg (·.mem) hhay

/-- The bucket of a BKADD whose last block is written. -/
def written (slot n : Nat) (s : State) : State :=
  updBucket slot (fun b => { b with written := b.written + n, st := if b.st = .opened ∧ b.written + n = b.blocks then .draining else b.st }) s

theorem bkaddDone_eq (slot n : Nat) (s : State) :
    bkaddDone tag slot n s = finish tag (formStatus (tagOf (written slot n s) tag) (32 * n)) (written slot n s) := rfl

end

/-- Settles O30, by the stage and the block of the command. -/
theorem bkaddPlacesBlocks : Obligations.BkaddPlacesBlocks := by
  intro s tag e b nw es h hc
  have hexec := exec_bkadd h hc
  obtain ⟨htag, hst⟩ := started_tagOf h
  refine ⟨fun he => ⟨_, by rw [hexec, if_pos he], finish_completed ..⟩, fun o he hstage hu hck => ?_, fun he hstage hu hck => ?_,
    fun he hstage hu tl o blk hblk => ?_, fun he hstage => ?_⟩
  · rw [if_neg he, if_pos hstage, if_neg hu, hck] at hexec
    exact ⟨_, hexec, finish_completed ..⟩
  · intro bl k
    rw [if_neg he, if_pos hstage, if_neg hu, hck] at hexec
    obtain ⟨hslot, hslots, hst', hstage', hbase, hrd, hgroup, htags, hhay⟩ := bkaddBegin_reserves k bl es (htag ▸ hst)
    refine ⟨_, hexec, ?_⟩
    dsimp only
    rw [hslot]
    exact ⟨rfl, testBit_foldl_place bl _, rfl, hslots, hst', hstage', hbase, hrd, hgroup, htags, hhay⟩
  · intro k x sa a
    have hrow : e.job.row < (bkaddBlocks s (jobTile s tag) e b es).length := (List.getElem?_eq_some_iff.1 hblk).1
    rw [if_neg he, if_neg hstage, if_neg (by omega), if_neg hu, bkaddStep, hblk] at hexec
    refine ⟨fun hreq => ?_, fun v hreq hrx hready => ?_⟩
    · exact ⟨_, hexec.trans (congrArg _ (if_pos hreq)), askScale_asks k blk e.job.row s⟩
    · intro sc cs
      have hstep : exec (.bkadd tag) s = .next (bkaddBlock tag k blk v s) := by
        rw [hexec]
        dsimp only
        rw [if_neg (by omega), hrx]
        exact congrArg _ (if_pos hready)
      have hw := bkaddBlock_writes (tag := tag) k blk v s
      simp only [blockScale, htag] at hw
      exact ⟨_, hstep, hw⟩
  · intro bl k hrow hw
    rw [if_neg he, if_neg hstage, if_pos hrow, if_pos hw, bkaddDone_eq, written, tagOf_updBucket, htag] at hexec
    refine ⟨written k bl.length s, _, hexec, finish_completed .., bucketOf_updBucket_self .., fun j hj => bucketOf_updBucket_ne hj .., ?_, ?_,
      updBucket_tly ..⟩ <;> rw [written, updBucket_frame]

end Sys2Proof.Proofs
end

section
/-! SUPPORT. Proofs about stations (R35-R37, R96, R117, R134, R135, R320): operations and their ends, and the beats and pulses that stations send. -/

namespace Sys2Proof.Proofs

open Sys2Proof.Machine Sys2Proof.Laws

/-- A fold whose step `k` alone acts on an entry, and acts only once. -/
theorem foldl_idem {α : Type} (g : State → α) (F : α → α) (f : State → Nat → State) (k : Nat) (hF : ∀ x, F (F x) = F x)
    (hf : ∀ s i, g (f s i) = if i = k then F (g s) else g s) (l : List Nat) (s : State) : g (l.foldl f s) = if k ∈ l then F (g s) else g s := by
  induction l generalizing s with
  | nil => simp
  | cons a r ih =>
    rw [List.foldl_cons, ih, hf]
    by_cases hk : a = k
    · subst hk; simp [hF]
    · simp [hk, Ne.symm hk]

section
variable {s : State} {tag : Tag} {e : TagEntry}

/-! ### The operation -/

theorem exec_station {op : Opcode} {x : StnOp} (hop : op = .tvop ∨ op = .tsfu) (h : started s tag op = some e)
    (hc : e.cmd = some (.station op x)) : exec (if op = .tvop then .tvop tag else .tsfu tag) s = .next (stationStep tag x s) := by
  rcases hop with rfl | rfl
  · change execTvop tag s = _
    simp only [execTvop, h, hc]
  · change execTsfu tag s = _
    simp only [execTsfu, h, hc]

/-- The step of a TVOP or TSFU whose station and stage are known. -/
theorem stationStep_start {n : Nat} {x : StnOp} (htag : tagOf s tag = e) (hn : e.job.stn = some n) (hst : e.job.stage = 0) : stationStep tag x s
    = match stationChecks s x with
      | some o => finish tag o s
      | none => if !(opGroups s x).all fun g => (groupOf s g).ready then wakeGroups (opGroups s x) s
        else if (stnOf s n).oHeld = 0 then s else sendOp tag n x s := by
  simp only [stationStep, htag, hn, hst] <;> rfl

theorem stationStep_end {n : Nat} {x : StnOp} (htag : tagOf s tag = e) (hn : e.job.stn = some n) (hst : e.job.stage ≠ 0)
    (hd : stationDone e x = true) : stationStep tag x s = endStation tag x s := by
  simp only [stationStep, htag, hn, if_neg hst, if_pos hd]

/-- The demands of the `p.2`-th of a command's source tiles. -/
def askSource (tag : Tag) (n : Nat) (x : StnOp) (s : State) (p : Nat × Nat) : State :=
  let r := opRange s tag x p.1
  askRead n tag p.1 r.1 r.2 (p.2 + 1 == x.srcs.length) s

/-- What asking for read beats leaves. -/
structure AskedBeats (s t : State) (tag : Tag) (n : Nat) : Prop where
  oHeld : (stnOf t n).oHeld = (stnOf s n).oHeld
  oFly : (stnOf t n).oFly = (stnOf s n).oFly
  stns : ∀ k, k ≠ n → stnOf t k = stnOf s k
  self : ∃ m, tagOf t tag = { tagOf s tag with job := { (tagOf s tag).job with rdOut := m } }
  others : ∀ u, u ≠ tag → tagOf t u = tagOf s u
  pin : t.pin = s.pin
  shf : t.shf = s.shf
  hay : t.hay = s.hay
  arr : t.arr = s.arr

theorem askedBeats_askRead (n : Nat) (tag : Tag) (t lo hi : Nat) (last : Bool) (s : State) :
    AskedBeats s (askRead n tag t lo hi last s) tag n where
  oHeld := (congrArg Station.oHeld (stnOf_setStn_self n { stnOf s n with rdQ := _ } s) :)
  oFly := (congrArg Station.oFly (stnOf_setStn_self n { stnOf s n with rdQ := _ } s) :)
  stns _ hk := stnOf_setStn_ne hk _ s
  self := ⟨_, tagOf_updJob_self ..⟩
  others _ hu := tagOf_updJob_ne hu ..
  pin := rfl
  shf := rfl
  hay := rfl
  arr := rfl

theorem AskedBeats.trans {s t u : State} {tag : Tag} {n : Nat} (h : AskedBeats s t tag n) (g : AskedBeats t u tag n) : AskedBeats s u tag n where
  oHeld := g.oHeld.trans h.oHeld
  oFly := g.oFly.trans h.oFly
  stns k hk := (g.stns k hk).trans (h.stns k hk)
  self := by
    obtain ⟨a, ha⟩ := h.self
    obtain ⟨b, hb⟩ := g.self
    exact ⟨b, by rw [hb, ha]⟩
  others u hu := (g.others u hu).trans (h.others u hu)
  pin := g.pin.trans h.pin
  shf := g.shf.trans h.shf
  hay := g.hay.trans h.hay
  arr := g.arr.trans h.arr

theorem foldl_askSource (n : Nat) (x : StnOp) (l : List (Nat × Nat)) (s : State) : AskedBeats s (l.foldl (askSource tag n x) s) tag n := by
  induction l generalizing s with
  | nil => exact ⟨rfl, rfl, fun _ _ => rfl, ⟨_, rfl⟩, fun _ _ => rfl, rfl, rfl, rfl, rfl⟩
  | cons p r ih => exact (askedBeats_askRead ..).trans (ih _)

/-- A command that notes the tile registers it goes by and the write beats it calls for. -/
def noted (tag : Tag) (x : StnOp) (s : State) : State :=
  let s := snapTiles tag (dedup (x.srcs ++ x.dsts)) s
  let ws := opWrites s tag x
  updJob tag (fun j => { j with wLeft := x.dsts.foldl (fun m t => tset 0 m t (ws.filter fun w => w.1 == t).length) [] }) s

/-- An operation sent, for an operation credit. -/
def opSent (tag : Tag) (n : Nat) (x : StnOp) (s : State) : State :=
  updJob tag (fun j => { j with stage := 1, opSent := true })
    (updStn n (fun y => { y with oHeld := y.oHeld - 1, oFly := y.oFly + 1 }) (drive n (fun p => { p with ov := true, op := x.body, otag := tag }) s))

theorem sendOp_eq (n : Nat) (x : StnOp) (s : State) :
    sendOp tag n x s = x.srcs.zipIdx.foldl (askSource tag n x) (opSent tag n x (noted tag x s)) := rfl

theorem noted_keeps (x : StnOp) (s : State) : ∃ f : Job → Job, tagOf (noted tag x s) tag = { tagOf s tag with job := f (tagOf s tag).job }
    ∧ (∀ u, u ≠ tag → tagOf (noted tag x s) u = tagOf s u) ∧ (noted tag x s).crt = s.crt ∧ (noted tag x s).pin = s.pin
    ∧ (noted tag x s).shf = s.shf ∧ (noted tag x s).hay = s.hay ∧ (noted tag x s).arr = s.arr := by
  unfold noted
  dsimp only
  generalize x.dsts.foldl _ _ = left
  refine ⟨fun j => { j with snap := (dedup (x.srcs ++ x.dsts)).foldl (fun m t => tput t (tileOf s t) m) j.snap, wLeft := left }, ?_,
    fun u hu => ?_, rfl, rfl, rfl, rfl, rfl⟩
  · rw [tagOf_updJob_self, snapTiles, tagOf_updJob_self]
  · rw [tagOf_updJob_ne hu, snapTiles, tagOf_updJob_ne hu]

theorem sendOp_sends (n : Nat) (x : StnOp) (hst : (tagOf s tag).st = .started) (hcr : 0 < (stnOf s n).oHeld) : let t := sendOp tag n x s
    (tget StnPins.zero t.pin.stn n).ov = true ∧ (tget StnPins.zero t.pin.stn n).op = x.body ∧ (tget StnPins.zero t.pin.stn n).otag = tag
      ∧ (stnOf t n).oHeld + 1 = (stnOf s n).oHeld ∧ (stnOf t n).oFly = (stnOf s n).oFly + 1
      ∧ (tagOf t tag).job.opSent = true ∧ (tagOf t tag).job.stage = 1 ∧ (tagOf t tag).st = .started
      ∧ (∀ u, u ≠ tag → tagOf t u = tagOf s u) ∧ (∀ k, k ≠ n → stnOf t k = stnOf s k)
      ∧ t.shf = s.shf ∧ t.hay = s.hay ∧ t.arr = s.arr := by
  intro t
  have ht : t = _ := sendOp_eq n x s
  have hbeats := foldl_askSource (tag := tag) n x x.srcs.zipIdx (opSent tag n x (noted tag x s))
  rw [← ht] at hbeats
  obtain ⟨hheld, hfly, hstns, ⟨m, hself⟩, hothers, hpin, hshf, hhay, harr⟩ := hbeats
  obtain ⟨f, htag, htags, hcrt', hpin', hshf', hhay', harr'⟩ := noted_keeps (tag := tag) x s
  generalize noted tag x s = u at hheld hfly hstns hself hothers hpin hshf hhay harr htag htags hcrt' hpin' hshf' hhay' harr'
  have hpins : tget StnPins.zero t.pin.stn n = { tget StnPins.zero u.pin.stn n with ov := true, op := x.body, otag := tag } := by
    rw [hpin]
    exact tget_tset_self StnPins.zero _ n u.pin.stn
  have hstn : stnOf (opSent tag n x u) n = { stnOf u n with oHeld := (stnOf u n).oHeld - 1, oFly := (stnOf u n).oFly + 1 } :=
    stnOf_setStn_self n _ (drive n (fun p => { p with ov := true, op := x.body, otag := tag }) u)
  have hstnu : ∀ k, stnOf u k = stnOf s k := fun k => by rw [stnOf, hcrt', stnOf]
  have hsent : tagOf (opSent tag n x u) tag = { tagOf u tag with job := { (tagOf u tag).job with stage := 1, opSent := true } } :=
    tagOf_updJob_self ..
  rw [hpins, hheld, hfly, hself, hstn, hstnu, hsent, htag]
  refine ⟨rfl, rfl, rfl, Nat.succ_pred_eq_of_pos hcr, rfl, rfl, rfl, hst, fun v hv => ?_, fun k hk => ?_, hshf.trans hshf', hhay.trans hhay',
    harr.trans harr'⟩
  · exact (hothers v hv).trans ((tagOf_updJob_ne hv ..).trans (htags v hv))
  · exact (hstns k hk).trans ((stnOf_setStn_ne hk ..).trans (hstnu k))

/-! ### The end of an operation -/

/-- What the end of an operation leaves of a destination (R96). -/
def endTile (full : Bool) (y : Tile) : Tile :=
  if y.st = .unconfigured then y else match y.st with
    | .partialTo _ => if full then { y with st := .valid } else y
    | _ => { y with st := .valid }

/-- One destination at the end of an operation. -/
def endDest (full : Bool) (s : State) (t : Nat) : State := match (tileOf s t).st with
  | .partialTo _ => if full then markValid t s else s
  | _ => markValid t s

theorem stationTiles_eq (e : TagEntry) (x : StnOp) (full : Bool) (s : State) :
    stationTiles e x full s = (x.dsts.filter e.writes).foldl (endDest full) s := rfl

theorem tileOf_markValid (t k : Nat) (s : State) : tileOf (markValid t s) k
    = if t = k then (if (tileOf s k).st = .unconfigured then tileOf s k else { tileOf s k with st := .valid }) else tileOf s k := by
  unfold markValid
  by_cases h : t = k
  · subst h
    rw [if_pos rfl]
    dsimp only
    split
    · rfl
    · rw [tileOf_setTile_self]
  · rw [if_neg h]
    dsimp only
    split
    · rfl
    · rw [tileOf_setTile_ne (Ne.symm h)]

theorem markValid_frame (t : Nat) (s : State) : markValid t s = { s with shf := { s.shf with tiles := (markValid t s).shf.tiles } } := by
  unfold markValid
  dsimp only
  split <;> rfl

theorem endDest_frame (full : Bool) (s : State) (t : Nat) : endDest full s t = { s with shf := { s.shf with tiles := (endDest full s t).shf.tiles } } := by
  unfold endDest
  split
  · split
    · exact markValid_frame t s
    · rfl
  · exact markValid_frame t s

theorem tileOf_endDest (full : Bool) (s : State) (t k : Nat) : tileOf (endDest full s t) k = if t = k then endTile full (tileOf s k) else tileOf s k := by
  by_cases h : t = k
  · subst h
    rw [if_pos rfl]
    unfold endDest endTile
    split
    · next m hm =>
      cases full
      · simp [hm]
      · simp [hm, tileOf_markValid]
    · next hm =>
      rw [tileOf_markValid, if_pos rfl]
  · rw [if_neg h]
    unfold endDest
    split
    · split
      · rw [tileOf_markValid, if_neg h]
      · rfl
    · rw [tileOf_markValid, if_neg h]

theorem endTile_endTile (full : Bool) (y : Tile) : endTile full (endTile full y) = endTile full y := by
  unfold endTile
  cases h : y.st <;> cases full <;> simp [h]

theorem stationTiles_frame (e : TagEntry) (x : StnOp) (full : Bool) (s : State) : let u := stationTiles e x full s
    u = { s with shf := { s.shf with tiles := u.shf.tiles } } := by
  have hfold : ∀ (l : List Nat) (s : State), let u := l.foldl (endDest full) s
      u = { s with shf := { s.shf with tiles := u.shf.tiles } } := by
    intro l
    induction l with
    | nil => exact fun _ => rfl
    | cons a r ih =>
      intro s u
      rw [show u = _ from ih _, endDest_frame]
  exact hfold _ s

theorem tileOf_stationTiles (e : TagEntry) (x : StnOp) (full : Bool) (s : State) (k : Nat) : tileOf (stationTiles e x full s) k
    = if k ∈ x.dsts ∧ e.writes k = true then endTile full (tileOf s k) else tileOf s k := by
  rw [stationTiles_eq, foldl_idem (tileOf · k) (endTile full) (endDest full) k (endTile_endTile full) (fun s i => tileOf_endDest full s i k)]
  exact if_congr List.mem_filter rfl rfl

end

/-- Settles O28, by the stage of the command. -/
theorem stationCommandsRun : Obligations.StationCommandsRun := by
  intro s tag e op x n hop h hc hn c
  have hexec : exec c s = .next (stationStep tag x s) := exec_station hop h hc
  obtain ⟨htag, hst⟩ := started_tagOf h
  refine ⟨fun o hstage hck => ?_, fun hstage hck hg => ?_, fun hstage hck hg hcr => ?_, fun hstage hd => ?_⟩
  · rw [stationStep_start htag hn hstage, hck] at hexec
    exact ⟨_, hexec, finish_completed ..⟩
  · have hall : (opGroups s x).all (fun g => (groupOf s g).ready) = false := by
      rw [List.all_eq_false]
      simpa using hg
    rw [stationStep_start htag hn hstage, hck, hall] at hexec
    exact ⟨_, hexec, groupOf_wakeGroups _ s, wakeGroups_frame ..⟩
  · have hall : (opGroups s x).all (fun g => (groupOf s g).ready) = true := List.all_eq_true.2 hg
    have hstep : stationStep tag x s = sendOp tag n x s := by
      rw [stationStep_start htag hn hstage, hck, hall]
      exact if_neg (Nat.ne_of_gt hcr)
    rw [hstep] at hexec
    exact ⟨_, hexec, sendOp_sends n x (htag ▸ hst) hcr⟩
  · intro full
    set fb := decide ((formStatus e x.count).status ≠ .aborted) && decide (e.job.wIdx = (opWrites s tag x).length) with hfb
    have hfull : fb = true ↔ full := by simp [hfb, full]
    have hend : stationStep tag x s = finish tag (formStatus e x.count) (stationTiles e x fb s) := by
      rw [stationStep_end htag hn hstage hd, endStation, htag]
    have htile := tileOf_stationTiles e x fb s
    rw [hend] at hexec
    refine ⟨_, _, hexec, finish_completed .., fun k hk => ?_, fun k hmem hw hu hp => ?_, fun k m hm hf => ?_, stationTiles_frame ..⟩
    · rw [htile]
      rcases hk with hk | hk | hk
      · exact if_neg fun h => hk h.1
      · exact if_neg fun h => absurd h.2 (by simp [hk])
      · split
        · exact if_pos hk
        · rfl
    · rw [htile, if_pos ⟨hmem, hw⟩, endTile, if_neg hu]
      split
      · next m hm =>
        rcases hp with hp | hp
        · exact if_pos (hfull.2 hp)
        · exact absurd hm (hp m)
      · rfl
    · have hfalse : fb = false := by simpa using mt hfull.1 hf
      rw [htile, endTile, hfalse, hm]
      simp

section
variable {s : State} {tag : Tag} {n : ExtStn}

/-! ### Beats and pulses -/

theorem toNat_wordAt {m : Nat} (x : BitVec m) (w : Nat) : (wordAt x w).toNat = x.toNat / 2 ^ (64 * w) % 2 ^ 64 := by
  rw [wordAt, BitVec.extractLsb'_toNat, Nat.shiftRight_eq_div_pow]

theorem toNat_byteAt {m : Nat} (x : BitVec m) (w : Nat) : (byteAt x w).toNat = x.toNat / 2 ^ (8 * w) % 2 ^ 8 := by
  rw [byteAt, BitVec.extractLsb'_toNat, Nat.shiftRight_eq_div_pow]

theorem testWrite_good {t j : Nat} {d : Beat} {c : BeatChk} {acc : Nat × Nat × State} {w : Nat}
    (h : (eccTest (wordAt d w) (byteAt c w)).2 = .good) : testWrite tag t j d c acc w
      = (acc.1 + (wordAt d w).toNat * 2 ^ (64 * w), acc.2.1 + (byteAt c w).toNat * 2 ^ (8 * w), acc.2.2) := by
  unfold testWrite
  dsimp only
  generalize eccTest (wordAt d w) (byteAt c w) = r at h
  obtain ⟨y, res⟩ := r
  cases h
  rfl

/-- The digits below `w` of a number, and its digit `w`. -/
theorem mod_pow_succ_digit (a k w : Nat) : a % 2 ^ (k * w) + a / 2 ^ (k * w) % 2 ^ k * 2 ^ (k * w) = a % 2 ^ (k * (w + 1)) := by
  rw [Nat.mul_succ, Nat.pow_add, Nat.mod_mul, Nat.mul_comm (2 ^ (k * w))]

/-- Good words enter the crossbar as they are. -/
theorem foldl_testWrite_good {t j : Nat} {d : Beat} {c : BeatChk} {m : Nat}
    (h : ∀ w, w < m → (eccTest (wordAt d w) (byteAt c w)).2 = .good) :
    (List.range m).foldl (testWrite tag t j d c) (0, 0, s) = (d.toNat % 2 ^ (64 * m), c.toNat % 2 ^ (8 * m), s) := by
  induction m with
  | zero => simp [Nat.mod_one]
  | succ m ih =>
    rw [List.range_succ, List.foldl_concat, ih fun w hw => h w (Nat.lt_succ_of_lt hw), testWrite_good (h m (Nat.lt_succ_self m)),
      toNat_wordAt, toNat_byteAt, mod_pow_succ_digit, mod_pow_succ_digit]

theorem takeWrite_good {p : Nat × Nat × BitVec 32} {wd : Beat} {wchk : BeatChk} (k : Nat)
    (h : ∀ w, w < 32 → (eccTest (wordAt wd w) (byteAt wchk w)).2 = .good) : takeWrite k tag p wd wchk s
      = askWrite k ⟨tag, p.1, p.2.1, p.2.2, wd, wchk⟩ (updJob tag (fun j => { j with wIdx := j.wIdx + 1 }) s) := by
  have hd : BitVec.ofNat 2048 (wd.toNat % 2 ^ (64 * 32)) = wd := BitVec.eq_of_toNat_eq (by simp [Nat.mod_eq_of_lt wd.isLt])
  have hc : BitVec.ofNat 256 (wchk.toNat % 2 ^ (8 * 32)) = wchk := BitVec.eq_of_toNat_eq (by simp [Nat.mod_eq_of_lt wchk.isLt])
  rw [takeWrite, foldl_testWrite_good h]
  dsimp only
  rw [hd, hc]

theorem cutBeat_updJob (t : Tag) (f : Job → Job) (w : WrItem) (s : State) : cutBeat (updJob t f s) w = cutBeat s w := rfl

theorem cutBeat_data {w : WrItem} (h : scaleUse s w.tile = none) : cutBeat s w = w := by
  rw [cutBeat, h]
  rfl

theorem exec_stationWriteBeat (ha : awake s = true) (hr : running s islA = true) (hcr : 0 < (stnOf s (extNum n)).wHeld) (wd : Beat)
    (wchk : BeatChk) (wlast : Bool) : exec (.stationWriteBeat n wd wchk tag wlast) s = match atStation s (extNum n) tag with
      | none => .next (returnWrite (extNum n) (unusable islA (extNum n) tag.toNat 0x22 s))
      | some x =>
        let e := tagOf s tag
        let ws := opWrites s tag x
        let late := e.job.wLast || decide (ws.length ≤ e.job.wIdx)
        let u := if late then returnWrite (extNum n) s else match ws[e.job.wIdx]? with
          | some p => takeWrite (extNum n) tag p wd wchk s
          | none => s
        .next (updJob tag (fun j => { j with wLast := j.wLast || wlast
                                             wBad := j.wBad || (late || (wlast && !decide (e.job.wIdx + 1 = ws.length))) }) u) := by
  change execStationWriteBeat n wd wchk tag wlast s = _
  simp only [execStationWriteBeat, ha, hr, Nat.ne_of_gt hcr] <;> rfl

/-- A beat in its place: what the crossbar makes of it, and its command. -/
def beatTaken (k : Nat) (tag : Tag) (b : WrItem) (wlast bad : Bool) (s : State) : State :=
  updJob tag (fun j => { j with wLast := j.wLast || wlast, wBad := j.wBad || bad })
    (askWrite k b (updJob tag (fun j => { j with wIdx := j.wIdx + 1 }) s))

theorem exec_stationWriteBeat_taken (ha : awake s = true) (hr : running s islA = true) (hcr : 0 < (stnOf s (extNum n)).wHeld) {x : StnOp}
    {p : Nat × Nat × BitVec 32} {wd : Beat} {wchk : BeatChk} {wlast : Bool} (hat : atStation s (extNum n) tag = some x)
    (hlast : (tagOf s tag).job.wLast = false) (hp : (opWrites s tag x)[(tagOf s tag).job.wIdx]? = some p)
    (hgood : ∀ w, w < 32 → (eccTest (wordAt wd w) (byteAt wchk w)).2 = .good) : exec (.stationWriteBeat n wd wchk tag wlast) s
      = .next (beatTaken (extNum n) tag ⟨tag, p.1, p.2.1, p.2.2, wd, wchk⟩ wlast
          (wlast && decide ((tagOf s tag).job.wIdx + 1 ≠ (opWrites s tag x).length)) s) := by
  have hlt : ¬ (opWrites s tag x).length ≤ (tagOf s tag).job.wIdx := Nat.not_le.2 (List.getElem?_eq_some_iff.1 hp).1
  rw [exec_stationWriteBeat ha hr hcr, hat]
  simp only [hlast, hp, decide_eq_false hlt, Bool.or_false, Bool.false_or, ← decide_not]
  rw [if_neg Bool.false_ne_true, takeWrite_good _ hgood]
  rfl

theorem beatTaken_keeps (k : Nat) (b : WrItem) (hb : b.tag = tag) (wlast bad : Bool) (hlast : (tagOf s tag).job.wLast = false) :
    let t := beatTaken k tag b wlast bad s
    stnOf t k = { stnOf s k with wrQ := (stnOf s k).wrQ ++ [cutBeat s b], wHeld := (stnOf s k).wHeld - 1 }
      ∧ (tagOf t tag).job = { (tagOf s tag).job with
          wIdx := (tagOf s tag).job.wIdx + 1
          wrOut := (tagOf s tag).job.wrOut + 1
          wLast := wlast
          wBad := (tagOf s tag).job.wBad || bad }
      ∧ (tagOf t tag).ecc = (tagOf s tag).ecc ∧ (tagOf t tag).bits = (tagOf s tag).bits ∧ t.shf = s.shf ∧ t.tnk = s.tnk
      ∧ ∀ y, y ≠ tag → tagOf t y = tagOf s y := by
  intro t
  subst hb
  have htag : tagOf t b.tag = { tagOf s b.tag with job := { (tagOf s b.tag).job with
      wIdx := (tagOf s b.tag).job.wIdx + 1
      wrOut := (tagOf s b.tag).job.wrOut + 1
      wLast := (tagOf s b.tag).job.wLast || wlast
      wBad := (tagOf s b.tag).job.wBad || bad } } := by
    rw [show t = beatTaken k b.tag b wlast bad s from rfl, beatTaken, tagOf_updJob_self, askWrite, tagOf_updJob_self]
    have hin : ∀ (f : Station → Station) (u : State), tagOf (updStn k f u) b.tag = tagOf u b.tag := fun _ _ => rfl
    rw [hin, tagOf_updJob_self]
  refine ⟨stnOf_setStn_self k _ _, ?_, ?_, ?_, rfl, rfl, fun y hy => ?_⟩
  · rw [htag, hlast]
    rfl
  · rw [htag]
  · rw [htag]
  · have hin : ∀ (f : Station → Station) (u : State), tagOf (updStn k f u) y = tagOf u y := fun _ _ => rfl
    rw [show t = beatTaken k b.tag b wlast bad s from rfl, beatTaken, tagOf_updJob_ne hy, askWrite, tagOf_updJob_ne hy, hin, tagOf_updJob_ne hy]

theorem returnWrite_wcrd (k : Nat) (s : State) : (tget StnPins.zero (returnWrite k s).pin.stn k).wcrd = true :=
  congrArg StnPins.wcrd (tget_tset_self StnPins.zero { tget StnPins.zero s.pin.stn k with wcrd := true } k s.pin.stn)

theorem exec_stationDone (ha : awake s = true) (hr : running s islA = true) (hat : (atStation s (extNum n) tag).isSome = true)
    (hdn : (tagOf s tag).job.dn = none) {d : Byte} (hd : bit d 7 = true ∨ fld d 6 3 = 0) :
    exec (.stationDone n tag d) s = .next (addBits tag (dstsBits d) (updJob tag (fun j => { j with dn := some d }) s)) := by
  obtain ⟨x, hx⟩ := Option.isSome_iff_exists.1 hat
  have hok : (!bit d 7 && fld d 6 3 != 0) = false := by
    rcases hd with h | h <;> simp [h]
  change execStationDone n tag d s = _
  simp only [execStationDone, ha, hr, hx, hdn, hok] <;> rfl

theorem exec_stationDone_stray (ha : awake s = true) (hr : running s islA = true) (hat : atStation s (extNum n) tag = none) (d : Byte) :
    exec (.stationDone n tag d) s = .next (unusable islA (extNum n) tag.toNat 0x23 s) := by
  change execStationDone n tag d s = _
  simp only [execStationDone, ha, hr, hat] <;> rfl

theorem exec_stationErr (ha : awake s = true) (hr : running s islA = true) (hat : (atStation s (extNum n) tag).isSome = true)
    (hecc : (tagOf s tag).ecc = none) {d : BitVec 16} (hd : (tagOf s tag).job.bad = some d) :
    exec (.stationErr n tag) s = .next (updTag tag (fun e => { e with ecc := some d }) s) := by
  obtain ⟨x, hx⟩ := Option.isSome_iff_exists.1 hat
  change execStationErr n tag s = _
  simp only [execStationErr, ha, hr, hx, hecc, hd] <;> rfl

theorem exec_stationErr_stray (ha : awake s = true) (hr : running s islA = true) (hat : atStation s (extNum n) tag = none) :
    exec (.stationErr n tag) s = .next (unusable islA (extNum n) tag.toNat 0x24 s) := by
  change execStationErr n tag s = _
  simp only [execStationErr, ha, hr, hat] <;> rfl

end

/-- Settles O43, signal by signal. -/
theorem stationSignalsTaken : Obligations.StationSignalsTaken := by
  intro s n tag ha hr
  refine ⟨fun x p wd wchk wlast hcr hat hlast hp hgood => ?_, fun wd wchk wlast hcr hat => ?_, fun d hat hdn hd => ?_, fun d hat => ?_,
    fun d hat hecc hbad => ?_, fun hat => ?_⟩
  · exact ⟨_, _, exec_stationWriteBeat_taken ha hr hcr hat hlast hp hgood, rfl, fun h => cutBeat_data h, beatTaken_keeps _ _ rfl _ _ hlast⟩
  · have hexec := exec_stationWriteBeat (n := n) (tag := tag) ha hr hcr wd wchk wlast
    rw [hat] at hexec
    exact ⟨_, _, hexec, logErr_logged .., returnWrite_wcrd .., rfl⟩
  · refine ⟨_, exec_stationDone ha hr hat hdn hd, ?_, fun y hy => ?_, rfl⟩
    · rw [addBits, tagOf_updTag_self, tagOf_updJob_self]
    · rw [addBits, tagOf_updTag_ne hy, tagOf_updJob_ne hy]
  · exact ⟨_, exec_stationDone_stray ha hr hat d, logErr_logged ..⟩
  · exact ⟨_, exec_stationErr ha hr hat hecc hbad, tagOf_updTag_self .., fun y hy => tagOf_updTag_ne hy .., rfl⟩
  · exact ⟨_, exec_stationErr_stray ha hr hat, logErr_logged ..⟩

end Sys2Proof.Proofs
end

section
/-! SUPPORT. Proofs about the boundary (R27, R29, R34, R43, R45, R47, R325): what arrives with nothing ahead of it, what is delivered, and credits. -/

namespace Sys2Proof.Proofs

open Sys2Proof.Machine Sys2Proof.Laws

section
variable {s : State}

/-! ### Deliveries -/

/-- Once nothing is on `sts_`, the first transfer that waits is presented. -/
theorem pumpSts_next (hcur : s.tly.stsCur = none) (hr : running s islC = true) : let u := pumpSts s
    u.tly.stsCur = s.tly.stsQ.head? ∧ u.tly.stsQ = s.tly.stsQ.tail ∧ u.pin.stsReq = (if s.tly.stsQ = [] then s.pin.stsReq else !s.pin.stsReq)
    ∧ u = { s with tly := { s.tly with stsCur := u.tly.stsCur, stsQ := u.tly.stsQ },
                   pin := { s.pin with stsReq := u.pin.stsReq, stsKind := u.pin.stsKind, stsData := u.pin.stsData } } := by
  cases hq : s.tly.stsQ with
  | nil =>
    have hp : pumpSts s = s := by
      unfold pumpSts
      rw [hcur, hq]
    rw [hp]
    exact ⟨hcur, hq, rfl, rfl⟩
  | cons x r =>
    unfold pumpSts
    rw [hcur, hq]
    simp only [hr]
    exact ⟨rfl, rfl, rfl, rfl⟩

/-- Once no notify is out, the first that waits is presented. -/
theorem pumpNtf_next (hcur : s.tly.ntfCur = none) (hr : running s islC = true) : let u := pumpNtf s
    u.tly.ntfCur = s.tly.ntfQ.head? ∧ u.tly.ntfQ = s.tly.ntfQ.tail ∧ u.pin.ntfReq = (if s.tly.ntfQ = [] then s.pin.ntfReq else !s.pin.ntfReq)
    ∧ (∀ t, s.tly.ntfQ.head? = some t → u.pin.ntfTag = t)
    ∧ u = { s with tly := { s.tly with ntfCur := u.tly.ntfCur, ntfQ := u.tly.ntfQ },
                   pin := { s.pin with ntfReq := u.pin.ntfReq, ntfTag := u.pin.ntfTag } } := by
  cases hq : s.tly.ntfQ with
  | nil =>
    have hp : pumpNtf s = s := by
      unfold pumpNtf
      rw [hcur, hq]
    rw [hp]
    exact ⟨hcur, hq, rfl, nofun, rfl⟩
  | cons x r =>
    unfold pumpNtf
    rw [hcur, hq]
    simp only [hr]
    exact ⟨rfl, rfl, rfl, fun t ht => Option.some.inj ht, rfl⟩

theorem pumpNtf_busy {t : Tag} (hcur : s.tly.ntfCur = some t) : pumpNtf s = s := by
  unfold pumpNtf
  rw [hcur]

/-- A reply counted as delivered. -/
def counted (t : Tag) (s : State) : State :=
  traceEv 3 islC 0 t.toNat 0 (cnt 0x9044 1 { s with tly := { s.tly with stsCur := none, delivered := s.tly.delivered + 1 } })

/-- A command whose reply is delivered waits for its notify. -/
def notifies (t : Tag) (e : TagEntry) (s : State) : State :=
  let u := setTag t { e with st := .notifying } s
  { u with tly := { u.tly with ntfQ := u.tly.ntfQ ++ [t] } }

theorem exec_replyDelivered {t : Tag} (h : s.tly.stsCur = some (.reply t)) : exec .replyDelivered s
    = .next (pumpSts (if hdrNotify (tagOf s t).own then pumpNtf (notifies t (tagOf s t) (counted t s)) else releaseTag t (counted t s))) := by
  change execReplyDelivered s = _
  simp only [execReplyDelivered, h] <;> rfl

theorem exec_registerDataDelivered {v : Reg} (h : s.tly.stsCur = some (.regData v)) :
    exec .registerDataDelivered s = .next (pumpSts { s with tly := { s.tly with stsCur := none } }) := by
  change execRegisterDataDelivered s = _
  simp only [execRegisterDataDelivered, h]

theorem exec_notifyDelivered {t : Tag} (h : s.tly.ntfCur = some t) :
    exec .notifyDelivered s = .next (pumpNtf (releaseTag t { s with tly := { s.tly with ntfCur := none } })) := by
  change execNotifyDelivered s = _
  simp only [execNotifyDelivered, h]

theorem counted_keeps (t : Tag) (s : State) : (counted t s).tly = { s.tly with stsCur := none, delivered := s.tly.delivered + 1 }
    ∧ (counted t s).pin = s.pin ∧ (counted t s).isl = s.isl ∧ (counted t s).shf = s.shf ∧ (counted t s).hay = s.hay
    ∧ rget (counted t s) 0x9044 = BitVec.ofNat 32 (min 0xFFFFFFFF ((rget s 0x9044).toNat + 1)) := by
  refine ⟨traceEv_tly .., traceEv_pin .., traceEv_isl .., traceEv_shf .., traceEv_hay .., ?_⟩
  rw [counted, rget_traceEv _ _ _ _ _ (by decide)]
  exact rget_cnt_self 0x9044 1 { s with tly := { s.tly with stsCur := none, delivered := s.tly.delivered + 1 } }

theorem running_congr {t : State} (h : t.isl = s.isl) (i : Nat) : running t i = running s i := by rw [running, islOf, h, running, islOf]

theorem tagOf_congr {t : State} (h : t.tly.tags = s.tly.tags) (u : Tag) : tagOf t u = tagOf s u := by rw [tagOf, h, tagOf]

/-- What the acknowledge of a reply leaves of its tag and of the notifies, before the next transfer is presented. -/
structure Released (s u : State) (t : Tag) : Prop where
  stsCur : u.tly.stsCur = none
  stsQ : u.tly.stsQ = s.tly.stsQ
  stsReq : u.pin.stsReq = s.pin.stsReq
  isl : u.isl = s.isl
  delivered : u.tly.delivered = s.tly.delivered + 1
  count : rget u 0x9044 = BitVec.ofNat 32 (min 0xFFFFFFFF ((rget s 0x9044).toNat + 1))
  others : ∀ x, x ≠ t → tagOf u x = tagOf s x
  freed : hdrNotify (tagOf s t).own = false → tagOf u t = TagEntry.free ∧ u.tly.ntfCur = s.tly.ntfCur ∧ u.tly.ntfQ = s.tly.ntfQ
  notified : hdrNotify (tagOf s t).own = true → tagOf u t = { tagOf s t with st := .notifying }
    ∧ (s.tly.ntfCur = none → s.tly.ntfQ = [] → u.tly.ntfCur = some t ∧ u.tly.ntfQ = [] ∧ u.pin.ntfReq = !s.pin.ntfReq ∧ u.pin.ntfTag = t)
    ∧ (∀ x, s.tly.ntfCur = some x → u.tly.ntfCur = some x ∧ u.tly.ntfQ = s.tly.ntfQ ++ [t])
  shf : u.shf = s.shf
  hay : u.hay = s.hay

theorem released_freed {t : Tag} (hn : hdrNotify (tagOf s t).own = false) : Released s (releaseTag t (counted t s)) t := by
  obtain ⟨htly, hpin, hisl, hshf, hhay, hcount⟩ := counted_keeps t s
  have htags : (counted t s).tly.tags = s.tly.tags := by rw [htly]
  have hrel : (releaseTag t (counted t s)).tly = { (counted t s).tly with tags := (releaseTag t (counted t s)).tly.tags } := rfl
  rw [htly] at hrel
  refine ⟨?_, ?_, congrArg Pins.stsReq hpin, hisl, ?_, hcount, fun x hx => (tagOf_setTag_ne hx ..).trans (tagOf_congr htags x),
    fun _ => ⟨tagOf_setTag_self .., ?_, ?_⟩, fun h => absurd h (by simp [hn]), hshf, hhay⟩ <;> rw [hrel]

theorem released_notified {t : Tag} (hr : running s islC = true) (hn : hdrNotify (tagOf s t).own = true) :
    Released s (pumpNtf (notifies t (tagOf s t) (counted t s))) t := by
  obtain ⟨htly, hpin, hisl, hshf, hhay, hcount⟩ := counted_keeps t s
  have htags : (counted t s).tly.tags = s.tly.tags := by rw [htly]
  set w := notifies t (tagOf s t) (counted t s) with hw
  have hwtly : w.tly = { (counted t s).tly with tags := w.tly.tags, ntfQ := (counted t s).tly.ntfQ ++ [t] } := rfl
  rw [htly] at hwtly
  have hset : ∀ x, tagOf w x = tagOf (setTag t { tagOf s t with st := .notifying } (counted t s)) x := fun _ => rfl
  have hself : tagOf w t = { tagOf s t with st := .notifying } := (hset t).trans (tagOf_setTag_self ..)
  have hothers : ∀ x, x ≠ t → tagOf w x = tagOf s x := fun x hx => (hset x).trans ((tagOf_setTag_ne hx ..).trans (tagOf_congr htags x))
  have hwr : running w islC = true := (running_congr (s := s) hisl islC).trans hr
  have hwcur : w.tly.ntfCur = s.tly.ntfCur := by rw [hwtly]
  have hwq : w.tly.ntfQ = s.tly.ntfQ ++ [t] := by rw [hwtly]
  have hwpin : w.pin = s.pin := hpin
  have hwcount : rget w 0x9044 = rget (counted t s) 0x9044 := rfl
  have hwshf : w.shf = (counted t s).shf := rfl
  have hwhay : w.hay = (counted t s).hay := rfl
  have hwisl : w.isl = (counted t s).isl := rfl
  cases hcur : s.tly.ntfCur with
  | some y =>
    rw [pumpNtf_busy (hwcur.trans hcur)]
    refine ⟨by rw [hwtly], by rw [hwtly], by rw [hwpin], hwisl.trans hisl, by rw [hwtly], hwcount.trans hcount, hothers,
      fun h => absurd hn (by simp [h]), fun _ => ⟨hself, fun h => absurd (hcur.symm.trans h) (by simp), fun x hx => ⟨?_, hwq⟩⟩,
      hwshf.trans hshf, hwhay.trans hhay⟩
    rw [hwcur, hx]
  | none =>
    obtain ⟨hncur, hnq, hnreq, hntag, hnframe⟩ := pumpNtf_next (hwcur.trans hcur) hwr
    generalize pumpNtf w = u at hncur hnq hnreq hntag hnframe
    have hutags : u.tly.tags = w.tly.tags := by rw [hnframe]
    refine ⟨by rw [hnframe, hwtly], by rw [hnframe, hwtly], by rw [hnframe, hwpin], by rw [hnframe]; exact hwisl.trans hisl,
      by rw [hnframe, hwtly], by rw [hnframe]; exact hwcount.trans hcount, fun x hx => (tagOf_congr hutags x).trans (hothers x hx),
      fun h => absurd hn (by simp [h]), fun _ => ⟨(tagOf_congr hutags t).trans hself, fun _ hq => ?_, fun x hx => absurd (hcur.symm.trans hx) (by simp)⟩,
      by rw [hnframe]; exact hwshf.trans hshf, by rw [hnframe]; exact hwhay.trans hhay⟩
    rw [hwq, hq] at hncur hnq hnreq hntag
    refine ⟨hncur, hnq, hnreq.trans ?_, hntag t rfl⟩
    rw [hwpin]
    rfl

end

/-- Settles O37, by what is delivered. -/
theorem deliveriesReleaseTags : Obligations.DeliveriesReleaseTags := by
  intro s hr
  refine ⟨fun t h => ?_, fun v h => ?_, fun t h => ?_⟩
  · have hrel : Released s (if hdrNotify (tagOf s t).own then pumpNtf (notifies t (tagOf s t) (counted t s))
        else releaseTag t (counted t s)) t := by
      cases hn : hdrNotify (tagOf s t).own with
      | true => exact released_notified hr hn
      | false => exact released_freed hn
    have hexec := exec_replyDelivered h
    generalize (if hdrNotify (tagOf s t).own then pumpNtf (notifies t (tagOf s t) (counted t s)) else releaseTag t (counted t s)) = w at hrel hexec
    obtain ⟨hcur, hq, hreq, hframe⟩ := pumpSts_next hrel.stsCur ((running_congr hrel.isl islC).trans hr)
    generalize pumpSts w = u at hcur hq hreq hframe hexec
    rw [hrel.stsQ] at hcur hq hreq
    rw [hrel.stsReq] at hreq
    have htags : ∀ x, tagOf u x = tagOf w x := tagOf_congr (by rw [hframe])
    refine ⟨u, hexec, by rw [hframe]; exact hrel.delivered, hcur, hq, hreq, by rw [hframe]; exact hrel.count,
      fun x hx => (htags x).trans (hrel.others x hx), fun hn => ?_, fun hn => ?_, by rw [hframe]; exact hrel.shf, by rw [hframe]; exact hrel.hay⟩
    · rw [htags, hframe]
      exact hrel.freed hn
    · rw [htags, hframe]
      exact hrel.notified hn
  · exact ⟨_, exec_registerDataDelivered h, pumpSts_next (s := { s with tly := { s.tly with stsCur := none } }) rfl hr⟩
  · obtain ⟨hcur, hq, hreq, -, hframe⟩ := pumpNtf_next (s := releaseTag t { s with tly := { s.tly with ntfCur := none } }) rfl hr
    have hexec := exec_notifyDelivered h
    have hself : tagOf (releaseTag t { s with tly := { s.tly with ntfCur := none } }) t = TagEntry.free := tagOf_setTag_self ..
    have hothers : ∀ x, x ≠ t → tagOf (releaseTag t { s with tly := { s.tly with ntfCur := none } }) x = tagOf s x := fun x hx =>
      tagOf_setTag_ne hx ..
    generalize pumpNtf (releaseTag t { s with tly := { s.tly with ntfCur := none } }) = u at hcur hq hreq hframe hexec
    have htags : ∀ x, tagOf u x = tagOf (releaseTag t { s with tly := { s.tly with ntfCur := none } }) x := tagOf_congr (by rw [hframe])
    refine ⟨u, hexec, (htags t).trans hself, fun x hx => (htags x).trans (hothers x hx), hcur, hq, hreq, ?_⟩
    have hutags : u.tly.tags = (releaseTag t { s with tly := { s.tly with ntfCur := none } }).tly.tags := by rw [hframe]
    rw [hutags]
    exact hframe

section
variable {s : State}

/-! ### Headers -/

theorem toNat_hdrTxid (h : Word) : (hdrTxid h).toNat = fld h 15 4 := by
  rw [hdrTxid, BitVec.extractLsb'_toNat]
  rfl

theorem toNat_byteAt_two (h : Word) : (byteAt h 2).toNat = fld h 23 16 := by
  rw [byteAt, BitVec.extractLsb'_toNat]
  rfl

theorem hdrKind_flitHdr {a k : Nat} (txid : Txid) (hk : k < 16) : hdrKind (flitHdr a txid.toNat k) = k := by
  simp (disch := omega) only [hdrKind, flitHdr, fld_or, fld_put_self, fld_put_above, Nat.zero_or]

theorem hdrTxid_flitHdr {a k : Nat} (txid : Txid) (hk : k < 16) : hdrTxid (flitHdr a txid.toNat k) = txid := by
  have := txid.isLt
  refine BitVec.eq_of_toNat_eq ?_
  rw [toNat_hdrTxid]
  simp (disch := omega) only [flitHdr, fld_or, fld_put_self, fld_put_above, fld_put_below, Nat.or_zero, Nat.zero_or]

theorem byteAt_flitHdr {k : Nat} (st : Byte) (txid : Txid) (hk : k < 16) : byteAt (flitHdr st.toNat txid.toNat k) 2 = st := by
  have := txid.isLt
  have := st.isLt
  refine BitVec.eq_of_toNat_eq ?_
  rw [toNat_byteAt_two]
  have hput : fld (put st.toNat 16 : Word) 23 16 = st.toNat := fld_put_self (by decide) (by decide) (by omega)
  rw [flitHdr, fld_or, fld_or, hput, fld_put_below (by decide) (by decide) (by omega), fld_put_below (by decide) (by decide) (by omega),
    Nat.or_zero, Nat.or_zero]

theorem getLsbD_withKind (h : Word) {k i : Nat} (hk : k < 16) (hi : 4 ≤ i) : (withKind h k).getLsbD i = h.getLsbD i := by
  have hbit : k.testBit i = false := Nat.testBit_lt_two_pow (lt_of_lt_of_le hk (Nat.pow_le_pow_right (n := 2) (by decide) hi))
  have hmask : ∀ j, j < 64 → 4 ≤ j → (~~~0xF#64 : Word).getLsbD j = true := by decide
  by_cases h64 : i < 64
  · rw [withKind, BitVec.getLsbD_or, BitVec.getLsbD_and, hmask i h64 hi, put, Nat.shiftLeft_zero, BitVec.getLsbD_ofNat, hbit]
    simp
  · rw [BitVec.getLsbD_of_ge _ _ (Nat.le_of_not_lt h64), BitVec.getLsbD_of_ge _ _ (Nat.le_of_not_lt h64)]

theorem fld_withKind (h : Word) {k hi lo : Nat} (hk : k < 16) (hl : 4 ≤ lo) : fld (withKind h k) hi lo = fld h hi lo := by
  refine Nat.eq_of_testBit_eq fun i => ?_
  simp only [fld, Nat.testBit_mod_two_pow, Nat.testBit_shiftRight, BitVec.testBit_toNat]
  rw [getLsbD_withKind h hk (by omega)]

theorem hdrTxid_withKind (h : Word) {k : Nat} (hk : k < 16) : hdrTxid (withKind h k) = hdrTxid h := by
  refine BitVec.eq_of_toNat_eq ?_
  rw [toNat_hdrTxid, toNat_hdrTxid, fld_withKind h hk (by decide)]

theorem hdrKind_withKind (h : Word) {k : Nat} (hk : k < 16) : hdrKind (withKind h k) = k := by
  have hbits : hdrKind (h &&& ~~~0xF#64) = 0 := by
    refine Nat.eq_of_testBit_eq fun i => ?_
    simp only [hdrKind, fld, Nat.testBit_mod_two_pow, Nat.testBit_shiftRight, BitVec.testBit_toNat, Nat.zero_testBit, BitVec.getLsbD_and]
    have hmask : ∀ j, j < 4 → (~~~0xF#64 : Word).getLsbD j = false := by decide
    by_cases hi : i < 4
    · rw [Nat.zero_add, hmask i hi, Bool.and_false, Bool.and_false]
    · simp [show ¬ i < 3 - 0 + 1 by omega]
  rw [hdrKind] at hbits
  rw [hdrKind, withKind, fld_or, hbits, fld_put_self (by decide) (by decide) (by omega), Nat.zero_or]

/-! ### Flits -/

/-- What a flit of channel 1 does once its credit is returned. -/
def serveFlit (f : Flit) (s : State) : State :=
  let st := byteAt f.hdr 2
  match hdrKind f.hdr with
  | 0x8 => takeRdrsp .c1 (hdrTxid f.hdr) st f.data s
  | 0x9 => takeWrack .c1 (hdrTxid f.hdr) st s
  | 0xA => takeRaccack (hdrTxid f.hdr) st (fld f.data 15 0) s
  | 0xB => inH (takeIngwr f.hdr f.data f.be) s
  | 0xC => takeCmd (hdrTxid f.hdr) (Packet.ofBits f.data) s
  | 0xD => takeRegrd f.hdr s
  | 0xE => takeRegwr f.hdr (f.data.extractLsb' 0 32) s
  | k => unusable islC 1 (hdrTxid f.hdr).toNat k s

/-- What a flit of channel 0 does once its credit is returned. -/
def serveFlit0 (f : Flit) (s : State) : State :=
  let st := byteAt f.hdr 2
  match hdrKind f.hdr with
  | 0x8 => takeRdrsp .c0 (hdrTxid f.hdr) st f.data s
  | 0x9 => takeWrack .c0 (hdrTxid f.hdr) st s
  | k => unusable islC 0 (hdrTxid f.hdr).toNat k s

/-- The state once a flit of channel 1 has come and its credit has gone back. -/
def credited1 (s : State) : State := { s with pin := { s.pin with i1crd := true } }

/-- The state once a flit of channel 0 has come and its credit has gone back. -/
def credited0 (s : State) : State := { s with pin := { s.pin with i0crd := true } }

/-- The state once a flit of channel 1 has come. -/
def arrived1 (f : Flit) (s : State) : State := { s with noc := { s.noc with i1Out := s.noc.i1Out - 1, in1 := [.inl f] } }

theorem noc_in1_nil (h : s.noc.in1 = []) : { s.noc with i1Out := s.noc.i1Out, in1 := [] } = s.noc := by rw [← h]

/-- A flit that comes on channel 1 with nothing ahead of it and need not wait is served at once. -/
theorem arriveFlit_c1 {f : Flit} (ha : awake s = true) (hr : running s islC = true) (hc : 0 < s.noc.i1Out) (hin : s.noc.in1 = [])
    (hw : flitWaits (arrived1 f s) f = false) : arriveFlit .c1 f s = serveFlit f (credited1 s) := by
  have hback : creditIn .c1 { arrived1 f s with noc := { (arrived1 f s).noc with in1 := [] } } = credited1 s := by
    simp only [creditIn, arrived1, credited1, Nat.sub_add_cancel hc, noc_in1_nil hin]
  have harr : arriveFlit .c1 f s = pumpIn1 (arrived1 f s) := by
    unfold arriveFlit arrived1
    rw [if_neg (by simp [ha, hr])]
    dsimp only
    rw [if_neg (Nat.ne_of_gt hc), hin]
    rfl
  have hpump : pumpIn1 (arrived1 f s) = drainIn1 1 (arrived1 f s) := rfl
  rw [harr, hpump, drainIn1]
  change (if flitWaits (arrived1 f s) f then arrived1 f s else drainIn1 0 _) = _
  rw [hw, ← hback]
  rfl

/-- A flit that has to wait stays in the buffer. -/
theorem arriveFlit_c1_waits {f : Flit} (ha : awake s = true) (hr : running s islC = true) (hc : 0 < s.noc.i1Out) (hin : s.noc.in1 = [])
    (hw : flitWaits (arrived1 f s) f = true) : arriveFlit .c1 f s = arrived1 f s := by
  have harr : arriveFlit .c1 f s = pumpIn1 (arrived1 f s) := by
    unfold arriveFlit arrived1
    rw [if_neg (by simp [ha, hr])]
    dsimp only
    rw [if_neg (Nat.ne_of_gt hc), hin]
    rfl
  have hpump : pumpIn1 (arrived1 f s) = drainIn1 1 (arrived1 f s) := rfl
  rw [harr, hpump, drainIn1]
  change (if flitWaits (arrived1 f s) f then arrived1 f s else drainIn1 0 _) = _
  rw [hw]
  rfl

theorem arriveFlit_c0 {f : Flit} (ha : awake s = true) (hr : running s islC = true) (hc : 0 < s.noc.i0Out) (hin : s.noc.in0 = [])
    (hw : (kindOn .c0 (hdrKind f.hdr) && waitsH { s with noc := { s.noc with i0Out := s.noc.i0Out - 1, in0 := [f] } } f) = false) :
    arriveFlit .c0 f s = serveFlit0 f (credited0 s) := by
  have hnil : { s.noc with in0 := [] } = s.noc := by rw [← hin]
  have hback : creditIn .c0 { s with noc := { s.noc with i0Out := s.noc.i0Out - 1, in0 := [] } } = credited0 s := by
    simp only [creditIn, credited0, Nat.sub_add_cancel hc]
    rw [hnil]
  unfold arriveFlit
  rw [if_neg (by simp [ha, hr])]
  dsimp only
  rw [if_neg (Nat.ne_of_gt hc), hin, List.nil_append, List.length_singleton, drainIn0]
  dsimp only
  rw [hw, ← hback]
  rfl

theorem arriveFlit_uncredited1 (f : Flit) (ha : awake s = true) (hr : running s islC = true) (hc : s.noc.i1Out = 0) :
    arriveFlit .c1 f s = unusable islC 1 (hdrTxid f.hdr).toNat 0x11 s := by
  unfold arriveFlit
  rw [if_neg (by simp [ha, hr])]
  exact if_pos hc

theorem arriveFlit_uncredited0 (f : Flit) (ha : awake s = true) (hr : running s islC = true) (hc : s.noc.i0Out = 0) :
    arriveFlit .c0 f s = unusable islC 0 (hdrTxid f.hdr).toNat 0x11 s := by
  unfold arriveFlit
  rw [if_neg (by simp [ha, hr])]
  exact if_pos hc

/-- The conditions under which a flit does not wait, by its kind. -/
theorem flitWaits_false {f : Flit} (hcr : 0xB ≤ hdrKind f.hdr → hdrKind f.hdr ≤ 0xE → 0 < s.noc.o1.held)
    (hreg : hdrKind f.hdr = 0xD ∨ hdrKind f.hdr = 0xE → serving s = true) (hcmd : hdrKind f.hdr ≠ 0xC)
    (hH : 8 ≤ hdrKind f.hdr → hdrKind f.hdr ≤ 0xB → running s islH = true) : flitWaits (arrived1 f s) f = false := by
  have hnoc : nocReady (arrived1 f s) = false := by
    simp [nocReady, arrived1, hcmd]
  have hanswer : (decide (0xB ≤ hdrKind f.hdr) && decide (hdrKind f.hdr ≤ 0xE) && (arrived1 f s).noc.o1.held == 0) = false := by
    have hheld : (arrived1 f s).noc.o1.held = s.noc.o1.held := rfl
    rw [hheld, Bool.and_eq_false_iff, Bool.and_eq_false_iff]
    by_cases hlo : 0xB ≤ hdrKind f.hdr
    · by_cases hhi : hdrKind f.hdr ≤ 0xE
      · exact .inr (beq_false_of_ne (Nat.ne_of_gt (hcr hlo hhi)))
      · exact .inl (.inr (decide_eq_false hhi))
    · exact .inl (.inl (decide_eq_false hlo))
  have haccess : ((hdrKind f.hdr == 0xD || hdrKind f.hdr == 0xE) && !serving (arrived1 f s)) = false := by
    have hserve : serving (arrived1 f s) = serving s := rfl
    by_cases h : hdrKind f.hdr = 0xD ∨ hdrKind f.hdr = 0xE
    · rw [hserve, hreg h, Bool.not_true, Bool.and_false]
    · rw [not_or] at h
      simp [h]
  have hblocked : waitsH (arrived1 f s) f = false := by
    have hrun : running (arrived1 f s) islH = running s islH := rfl
    by_cases h : 8 ≤ hdrKind f.hdr ∧ hdrKind f.hdr ≤ 0xB
    · simp [waitsH, blockedH, hrun, hH h.1 h.2]
    · have hB : hdrKind f.hdr ≠ 0xB := fun hk => h (by omega)
      have hA : ¬ (8 ≤ hdrKind f.hdr ∧ hdrKind f.hdr ≤ 0xA) := fun hk => h (by omega)
      simp only [waitsH, beq_false_of_ne hB, ← Bool.decide_and, decide_eq_false hA, Bool.false_and, Bool.or_false, Bool.and_false]
  rw [flitWaits]
  simp only [hanswer, haccess, hnoc, hblocked, Bool.or_self, Bool.false_and]

end

end Sys2Proof.Proofs
end

section
/-! SUPPORT. Proofs about unusable inputs, credits and the writes of the network (R27, R29, R43, R45, R47, R131, R251). -/

namespace Sys2Proof.Proofs

open Sys2Proof.Machine Sys2Proof.Laws

section
variable {s : State}

/-! ### Answers -/

/-- An answer sent at once for a credit of channel 1. -/
def answered (f : Flit) (s : State) : State := { s with
  noc := { s.noc with o1 := { s.noc.o1 with held := s.noc.o1.held - 1, fly := s.noc.o1.fly + 1 } }
  pin := { s.pin with o1 := some f } }

theorem answer_sent (txid : Txid) (k st : Nat) (d : Line) (hans : s.noc.answers = []) (hcr : 0 < s.noc.o1.held) :
    answer txid k st d s = answered ⟨flitHdr st txid.toNat k, d, 0⟩ s := by
  have hnil : { s.noc with answers := [], o1 := { s.noc.o1 with held := s.noc.o1.held - 1, fly := s.noc.o1.fly + 1 } }
      = { s.noc with o1 := { s.noc.o1 with held := s.noc.o1.held - 1, fly := s.noc.o1.fly + 1 } } := by rw [← hans]
  unfold answer
  dsimp only
  rw [hans, List.nil_append, List.length_singleton, pumpAnswers]
  dsimp only
  rw [if_pos hcr, pumpAnswers, answered, ← hnil]
  rfl

/-! ### Kinds that a channel does not carry -/

theorem serveFlit_unusable {f : Flit} (hk : kindOn .c1 (hdrKind f.hdr) = false) :
    serveFlit f s = unusable islC 1 (hdrTxid f.hdr).toNat (hdrKind f.hdr) s := by
  have hout : ¬ (8 ≤ hdrKind f.hdr ∧ hdrKind f.hdr ≤ 14) := by simpa [kindOn] using hk
  unfold serveFlit
  dsimp only
  split <;> first | omega | rfl

theorem serveFlit0_unusable {f : Flit} (hk : kindOn .c0 (hdrKind f.hdr) = false) :
    serveFlit0 f s = unusable islC 0 (hdrTxid f.hdr).toNat (hdrKind f.hdr) s := by
  have hout : hdrKind f.hdr ≠ 8 ∧ hdrKind f.hdr ≠ 9 := by simpa [kindOn] using hk
  unfold serveFlit0
  dsimp only
  split <;> first | omega | rfl

/-- The state once a transfer has come on `cmd_` with nothing ahead of it. -/
def heldCmd (x : CmdXfer) (s : State) : State := { s with tly := { s.tly with cmdHeld := [x] } }

theorem heldCmd_drop {x : CmdXfer} (hq : s.tly.cmdHeld = []) : { heldCmd x s with tly := { (heldCmd x s).tly with cmdHeld := [] } } = s := by
  have htly : { s.tly with cmdHeld := [] } = s.tly := by rw [← hq]
  change { s with tly := { s.tly with cmdHeld := [] } } = s
  rw [htly]

theorem arriveCmd_served {x : CmdXfer} {t : State} (ha : awake s = true) (hq : s.tly.cmdHeld = []) (hs : serveCmd (heldCmd x s) = some t) :
    arriveCmd x s = t := by
  have harr : arriveCmd x s = pumpCmd (heldCmd x s) := by
    unfold arriveCmd heldCmd
    rw [if_pos ha, hq]
    rfl
  have hpump : pumpCmd (heldCmd x s) = drainCmd 1 (heldCmd x s) := rfl
  rw [harr, hpump, drainCmd, hs]
  rfl

theorem arriveCmd_waits {x : CmdXfer} (ha : awake s = true) (hq : s.tly.cmdHeld = []) (hs : serveCmd (heldCmd x s) = none) :
    arriveCmd x s = heldCmd x s := by
  have harr : arriveCmd x s = pumpCmd (heldCmd x s) := by
    unfold arriveCmd heldCmd
    rw [if_pos ha, hq]
    rfl
  have hpump : pumpCmd (heldCmd x s) = drainCmd 1 (heldCmd x s) := rfl
  rw [harr, hpump, drainCmd, hs]

theorem exec_kind3 (d : BitVec 512) (ha : awake s = true) (hr : running s islC = true) (hq : s.tly.cmdHeld = []) :
    exec (.cmdKindReserved (.cmdKind3 d)) s = .next (unusable islC 0 0 3 (ackCmd s)) := by
  have hserve : serveCmd (heldCmd .kind3 s) = some (unusable islC 0 0 3 (ackCmd s)) := by
    have hdrop := heldCmd_drop (x := .kind3) hq
    have hserve : serveCmd (heldCmd .kind3 s) = if running (heldCmd .kind3 s) islC then
        some (unusable islC 0 0 3 (ackCmd { heldCmd .kind3 s with tly := { (heldCmd .kind3 s).tly with cmdHeld := [] } })) else none := rfl
    rw [hserve, hdrop]
    exact if_pos hr
  change execCmdKindReserved (.cmdKind3 d) s = _
  exact congrArg _ (arriveCmd_served ha hq hserve)

theorem exec_flitReserved {c : Chan} {h : Word} (hk : kindOn c (hdrKind h) = false) :
    exec (.cmdKindReserved (.flit c h)) s = .next (arriveFlit c ⟨h, 0, 0⟩ s) := by
  change execCmdKindReserved (.flit c h) s = _
  exact congrArg _ (if_neg (by simp [hk]))

theorem exec_nocCmd (txid : Txid) (p : Packet) :
    exec (.nocCmd txid p) s = .next (arriveFlit .c1 ⟨flitHdr 0 txid.toNat 0xC, packetData p, 0⟩ s) := rfl

/-! ### Credits -/

theorem exec_creditReturn_noc (ha : awake s = true) (hr : running s islC = true) (c : Chan) :
    exec (.creditReturn (.noc c)) s = .next (nocCredit c s) := by
  change execCreditReturn (.noc c) s = _
  exact congrArg _ (if_pos (by simp [ha, hr]))

theorem exec_creditReturn_read (ha : awake s = true) (hr : running s islA = true) (n : ExtStn) :
    exec (.creditReturn (.stnRead n)) s = .next (stnReadCredit (extNum n) s) := by
  change execCreditReturn (.stnRead n) s = _
  exact congrArg _ (if_pos (by simp [ha, hr]))

theorem exec_creditReturn_op (ha : awake s = true) (hr : running s islA = true) (n : ExtStn) :
    exec (.creditReturn (.stnOp n)) s = .next (stnOpCredit (extNum n) s) := by
  change execCreditReturn (.stnOp n) s = _
  exact congrArg _ (if_pos (by simp [ha, hr]))

theorem nocCredit_c0_first (hf : s.noc.o0.fixed = false) :
    nocCredit .c0 s = setChan .c0 { s.noc.o0 with held := s.noc.o0.held + 1, total := s.noc.o0.total + 1 } s := by
  simp [nocCredit, chanOf, hf]

theorem nocCredit_c0_back (hf : s.noc.o0.fixed = true) (h : 0 < s.noc.o0.fly) :
    nocCredit .c0 s = setChan .c0 { s.noc.o0 with held := s.noc.o0.held + 1, fly := s.noc.o0.fly - 1 } s := by
  simp [nocCredit, chanOf, hf, h]

theorem nocCredit_c0_bad (hf : s.noc.o0.fixed = true) (h : s.noc.o0.fly = 0) : nocCredit .c0 s = badCredit islC 0 s := by
  simp [nocCredit, chanOf, hf, h, chanNum]

/-- Channel 1 as a credit that comes back leaves it, before what waited for it follows. -/
def credit1 (s : State) : State :=
  if !s.noc.o1.fixed then setChan .c1 { s.noc.o1 with held := s.noc.o1.held + 1, total := s.noc.o1.total + 1 } s
  else if 0 < s.noc.o1.fly then setChan .c1 { s.noc.o1 with held := s.noc.o1.held + 1, fly := s.noc.o1.fly - 1 } s
  else badCredit islC 1 s

theorem nocCredit_c1_eq (s : State) :
    nocCredit .c1 s = pumpIn1 (pumpAnswers (credit1 s).noc.answers.length (credit1 s)) := rfl

theorem pump_idle {u : State} (hin : u.noc.in1 = []) (hans : u.noc.answers = []) : pumpIn1 (pumpAnswers u.noc.answers.length u) = u := by
  rw [hans]
  exact pumpIn1_of_empty hin

theorem nocCredit_c1_first (hin : s.noc.in1 = []) (hans : s.noc.answers = []) (hf : s.noc.o1.fixed = false) :
    nocCredit .c1 s = setChan .c1 { s.noc.o1 with held := s.noc.o1.held + 1, total := s.noc.o1.total + 1 } s := by
  rw [nocCredit_c1_eq, credit1, hf, if_pos (by decide)]
  exact pump_idle hin hans

theorem nocCredit_c1_back (hin : s.noc.in1 = []) (hans : s.noc.answers = []) (hf : s.noc.o1.fixed = true) (h : 0 < s.noc.o1.fly) :
    nocCredit .c1 s = setChan .c1 { s.noc.o1 with held := s.noc.o1.held + 1, fly := s.noc.o1.fly - 1 } s := by
  rw [nocCredit_c1_eq, credit1, hf, if_neg (by decide), if_pos h]
  exact pump_idle hin hans

theorem nocCredit_c1_bad (hin : s.noc.in1 = []) (hans : s.noc.answers = []) (hf : s.noc.o1.fixed = true) (h : s.noc.o1.fly = 0) :
    nocCredit .c1 s = badCredit islC 1 s := by
  have hnoc : (badCredit islC 1 s).noc = s.noc := logErr_noc ..
  rw [nocCredit_c1_eq, credit1, hf, if_neg (by decide), if_neg (by omega)]
  exact pump_idle (by rw [hnoc, hin]) (by rw [hnoc, hans])

/-- A credit for which an answer waits sends it. -/
theorem nocCredit_c1_answers {f : Flit} (hin : s.noc.in1 = []) (hans : s.noc.answers = [f]) (hf : s.noc.o1.fixed = true)
    (h : 0 < s.noc.o1.fly) :
    (nocCredit .c1 s).pin.o1 = some f ∧ (nocCredit .c1 s).noc.answers = [] ∧ (nocCredit .c1 s).noc.o1 = s.noc.o1 := by
  set u := setChan .c1 { s.noc.o1 with held := s.noc.o1.held + 1, fly := s.noc.o1.fly - 1 } s with hu
  have huans : u.noc.answers = [f] := hans
  have huheld : 0 < u.noc.o1.held := Nat.succ_pos _
  have hpump : pumpAnswers u.noc.answers.length u = sendFlit .c1 f { u with noc := { u.noc with answers := [] } } := by
    rw [huans, List.length_singleton, pumpAnswers, huans]
    dsimp only
    rw [if_pos huheld, pumpAnswers]
  have hcredit : nocCredit .c1 s = sendFlit .c1 f { u with noc := { u.noc with answers := [] } } := by
    rw [nocCredit_c1_eq, credit1, hf, if_neg (by decide), if_pos h, ← hu, hpump]
    exact pumpIn1_of_empty hin
  rw [hcredit]
  refine ⟨rfl, rfl, ?_⟩
  change { s.noc.o1 with held := s.noc.o1.held + 1 - 1, fly := s.noc.o1.fly - 1 + 1 } = s.noc.o1
  rw [Nat.add_sub_cancel, Nat.sub_add_cancel h]

theorem stnOf_setStn_frame (n : Nat) (x : Station) (s : State) : stnOf (setStn n x s) n = x ∧ (∀ j, j ≠ n → stnOf (setStn n x s) j = stnOf s j)
    ∧ setStn n x s = { s with crt := { s.crt with stns := (setStn n x s).crt.stns } } :=
  ⟨stnOf_setStn_self .., fun _ hj => stnOf_setStn_ne hj .., rfl⟩

end

/-- Settles O39, input by input. -/
theorem unusableInputsAndCredits : Obligations.UnusableInputsAndCredits := by
  intro s ha
  refine ⟨fun d hr hq => ⟨_, _, exec_kind3 d ha hr hq, rfl, logErr_logged ..⟩, fun h hr hc hin hk => ?_, fun h hr hc hin hk => ?_,
    fun h hr hc hk => ?_, fun txid p hr hc => ?_, fun hr => ?_, fun hr n => ?_⟩
  · have hexec := exec_flitReserved (s := s) hk
    rw [arriveFlit_c0 ha hr hc hin (by simp [hk]), serveFlit0_unusable hk] at hexec
    exact ⟨_, _, hexec, rfl, logErr_logged ..⟩
  · have hout : ¬ (8 ≤ hdrKind h ∧ hdrKind h ≤ 14) := by simpa [kindOn] using hk
    have hwait : flitWaits (arrived1 ⟨h, 0, 0⟩ s) ⟨h, 0, 0⟩ = false := by
      refine flitWaits_false ?_ ?_ ?_ ?_ <;> dsimp only <;> omega
    have hexec := exec_flitReserved (s := s) hk
    rw [arriveFlit_c1 ha hr hc hin hwait, serveFlit_unusable hk] at hexec
    exact ⟨_, _, hexec, rfl, logErr_logged ..⟩
  · have hexec := exec_flitReserved (s := s) hk
    rw [arriveFlit_uncredited0 _ ha hr hc] at hexec
    exact ⟨_, hexec, logErr_logged ..⟩
  · have hexec := exec_nocCmd (s := s) txid p
    rw [arriveFlit_uncredited1 _ ha hr hc, hdrTxid_flitHdr txid (by decide)] at hexec
    exact ⟨_, hexec, logErr_logged ..⟩
  · have h0 := exec_creditReturn_noc ha hr .c0
    have h1 := exec_creditReturn_noc ha hr .c1
    refine ⟨fun hf => ?_, fun hf h => ?_, fun hf h => ?_, fun hin hans hf => ?_, fun hin hans hf h => ?_, fun hin hans hf h => ?_,
      fun f hin hans hf _ h => ?_⟩
    · rw [h0, nocCredit_c0_first hf]
      rfl
    · rw [h0, nocCredit_c0_back hf h]
      rfl
    · rw [nocCredit_c0_bad hf h] at h0
      exact ⟨_, h0, logErr_logged ..⟩
    · rw [h1, nocCredit_c1_first hin hans hf]
      rfl
    · rw [h1, nocCredit_c1_back hin hans hf h]
      rfl
    · rw [nocCredit_c1_bad hin hans hf h] at h1
      exact ⟨_, h1, logErr_logged ..⟩
    · exact ⟨_, h1, nocCredit_c1_answers hin hans hf h⟩
  · intro k
    have hread := exec_creditReturn_read ha hr n
    have hop := exec_creditReturn_op ha hr n
    simp only [stnReadCredit] at hread
    simp only [stnOpCredit] at hop
    refine ⟨fun hn => ?_, fun hn hw h => ?_, fun hn hw h => ?_, fun hn hw h => ?_, fun hn hw h => ?_, fun hn hw h => ?_, fun hn hw h => ?_,
      fun hn hw h => ?_, fun hn hw h => ?_⟩
    · rw [if_pos (by simp [hn])] at hread
      exact ⟨_, hread, logErr_logged ..⟩
    · rw [if_neg (by simp [hn]), if_pos (by simp [hw]), if_pos h] at hread
      exact ⟨_, hread, stnOf_setStn_frame ..⟩
    · rw [if_neg (by simp [hn]), if_pos (by simp [hw]), if_neg (Nat.not_lt.2 h)] at hread
      exact ⟨_, hread, logErr_logged ..⟩
    · rw [if_neg (by simp [hn]), if_pos (by simp [hw]), if_pos h] at hop
      exact ⟨_, hop, stnOf_setStn_frame ..⟩
    · rw [if_neg (by simp [hn]), if_pos (by simp [hw]), if_neg (Nat.not_lt.2 h)] at hop
      exact ⟨_, hop, logErr_logged ..⟩
    · rw [if_neg (by simp [hn]), if_neg (by simp [hw]), if_pos h] at hread
      exact ⟨_, hread, stnOf_setStn_frame ..⟩
    · rw [if_neg (by simp [hn]), if_neg (by simp [hw]), if_neg (by rw [h]; decide)] at hread
      exact ⟨_, hread, logErr_logged ..⟩
    · rw [if_neg (by simp [hn]), if_neg (by simp [hw]), if_pos h] at hop
      exact ⟨_, hop, stnOf_setStn_frame ..⟩
    · rw [if_neg (by simp [hn]), if_neg (by simp [hw]), if_neg (by rw [h]; decide)] at hop
      exact ⟨_, hop, logErr_logged ..⟩

section
variable {s : State}

/-! ### Writes of the network -/

/-- The accesses of an INGWR: one to each of its words that has a byte enabled. -/
def ingressAccs (a id : Nat) (d : Line) (be : BitVec 128) : List HayAcc :=
  (if be.extractLsb' 0 64 = 0 then [] else [hayWr 10 a (be.extractLsb' 0 64) (d.extractLsb' 0 512) (.ingress id)])
    ++ (if be.extractLsb' 64 64 = 0 then [] else [hayWr 10 (a + 64) (be.extractLsb' 64 64) (d.extractLsb' 512 512) (.ingress id)])

theorem ingressAccs_eq_nil {a id : Nat} {d : Line} {be : BitVec 128} : ingressAccs a id d be = [] ↔ be = 0 := by
  have hsplit : be = (be.extractLsb' 64 64 ++ be.extractLsb' 0 64) := by
    refine BitVec.eq_of_getLsbD_eq fun i hi => ?_
    rw [BitVec.getLsbD_append]
    by_cases h : i < 64
    · simp [h]
    · simp [h, show i - 64 < 64 by omega, show 64 + (i - 64) = i by omega]
  refine ⟨fun h => ?_, fun h => ?_⟩
  · rw [ingressAccs, List.append_eq_nil_iff] at h
    obtain ⟨hlo, hhi⟩ := h
    have hlo' : be.extractLsb' 0 64 = 0 := by
      by_contra hne
      rw [if_neg hne] at hlo
      cases hlo
    have hhi' : be.extractLsb' 64 64 = 0 := by
      by_contra hne
      rw [if_neg hne] at hhi
      cases hhi
    rw [hsplit, hlo', hhi']
    rfl
  · subst h
    rfl

theorem takeIngwr_eq (h : Word) (d : Line) (be : BitVec 128) (s : State) : takeIngwr h d be s
    = if 2 ^ 22 ≤ hdrAddr h ∨ hdrAddr h % 128 ≠ 0 then answer (hdrTxid h) 5 2 0 (unusable islC 1 (hdrTxid h).toNat 0xB s)
      else if ingressAccs (hdrAddr h) s.hay.ingId d be = [] then answer (hdrTxid h) 5 0 0 s
      else askHays (ingressAccs (hdrAddr h) s.hay.ingId d be) { s with hay := { s.hay with
        ingress := s.hay.ingress ++ [⟨s.hay.ingId, hdrTxid h, (ingressAccs (hdrAddr h) s.hay.ingId d be).length, false⟩]
        ingId := s.hay.ingId + 1 } } := rfl

/-- The requirements of an INGWR (R47), as its header has them. -/
theorem ingress_fields (h : Word) : (fld h 63 38 = 0 ↔ hdrAddr h < 2 ^ 22) ∧ (fld h 22 16 = 0 ↔ hdrAddr h % 128 = 0) := by
  have hlt := h.isLt
  simp only [fld, hdrAddr, Nat.shiftRight_eq_div_pow]
  constructor <;> omega

theorem exec_ingwr (h : Word) (d : Line) (be : BitVec 128) (ha : awake s = true) (hr : running s islC = true) (hH : running s islH = true)
    (hc : 0 < s.noc.i1Out) (hin : s.noc.in1 = []) (hcr : 0 < s.noc.o1.held) :
    exec (.ingwr h d be) s = .next (takeIngwr (withKind h 0xB) d be (credited1 s)) := by
  have hkind : hdrKind (withKind h 0xB) = 0xB := hdrKind_withKind h (by decide)
  have hwait : flitWaits (arrived1 ⟨withKind h 0xB, d, be⟩ s) ⟨withKind h 0xB, d, be⟩ = false :=
    flitWaits_false (fun _ _ => hcr) (fun hk => by rw [hkind] at hk; omega) (by rw [hkind]; decide) (fun _ _ => hH)
  have hexec : exec (.ingwr h d be) s = .next (arriveFlit .c1 ⟨withKind h 0xB, d, be⟩ s) := rfl
  rw [hexec, arriveFlit_c1 ha hr hc hin hwait, serveFlit]
  dsimp only
  rw [hkind]
  exact congrArg _ (if_pos hH)

end

/-- Settles O40, by what the write asks for. -/
theorem ingressWrites : Obligations.IngressWrites := by
  intro s h d be ha hr hH hc hin hans hcr
  have hexec := exec_ingwr h d be ha hr hH hc hin hcr
  have haddr : hdrAddr (withKind h 0xB) = hdrAddr h := fld_withKind h (by decide) (by decide)
  obtain ⟨hhigh, hlow⟩ := ingress_fields h
  rw [takeIngwr_eq, haddr, hdrTxid_withKind h (by decide)] at hexec
  refine ⟨fun h1 h2 hbe => ?_, fun h1 h2 hbe => ?_, fun hbad => ?_⟩
  · intro a accs
    rw [if_neg (by have := hhigh.1 h1; have := hlow.1 h2; omega), if_neg (mt ingressAccs_eq_nil.1 hbe)] at hexec
    refine ⟨_, hexec, ?_⟩
    rw [askHays_frame]
    exact ⟨rfl, rfl, rfl, rfl, rfl, rfl, rfl, rfl, rfl⟩
  · rw [if_neg (by have := hhigh.1 h1; have := hlow.1 h2; omega), if_pos (ingressAccs_eq_nil.2 hbe),
      answer_sent (s := credited1 s) _ _ _ _ hans hcr] at hexec
    exact ⟨_, hexec, rfl, rfl⟩
  · set v := unusable islC 1 (hdrTxid h).toNat 0xB (credited1 s) with hv
    have hvnoc : v.noc = s.noc := logErr_noc ..
    have hout : 2 ^ 22 ≤ hdrAddr h ∨ hdrAddr h % 128 ≠ 0 := hbad.imp (fun h' => Nat.not_lt.1 (mt hhigh.2 h')) (mt hlow.2)
    rw [if_pos hout,
      answer_sent (s := v) _ _ _ _ (by rw [hvnoc, hans]) (by rw [hvnoc]; exact hcr)] at hexec
    exact ⟨credited1 s, v, _, hexec, rfl, logErr_logged .., rfl, rfl⟩

end Sys2Proof.Proofs
end

section
/-! SUPPORT. Proofs about responses (R45, R46, R237, R240, R273, R300): what each answer does to what asked. -/

namespace Sys2Proof.Proofs

open Sys2Proof.Machine Sys2Proof.Laws

section
variable {s : State} {txid : Txid} {o : TxOwner}

/-! ### What a response leaves -/

/-- The parts of the state that the data of a read leave. -/
def outer (s : State) : Sheaf × Hayloft × Noc × Pins := (s.shf, s.hay, s.noc, s.pin)

theorem outer_rset (k : Nat) (v : Reg) (s : State) : outer (rset k v s) = outer s := rfl

theorem outer_cnt (k n : Nat) (s : State) : outer (cnt k n s) = outer s := rfl

theorem outer_traceEv (ev isl unit loc info : Nat) (s : State) : outer (traceEv ev isl unit loc info s) = outer s := by
  simp only [outer, traceEv_shf, traceEv_hay, traceEv_noc, traceEv_pin]

theorem outer_wakeWaiters (c : Nat) (bad : Option Outc) (s : State) : outer (wakeWaiters c bad s) = outer s := rfl

theorem outer_ringError (ring cause : Nat) (s : State) : outer (ringError ring cause s) = outer s := by
  rw [ringError, outer_rset]
  rfl

theorem outer_wakeRings (c : Nat) (failed : Bool) (s : State) : outer (wakeRings c failed s) = outer s := by
  unfold wakeRings
  dsimp only
  split
  · rw [foldl_proj outer (fun s n => ringError n 3 s) (fun s n => outer_ringError n 3 s)]
    rfl
  · rfl

theorem outer_fetchEnded (c : Nat) (r : BitVec 128 ⊕ Outc) (s : State) : outer (fetchEnded c r s) = outer s := by
  unfold fetchEnded
  split
  · rfl
  · dsimp only
    split
    · split
      · rw [outer_wakeRings, outer_wakeWaiters, setRow]
        exact outer_traceEv ..
      · rw [outer_wakeRings, outer_wakeWaiters, outer_cnt]
        exact outer_traceEv ..
    · rw [outer_wakeRings, outer_wakeWaiters, outer_cnt]
      exact outer_traceEv ..

theorem outer_ringLineArrived (ring seq : Nat) (r : Resp) (d : Line) (s : State) : outer (ringLineArrived ring seq r d s) = outer s := by
  unfold ringLineArrived
  split
  · split
    · rfl
    · exact outer_ringError ..
  · rfl

/-- While island H runs, what is for a command takes effect at once. -/
theorem inUnit_running (tag : Tag) (f : State → State) (hH : running s islH = true) : inUnit tag f s = f s := by
  unfold inUnit
  split
  · split
    · exact if_pos hH
    · rfl
  · rfl

/-- The data of a read that is answered OK. -/
theorem outer_readAnswered (d : Line) (hH : running s islH = true) : outer (readAnswered o .ok d s) = outer s := by
  unfold readAnswered
  rw [if_neg (by decide)]
  dsimp only
  split
  · rw [inUnit_running _ _ hH]
    rfl
  · rw [inUnit_running _ _ hH]
    rfl
  · exact outer_fetchEnded ..
  · exact outer_ringLineArrived ..
  · rfl

theorem readAnswered_unit {tag : Tag} {row u : Nat} (hu : o.use = .unitFor tag row u) (d : Line) (hH : running s islH = true) :
    readAnswered o .ok d s = unitArrived tag row u (u % 128) d.toNat 0 s := by
  unfold readAnswered
  rw [if_neg (by decide), hu]
  exact inUnit_running _ _ hH

theorem readAnswered_unit_error {tag : Tag} {row u : Nat} (hu : o.use = .unitFor tag row u) (d : Line) (hH : running s islH = true) :
    readAnswered o .error d s = unitFailed tag row u s := by
  unfold readAnswered
  rw [if_neg (by decide), hu]
  exact inUnit_running _ _ hH

theorem readAnswered_ring {ring seq : Nat} (hu : o.use = .ring ring seq) (d : Line) : readAnswered o .ok d s = ringLineArrived ring seq .ok d s := by
  unfold readAnswered
  rw [if_neg (by decide), hu]

theorem ringLineArrived_mem {ring seq : Nat} (d : Line) {l : RingLine} (hl : l ∈ s.rng.lines) (hseq : l.seq = seq) (hring : l.ring = ring) :
    { l with data := some d } ∈ (ringLineArrived ring seq .ok d s).rng.lines := by
  have hany : (s.rng.lines.any fun l => l.seq == seq && l.ring == ring) = true :=
    List.any_eq_true.2 ⟨l, hl, by simp [hseq, hring]⟩
  unfold ringLineArrived
  rw [if_pos hany, if_pos rfl]
  exact List.mem_map.2 ⟨l, hl, if_pos hseq⟩

/-! ### Taking a response -/

theorem waitsH_running {u : State} (hu : running u islH = true) (f : Flit) : waitsH u f = false := by simp [waitsH, blockedH, hu]

theorem exec_rdrsp_c0 (ha : awake s = true) (hr : running s islC = true) (hH : running s islH = true) (hc : 0 < s.noc.i0Out)
    (hin : s.noc.in0 = []) (st : Byte) (d : Line) : exec (.rdrsp .c0 txid st d) s = .next (takeRdrsp .c0 txid st d (credited0 s)) := by
  have hexec : exec (.rdrsp .c0 txid st d) s = .next (arriveFlit .c0 ⟨flitHdr st.toNat txid.toNat 8, d, 0⟩ s) := rfl
  have hkind : hdrKind (flitHdr st.toNat txid.toNat 8) = 8 := hdrKind_flitHdr txid (by decide)
  rw [hexec, arriveFlit_c0 ha hr hc hin (Bool.and_eq_false_iff.2 (.inr (waitsH_running hH _))), serveFlit0]
  dsimp only
  rw [hkind, hdrTxid_flitHdr txid (by decide), byteAt_flitHdr st txid (by decide)]
  rfl

theorem exec_wrack_c0 (ha : awake s = true) (hr : running s islC = true) (hH : running s islH = true) (hc : 0 < s.noc.i0Out)
    (hin : s.noc.in0 = []) (st : Byte) : exec (.wrack .c0 txid st) s = .next (takeWrack .c0 txid st (credited0 s)) := by
  have hexec : exec (.wrack .c0 txid st) s = .next (arriveFlit .c0 ⟨flitHdr st.toNat txid.toNat 9, 0, 0⟩ s) := rfl
  have hkind : hdrKind (flitHdr st.toNat txid.toNat 9) = 9 := hdrKind_flitHdr txid (by decide)
  rw [hexec, arriveFlit_c0 ha hr hc hin (Bool.and_eq_false_iff.2 (.inr (waitsH_running hH _))), serveFlit0]
  dsimp only
  rw [hkind, hdrTxid_flitHdr txid (by decide), byteAt_flitHdr st txid (by decide)]
  rfl

theorem exec_raccack (ha : awake s = true) (hr : running s islC = true) (hH : running s islH = true) (hc : 0 < s.noc.i1Out)
    (hin : s.noc.in1 = []) (st : Byte) (added : BitVec 16) :
    exec (.raccack txid st added) s = .next (takeRaccack txid st added.toNat (credited1 s)) := by
  have hexec : exec (.raccack txid st added) s = .next (arriveFlit .c1 ⟨flitHdr st.toNat txid.toNat 0xA, put added.toNat 0, 0⟩ s) := rfl
  have hkind : hdrKind (flitHdr st.toNat txid.toNat 0xA) = 0xA := hdrKind_flitHdr txid (by decide)
  have hwait : flitWaits (arrived1 ⟨flitHdr st.toNat txid.toNat 0xA, put added.toNat 0, 0⟩ s)
      ⟨flitHdr st.toNat txid.toNat 0xA, put added.toNat 0, 0⟩ = false := by
    refine flitWaits_false ?_ ?_ ?_ (fun _ _ => hH) <;> dsimp only <;> omega
  have hadded : fld (put added.toNat 0 : Line) 15 0 = added.toNat := fld_put_self (by decide) (by decide) added.isLt
  rw [hexec, arriveFlit_c1 ha hr hc hin hwait, serveFlit]
  dsimp only
  rw [hkind, hdrTxid_flitHdr txid (by decide), byteAt_flitHdr st txid (by decide), hadded]
  rfl

theorem takeRdrsp_listed {st : Byte} {r : Resp} (hst : rdStatus st = (r, true)) (ho : tget none s.noc.tx txid.toNat = some o) (hch : o.ch = .c0)
    (hu : o.use.isRead = true) (d : Line) : takeRdrsp .c0 txid st d s = readAnswered o r d (setTx txid.toNat none s) := by
  unfold takeRdrsp
  rw [ho, hst]
  exact if_pos ⟨hch, hu⟩

theorem takeWrack_listed {st : Byte} {r : Resp} (hst : wrStatus st = (r, true)) (ho : tget none s.noc.tx txid.toNat = some o) (hch : o.ch = .c0)
    (hu : o.use.isWrite = true) : takeWrack .c0 txid st s = writeAnswered o r st (setTx txid.toNat none s) := by
  unfold takeWrack
  rw [ho, hst]
  exact if_pos ⟨hch, hu⟩

theorem tx_setTx_self (i : Nat) (x : Option TxOwner) (s : State) : tget none (setTx i x s).noc.tx i = x := tget_tset_self none x i s.noc.tx

theorem tx_setTx_ne {i k : Nat} (h : k ≠ i) (x : Option TxOwner) (s : State) : tget none (setTx i x s).noc.tx k = tget none s.noc.tx k :=
  tget_tset_ne none x h s.noc.tx

/-! ### Writes -/

/-- A write's answer noted in its command. -/
def noteWrite (tag : Tag) (row : Nat) (ok : Bool) (s : State) : State := updJob tag (fun j => { j with
  wrOut := j.wrOut - 1
  wErr := if ok then j.wErr else some (match j.wErr with | some k => min k row | none => row) }) s

theorem job_noteWrite (tag : Tag) (row : Nat) (ok : Bool) (s : State) : (tagOf (noteWrite tag row ok s) tag).job = { (tagOf s tag).job with
    wrOut := (tagOf s tag).job.wrOut - 1
    wErr := if ok then (tagOf s tag).job.wErr else some (match (tagOf s tag).job.wErr with | some k => min k row | none => row) } := by
  rw [noteWrite, tagOf_updJob_self]

/-- The writes of a store from step `k` on. -/
def lateWrite (tag : Tag) (k : Nat) (r : OutReq) : Bool := match r.use with | .store t n => t == tag && decide (k ≤ n) | _ => false

theorem job_dropWrites (tag : Tag) (k : Nat) (s : State) : (tagOf (dropWrites tag k s) tag).job
    = { (tagOf s tag).job with wrOut := (tagOf s tag).job.wrOut - (s.noc.outQ.filter (lateWrite tag k)).length } := by
  unfold dropWrites
  dsimp only
  rw [tagOf_updJob_self]
  rfl

theorem writeAnswered_ok {tag : Tag} {row : Nat} (hu : o.use = .store tag row) (he : (tagOf s tag).job.wErr = none) (st : Byte)
    (hH : running s islH = true) : writeAnswered o .ok st s = noteWrite tag row true s := by
  unfold writeAnswered
  rw [if_pos rfl, hu]
  dsimp only
  rw [inUnit_running _ _ hH, tagOf_updJob_self, if_pos rfl, he]
  rfl

theorem writeAnswered_error {tag : Tag} {row : Nat} (hu : o.use = .store tag row) (st : Byte) (hH : running s islH = true) :
    let k := match (tagOf s tag).job.wErr with | some k => min k row | none => row
    writeAnswered o .error st s = dropWrites tag k (noteWrite tag row false (logErr 0x14 islC 0 (o.addr % 2 ^ 32) st.toNat s)) := by
  have hlog : tagOf (logErr 0x14 islC 0 (o.addr % 2 ^ 32) st.toNat s) tag = tagOf s tag := tagOf_congr (by rw [logErr_tly]) tag
  have hrun : running (logErr 0x14 islC 0 (o.addr % 2 ^ 32) st.toNat s) islH = true := (running_congr (logErr_isl ..) islH).trans hH
  intro k
  unfold writeAnswered
  rw [if_neg (by decide), hu]
  dsimp only
  rw [inUnit_running _ _ hrun, tagOf_updJob_self, if_neg (by decide), hlog]
  rfl

/-! ### Remote accumulates -/

theorem takeRaccack_listed {b p n : Nat} {st : Byte} {added : Nat} (ho : tget none s.noc.tx txid.toNat = some o) (hu : o.use = .racc b p n)
    (hst : st.toNat < 4) (hH : running s islH = true) :
    takeRaccack txid st added s = raccAnswered b p n txid st added (setTx txid.toNat none s) := by
  obtain ⟨ch, use, addr⟩ := o
  subst hu
  unfold takeRaccack
  rw [ho]
  dsimp only
  rw [if_neg (by omega)]
  exact if_pos hH

theorem takeRaccack_reserved {b p n : Nat} {st : Byte} {added : Nat} (ho : tget none s.noc.tx txid.toNat = some o) (hu : o.use = .racc b p n)
    (hst : 4 ≤ st.toNat) : takeRaccack txid st added s = unusable islC 1 txid.toNat st.toNat s := by
  obtain ⟨ch, use, addr⟩ := o
  subst hu
  unfold takeRaccack
  rw [ho]
  exact if_pos hst

end

/-- Settles O41, by the response. -/
theorem responsesTaken : Obligations.ResponsesTaken := by
  intro s txid o ha hr hH hc0 hc1 hin0 hin1 ho
  have hrd := fun st d => exec_rdrsp_c0 (txid := txid) ha hr hH hc0 hin0 st d
  have hwr := fun st => exec_wrack_c0 (txid := txid) ha hr hH hc0 hin0 st
  have hracc := fun st added => exec_raccack (txid := txid) ha hr hH hc1 hin1 st added
  refine ⟨fun d hch hu => ?_, fun d tag row u hch hu => ?_, fun tag row hch hu he => ?_, fun tag row hch hu => ?_, fun b p n hu hn => ?_,
    fun x d st hx => ?_⟩
  · set v := setTx txid.toNat none (credited0 s) with hv
    have hvH : running v islH = true := hH
    have hexec := hrd 0 d
    rw [takeRdrsp_listed (s := credited0 s) (o := o) (r := .ok) rfl ho hch hu, ← hv] at hexec
    obtain ⟨hshf, hhay, hnoc, hpin⟩ : _ ∧ _ ∧ _ ∧ _ := by simpa only [outer, Prod.mk.injEq] using outer_readAnswered (o := o) d hvH
    refine ⟨_, hexec, by rw [hnoc]; exact tx_setTx_self .., fun i hi => by rw [hnoc]; exact tx_setTx_ne hi .., by rw [hpin]; rfl, hshf,
      congrArg Hayloft.mem hhay, fun tag row u hu => ?_, fun ring seq hu l hl hseq hring => ?_⟩
    · rw [readAnswered_unit hu d hvH, unitArrived]
      refine ⟨?_, ?_, fun x hx => tagOf_updJob_ne hx ..⟩
      · rw [tagOf_updJob_self, Nat.zero_div]
        rfl
      · rw [tagOf_updJob_self]
        rfl
    · rw [readAnswered_ring hu]
      exact ringLineArrived_mem d hl hseq hring
  · have hexec := hrd 2 d
    rw [takeRdrsp_listed (s := credited0 s) (o := o) (r := .error) rfl ho hch (by rw [hu]; rfl),
      readAnswered_unit_error (s := setTx txid.toNat none (credited0 s)) hu d hH] at hexec
    refine ⟨_, hexec, tx_setTx_self txid.toNat none (credited0 s), ?_, ?_⟩ <;> rw [unitFailed, tagOf_updJob_self] <;> rfl
  · have hexec := hwr 0
    rw [takeWrack_listed (s := credited0 s) (o := o) (r := .ok) rfl ho hch (by rw [hu]; rfl),
      writeAnswered_ok (s := setTx txid.toNat none (credited0 s)) hu he _ hH] at hexec
    refine ⟨_, hexec, tx_setTx_self txid.toNat none (credited0 s), ?_, ?_, rfl, rfl, fun x hx => ?_⟩
    · rw [noteWrite, tagOf_updJob_self]
      rfl
    · rw [noteWrite, tagOf_updJob_self]
      exact he
    · exact tagOf_updJob_ne hx ..
  · intro k late
    set v := setTx txid.toNat none (credited0 s) with hv
    have hexec := hwr 2
    rw [takeWrack_listed (s := credited0 s) (o := o) (r := .error) rfl ho hch (by rw [hu]; rfl), ← hv,
      writeAnswered_error (s := v) hu _ hH] at hexec
    set w := logErr 0x14 islC 0 (o.addr % 2 ^ 32) (2 : Byte).toNat v with hw
    have hlogged : Logged v w 0x14 islC 0 (o.addr % 2 ^ 32) (2 : Byte).toNat := logErr_logged ..
    have hwnoc : w.noc = v.noc := logErr_noc ..
    have htag : tagOf w tag = tagOf s tag := tagOf_congr (by rw [hw, logErr_tly]; rfl) tag
    have hnoc : (noteWrite tag row false w).noc = v.noc := hwnoc
    refine ⟨_, hexec, ?_, ?_, ?_, ?_, fun hlen => ?_⟩
    · change tget none w.noc.tx txid.toNat = none
      rw [hwnoc]
      exact tx_setTx_self ..
    · rw [job_dropWrites, job_noteWrite, htag, hnoc]
      rfl
    · change w.noc.outQ.filter (fun r => !late r) = _
      rw [hwnoc]
      rfl
    · rw [job_dropWrites, job_noteWrite, htag]
      rfl
    · have hentry := hlogged.entry
      rw [if_pos (show v.tnk.log.length < 64 from hlen)] at hentry
      exact hentry.1
  · set v := setTx txid.toNat none (credited1 s) with hv
    have hvtx : tget none v.noc.tx txid.toNat = none := tx_setTx_self ..
    have hslot : ∀ k, bucketOf v k = bucketOf s k := fun _ => rfl
    have hnoc : ∀ f, (updBucket b f v).noc = v.noc := fun f => by rw [updBucket_frame]
    have hself : ∀ f, bucketOf (updBucket b f v) b = f (bucketOf s b) := fun f => bucketOf_updBucket_self b f v
    have htake : ∀ (st : Byte) (added : BitVec 16), st.toNat < 4 →
        exec (.raccack txid st added) s = .next (raccAnswered b p n txid st added.toNat v) := fun st added hst => by
      rw [hracc, takeRaccack_listed (s := credited1 s) ho hu hst hH]
    refine ⟨?_, ?_, fun st added hst hok hretry => ?_, fun st added hst => ?_⟩
    · have hn' : (BitVec.ofNat 16 n).toNat = n := by rw [BitVec.toNat_ofNat, Nat.mod_eq_of_lt hn]
      have hexec := htake 0 (BitVec.ofNat 16 n) (by decide)
      rw [raccAnswered, if_pos ⟨rfl, hn'⟩] at hexec
      exact ⟨_, hexec, by rw [hnoc, hvtx], hself _, fun k hk => bucketOf_updBucket_ne hk ..⟩
    · have hexec := htake 1 0 (by decide)
      rw [raccAnswered, if_neg (by simp), if_pos ⟨rfl, rfl⟩] at hexec
      exact ⟨_, hexec, by rw [hnoc, hvtx], hself _⟩
    · have hexec := htake st added hst
      rw [raccAnswered, if_neg hok, if_neg fun h => hretry ⟨h.1, BitVec.eq_of_toNat_eq h.2⟩] at hexec
      dsimp only at hexec
      set x := updBucket b (fun b => { b with cOut := b.cOut - n, raccs := b.raccs - 1, cFailed := b.cFailed + n }) v with hx
      have hlogged : Logged (cnt 0xB048 1 x) (unusable islC 1 txid.toNat st.toNat (cnt 0xB048 1 x)) 7 islC 1 txid.toNat st.toNat := logErr_logged ..
      have hlog : (cnt 0xB048 1 x).tnk.log = s.tnk.log := by
        change x.tnk.log = _
        rw [hx, updBucket_frame]
        rfl
      have hstamp : stamp (cnt 0xB048 1 x) islC = stamp s islC := by
        change stamp x islC = _
        rw [hx, updBucket_frame]
        rfl
      have hthr : (unusable islC 1 txid.toNat st.toNat (cnt 0xB048 1 x)).thr = x.thr := logErr_thr ..
      have hnoc' : (unusable islC 1 txid.toNat st.toNat (cnt 0xB048 1 x)).noc = x.noc := logErr_noc ..
      refine ⟨_, hexec, ?_, ?_, ?_, fun hlen => ?_⟩
      · rw [hnoc', hx, hnoc, hvtx]
      · rw [bucketOf_congr hthr, hx, hself]
      · rw [hlogged.regs _ (by decide), rget_cnt_self, hx, rget_updBucket _ _ (by decide)]
        rfl
      · have hentry := hlogged.entry
        rw [hlog, if_pos hlen, hstamp] at hentry
        exact hentry.1
    · have hexec := hracc st added
      rw [takeRaccack_reserved (s := credited1 s) ho hu hst] at hexec
      exact ⟨_, _, hexec, rfl, logErr_logged ..⟩
  · have hexec := exec_rdrsp_c0 (txid := x) ha hr hH hc0 hin0 st d
    have hstray : takeRdrsp .c0 x st d (credited0 s) = unusable islC 0 x.toNat 8 (credited0 s) := by
      unfold takeRdrsp
      rw [show tget none (credited0 s).noc.tx x.toNat = none from hx]
      rfl
    rw [hstray] at hexec
    exact ⟨_, _, hexec, rfl, logErr_logged ..⟩

end Sys2Proof.Proofs
end

section
/-! SUPPORT. Proofs about what goes out on the network (R43, R46, R202, R272-R274): which request is next, its identifier, and the packets of a
draining bucket. -/

namespace Sys2Proof.Proofs

open Sys2Proof.Machine Sys2Proof.Laws

/-! ### Searches -/

theorem findPos_append {α : Type} (p : α → Bool) (pre : List α) (a : α) (post : List α) (hpre : ∀ x ∈ pre, p x = false) (ha : p a = true) :
    findPos p (pre ++ a :: post) = some pre.length := by
  induction pre with
  | nil => simp [findPos, ha]
  | cons x r ih =>
    rw [List.cons_append, findPos, hpre x List.mem_cons_self, ih fun y hy => hpre y (List.mem_cons_of_mem x hy)]
    rfl

theorem dropAt_append {α : Type} (pre : List α) (a : α) (post : List α) : dropAt pre.length (pre ++ a :: post) = pre ++ post := by
  rw [dropAt, List.take_left, List.append_cons pre a post, show pre.length + 1 = (pre ++ [a]).length by simp, List.drop_left]

/-- What a search with wrap-around finds lies in range and satisfies its condition. -/
theorem rotFind_some {n start i : Nat} {p : Nat → Bool} (hn : 0 < n) (h : rotFind n start p = some i) : i < n ∧ p i = true := by
  refine ⟨?_, List.find?_some h⟩
  obtain ⟨j, -, hj⟩ := List.mem_map.1 (List.mem_of_find?_eq_some h)
  exact hj ▸ Nat.mod_lt _ hn

/-- A search with wrap-around finds something wherever there is something to find. -/
theorem rotFind_isSome {n start i : Nat} {p : Nat → Bool} (hi : i < n) (hp : p i = true) : (rotFind n start p).isSome = true := by
  rw [rotFind, List.find?_isSome]
  have hn : 0 < n := Nat.zero_lt_of_lt hi
  have hmod : (start + (i + n - start % n) % n) % n = i := by
    have hs := Nat.mod_lt start hn
    rw [Nat.add_mod, Nat.mod_mod, ← Nat.add_mod]
    rw [← Nat.mod_add_mod, show start % n + (i + n - start % n) = i + n by omega, Nat.add_mod_right, Nat.mod_eq_of_lt hi]
  exact ⟨i, List.mem_map.2 ⟨(i + n - start % n) % n, List.mem_range.2 (Nat.mod_lt _ hn), hmod⟩, hp⟩

theorem rotFind_unique {n start i : Nat} {p : Nat → Bool} (hi : i < n) (hp : p i = true) (hu : ∀ k, k < n → p k = true → k = i) :
    rotFind n start p = some i := by
  obtain ⟨j, hj⟩ := Option.isSome_iff_exists.1 (rotFind_isSome (start := start) hi hp)
  obtain ⟨hlt, hpj⟩ := rotFind_some (Nat.zero_lt_of_lt hi) hj
  rw [hj, hu j hlt hpj]

section
variable {s : State}

/-! ### Transaction identifiers -/

/-- While an identifier is free, one that is free is taken, and nothing but the choice is spent. -/
theorem freeTxid_some (h : ∃ i, i < 4096 ∧ tget none s.noc.tx i = none) :
    ∃ i, (freeTxid s).1 = some i ∧ (freeTxid s).2 = (pick s).2 ∧ i < 4096 ∧ tget none s.noc.tx i = none := by
  obtain ⟨k, hk, hfree⟩ := h
  obtain ⟨i, hi⟩ := Option.isSome_iff_exists.1
    (rotFind_isSome (start := (pick s).1 % 4096) (p := fun i => (tget none s.noc.tx i).isNone) hk (by rw [hfree]; rfl))
  obtain ⟨hlt, hnone⟩ := rotFind_some (by decide) hi
  have hfree : freeTxid s = (some i, (pick s).2) := by
    unfold freeTxid
    dsimp only
    rw [hi]
  exact ⟨i, by rw [hfree], by rw [hfree], hlt, Option.isNone_iff_eq_none.1 hnone⟩

/-! ### The next request -/

theorem nextReq_c0 {pre post : List OutReq} {r : OutReq} {racc : Bool} (hq : s.noc.outQ = pre ++ r :: post) (hh : 0 < s.noc.o0.held)
    (hr : reqAllowed s r = true) (hpre : ∀ x ∈ pre, reqAllowed s x = false)
    (hturn : s.noc.turn = false ∨ s.noc.o1.held = 0 ∨ s.noc.answers ≠ [] ∨ shareTurn s racc = some 0) :
    nextReq s racc = some (.c0, pre.length) := by
  have hfirst : firstReq s = some pre.length := by rw [firstReq, hq, findPos_append _ pre r post hpre hr]
  unfold nextReq
  dsimp only
  rw [if_pos hh, hfirst]
  cases ht : s.noc.turn with
  | false => rfl
  | true =>
    rw [if_pos rfl]
    rw [ht] at hturn
    rcases hturn with h | h | h | h
    · cases h
    · rw [if_neg fun h' => absurd h'.1 (by omega)]
      rfl
    · rw [if_neg fun h' => h h'.2]
      rfl
    · rw [h]
      split <;> rfl

theorem nextReq_c1 {pre post : List OutReq} {r : OutReq} {racc : Bool} (hq : s.noc.outQ = pre ++ r :: post) (hh : 0 < s.noc.o1.held)
    (hr : reqAllowed s r = true) (hans : s.noc.answers = []) (hshare : shareTurn s racc = some r.kind)
    (hpre : ∀ x ∈ pre, reqAllowed s x = false ∨ x.kind ≠ r.kind) (hturn : s.noc.turn = true ∨ s.noc.o0.held = 0) :
    nextReq s racc = some (.c1, pre.length) := by
  have hfirst : firstOf s r.kind = some pre.length := by
    rw [firstOf, hq, findPos_append _ pre r post (fun x hx => ?_) (by simp [hr])]
    rcases hpre x hx with h | h <;> simp [h]
  have hkind : r.kind = 1 ∨ r.kind = 2 := by
    unfold OutReq.kind
    split
    · exact .inr rfl
    · exact .inl rfl
  rcases hkind with h | h <;> rw [h] at hshare hfirst <;> rcases hturn with ht | ht <;>
    simp only [nextReq, hh, hans, hshare, hfirst, ht, and_self, if_true, Option.map_some, Option.some_or, Nat.lt_irrefl, if_false, Option.none_or,
      ite_self]

/-! ### A request goes out -/

/-- A request counted, its identifier recorded, and the turns passed on. -/
def turned (c : Chan) (i : Nat) (r : OutReq) (s : State) : State :=
  let s := match useEngine s r.use with
    | some e => cnt (0x5044 + 0x10 * e) 1 s
    | none => s
  let s := setTx i (some ⟨c, r.use, r.addr⟩) s
  let s := { s with noc := { s.noc with turn := decide (c = .c0) } }
  if c = .c1 then shared r.kind s else s

/-- The flit of a request. -/
def reqFlit (i : Nat) (r : OutReq) : Flit :=
  ⟨flitHdr r.addr i (if r.write then 2 else 1), if r.write then r.data else 0, if r.write then r.be else 0⟩

theorem sendReq_eq (c : Chan) (i : Nat) (r : OutReq) (s : State) : sendReq c i r s = sendFlit c (reqFlit i r) (turned c i r s) := rfl

theorem turned_frame (c : Chan) (i : Nat) (r : OutReq) (s : State) : turned c i r s = { s with
    regs := (turned c i r s).regs
    noc := { s.noc with
      tx := tset none s.noc.tx i (some ⟨c, r.use, r.addr⟩)
      turn := decide (c = .c0)
      share := if c = .c1 then (r.kind + 1) % 3 else s.noc.share } } := by
  have hcount : ∀ s : State, (match useEngine s r.use with | some e => cnt (0x5044 + 0x10 * e) 1 s | none => s)
      = { s with regs := (match useEngine s r.use with | some e => cnt (0x5044 + 0x10 * e) 1 s | none => s).regs } := fun s => by
    split <;> rfl
  have hturned : turned c i r s = _ := rfl
  unfold turned
  rw [hcount]
  cases c <;> rfl

theorem exec_outboundFlitSend {c : Chan} {k i : Nat} {r : OutReq} (hn : nextReq s (raccGo s) = some (c, k)) (hi : (freeTxid s).1 = some i)
    (hs : (freeTxid s).2 = (pick s).2) (hk : s.noc.outQ[k]? = some r) (hu : s.ctl.unplug < 2) (hr : running s islC = true) :
    exec .outboundFlitSend s = .next (sendReq c i r { (pick s).2 with noc := { s.noc with outQ := dropAt k s.noc.outQ } }) := by
  change execOutboundFlitSend s = _
  simp only [execOutboundFlitSend, hn, hi, hk, hs]
  rw [if_neg (by simp [hr]; omega)]
  rfl

end

/-- A request that goes out on a channel for a credit. -/
theorem outboundFlitSend_sends (s : State) (c : Chan) (pre post : List OutReq) (r : OutReq) (hu : s.ctl.unplug < 2) (hr : running s islC = true)
    (hq : s.noc.outQ = pre ++ r :: post) (hn : nextReq s (raccGo s) = some (c, pre.length)) (hfree : ∃ i, i < 4096 ∧ tget none s.noc.tx i = none) :
    ∃ t i, exec .outboundFlitSend s = .next t ∧ i < 4096 ∧ tget none s.noc.tx i = none ∧ tget none t.noc.tx i = some ⟨c, r.use, r.addr⟩
      ∧ (∀ j, j ≠ i → tget none t.noc.tx j = tget none s.noc.tx j) ∧ t.noc.outQ = pre ++ post ∧ t.noc.turn = decide (c = .c0)
      ∧ t.noc.share = (if c = .c1 then (r.kind + 1) % 3 else s.noc.share)
      ∧ chanOf t c = { chanOf s c with held := (chanOf s c).held - 1, fly := (chanOf s c).fly + 1 }
      ∧ (∀ d, d ≠ c → chanOf t d = chanOf s d) ∧ t.pin = (match c with
        | .c0 => { s.pin with o0 := some (reqFlit i r) }
        | .c1 => { s.pin with o1 := some (reqFlit i r) })
      ∧ t.tly = s.tly ∧ t.shf = s.shf ∧ t.hay = s.hay ∧ t.tnk = s.tnk := by
  obtain ⟨i, hi, hs, hlt, hnone⟩ := freeTxid_some hfree
  have hk : s.noc.outQ[pre.length]? = some r := by rw [hq]; simp
  have hexec := exec_outboundFlitSend hn hi hs hk hu hr
  have hdrop : dropAt pre.length s.noc.outQ = pre ++ post := by rw [hq, dropAt_append]
  rw [sendReq_eq, turned_frame, hdrop] at hexec
  have htx : tget none (tset none s.noc.tx i (some (⟨c, r.use, r.addr⟩ : TxOwner))) i = some ⟨c, r.use, r.addr⟩ := tget_tset_self ..
  have htxs : ∀ j, j ≠ i → tget none (tset none s.noc.tx i (some (⟨c, r.use, r.addr⟩ : TxOwner))) j = tget none s.noc.tx j :=
    fun j hj => tget_tset_ne _ _ hj _
  refine ⟨_, i, hexec, hlt, hnone, ?_⟩
  cases c with
  | c0 => exact ⟨htx, htxs, rfl, rfl, rfl, rfl,
      fun d hd => by cases d; exacts [absurd rfl hd, rfl], rfl, rfl, rfl, rfl, rfl⟩
  | c1 => exact ⟨htx, htxs, rfl, rfl, rfl, rfl,
      fun d hd => by cases d; exacts [rfl, absurd rfl hd], rfl, rfl, rfl, rfl, rfl⟩

section
variable {s : State}

/-! ### Packets of a draining bucket -/

/-- A bucket that does not drain, or has the page of its next packet, asks for none. -/
theorem askBucket_idle {b : Nat} (h : (bucketOf s b).st ≠ .draining
    ∨ ∃ p resend g, (bucketOf s b).nextPkt = some (p, resend) ∧ (bucketOf s b).page ((bucketOf s b).va p) = some g) : askBucket s b = s := by
  unfold askBucket
  dsimp only
  split
  · next p resend hp =>
    rw [if_neg]
    rintro ⟨hst, -, hpage, -⟩
    rcases h with h | ⟨p', resend', g, hp', hg⟩
    · exact h hst
    · rw [hp] at hp'
      obtain ⟨rfl, rfl⟩ : p = p' ∧ resend = resend' := by simpa using hp'
      rw [hg] at hpage
      cases hpage
  · rfl

/-- The one draining bucket, with the page of its next packet translated, is the one that sends. -/
theorem exec_raccSend {b p : Nat} {resend : Bool} {g : BkPage} (hu : s.ctl.unplug = 0) (hH : running s islH = true) (hC : running s islC = true)
    (hb : b < 8) (hothers : ∀ k, k < 8 → k ≠ b → (bucketOf s k).st ≠ .draining) (hst : (bucketOf s b).st = .draining)
    (hstop : (bucketOf s b).stopped = false) (hp : (bucketOf s b).nextPkt = some (p, resend))
    (hg : (bucketOf s b).page ((bucketOf s b).va p) = some g) (hres : g.res.isSome = true) : exec .raccSend s = .next (sendNext b s) := by
  have hask : (List.range 8).foldl askBucket s = s := by
    have hfold : ∀ l : List Nat, (∀ k ∈ l, k < 8) → l.foldl askBucket s = s := by
      intro l
      induction l with
      | nil => exact fun _ => rfl
      | cons a r ih =>
        intro hl
        have ha : askBucket s a = s := by
          refine askBucket_idle ?_
          by_cases hab : a = b
          · exact .inr ⟨p, resend, g, hab ▸ hp, hab ▸ hg⟩
          · exact .inl (hothers a (hl a List.mem_cons_self) hab)
        rw [List.foldl_cons, ha]
        exact ih fun k hk => hl k (List.mem_cons_of_mem a hk)
    exact hfold _ fun k hk => List.mem_range.1 hk
  have hready : raccReady s b = true := by simp [raccReady, hst, hstop, hp, hg, hres]
  have hfind : rotFind 8 s.thr.rot (raccReady s) = some b := by
    refine rotFind_unique hb hready fun k hk hkr => ?_
    by_contra hne
    simp only [raccReady, decide_eq_false (hothers k hk hne), Bool.false_and] at hkr
    cases hkr
  change execRaccSend s = _
  rw [execRaccSend, if_neg (by simp [hu, hH, hC]), hask, sendRaccs, hfind]

theorem sendNext_asks {b p : Nat} {resend : Bool} (hp : (bucketOf s b).nextPkt = some (p, resend)) (hc : codesFor s b p = none)
    (hw : ∀ x ∈ s.hay.waiting, x.use ≠ .racc b p) : sendNext b s
      = askHay (hayRd 8 ((bucketOf s b).lo + 64 * p) (-1) (.racc b p)) { s with thr := { s.thr with fetched := none } } := by
  have hany : (s.hay.waiting.any fun a => decide (a.use = .racc b p)) = false := by
    rw [List.any_eq_false]
    exact fun x hx => by simpa using hw x hx
  simp only [sendNext, hp, hc, askCodes, hany]
  rfl

/-- The bucket as a packet's sending leaves it. -/
def sentBucket (x : Bucket) (p : Nat) (resend unc : Bool) : Bucket := { x with
  ecc := x.ecc || unc, cSent := x.cSent + x.elemsOf p, cOut := x.cOut + x.elemsOf p, raccs := x.raccs + 1
  next := if resend then x.next else p + 1, due := if resend then x.due.tail else x.due }

/-- The physical address of a packet in its page. -/
def packetAddr (x : Bucket) (p : Nat) : Nat := match x.page (x.va p) with | some g => g.res.getD 0 + (x.va p - g.va) | none => 0

/-- The state in which an RACC's flit goes out: its bucket, its identifier, the turns and the counts. -/
def raccTurned (b p : Nat) (resend : Bool) (i : Nat) (unc : Bool) (s : State) : State :=
  let x := bucketOf s b
  let s := setTx i (some ⟨.c1, .racc b p (x.elemsOf p), packetAddr x p⟩) (setBucket b (sentBucket x p resend unc) s)
  let s := shared 0 { s with thr := { s.thr with rot := (b + 1) % 8, fetched := none } }
  cnt 0xB040 1 (if resend then cnt 0xB044 1 s else s)

theorem sendRacc_eq (b p : Nat) (resend : Bool) (i : Nat) (f : RaccData) (s : State) : sendRacc b p resend i f s
    = sendFlit .c1 ⟨flitHdr (packetAddr (bucketOf s b) p - packetAddr (bucketOf s b) p % 256) i 3,
        BitVec.ofNat 1024 (f.codes.toNat + (bucketOf s b).mask p * 2 ^ 512 + (bucketOf s b).step * 2 ^ 528), 0⟩
      (raccTurned b p resend i f.unc s) := rfl

theorem raccTurned_frame (b p : Nat) (resend : Bool) (i : Nat) (unc : Bool) (s : State) : let t := raccTurned b p resend i unc s
    t = { s with
      regs := t.regs
      tnk := t.tnk
      thr := { s.thr with slots := tset (bucket0 b) s.thr.slots b (sentBucket (bucketOf s b) p resend unc), rot := (b + 1) % 8, fetched := none }
      noc := { s.noc with tx := tset none s.noc.tx i (some ⟨.c1, .racc b p ((bucketOf s b).elemsOf p), packetAddr (bucketOf s b) p⟩), share := 1 } } := by
  intro t
  have hcount : ∀ u : State, cnt 0xB040 1 (if resend then cnt 0xB044 1 u else u)
      = { u with regs := (cnt 0xB040 1 (if resend then cnt 0xB044 1 u else u)).regs } := fun u => by cases resend <;> rfl
  have ht : t = _ := hcount _
  rw [ht, setBucket_frame]
  rfl

theorem sendNext_sends {b p : Nat} {resend : Bool} {f : RaccData} (hp : (bucketOf s b).nextPkt = some (p, resend)) (hc : codesFor s b p = some f)
    (hfree : ∃ i, i < 4096 ∧ tget none s.noc.tx i = none) (hroom : raccOut s < fld (rget s 0xB000) 9 0) (hh : 0 < s.noc.o1.held)
    (hans : s.noc.answers = []) (hshare : shareTurn s true = some 0) :
    ∃ i, i < 4096 ∧ tget none s.noc.tx i = none ∧ sendNext b s = sendRacc b p resend i f (pick s).2 := by
  obtain ⟨i, hi, hs, hlt, hnone⟩ := freeTxid_some hfree
  refine ⟨i, hlt, hnone, ?_⟩
  simp only [sendNext, hp, hc, hi, hs]
  rw [if_neg (Nat.not_le.2 hroom), if_neg]
  rintro (h | h | h)
  · omega
  · exact h hans
  · exact h hshare

end

/-- Settles O42, by the flit. -/
theorem flitsSent : Obligations.FlitsSent := by
  refine ⟨fun s c pre post r hu hr hq hh hallow hturn hfree => ?_, fun s b p resend g pa hu hH hC hb hothers hst hstop hp hg hres => ?_,
    fun s k q r hH hret => ?_⟩
  · have hn : nextReq s (raccGo s) = some (c, pre.length) := by
      cases c with
      | c0 =>
        obtain ⟨hpre, hturn⟩ := hturn
        exact nextReq_c0 hq hh hallow hpre hturn
      | c1 =>
        obtain ⟨hans, hshare, hpre, hturn⟩ := hturn
        exact nextReq_c1 hq hh hallow hans hshare hpre hturn
    obtain ⟨t, i, hexec, hlt, hnone, htx, htxs, hoq, hturn', hshare', hchan, hchans, hpin, htly, hshf, hhay, htnk⟩ :=
      outboundFlitSend_sends s c pre post r hu hr hq hn hfree
    refine ⟨t, i, hexec, hlt, hnone, htx, htxs, hoq, hturn', hshare', hchan, hchans, ?_, htly, hshf, hhay, htnk⟩
    cases c <;> rw [hpin] <;> rfl
  · intro a n
    have hexec := exec_raccSend hu hH hC hb hothers hst hstop hp hg (by rw [hres]; rfl)
    refine ⟨fun hc hw => ?_, fun f hc hfree hroom hh hans hshare => ?_⟩
    · rw [sendNext_asks hp hc hw] at hexec
      refine ⟨_, hexec, ?_⟩
      rw [askHay_frame]
      exact ⟨rfl, rfl, rfl, rfl, rfl⟩
    · obtain ⟨i, hlt, hnone, hsend⟩ := sendNext_sends hp hc hfree hroom hh hans hshare
      have haddr : packetAddr (bucketOf s b) p = a := by
        rw [packetAddr, hg]
        dsimp only
        rw [hres]
        rfl
      have hb' : bucketOf (pick s).2 b = bucketOf s b := rfl
      have hframe : raccTurned b p resend i f.unc (pick s).2 = _ := raccTurned_frame b p resend i f.unc (pick s).2
      rw [hsend, sendRacc_eq, hb', haddr] at hexec
      rw [hb', haddr] at hframe
      generalize raccTurned b p resend i f.unc (pick s).2 = u at hframe hexec
      have hthr : u.thr.slots = tset (bucket0 b) s.thr.slots b (sentBucket (bucketOf s b) p resend f.unc) := by rw [hframe]; rfl
      have hnoc : u.noc = { s.noc with tx := tset none s.noc.tx i (some ⟨.c1, .racc b p n, a⟩), share := 1 } := by rw [hframe]; rfl
      have hself : bucketOf u b = sentBucket (bucketOf s b) p resend f.unc := by rw [bucketOf, hthr, tget_tset_self]
      have hslots : ∀ k, k ≠ b → bucketOf u k = bucketOf s k := fun k hk => by rw [bucketOf, hthr, tget_tset_ne _ _ hk]; rfl
      have hsent : ∀ fl k, bucketOf (sendFlit .c1 fl u) k = bucketOf u k := fun _ _ => rfl
      have htx : ∀ fl, (sendFlit .c1 fl u).noc = { u.noc with o1 := { u.noc.o1 with held := u.noc.o1.held - 1, fly := u.noc.o1.fly + 1 } } := fun _ => rfl
      refine ⟨_, i, hexec, hlt, hnone, ?_, ?_⟩
      · rw [htx, hnoc]
        exact tget_tset_self none (some ⟨.c1, .racc b p n, a⟩) i s.noc.tx
      · rw [hsent, hself, htx, hnoc]
        refine ⟨rfl, rfl, rfl, rfl, rfl, rfl, fun k hk => (hsent ..).trans (hslots k hk), rfl, Nat.sub_add_cancel hh, rfl, ?_, ?_⟩
        · change u.hay = _
          rw [hframe]
          rfl
        · change u.shf = _
          rw [hframe]
          rfl
  · have hexec : exec (.raccResendDue k) s = .next (updBucket k.toNat (fun b => { b with retried := r, due := b.due ++ [q] }) s) := by
      change execRaccResendDue k s = _
      simp only [execRaccResendDue, hret, hH]
      rfl
    refine ⟨_, hexec, bucketOf_updBucket_self .., fun j hj => bucketOf_updBucket_ne hj .., ?_⟩
    unfold updBucket setBucket
    dsimp only
    rw [if_pos rfl]

end Sys2Proof.Proofs
end

section
/-! SUPPORT. Proofs about register accesses (R9-R11, R26, R32, R33, R47, R51, R379, R385, R388, R390). -/

namespace Sys2Proof.Proofs

open Sys2Proof.Machine Sys2Proof.Laws

section
variable {s : State}

/-! ### What a write at a register leaves of the ports it came by -/

/-- The answers that wait, the credits and the buffer of channel 1, and the acknowledge of the service port. -/
def ports (s : State) : List Flit × OutChan × List (Flit ⊕ RegAct) × Bool := (s.noc.answers, s.noc.o1, s.noc.in1, s.pin.svcAck)

theorem ports_congr {u : State} (hn : u.noc = s.noc) (hp : u.pin = s.pin) : ports u = ports s := by
  rw [ports, hn, hp]
  rfl

theorem ports_logErr (kind isl unit loc info : Nat) (s : State) : ports (logErr kind isl unit loc info s) = ports s :=
  ports_congr (logErr_noc ..) (logErr_pin ..)

theorem ports_traceEv (ev isl unit loc info : Nat) (s : State) : ports (traceEv ev isl unit loc info s) = ports s :=
  ports_congr (traceEv_noc ..) (traceEv_pin ..)

theorem ports_ite (c : Prop) [Decidable c] (a b : State) : ports (if c then a else b) = if c then ports a else ports b := apply_ite ..

theorem ports_rset (off : Nat) (v : Reg) (s : State) : ports (rset off v s) = ports s := rfl

theorem ports_cnt (off n : Nat) (s : State) : ports (cnt off n s) = ports s := rfl

theorem ports_dropLines (p : Nat → Bool) (s : State) : ports (dropLines p s) = ports s := rfl

theorem ports_ringError (n c : Nat) (s : State) : ports (ringError n c s) = ports s := rfl

theorem ports_freeRec (i : Nat) (s : State) : ports (freeRec i s) = ports s := rfl

theorem ports_setHbank (b : Nat) (u : PwrUnit) (s : State) : ports (setHbank b u s) = ports s := rfl

theorem ports_startFreq (i f : Nat) (s : State) : ports (startFreq i f s) = ports s := rfl

theorem ports_setFreq (i f : Nat) (s : State) : ports (setFreq i f s) = ports s := rfl

theorem ports_plainWrite (src : RegSrc) (off : Nat) (v : Reg) (s : State) : ports (plainWrite src off v s) = ports s := by
  unfold plainWrite
  split
  · rfl
  · split
    · exact ports_logErr ..
    · split <;> rfl

theorem ports_writeSeed (v : Reg) (s : State) : ports (writeSeed v s) = ports s := by
  unfold writeSeed
  exact foldl_proj ports _ (fun u g => by split <;> rfl) _ _

theorem ports_loadStaging (w : Window) (s : State) : ports (loadStaging w s) = ports s := by
  simp only [loadStaging, ports_rset]

theorem ports_commitWindow (s : State) : ports (commitWindow s) = ports s := by
  simp only [commitWindow, ports_ite, unusable, ports_logErr]
  exact ite_self _

theorem ports_ringDoorbell (n tail : Nat) (s : State) : ports (ringDoorbell n tail s) = ports s := by
  have htrace := ports_traceEv 10 islC n 0 tail s
  unfold ringDoorbell
  dsimp only
  generalize traceEv 10 islC n 0 tail s = u at htrace ⊢
  split
  · exact htrace
  · rw [unusable, ports_logErr, ports_dropLines, ports_ringError, ports_cnt]
    exact htrace

theorem ports_writeResdrop (v : Reg) (s : State) : ports (writeResdrop v s) = ports s := by
  simp only [writeResdrop, ports_ite, ports_freeRec, ports_logErr, ite_self]

theorem ports_assignMap {k l p : Nat} {u : State} (h : assignMap k l p s = some u) : ports u = ports s := by
  have hu : u = setPhys k l p (displaced k l p s) := by
    unfold assignMap at h
    split at h
    · cases h
    · exact (Option.some.inj h).symm
  rw [hu, setPhys_frame, displaced_frame]
  rfl

theorem ports_writeRmdata (src : RegSrc) (v : Reg) (s : State) : ports (writeRmdata src v s) = ports s := by
  unfold writeRmdata
  split
  · exact ports_logErr ..
  · split
    · exact ports_logErr ..
    · split
      · exact ports_logErr ..
      · split
        · next h => exact ports_assignMap h
        · exact ports_logErr ..

theorem ports_writeFuseaddr (v : Reg) (s : State) : ports (writeFuseaddr v s) = ports s := by
  simp only [writeFuseaddr, ports_ite]
  exact ite_self _

theorem ports_writeCmden (src : RegSrc) (v : Reg) (s : State) : ports (writeCmden src v s) = ports s := by
  unfold writeCmden
  split
  · rfl
  · split
    · rfl
    · exact ports_logErr ..

theorem ports_writeBootlock (src : RegSrc) (v : Reg) (s : State) : ports (writeBootlock src v s) = ports s := by
  rw [writeBootlock, writeLock, ports_ite]
  exact (ite_self _).trans (ports_writeCmden ..)

theorem ports_writeEnv (src : RegSrc) (i : Nat) (v : Reg) (s : State) : ports (writeEnv src i v s) = ports s := by
  unfold writeEnv
  dsimp only
  split
  · exact ports_logErr ..
  · split
    · rfl
    · simp only [ports_ite, ports_startFreq, ports_setFreq, ite_self]
      rfl

theorem ports_writeGpol (v : Reg) (s : State) : ports (writeGpol v s) = ports s := by
  unfold writeGpol
  dsimp only
  split
  · rfl
  · exact foldl_proj ports _ (fun u g => by split <;> rfl) _ _

theorem ports_followSet (old : Reg) (s : State) (h : Nat) : ports (followSet old s h) = ports s := by
  have hpark : ports (parkBank h (setState s h) s) = ports s := by
    simp only [parkBank, ports_setHbank, ports_ite, ports_cnt, ite_self]
  unfold followSet
  dsimp only
  split
  · rfl
  · split
    · rfl
    · split
      · rfl
      · exact hpark

theorem ports_foldl_followSet (old x : Reg) (l : List Nat) (s : State) : ports (l.foldl (followSet old) (rset 0x7020 x s)) = ports s := by
  rw [foldl_proj ports _ (ports_followSet _), ports_rset]

theorem ports_writeBset (v : Reg) (s : State) : ports (writeBset v s) = ports s := by
  rw [writeBset]
  exact ports_foldl_followSet ..

theorem ports_writeCcnt (m : Nat) (v : Reg) (s : State) : ports (writeCcnt m v s) = ports s := by
  unfold writeCcnt
  split <;> rfl

theorem ports_writeFset (i : Nat) (v : Reg) (s : State) : ports (writeFset i v s) = ports s := by
  simp only [writeFset, ports_ite, ports_setFreq, ite_self]

theorem ports_writeShadow (g : Nat) (v : Reg) (s : State) : ports (writeShadow g v s) = ports s := by
  unfold writeShadow
  split <;> rfl

theorem ports_regEffect (src : RegSrc) (off : Nat) (v : Reg) (s : State) : ports (regEffect src off v s) = ports s := by
  have hrange : ports (if 0x7140 ≤ off ∧ off < 0x7174 then writeCcnt ((off - 0x7140) / 4) v s
      else if 0xC000 ≤ off ∧ off < 0xC02C then writeFset ((off - 0xC000) / 4) v s
      else if 0xC080 ≤ off ∧ off < 0xC0AC then writeEnv src ((off - 0xC080) / 4) v s
      else if 0xD040 ≤ off ∧ off < 0xD060 then writeShadow ((off - 0xD040) / 4) v s
      else plainWrite src off v s) = ports s := by
    simp only [ports_ite, ports_writeCcnt, ports_writeFset, ports_writeEnv, ports_writeShadow, ports_plainWrite, ite_self]
  have hbit (c : Bool) (f : State → State) (hf : ∀ u, ports (f u) = ports u) : ports (if c then f s else s) = ports s := by
    rw [ports_ite, hf]
    exact ite_self _
  unfold regEffect
  split
  · exact ports_writeGpol v s
  · exact ports_writeSeed v s
  · exact ports_rset ..
  · exact (ports_loadStaging ..).trans (ports_rset ..)
  · exact hbit _ _ ports_commitWindow
  · exact ports_writeBset v s
  · exact ports_ringDoorbell _ _ s
  · exact hbit _ (fun u => rset 0x8018 (rget u 0x8018 &&& 0xFFFEFFFF) u) fun _ => ports_rset ..
  · exact ports_writeResdrop v s
  · exact ports_writeRmdata src v s
  · exact ports_writeFuseaddr v s
  · exact hbit _ (fun u => { u with tnk := { u.tnk with skewGo := true } }) fun _ => rfl
  · exact ports_rset ..
  · rfl
  · exact hbit _ (fun u => { u with tnk := { u.tnk with log := u.tnk.log.tail } }) fun _ => rfl
  · exact ports_traceEv ..
  · exact ports_writeBootlock src v s
  · exact hrange

theorem ports_accessWrite (src : RegSrc) (off : Nat) (v : Reg) (s : State) : ports (accessWrite src off v s) = ports s := by
  unfold accessWrite
  dsimp only
  split
  · rfl
  · split
    · exact ports_logErr ..
    · split
      · rfl
      · exact ports_regEffect src off v (setCapture src none s)

/-! ### Reads -/

set_option maxRecDepth 20000 in
theorem readReg_credited1 (off : Nat) (s : State) : readReg (credited1 s) off = readReg s off := by
  have hd : derivedReg (credited1 s) off = derivedReg s off := by
    rw [derivedReg.eq_def, derivedReg.eq_def]
    rfl
  rw [readReg, hd]
  rfl

theorem accessRead_dead {src : RegSrc} {off : Nat} (h : regDead s off = true) : accessRead src off s = (0, logDead off (setCapture src none s)) :=
  if_pos h

/-- What an access reads where the island's generator is locked: the half its source has captured, or the register. -/
def liveValue (src : RegSrc) (off : Nat) (s : State) : Reg :=
  match captured src s with
  | some (h, x) => if h = off then x else readReg s off
  | none => readReg s off

theorem liveValue_uncaptured {src : RegSrc} {off : Nat} (hc : captured src s = none) : liveValue src off s = readReg s off := by
  rw [liveValue, hc]

theorem liveValue_captured {src : RegSrc} {off : Nat} {x : Reg} (hc : captured src s = some (off, x)) : liveValue src off s = x := by
  rw [liveValue, hc]
  exact if_pos rfl

theorem accessRead_live {src : RegSrc} {off : Nat} (h : regDead s off = false) :
    accessRead src off s = (liveValue src off s, setCapture src ((pairHigh off).map fun h => (h, readReg s h)) s) :=
  if_neg (by simp [h])

theorem accessRead_value_credited1 (src : RegSrc) (off : Nat) (s : State) : (accessRead src off (credited1 s)).1 = (accessRead src off s).1 := by
  have hdead : regDead (credited1 s) off = regDead s off := rfl
  cases h : regDead s off with
  | true => rw [accessRead_dead h, accessRead_dead (hdead.trans h)]
  | false =>
    rw [accessRead_live h, accessRead_live (hdead.trans h)]
    change liveValue src off (credited1 s) = liveValue src off s
    have hcap : captured src (credited1 s) = captured src s := rfl
    rw [liveValue, liveValue, readReg_credited1, hcap]

/-- What a read access keeps. -/
theorem accessRead_keeps (src : RegSrc) (off : Nat) (s : State) : let u := (accessRead src off s).2
    u.tly = s.tly ∧ u.pin = s.pin ∧ u.noc = s.noc ∧ u.isl = s.isl ∧ ∀ k, k ≠ 0xD080 → rget u k = rget s k := by
  cases h : regDead s off with
  | true =>
    rw [accessRead_dead h]
    exact ⟨logErr_tly .., logErr_pin .., logErr_noc .., logErr_isl .., fun k hk => rget_logErr _ _ _ _ _ hk _⟩
  | false =>
    rw [accessRead_live h]
    exact ⟨rfl, rfl, rfl, rfl, fun _ _ => rfl⟩

theorem regSrcCode_injective {x y : RegSrc} (h : x ≠ y) : regSrcCode x ≠ regSrcCode y := by
  cases x <;> cases y <;> first | exact absurd rfl h | decide

theorem captured_setCapture_self (src : RegSrc) (x : Option (Nat × Reg)) (s : State) : captured src (setCapture src x s) = x := tget_tset_self ..

theorem captured_setCapture_ne {src y : RegSrc} (h : y ≠ src) (x : Option (Nat × Reg)) (s : State) :
    captured y (setCapture src x s) = captured y s := tget_tset_ne _ _ (regSrcCode_injective h) _

theorem serving_parts (h : serving s = true) : awake s = true ∧ s.ctl.service = true ∧ running s islC = true := by
  simpa [serving, and_assoc] using h

/-! ### The three sources -/

theorem exec_registerReadCmd (off : BitVec 16) (hs : serving s = true) (hq : s.tly.cmdHeld = []) : exec (.registerReadCmd off) s
    = .next (sendSts (.regData (accessRead .cmd off.toNat s).1) (ackCmd (accessRead .cmd off.toNat s).2)) := by
  have hserve : serveCmd (heldCmd (.regRead off) s)
      = some (sendSts (.regData (accessRead .cmd off.toNat s).1) (ackCmd (accessRead .cmd off.toNat s).2)) := by
    have hdrop := heldCmd_drop (x := .regRead off) hq
    have hserve : serveCmd (heldCmd (.regRead off) s) = if serving (heldCmd (.regRead off) s) then
        let r := accessRead .cmd off.toNat { heldCmd (.regRead off) s with tly := { (heldCmd (.regRead off) s).tly with cmdHeld := [] } }
        some (sendSts (.regData r.1) (ackCmd r.2)) else none := rfl
    rw [hserve, hdrop]
    exact if_pos hs
  change execRegisterReadCmd off s = _
  exact congrArg _ (arriveCmd_served (serving_parts hs).1 hq hserve)

theorem exec_registerWrite (off : BitVec 16) (v : Reg) (hs : serving s = true) (hq : s.tly.cmdHeld = []) :
    exec (.registerWrite off v) s = .next (ackCmd (accessWrite .cmd off.toNat v s)) := by
  have hserve : serveCmd (heldCmd (.regWrite off v) s) = some (ackCmd (accessWrite .cmd off.toNat v s)) := by
    have hdrop := heldCmd_drop (x := .regWrite off v) hq
    have hserve : serveCmd (heldCmd (.regWrite off v) s) = if serving (heldCmd (.regWrite off v) s) then
        some (ackCmd (accessWrite .cmd off.toNat v
          { heldCmd (.regWrite off v) s with tly := { (heldCmd (.regWrite off v) s).tly with cmdHeld := [] } })) else none := rfl
    rw [hserve, hdrop]
    exact if_pos hs
  change execRegisterWrite off v s = _
  exact congrArg _ (arriveCmd_served (serving_parts hs).1 hq hserve)

/-- The read of `cmd_`: one transfer of register data. -/
theorem registerReadCmd_answers (off : BitVec 16) (hs : serving s = true) (hq : s.tly.cmdHeld = []) (hcur : s.tly.stsCur = none)
    (hsts : s.tly.stsQ = []) : ∃ t, exec (.registerReadCmd off) s = .next t
      ∧ t.tly.stsCur = some (.regData (accessRead .cmd off.toNat s).1) ∧ t.pin.stsKind = true ∧ t.pin.stsReq = !s.pin.stsReq
      ∧ t.pin.cmdAck = !s.pin.cmdAck ∧ fld t.pin.stsData 31 0 = (accessRead .cmd off.toNat s).1.toNat
      ∧ t = { (accessRead .cmd off.toNat s).2 with tly := { s.tly with stsCur := t.tly.stsCur }, pin := t.pin } := by
  obtain ⟨htly, hpin, -, hisl, -⟩ := accessRead_keeps .cmd off.toNat s
  refine ⟨_, exec_registerReadCmd off hs hq, ?_⟩
  generalize (accessRead .cmd off.toNat s).1 = v
  generalize (accessRead .cmd off.toNat s).2 = u at htly hpin hisl ⊢
  have hrun : running u islC = true := (running_congr hisl islC).trans (serving_parts hs).2.2
  have hsend : sendSts (.regData v) (ackCmd u) = { u with
      tly := { s.tly with stsCur := some (.regData v), stsQ := [] }
      pin := { s.pin with cmdAck := !s.pin.cmdAck, stsReq := !s.pin.stsReq, stsKind := true, stsData := put v.toNat 0 } } := by
    unfold sendSts pumpSts
    simp only [ackCmd, htly, hpin, hcur, hsts, List.nil_append]
    rw [if_neg]
    change ¬ (!running u islC) = true
    simp [hrun]
  have hnil : { s.tly with stsCur := some (.regData v), stsQ := [] } = { s.tly with stsCur := some (.regData v) } := by rw [← hsts]
  rw [hsend, hnil]
  refine ⟨rfl, rfl, rfl, rfl, ?_, rfl⟩
  change fld (put v.toNat 0 : BitVec 128) 31 0 = v.toNat
  exact fld_put_self (by decide) (by decide) v.isLt

/-! #### The network -/

theorem flitOffset_withKind {h : Word} (k : Nat) (hk : k < 16) (h0 : fld h 63 32 = 0) : flitOffset (withKind h k) = some (fld h 31 16) := by
  rw [flitOffset, fld_withKind h hk (by decide), fld_withKind h hk (by decide), if_pos h0]

/-- The answer of a register access of the network. -/
theorem exec_regrd {h : Word} (hs : serving s = true) (hc : 0 < s.noc.i1Out) (hin : s.noc.in1 = []) (hcr : 0 < s.noc.o1.held)
    (h0 : fld h 63 32 = 0) : exec (.regrd h) s = .next (answer (hdrTxid h) 6 0 (put (accessRead .noc (fld h 31 16) (credited1 s)).1.toNat 0)
      (accessRead .noc (fld h 31 16) (credited1 s)).2) := by
  obtain ⟨ha, -, hr⟩ := serving_parts hs
  have hkind : hdrKind (withKind h 0xD) = 0xD := hdrKind_withKind h (by decide)
  have hwait : flitWaits (arrived1 ⟨withKind h 0xD, 0, 0⟩ s) ⟨withKind h 0xD, 0, 0⟩ = false :=
    flitWaits_false (fun _ _ => hcr) (fun _ => hs) (by rw [hkind]; decide) (fun _ h => by rw [hkind] at h; exact absurd h (by decide))
  have hserve : serveFlit ⟨withKind h 0xD, 0, 0⟩ (credited1 s) = takeRegrd (withKind h 0xD) (credited1 s) := by
    unfold serveFlit
    rw [hkind]
    rfl
  change execRegrd h s = _
  rw [execRegrd, arriveFlit_c1 ha hr hc hin hwait, hserve, takeRegrd, flitOffset_withKind 0xD (by decide) h0, hdrTxid_withKind h (by decide)]

theorem exec_regwr {h : Word} (v : Reg) (hs : serving s = true) (hc : 0 < s.noc.i1Out) (hin : s.noc.in1 = []) (hcr : 0 < s.noc.o1.held)
    (h0 : fld h 63 32 = 0) : exec (.regwr h v) s = .next (answer (hdrTxid h) 5 0 0 (accessWrite .noc (fld h 31 16) v (credited1 s))) := by
  obtain ⟨ha, -, hr⟩ := serving_parts hs
  have hkind : hdrKind (withKind h 0xE) = 0xE := hdrKind_withKind h (by decide)
  have hwait : flitWaits (arrived1 ⟨withKind h 0xE, put v.toNat 0, 0⟩ s) ⟨withKind h 0xE, put v.toNat 0, 0⟩ = false :=
    flitWaits_false (fun _ _ => hcr) (fun _ => hs) (by rw [hkind]; decide) (fun _ h => by rw [hkind] at h; exact absurd h (by decide))
  have hv : (put v.toNat 0 : Line).extractLsb' 0 32 = v := by
    refine BitVec.eq_of_toNat_eq ?_
    rw [BitVec.extractLsb'_toNat, put, BitVec.toNat_ofNat, Nat.shiftLeft_zero, Nat.shiftRight_zero,
      Nat.mod_eq_of_lt (Nat.lt_of_lt_of_le v.isLt (Nat.pow_le_pow_right (by decide) (by decide))), Nat.mod_eq_of_lt v.isLt]
  have hserve : serveFlit ⟨withKind h 0xE, put v.toNat 0, 0⟩ (credited1 s) = takeRegwr (withKind h 0xE) v (credited1 s) := by
    unfold serveFlit
    rw [hkind, hv]
    rfl
  change execRegwr h v s = _
  rw [execRegwr, arriveFlit_c1 ha hr hc hin hwait, hserve, takeRegwr, flitOffset_withKind 0xE (by decide) h0, hdrTxid_withKind h (by decide)]

theorem regrd_answers {h : Word} (hs : serving s = true) (hc : 0 < s.noc.i1Out) (hin : s.noc.in1 = []) (hans : s.noc.answers = [])
    (hcr : 0 < s.noc.o1.held) (h0 : fld h 63 32 = 0) : ∃ t, exec (.regrd h) s = .next t ∧ t.pin.i1crd = true
      ∧ t.noc.o1.held + 1 = s.noc.o1.held
      ∧ t.pin.o1 = some ⟨flitHdr 0 (hdrTxid h).toNat 6, put (accessRead .noc (fld h 31 16) s).1.toNat 0, 0⟩ := by
  obtain ⟨-, hpin, hnoc, -, -⟩ := accessRead_keeps .noc (fld h 31 16) (credited1 s)
  have hexec := exec_regrd hs hc hin hcr h0
  rw [accessRead_value_credited1] at hexec
  generalize (accessRead .noc (fld h 31 16) (credited1 s)).2 = u at hexec hpin hnoc
  rw [answer_sent _ _ _ _ (by rw [hnoc]; exact hans) (by rw [hnoc]; exact hcr)] at hexec
  refine ⟨_, hexec, ?_, ?_, rfl⟩
  · change u.pin.i1crd = true
    rw [hpin]
    rfl
  · change u.noc.o1.held - 1 + 1 = s.noc.o1.held
    rw [hnoc]
    exact Nat.sub_add_cancel hcr

theorem regwr_answers {h : Word} (v : Reg) (hs : serving s = true) (hc : 0 < s.noc.i1Out) (hin : s.noc.in1 = []) (hans : s.noc.answers = [])
    (hcr : 0 < s.noc.o1.held) (h0 : fld h 63 32 = 0) : ∃ u t, exec (.regwr h v) s = .next t ∧ u = { s with pin := { s.pin with i1crd := true } }
      ∧ t.pin.o1 = some ⟨flitHdr 0 (hdrTxid h).toNat 5, 0, 0⟩ ∧ t.regs = (accessWrite .noc (fld h 31 16) v u).regs
      ∧ t.tnk = (accessWrite .noc (fld h 31 16) v u).tnk ∧ t.ctl = (accessWrite .noc (fld h 31 16) v u).ctl := by
  have hports := ports_accessWrite .noc (fld h 31 16) v (credited1 s)
  have hexec := exec_regwr v hs hc hin hcr h0
  change ∃ u t, _ ∧ u = credited1 s ∧ _
  refine ⟨_, _, hexec, rfl, ?_⟩
  generalize accessWrite .noc (fld h 31 16) v (credited1 s) = w at hports ⊢
  obtain ⟨hwans, hwo, -, -⟩ : w.noc.answers = s.noc.answers ∧ w.noc.o1 = s.noc.o1 ∧ w.noc.in1 = s.noc.in1 ∧ w.pin.svcAck = s.pin.svcAck := by
    simpa [ports, credited1] using hports
  rw [answer_sent _ _ _ _ (hwans.trans hans) (by rw [hwo]; exact hcr)]
  exact ⟨rfl, rfl, rfl, rfl⟩

/-! #### The service port -/

/-- A service access served: counted, acknowledged, with its read data. -/
def svcServed (d : Reg) (s : State) : State :=
  let u := rset 0xD030 (BitVec.ofNat 32 (min 0x7FFFFFFF ((rget s 0xD030).toNat + 1))) s
  { u with pin := { u.pin with svcAck := !u.pin.svcAck, svcRdata := d } }

theorem svcServed_parts (d : Reg) (s : State) : (svcServed d s).pin.svcAck = !s.pin.svcAck ∧ (svcServed d s).pin.svcRdata = d
    ∧ (∀ k, k ≠ 0xD030 → rget (svcServed d s) k = rget s k)
    ∧ rget (svcServed d s) 0xD030 = BitVec.ofNat 32 (min 0x7FFFFFFF ((rget s 0xD030).toNat + 1)) := by
  unfold svcServed
  generalize BitVec.ofNat 32 (min 0x7FFFFFFF ((rget s 0xD030).toNat + 1)) = x
  exact ⟨rfl, rfl, fun k hk => rget_rset_ne hk x s, rget_rset_self 0xD030 x s⟩

theorem exec_serviceAccess (wr : Bool) (off : BitVec 16) (v : Reg) (hs : serving s = true) (hq : s.tly.svcHeld = []) :
    exec (.serviceAccess wr off v) s = .next (if wr then svcServed s.pin.svcRdata (accessWrite .svc off.toNat v s)
      else svcServed (accessRead .svc off.toNat s).1 (accessRead .svc off.toNat s).2) := by
  set u : State := { s with tly := { s.tly with svcHeld := [.inl (wr, off, v)] } } with hu
  have hback : { u with tly := { u.tly with svcHeld := [] } } = s := by
    have htly : { s.tly with svcHeld := [] } = s.tly := by rw [← hq]
    change { s with tly := { s.tly with svcHeld := [] } } = s
    rw [htly]
  have hpump : pumpSvc u = (match serveSvc u with | some t => drainSvc 0 t | none => u) := rfl
  have hserve : serveSvc u = if serving u then
      some (let r := if wr then (u.pin.svcRdata, accessWrite .svc off.toNat v { u with tly := { u.tly with svcHeld := [] } })
          else accessRead .svc off.toNat { u with tly := { u.tly with svcHeld := [] } }
        svcServed r.1 r.2) else none := rfl
  have hserving : serving u = true := hs
  have hexec : exec (.serviceAccess wr off v) s = .next (pumpSvc { s with tly := { s.tly with svcHeld := s.tly.svcHeld ++ [.inl (wr, off, v)] } }) :=
    congrArg _ (if_pos (serving_parts hs).1)
  rw [hexec, hq, List.nil_append, ← hu, hpump, hserve, hback, if_pos hserving]
  cases wr <;> rfl

theorem serviceAccess_served (wr : Bool) (off : BitVec 16) (v : Reg) (hs : serving s = true) (hq : s.tly.svcHeld = []) :
    ∃ t, exec (.serviceAccess wr off v) s = .next t ∧ t.pin.svcAck = !s.pin.svcAck
        ∧ (wr = false → t.pin.svcRdata = (accessRead .svc off.toNat s).1
            ∧ rget t 0xD030 = BitVec.ofNat 32 (min 0x7FFFFFFF ((rget s 0xD030).toNat + 1)))
        ∧ (wr = true → t.pin.svcRdata = s.pin.svcRdata ∧ (∀ k, k ≠ 0xD030 → rget t k = rget (accessWrite .svc off.toNat v s) k)
            ∧ rget t 0xD030 = BitVec.ofNat 32 (min 0x7FFFFFFF ((rget (accessWrite .svc off.toNat v s) 0xD030).toNat + 1))) := by
  have hexec := exec_serviceAccess wr off v hs hq
  cases wr with
  | false =>
    obtain ⟨-, hpin, -, -, hreg⟩ := accessRead_keeps .svc off.toNat s
    obtain ⟨hack, hdata, -, hcnt⟩ := svcServed_parts (accessRead .svc off.toNat s).1 (accessRead .svc off.toNat s).2
    rw [hpin] at hack
    rw [hreg _ (by decide)] at hcnt
    exact ⟨_, hexec, hack, fun _ => ⟨hdata, hcnt⟩, nofun⟩
  | true =>
    have hports := ports_accessWrite .svc off.toNat v s
    obtain ⟨hack, hdata, hkeep, hcnt⟩ := svcServed_parts s.pin.svcRdata (accessWrite .svc off.toNat v s)
    have hsame : (accessWrite .svc off.toNat v s).pin.svcAck = s.pin.svcAck := (congrArg (fun p => p.2.2.2) hports :)
    rw [hsame] at hack
    exact ⟨_, hexec, hack, nofun, fun _ => ⟨hdata, hkeep, hcnt⟩⟩

/-! ### Counters -/

/-- No row of the register's tables but the plain write concerns the offset. -/
def isPlain (off : Nat) : Bool :=
  off % 4 == 0 && !([0x0000, 0x1000, 0x1004, 0x2060, 0x5000, 0x6010, 0x6014, 0x6028, 0x7000, 0x7004, 0x7008, 0x7020, 0x7100, 0x8000, 0x8018,
    0x9018, 0xA000, 0xA004, 0xA008, 0xB000, 0xC104, 0xD008, 0xD014, 0xD018, 0xD024, 0xD030, 0xD034, 0xD060, 0xD074, 0xD098, 0xE004].contains off)
  && !([(0x2000, 0x2060), (0x7140, 0x7174), (0xC000, 0xC02C), (0xC080, 0xC0AC), (0xD040, 0xD060)].any fun r => decide (r.1 ≤ off ∧ off < r.2))

theorem isPlain_counter {off : Nat} (h : off ∈ counterOffs) : isPlain off = true := by
  have hall : counterOffs.all isPlain = true := by decide
  exact List.all_eq_true.1 hall off h

theorem isPlain_parts {off : Nat} (h : isPlain off = true) : off % 4 = 0
    ∧ (∀ k ∈ [0x0000, 0x1000, 0x1004, 0x2060, 0x5000, 0x6010, 0x6014, 0x6028, 0x7000, 0x7004, 0x7008, 0x7020, 0x7100, 0x8000, 0x8018,
      0x9018, 0xA000, 0xA004, 0xA008, 0xB000, 0xC104, 0xD008, 0xD014, 0xD018, 0xD024, 0xD030, 0xD034, 0xD060, 0xD074, 0xD098, 0xE004], off ≠ k)
    ∧ ∀ r ∈ [(0x2000, 0x2060), (0x7140, 0x7174), (0xC000, 0xC02C), (0xC080, 0xC0AC), (0xD040, 0xD060)], ¬ (r.1 ≤ off ∧ off < r.2) := by
  rw [isPlain, Bool.and_eq_true, Bool.and_eq_true, Bool.not_eq_true', Bool.not_eq_true', beq_iff_eq] at h
  obtain ⟨⟨halign, hlist⟩, hrange⟩ := h
  refine ⟨halign, fun k hk heq => ?_, fun r hr hin => ?_⟩
  · rw [List.contains_eq_mem, decide_eq_false_iff_not, heq] at hlist
    exact hlist hk
  · rw [List.any_eq_false] at hrange
    exact hrange r hr (decide_eq_true hin)

theorem regEffect_plain {off : Nat} (h : isPlain off = true) (src : RegSrc) (v : Reg) (s : State) : regEffect src off v s = plainWrite src off v s := by
  obtain ⟨-, hne, hrange⟩ := isPlain_parts h
  unfold regEffect
  split
  case h_18 =>
    rw [if_neg (hrange (0x7140, 0x7174) (by decide)), if_neg (hrange (0xC000, 0xC02C) (by decide)),
      if_neg (hrange (0xC080, 0xC0AC) (by decide)), if_neg (hrange (0xD040, 0xD060) (by decide))]
  all_goals exact absurd rfl (hne _ (by decide))

theorem fieldRules_plain {off : Nat} (h : isPlain off = true) (s : State) (old new : Reg) : fieldRules s off old new = new := by
  obtain ⟨-, hne, hrange⟩ := isPlain_parts h
  unfold fieldRules
  split
  case h_15 => exact if_neg (hrange (0x2000, 0x2060) (by decide))
  all_goals exact absurd rfl (hne _ (by decide))

theorem keepBits_none (old new : Reg) : keepBits (~~~0xFFFFFFFF) old new = new := by
  have hmask : keepBits (~~~0xFFFFFFFF) old new = (old &&& 0#32) ||| (new &&& ~~~0#32) := rfl
  rw [hmask, BitVec.not_zero, BitVec.and_allOnes, BitVec.and_zero, BitVec.zero_or]

theorem regSpec_counter {off : Nat} (h : off ∈ counterOffs) : regSpec off = some ⟨0, 0xFFFFFFFF, 0⟩ :=
  if_pos (List.contains_iff_mem.2 h)

theorem plainWrite_counter {off : Nat} (h : off ∈ counterOffs) (src : RegSrc) (v : Reg) (s : State) : plainWrite src off v s = rset off v s := by
  unfold plainWrite
  rw [regSpec_counter h]
  dsimp only
  rw [if_neg (by simp), if_neg (by decide), fieldRules_plain (isPlain_counter h)]
  exact congrArg (rset off · s) (keepBits_none _ v)

theorem regExists_counter {off : Nat} (h : off ∈ counterOffs) : regExists off = true := by
  rw [regExists, regSpec_counter h, (isPlain_parts (isPlain_counter h)).1]
  rfl

/-! ### Writes and captures -/

theorem accessWrite_dead {src : RegSrc} {off : Nat} (v : Reg) (he : regExists off = true) (hd : regDead s off = true) :
    accessWrite src off v s = logDead off (setCapture src none s) := by
  unfold accessWrite
  rw [if_neg (by simp [he])]
  exact if_pos hd

/-- A write that is served has its register's effect, the capture of its source ended. -/
theorem accessWrite_live {src : RegSrc} {off : Nat} (v : Reg) (he : regExists off = true) (hd : regDead s off = false)
    (ho : regSwitchedOff s off = false) : accessWrite src off v s = regEffect src off v (setCapture src none s) := by
  have hd' : regDead (setCapture src none s) off = false := hd
  have ho' : regSwitchedOff (setCapture src none s) off = false := ho
  unfold accessWrite
  dsimp only
  rw [he, hd', ho']
  rfl

theorem act_now {src : RegSrc} (a : RegAct) (hs : serving s = true) (hi : srcIdle src s = true) : act src a s = doAct src a s := by
  rw [act, (serving_parts hs).1, hs, hi]
  rfl

theorem act_waits {src : RegSrc} (a : RegAct) (ha : awake s = true) (h : serving s = false ∨ srcIdle src s = false) :
    act src a s = holdAct src a s := by
  have hno : (serving s && srcIdle src s) = false := by rcases h with h | h <;> simp [h]
  rw [act, ha, hno]
  rfl

/-- What an access reads and what it changes, by what it finds. -/
theorem access_cases (src : RegSrc) (off : Nat) :
    (regExists off = false → (captured src s = none → (accessRead src off s).1 = 0) ∧ ∀ v, accessWrite src off v s = setCapture src none s)
    ∧ (regDead s off = true → (accessRead src off s).1 = 0
        ∧ Logged (setCapture src none s) (accessRead src off s).2 0x13 (regIsland off) (regIsland off) off 0)
    ∧ (regDead s off = false → captured src s = none → (accessRead src off s).1 = readReg s off)
    ∧ (∀ x, regDead s off = false → captured src s = some (off, x) → (accessRead src off s).1 = x)
    ∧ (∀ v : Reg, off ∈ counterOffs → regDead s off = false → regSwitchedOff s off = false →
        rget (accessWrite src off v s) off = v ∧ (∀ k, k ≠ off → rget (accessWrite src off v s) k = rget s k)
        ∧ accessWrite src off v s = { setCapture src none s with regs := (accessWrite src off v s).regs }) := by
  refine ⟨fun he => ⟨fun hc => ?_, fun v => ?_⟩, fun hd => ?_, fun hd hc => ?_, fun x hd hc => ?_, fun v hm hd ho => ?_⟩
  · have hd : regDead s off = false := by rw [regDead, he, Bool.false_and]
    rw [accessRead_live hd, liveValue_uncaptured hc, readReg, if_neg (by simp [he])]
  · unfold accessWrite
    exact if_pos (by simp [he])
  · rw [accessRead_dead hd]
    exact ⟨rfl, logErr_logged ..⟩
  · rw [accessRead_live hd, liveValue_uncaptured hc]
  · rw [accessRead_live hd, liveValue_captured hc]
  · rw [accessWrite_live v (regExists_counter hm) hd ho, regEffect_plain (isPlain_counter hm), plainWrite_counter hm]
    exact ⟨rget_rset_self .., fun k hk => rget_rset_ne hk v _, rfl⟩

theorem pairLowRead_captures (src : RegSrc) (off : BitVec 16) (h : Nat) (hs : serving s = true) (hi : srcIdle src s = true)
    (hp : pairHigh off.toNat = some h) (hd : regDead s off.toNat = false) : ∃ t, exec (.pairLowRead src off) s = .next t
      ∧ captured src t = some (h, readReg s h) ∧ (∀ x, x ≠ src → captured x t = captured x s)
      ∧ t = { s with ctl := { s.ctl with capture := t.ctl.capture } } := by
  have hexec : exec (.pairLowRead src off) s = .next (setCapture src (some (h, readReg s h)) s) := by
    have hread : doAct src ⟨off, none⟩ s = setCapture src (some (h, readReg s h)) s := by
      change (accessRead src off.toNat s).2 = _
      rw [accessRead_live hd, hp]
      rfl
    have hexec : exec (.pairLowRead src off) s = .next (if (pairHigh off.toNat).isSome then act src ⟨off, none⟩ s else s) := rfl
    rw [hexec, hp, Option.isSome_some, if_pos rfl, act_now _ hs hi, hread]
  exact ⟨_, hexec, captured_setCapture_self .., fun x hx => captured_setCapture_ne hx .., rfl⟩

/-! ### Before accesses are served -/

theorem serving_off (h : s.ctl.service = false) : serving s = false := by simp [serving, h]

theorem access_waits (ha : awake s = true) (hsv : s.ctl.service = false) (hcmd : s.tly.cmdHeld = []) (hsvc : s.tly.svcHeld = [])
    (off : BitVec 16) (v : Reg) (wr : Bool) : exec (.registerReadCmd off) s = .next { s with tly := { s.tly with cmdHeld := [.regRead off] } }
      ∧ exec (.registerWrite off v) s = .next { s with tly := { s.tly with cmdHeld := [.regWrite off v] } }
      ∧ exec (.serviceAccess wr off v) s = .next { s with tly := { s.tly with svcHeld := [.inl (wr, off, v)] } } := by
  have hno (u : State) (hc : u.ctl = s.ctl) : ¬ serving u = true := by
    have hu := serving_off (s := u) (by rw [hc, hsv])
    simp [hu]
  have hread : serveCmd (heldCmd (.regRead off) s) = none := if_neg (hno (heldCmd (.regRead off) s) rfl)
  have hwrite : serveCmd (heldCmd (.regWrite off v) s) = none := if_neg (hno (heldCmd (.regWrite off v) s) rfl)
  refine ⟨congrArg _ (arriveCmd_waits ha hcmd hread), congrArg _ (arriveCmd_waits ha hcmd hwrite), ?_⟩
  set u : State := { s with tly := { s.tly with svcHeld := [.inl (wr, off, v)] } } with hu
  have hpump : pumpSvc u = (match serveSvc u with | some t => drainSvc 0 t | none => u) := rfl
  have hserve : serveSvc u = none := if_neg (hno _ rfl)
  have hexec : exec (.serviceAccess wr off v) s = .next (pumpSvc { s with tly := { s.tly with svcHeld := s.tly.svcHeld ++ [.inl (wr, off, v)] } }) :=
    congrArg _ (if_pos ha)
  rw [hexec, hsvc, List.nil_append, ← hu, hpump, hserve]

theorem flitWaits_unserved {f : Flit} (hsv : s.ctl.service = false) (hk : hdrKind f.hdr = 0xD ∨ hdrKind f.hdr = 0xE) :
    flitWaits (arrived1 f s) f = true := by
  have hno : serving (arrived1 f s) = false := serving_off hsv
  have hreg : (hdrKind f.hdr == 0xD || hdrKind f.hdr == 0xE) = true := by simpa using hk
  unfold flitWaits
  dsimp only
  rw [hno, hreg]
  simp

end

/-- Settles O38, source by source. -/
theorem registerAccessesServed : Obligations.RegisterAccessesServed := by
  refine ⟨fun s hs => ⟨fun off hq hcur hsts => registerReadCmd_answers off hs hq hcur hsts, fun off v hq => exec_registerWrite off v hs hq,
    fun h v hc hin hans hcr h0 => ⟨regrd_answers hs hc hin hans hcr h0, regwr_answers v hs hc hin hans hcr h0⟩,
    fun wr off v hq => serviceAccess_served wr off v hs hq, fun src off => access_cases src off,
    fun src off h hi hp hd => pairLowRead_captures src off h hs hi hp hd⟩,
    fun s ha hsv hcmd hsvc hin hc hr => ⟨fun off v wr => access_waits ha hsv hcmd hsvc off v wr, fun h v => ?_⟩⟩
  have hkd : hdrKind (withKind h 0xD) = 0xD := hdrKind_withKind h (by decide)
  have hke : hdrKind (withKind h 0xE) = 0xE := hdrKind_withKind h (by decide)
  exact ⟨⟨withKind h 0xD, 0, 0⟩, ⟨withKind h 0xE, put v.toNat 0, 0⟩,
    congrArg _ (arriveFlit_c1_waits ha hr hc hin (flitWaits_unserved hsv (.inl hkd))), hkd,
    congrArg _ (arriveFlit_c1_waits ha hr hc hin (flitWaits_unserved hsv (.inr hke))), hke⟩

end Sys2Proof.Proofs
end

section
/-! SUPPORT. Proofs about the acting writes of the Tinker's and the window's registers (R10, R53, R360, R369, R371, R372, R377, R378). -/

namespace Sys2Proof.Proofs

open Sys2Proof.Machine Sys2Proof.Laws

section
variable {s : State} {src : RegSrc} {v : Reg}

/-- A write that acts now has its register's effect on the state with the source's capture ended. -/
theorem actWrite_now {off : Nat} (hs : serving s = true) (hi : srcIdle src s = true) (hoff : off < 2 ^ 16) (he : regExists off = true)
    (hd : regDead s off = false) (ho : regSwitchedOff s off = false) : actWrite src off v s = regEffect src off v (setCapture src none s) := by
  have htoNat : (BitVec.ofNat 16 off).toNat = off := by rw [BitVec.toNat_ofNat, Nat.mod_eq_of_lt hoff]
  have hdo : doAct src ⟨BitVec.ofNat 16 off, some v⟩ s = accessWrite src (BitVec.ofNat 16 off).toNat v s := rfl
  rw [actWrite, act_now _ hs hi, hdo, htoNat, accessWrite_live v he hd ho]

theorem actWrite_waits {off : Nat} (ha : awake s = true) (h : serving s = false ∨ srcIdle src s = false) :
    actWrite src off v s = holdAct src ⟨BitVec.ofNat 16 off, some v⟩ s := act_waits _ ha h

theorem regDead_islC {off : Nat} (hs : serving s = true) (h : regIsland off = islC) : regDead s off = false := by
  obtain ⟨-, -, hr⟩ := serving_parts hs
  rw [running, Bool.and_eq_true] at hr
  rw [regDead, h, hr.2, Bool.not_true, Bool.and_false]

theorem regSwitchedOff_islC {off : Nat} (h : regIsland off = islC) : regSwitchedOff s off = false := by
  have hgroup : islGroup islC = none := rfl
  unfold regSwitchedOff
  dsimp only
  rw [h, hgroup]
  rfl

/-- A write at a register of island C that acts now. -/
theorem actWrite_islC {off : Nat} (hs : serving s = true) (hi : srcIdle src s = true) (hoff : off < 2 ^ 16) (he : regExists off = true)
    (h : regIsland off = islC) : actWrite src off v s = regEffect src off v (setCapture src none s) :=
  actWrite_now hs hi hoff he (regDead_islC hs h) (regSwitchedOff_islC h)

/-! ### The log, the trace and the shadow map -/

theorem writeTrcmark_traced (h0 : bit (rget s 0xD080) 0 = true) (h31 : bit (rget s 0xD080) 31 = true) (hlen : s.tnk.trace.length < 1024) :
    (writeTrcmark v s).tnk.trace = s.tnk.trace ++ [⟨stamp s islC, islC, 14, 0, 0, v.toNat⟩] := by
  unfold writeTrcmark traceEv
  dsimp only
  rw [if_pos (by rw [h0, h31]; rfl), if_pos hlen]

theorem writeShadow_parts (g : Nat) (v : Reg) (s : State) : let t := writeShadow g v s
    tget 0 t.tnk.shadow g = (if bit v 31 = true then tget 0 s.tnk.shadow g &&& 0x7FFFFFFF else tget 0 s.tnk.shadow g)
    ∧ (∀ k, k ≠ g → tget 0 t.tnk.shadow k = tget 0 s.tnk.shadow k) ∧ t = { s with tnk := { s.tnk with shadow := t.tnk.shadow } } := by
  unfold writeShadow
  cases bit v 31 with
  | false => exact ⟨rfl, fun _ _ => rfl, rfl⟩
  | true => exact ⟨tget_tset_self .., fun k hk => tget_tset_ne _ _ hk _, rfl⟩

theorem writeRingerr_parts (v : Reg) (s : State) : let t := writeRingerr v s
    rget t 0x8018 = (if bit v 16 = true then rget s 0x8018 &&& 0xFFFEFFFF else rget s 0x8018)
    ∧ (∀ k, k ≠ 0x8018 → rget t k = rget s k) ∧ t = { s with regs := t.regs } := by
  unfold writeRingerr
  generalize rget s 0x8018 &&& 0xFFFEFFFF = x
  cases bit v 16 with
  | false => exact ⟨rfl, fun _ _ => rfl, rfl⟩
  | true => exact ⟨rget_rset_self 0x8018 x s, fun k hk => rget_rset_ne hk x s, rfl⟩

theorem regEffect_shadow {off g : Nat} (hg : g < 8) (hoff : off = 0xD040 + 4 * g) : regEffect src off v s = writeShadow g v s := by
  have hidx : (off - 0xD040) / 4 = g := by omega
  unfold regEffect
  split
  case h_18 => rw [if_neg (by omega), if_neg (by omega), if_neg (by omega), if_pos (by omega), hidx]
  all_goals omega

/-! ### Fuses -/

theorem extractLsb'_and_byte (v : Reg) : (v &&& 0xFF).extractLsb' 0 8 = v.extractLsb' 0 8 := by
  refine BitVec.eq_of_getLsbD_eq fun i hi => ?_
  have hbit : ∀ j, j < 8 → (0xFF : Reg).getLsbD j = true := by decide
  rw [BitVec.getLsbD_extractLsb', BitVec.getLsbD_extractLsb', BitVec.getLsbD_and, Nat.zero_add, hbit i hi, Bool.and_true]

theorem writeFuseaddr_busy (hf : s.tnk.fuseReady = false) : let t := writeFuseaddr v s
    rget t 0xD018 = v &&& 0xFF ∧ t.tnk = { s.tnk with fuseBusy := true } ∧ t.pin = s.pin := by
  unfold writeFuseaddr
  dsimp only
  rw [if_pos (by
    change (s.tnk.fuseBusy || !s.tnk.fuseReady) = true
    rw [hf, Bool.not_false, Bool.or_true])]
  generalize v &&& 0xFF = x
  exact ⟨rget_rset_self 0xD018 x _, rfl, rfl⟩

theorem sendFuse_parts (s : State) : (∀ k, rget (sendFuse s) k = rget s k) ∧ (sendFuse s).tnk = s.tnk
    ∧ (sendFuse s).pin = { s.pin with fuseReq := !s.pin.fuseReq, fuseAddr := (rget s 0xD018).extractLsb' 0 8 } := ⟨fun _ => rfl, rfl, rfl⟩

theorem writeFuseaddr_sent (hb : s.tnk.fuseBusy = false) (hf : s.tnk.fuseReady = true) : let t := writeFuseaddr v s
    rget t 0xD018 = v &&& 0xFF ∧ t.tnk = { s.tnk with fuseBusy := true }
    ∧ t.pin = { s.pin with fuseReq := !s.pin.fuseReq, fuseAddr := v.extractLsb' 0 8 } := by
  unfold writeFuseaddr
  dsimp only
  rw [if_neg (by
    change ¬ (s.tnk.fuseBusy || !s.tnk.fuseReady) = true
    rw [hb, hf]
    decide)]
  set x : Reg := v &&& 0xFF with hx
  have hself : rget (rset 0xD018 x { s with tnk := { s.tnk with fuseBusy := true } }) 0xD018 = x := rget_rset_self ..
  have htnk : (rset 0xD018 x { s with tnk := { s.tnk with fuseBusy := true } }).tnk = { s.tnk with fuseBusy := true } := rfl
  have hpin : (rset 0xD018 x { s with tnk := { s.tnk with fuseBusy := true } }).pin = s.pin := rfl
  generalize rset 0xD018 x { s with tnk := { s.tnk with fuseBusy := true } } = u at hself htnk hpin ⊢
  obtain ⟨hreg, htnk', hpin'⟩ := sendFuse_parts u
  exact ⟨(hreg _).trans hself, htnk'.trans htnk, by rw [hpin', hself, hpin, hx, extractLsb'_and_byte]⟩

/-! ### FAB_BOOTLOCK -/

theorem bit_or_two (r : Reg) (i : Nat) : bit (r ||| 2) i = if i = 1 then true else bit r i := by
  have htwo : (2#32).getLsbD i = decide (i = 1) := by
    by_cases hi : i < 32
    · have hall : ∀ j, j < 32 → (2#32).getLsbD j = decide (j = 1) := by decide
      exact hall i hi
    · rw [BitVec.getLsbD_of_ge _ _ (by omega), decide_eq_false (by omega)]
  change (r ||| 2#32).getLsbD i = if i = 1 then true else r.getLsbD i
  rw [BitVec.getLsbD_or, htwo]
  by_cases hi : i = 1 <;> simp [hi]

theorem writeBootlock_cmden (hl : bit v 0 = false) (hv : bit v 1 = true) (s : State) : writeBootlock src v s
    = if s.tnk.bistDone && bit (rget s 0x3030) 0 && !mapBad s then rset 0xE004 (rget s 0xE004 ||| 2) s else logRefused src 0xE004 s := by
  rw [writeBootlock, writeLock, if_neg (by simp [hl]), writeCmden, if_neg (by simp [hv])]

theorem writeBootlock_lock (hv : bit v 1 = false) (s : State) : writeBootlock src v s
    = if bit v 0 then rset 0xE004 (rget s 0xE004 ||| 1) s else s := by
  rw [writeBootlock, writeCmden, if_pos (by simp [hv])]
  rfl

theorem rset_parts (off : Nat) (x : Reg) (s : State) : let t := rset off x s
    rget t off = x ∧ (∀ k, k ≠ off → rget t k = rget s k) ∧ t = { s with regs := t.regs } :=
  ⟨rget_rset_self .., fun _ hk => rget_rset_ne hk .., rfl⟩

/-! ### The repair map -/

theorem writeRmdata_locked (h : lockedDown s = true) : writeRmdata src v s = logLocked src 0xD014 s := if_pos h

theorem writeRmdata_booted (h : lockedDown s = false) (hb : booted s = true) : writeRmdata src v s = logRefused src 0xD014 s := by
  rw [writeRmdata, if_neg (by simp [h]), if_pos hb]

theorem writeRmdata_assigns {k l : Nat} (h : lockedDown s = false) (hb : booted s = false) (hsel : rmSelected s = some (k, l)) :
    writeRmdata src v s = (assignMap k l (fld v 15 0) s).getD (logRefused src 0xD014 s) := by
  rw [writeRmdata, if_neg (by simp [h]), if_neg (by simp [hb]), hsel]
  dsimp only
  cases assignMap k l (fld v 15 0) s <;> rfl

theorem rmSelected_lt {k l : Nat} (h : rmSelected s = some (k, l)) : l < kindSize k := by
  unfold rmSelected at h
  dsimp only at h
  split at h
  · next hk =>
    obtain ⟨rfl, rfl⟩ := Prod.mk.inj (Option.some.inj h)
    exact hk.2
  · cases h

end

/-- Settles O59, register by register. -/
theorem tinkerWritesApply : Obligations.TinkerWritesApply := by
  intro s src v
  refine ⟨fun ha h p hp => ?_, fun hs hi => ?_⟩
  · simp only [List.mem_cons, List.not_mem_nil, or_false] at hp
    rcases hp with rfl | rfl | rfl | rfl | rfl | rfl | rfl | rfl | rfl <;> exact congrArg _ (actWrite_waits ha h)
  intro quiet
  have hexec {i : Instr} (off : Nat) (hx : exec i s = .next (actWrite src off v s)) (hoff : off < 2 ^ 16) (he : regExists off = true)
      (hc : regIsland off = islC) : exec i s = .next (regEffect src off v quiet) := by rw [hx, actWrite_islC hs hi hoff he hc]
  have hlogpop := hexec (i := .tnkLogpopWrite src v) 0xD074 rfl (by decide) (by decide) (by decide)
  have hlogcnt := hexec (i := .tnkLogcntWrite src v) 0xD060 rfl (by decide) (by decide) (by decide)
  have htrcmark := hexec (i := .tnkTrcmarkWrite src v) 0xD098 rfl (by decide) (by decide) (by decide)
  have hringerr := hexec (i := .ringerrValidClear src v) 0x8018 rfl (by decide) (by decide) (by decide)
  have hskewgo := hexec (i := .skewgoWrite src v) 0xD024 rfl (by decide) (by decide) (by decide)
  have hfuse := hexec (i := .tnkFuseaddrWrite src v) 0xD018 rfl (by decide) (by decide) (by decide)
  have hcmden := hexec (i := .cmdenWrite src v) 0xE004 rfl (by decide) (by decide) (by decide)
  have hlock := hexec (i := .lockWrite src v) 0xE004 rfl (by decide) (by decide) (by decide)
  have hrmdata := hexec (i := .tnkRmdataWrite src v) 0xD014 rfl (by decide) (by decide) (by decide)
  refine ⟨⟨_, hlogpop, ?_⟩, hlogcnt, ⟨_, htrcmark, traceEv_onlyTrace .., fun h0 h31 hlen => writeTrcmark_traced h0 h31 hlen⟩, fun g => ?_,
    ⟨_, hringerr, writeRingerr_parts v quiet⟩, ⟨_, hskewgo, ?_⟩, fun hb hf => ⟨_, hfuse, writeFuseaddr_sent (s := quiet) hb hf⟩,
    fun hf => ⟨_, hfuse, writeFuseaddr_busy (s := quiet) hf⟩, fun hl hv hbist hskew hmap => ⟨_, hcmden, ?_⟩, fun hl hv h => ⟨_, hcmden, ?_⟩,
    fun hl hv => ⟨_, hlock, ?_⟩, fun hl hv => ?_, fun hl => ⟨_, hrmdata, ?_⟩, fun hl hb => ⟨_, hrmdata, ?_⟩, fun k l hl hb hsel => ?_⟩
  · change writeLogpop v quiet = _
    unfold writeLogpop
    cases bit v 0 <;> rfl
  · have hg : ∀ g : BitVec 3, regExists (0xD040 + 4 * g.toNat) = true ∧ regIsland (0xD040 + 4 * g.toNat) = islC := by decide
    have hlt := g.isLt
    have hx := hexec (i := .shadowValidClear src g v) (0xD040 + 4 * g.toNat) rfl (by omega) (hg g).1 (hg g).2
    rw [regEffect_shadow hlt rfl] at hx
    exact ⟨_, hx, writeShadow_parts g.toNat v quiet⟩
  · change writeBootctl v quiet = _
    unfold writeBootctl
    cases bit v 0
    · rw [Bool.or_false]
      rfl
    · rw [Bool.or_true]
      rfl
  · change let t := writeBootlock src v quiet
      booted t = true ∧ bit (rget t 0xE004) 0 = bit (rget quiet 0xE004) 0 ∧ (∀ k, k ≠ 0xE004 → rget t k = rget quiet k) ∧ t = { quiet with regs := t.regs }
    have hok : (quiet.tnk.bistDone && bit (rget quiet 0x3030) 0 && !mapBad quiet) = true := by
      change (s.tnk.bistDone && bit (rget s 0x3030) 0 && !mapBad s) = true
      simp [hbist, hskew, hmap]
    rw [writeBootlock_cmden hl hv, if_pos hok]
    obtain ⟨hself, hkeep, hframe⟩ := rset_parts 0xE004 (rget quiet 0xE004 ||| 2) quiet
    refine ⟨?_, ?_, hkeep, hframe⟩
    · rw [booted, hself, bit_or_two, if_pos rfl]
    · rw [hself, bit_or_two, if_neg (by decide)]
  · have hno : (quiet.tnk.bistDone && bit (rget quiet 0x3030) 0 && !mapBad quiet) = false := by
      change (s.tnk.bistDone && bit (rget s 0x3030) 0 && !mapBad s) = false
      rcases h with h | h | h <;> simp [h]
    change Logged quiet (writeBootlock src v quiet) _ _ _ _ _
    rw [writeBootlock_cmden hl hv, if_neg (by simp [hno])]
    exact logErr_logged ..
  · change let t := writeBootlock src v quiet
      lockedDown t = true ∧ booted t = booted quiet ∧ (∀ k, k ≠ 0xE004 → rget t k = rget quiet k) ∧ t = { quiet with regs := t.regs }
    rw [writeBootlock_lock hv, if_pos hl]
    obtain ⟨hself, hkeep, hframe⟩ := rset_parts 0xE004 (rget quiet 0xE004 ||| 1) quiet
    refine ⟨?_, ?_, hkeep, hframe⟩
    · rw [lockedDown, hself, bit_or_one, if_pos rfl]
    · rw [booted, hself, bit_or_one, if_neg (by decide)]
      rfl
  · rw [hlock]
    exact congrArg _ ((writeBootlock_lock hv quiet).trans (if_neg (by simp [hl])))
  · change Logged quiet (writeRmdata src v quiet) _ _ _ _ _
    rw [writeRmdata_locked (s := quiet) hl]
    exact logErr_logged ..
  · change Logged quiet (writeRmdata src v quiet) _ _ _ _ _
    rw [writeRmdata_booted (s := quiet) hl hb]
    exact logErr_logged ..
  · have hassign := writeRmdata_assigns (s := quiet) (src := src) (v := v) hl hb hsel
    refine ⟨fun hp h0 => ?_, fun h => ⟨_, hrmdata, ?_⟩⟩
    · have hassigned : writeRmdata src v quiet = setPhys k l (fld v 15 0) (displaced k l (fld v 15 0) quiet) := by
        rw [hassign, assignMap_some (s := quiet) (rmSelected_lt hsel) hp h0, Option.getD_some]
      exact ⟨_, hrmdata.trans (congrArg _ hassigned), physOf_assigned (rmSelected_lt hsel) hp quiet⟩
    · change Logged quiet (writeRmdata src v quiet) _ _ _ _ _
      rw [hassign, assignMap_none (s := quiet) (.inr h)]
      exact logErr_logged ..
end Sys2Proof.Proofs
end

section
/-! SUPPORT. Proofs about the acting writes of the datapath and control registers (R111, R126, R195, R210, R255, R256, R296, R330, R346, R387). -/

namespace Sys2Proof.Proofs

open Sys2Proof.Machine Sys2Proof.Laws

section
variable {s : State} {src : RegSrc} {v : Reg}

/-! ### Allocation windows -/

theorem fld_and_low (v : Reg) {hi lo : Nat} (hle : lo ≤ hi) (h : hi < 16) : fld (v &&& 0xFFFF) hi lo = fld v hi lo := by
  refine Nat.eq_of_testBit_eq fun i => ?_
  have hall : ∀ j, j < 16 → (0xFFFF#32).getLsbD j = true := by decide
  simp only [fld, Nat.testBit_mod_two_pow, Nat.testBit_shiftRight, BitVec.testBit_toNat]
  by_cases hi' : i < hi - lo + 1
  · rw [BitVec.getLsbD_and]
    have hmask : (0xFFFF : Reg).getLsbD (lo + i) = true := hall _ (by omega)
    rw [hmask, Bool.and_true]
  · rw [decide_eq_false hi', Bool.false_and, Bool.false_and]

/-- The control bits of a window as the staging register holds them. -/
theorem windowBits (a b c : Bool) : let r := BitVec.ofNat 32 (b2n a + 2 * b2n b + 8 * b2n c)
    bit r 0 = a ∧ (fld r 2 1 == 1) = b ∧ bit r 3 = c := by
  cases a <;> cases b <;> cases c <;> decide

theorem toNat_split {x : Nat} (h : x < 2 ^ 64) :
    (BitVec.ofNat 32 (x % 2 ^ 32)).toNat + 2 ^ 32 * (BitVec.ofNat 32 (x / 2 ^ 32)).toNat = x := by
  rw [BitVec.toNat_ofNat, BitVec.toNat_ofNat]
  omega

theorem stagedWindow_loadStaging {w : Window} (hb : w.base < 2 ^ 64) (hz : w.size < 2 ^ 64) (s : State) : stagedWindow (loadStaging w s) = w := by
  obtain ⟨valid, hay, xl, base, size⟩ := w
  obtain ⟨hvalid, hhay, hxl⟩ := windowBits valid hay xl
  have hctl : rget (loadStaging ⟨valid, hay, xl, base, size⟩ s) 0x6014 = BitVec.ofNat 32 (b2n valid + 2 * b2n hay + 8 * b2n xl) := by
    simp only [loadStaging, rget_rset_self]
  have hb0 : rget (loadStaging ⟨valid, hay, xl, base, size⟩ s) 0x6018 = BitVec.ofNat 32 (base % 2 ^ 32) := by
    simp only [loadStaging]
    rw [rget_rset_ne (by decide), rget_rset_self]
  have hb1 : rget (loadStaging ⟨valid, hay, xl, base, size⟩ s) 0x601C = BitVec.ofNat 32 (base / 2 ^ 32) := by
    simp only [loadStaging]
    rw [rget_rset_ne (by decide), rget_rset_ne (by decide), rget_rset_self]
  have hz0 : rget (loadStaging ⟨valid, hay, xl, base, size⟩ s) 0x6020 = BitVec.ofNat 32 (size % 2 ^ 32) := by
    simp only [loadStaging]
    rw [rget_rset_ne (by decide), rget_rset_ne (by decide), rget_rset_ne (by decide), rget_rset_self]
  have hz1 : rget (loadStaging ⟨valid, hay, xl, base, size⟩ s) 0x6024 = BitVec.ofNat 32 (size / 2 ^ 32) := by
    simp only [loadStaging]
    rw [rget_rset_ne (by decide), rget_rset_ne (by decide), rget_rset_ne (by decide), rget_rset_ne (by decide), rget_rset_self]
  unfold stagedWindow
  dsimp only
  rw [hctl, hb0, hb1, hz0, hz1, hvalid, hhay, hxl, toNat_split hb, toNat_split hz]

theorem rget_loadStaging {k : Nat} (h : ¬ (0x6014 ≤ k ∧ k ≤ 0x6024)) (w : Window) (s : State) : rget (loadStaging w s) k = rget s k := by
  simp only [loadStaging]
  rw [rget_rset_ne (by omega), rget_rset_ne (by omega), rget_rset_ne (by omega), rget_rset_ne (by omega), rget_rset_ne (by omega)]

theorem loadStaging_frame (w : Window) (s : State) : loadStaging w s = { s with regs := (loadStaging w s).regs } := rfl

theorem writeWsel_parts (v : Reg) (s : State) : let t := writeWsel v s
    rget t 0x6010 = v &&& 0xFF ∧ (let w := windowOf s (fld v 7 0); w.base < 2 ^ 64 → w.size < 2 ^ 64 → stagedWindow t = w)
      ∧ (∀ k, ¬ (0x6010 ≤ k ∧ k ≤ 0x6024) → rget t k = rget s k) ∧ t = { s with regs := t.regs } := by
  have hsel : writeWsel v s = loadStaging (windowOf s (fld v 7 0)) (rset 0x6010 (v &&& 0xFF) s) := rfl
  obtain ⟨hself, hkeep, hframe⟩ := rset_parts 0x6010 (v &&& 0xFF) s
  rw [hsel]
  generalize rset 0x6010 (v &&& 0xFF) s = u at hself hkeep hframe ⊢
  refine ⟨?_, fun hb hz => stagedWindow_loadStaging hb hz _, fun k hk => ?_, ?_⟩
  · rw [rget_loadStaging (by decide), hself]
  · rw [rget_loadStaging (by omega), hkeep k (by omega)]
  · rw [loadStaging_frame, hframe]

/-- A commit of a window that ends in range. -/
theorem commitWindow_fits (h : (stagedWindow s).base + (stagedWindow s).size ≤ 2 ^ 22) : let t := commitWindow s
    let sel := fld (rget s 0x6010) 7 0
    windowOf t sel = stagedWindow s ∧ (∀ k, k ≠ sel → windowOf t k = windowOf s k) ∧ t = { s with asy := { s.asy with windows := t.asy.windows } } := by
  have hno : ¬ ((stagedWindow s).hay && decide (2 ^ 22 < (stagedWindow s).base + (stagedWindow s).size)
      || !(stagedWindow s).hay && !(stagedWindow s).xl && decide (2 ^ 48 < (stagedWindow s).base + (stagedWindow s).size)
      || decide (2 ^ 64 < (stagedWindow s).base + (stagedWindow s).size)) = true := by
    rw [decide_eq_false (by omega), decide_eq_false (by omega), decide_eq_false (by omega)]
    simp
  unfold commitWindow
  dsimp only
  rw [if_neg hno]
  exact ⟨tget_tset_self .., fun k hk => tget_tset_ne _ _ hk _, rfl⟩

theorem commitWindow_refused (h : 2 ^ 64 < (stagedWindow s).base + (stagedWindow s).size) :
    commitWindow s = unusable islH 0 0x6028 (fld (rget s 0x6010) 7 0) s :=
  if_pos (by rw [decide_eq_true h, Bool.or_true])

/-! ### MIL_SEED -/

/-- What one group does at a write of MIL_SEED. -/
def seedStep (s : State) (g : Nat) : State :=
  if (groupOf s g).ready then reseedGroup g s else { s with mil := { s.mil with reseed := tset false s.mil.reseed g true } }

/-- What the seeding of group `g` reads and writes, with the generator at `k`, which reads `d` where none is listed. -/
def seedView (g : Nat) (d : BitVec 32) (k : Nat) (s : State) : Bool × Reg × Reg × Bool × BitVec 32 :=
  ((groupOf s g).ready, rget s 0x1004, tget 1 s.mil.seeds g, tget false s.mil.reseed g, tget d s.mil.gens k)

/-- The view after its group's step. -/
def seeded (d : BitVec 32) (x : Bool × Reg × Reg × Bool × BitVec 32) : Bool × Reg × Reg × Bool × BitVec 32 :=
  if x.1 then (true, x.2.1, x.2.1, false, d) else (false, x.2.1, x.2.2.1, true, x.2.2.2.2)

theorem seedView_seedStep {g k : Nat} (hk : k / 288 = g) (d : BitVec 32) (s : State) (i : Nat) :
    seedView g d k (seedStep s i) = if i = g then seeded d (seedView g d k s) else seedView g d k s := by
  have hgens (j : Nat) : tget d (s.mil.gens.filter fun p => p.1 / 288 != j) k = if j = g then d else tget d s.mil.gens k := by
    by_cases hjg : j = g
    · rw [if_pos hjg, tget_of_notMem]
      intro p hp hpk
      rw [List.mem_filter, hpk, hk, hjg, bne_self_eq_false] at hp
      exact absurd hp.2 (by decide)
    · rw [if_neg hjg]
      exact tget_filter d (fun _ => by rw [hk]; exact bne_iff_ne.2 (Ne.symm hjg)) _
  have hready (u : State) (hu : u.shf = s.shf) : (groupOf u g).ready = (groupOf s g).ready := by rw [groupOf, hu, groupOf]
  unfold seedStep
  by_cases hig : i = g
  · subst hig
    rw [if_pos rfl]
    cases hr : (groupOf s i).ready with
    | true =>
      rw [if_pos rfl]
      simp only [seedView, seeded, hready (reseedGroup i s) rfl, hr, if_true]
      simp only [reseedGroup, tget_tset_self, hgens, if_true]
      rfl
    | false =>
      rw [if_neg nofun]
      simp only [seedView, seeded, hready { s with mil := { s.mil with reseed := tset false s.mil.reseed i true } } rfl, hr, tget_tset_self]
      rfl
  · rw [if_neg hig]
    split
    · simp only [seedView, hready (reseedGroup i s) rfl]
      simp only [reseedGroup, tget_tset_ne _ _ (Ne.symm hig), hgens, if_neg hig]
      rfl
    · simp only [seedView, hready { s with mil := { s.mil with reseed := tset false s.mil.reseed i true } } rfl, tget_tset_ne _ _ (Ne.symm hig)]
      rfl

theorem seedStep_frame (l : List Nat) (s : State) : let t := l.foldl seedStep s
    (∀ k, rget t k = rget s k) ∧ t = { s with mil := t.mil } := by
  induction l generalizing s with
  | nil => exact ⟨fun _ => rfl, rfl⟩
  | cons g r ih =>
    have hstep : seedStep s g = { s with mil := (seedStep s g).mil } := by
      unfold seedStep
      split <;> rfl
    obtain ⟨hreg, hframe⟩ := ih (seedStep s g)
    refine ⟨fun k => (hreg k).trans ?_, ?_⟩
    · rw [hstep]
      rfl
    · rw [List.foldl_cons, hframe, hstep]

theorem writeSeed_eq (v : Reg) (s : State) : writeSeed v s = (List.range 8).foldl seedStep (rset 0x1004 v s) := rfl

theorem seedView_writeSeed {g k : Nat} (hg : g < 8) (hk : k / 288 = g) (d : BitVec 32) (s : State) :
    seedView g d k (writeSeed v s) = seeded d (seedView g d k (rset 0x1004 v s)) := by
  rw [writeSeed_eq]
  exact foldl_range_at (seedView g d k) (seeded d) seedStep hg (fun u i _ => seedView_seedStep hk d u i) _

theorem writeSeed_parts (v : Reg) (s : State) : let t := writeSeed v s
    rget t 0x1004 = v ∧ (∀ k, k ≠ 0x1004 → rget t k = rget s k)
      ∧ (∀ g, g < 8 → (groupOf s g).ready = true → tget 1 t.mil.seeds g = v ∧ ∀ b l, b / 9 = g → l < 32 → genOf t b l = genSeed v.toNat b l)
      ∧ (∀ g, g < 8 → (groupOf s g).ready = false → tget false t.mil.reseed g = true ∧ tget 1 t.mil.seeds g = tget 1 s.mil.seeds g)
      ∧ t = { s with regs := t.regs, mil := t.mil } := by
  obtain ⟨hself, hkeep, -⟩ := rset_parts 0x1004 v s
  obtain ⟨hreg, hframe⟩ := seedStep_frame (List.range 8) (rset 0x1004 v s)
  rw [← writeSeed_eq] at hreg hframe
  have hview (g k : Nat) (hg : g < 8) (hk : k / 288 = g) (d : BitVec 32) : seedView g d k (writeSeed v s)
      = seeded d ((groupOf s g).ready, v, tget 1 s.mil.seeds g, tget false s.mil.reseed g, tget d s.mil.gens k) := by
    have hx : seedView g d k (rset 0x1004 v s)
        = ((groupOf s g).ready, rget (rset 0x1004 v s) 0x1004, tget 1 s.mil.seeds g, tget false s.mil.reseed g, tget d s.mil.gens k) := rfl
    rw [seedView_writeSeed hg hk, hx, hself]
  generalize writeSeed v s = t at *
  have hindex {b l : Nat} (hl : l < 32) : (32 * b + l) / 288 = b / 9 := by omega
  refine ⟨(hreg _).trans hself, fun k hk => (hreg k).trans (hkeep k hk), fun g hg hr => ⟨?_, fun b l hb hl => ?_⟩, fun g hg hr => ?_, ?_⟩
  · have hv := hview g (288 * g) hg (by omega) 0
    rw [hr] at hv
    exact congrArg (fun x => x.2.2.1) hv
  · have hv := hview g (32 * b + l) hg ((hindex hl).trans hb) (genSeed v.toNat b l)
    rw [hr] at hv
    have hseed : tget 1 t.mil.seeds g = v := congrArg (fun x => x.2.2.1) hv
    rw [genOf, hb, hseed]
    exact congrArg (fun x => x.2.2.2.2) hv
  · have hv := hview g (288 * g) hg (by omega) 0
    rw [hr] at hv
    exact ⟨congrArg (fun x => x.2.2.2.1) hv, congrArg (fun x => x.2.2.1) hv⟩
  · rw [hframe]
    rfl

/-! ### CHN_DBELL -/

theorem ringDoorbell_taken {n tail : Nat} (h1 : (ringOf s n).count ≤ (ringOf s n).countTo tail) (h2 : (ringOf s n).countTo tail ≤ (ringOf s n).size) :
    let t := ringDoorbell n tail s
    ringBell t n = true ∧ ringOf t n = { ringOf s n with tail := tail } ∧ (∀ k, k ≠ n → ringOf t k = ringOf s k ∧ ringBell t k = ringBell s k)
      ∧ OnlyTrace { s with rng := t.rng } t := by
  have hrng := traceEv_rng 10 islC n 0 tail s
  obtain ⟨hregs, honly⟩ := traceEv_onlyTrace 10 islC n 0 tail s
  unfold ringDoorbell
  dsimp only
  rw [if_pos ⟨h1, h2⟩]
  generalize traceEv 10 islC n 0 tail s = u at hrng hregs honly ⊢
  have hring (k : Nat) : ringOf u k = ringOf s k := by rw [ringOf, hrng, ringOf]
  have hbell (k : Nat) : ringBell u k = ringBell s k := by rw [ringBell, hrng, ringBell]
  refine ⟨ringBell_setBell_self .., ringOf_setRing_self n _ u, fun k hk => ⟨(ringOf_setRing_ne hk _ u).trans (hring k),
    (ringBell_setBell_ne hk true _).trans (hbell k)⟩, fun k hk => hregs k hk, ?_⟩
  rw [honly]
  rfl

theorem rget_dropLines (p : Nat → Bool) (k : Nat) (s : State) : rget (dropLines p s) k = rget s k := rfl

theorem rget_ringError (n c : Nat) (s : State) : rget (ringError n c s) 0x8018 = BitVec.ofNat 32 (n + 2 ^ 16 + c * 2 ^ 17) := by
  unfold ringError
  generalize BitVec.ofNat 32 (n + 2 ^ 16 + c * 2 ^ 17) = x
  exact rget_rset_self 0x8018 x _

theorem ringBell_ringError (p : Nat → Bool) (n c off m k : Nat) (s : State) :
    ringBell (dropLines p (ringError n c (cnt off m s))) k = ringBell s k := rfl

theorem ringDoorbell_bad {n tail : Nat} (h : (ringOf s n).countTo tail < (ringOf s n).count ∨ (ringOf s n).size < (ringOf s n).countTo tail) :
    let t := ringDoorbell n tail s
    ringOf t n = { ringOf s n with err := true } ∧ ringBell t n = ringBell s n ∧ (∀ k, k ≠ n → ringOf t k = ringOf s k)
      ∧ rget t 0x8018 = BitVec.ofNat 32 (n + 2 ^ 16 + 2 ^ 17) := by
  have hrng := traceEv_rng 10 islC n 0 tail s
  unfold ringDoorbell
  dsimp only
  rw [if_neg (by omega)]
  generalize traceEv 10 islC n 0 tail s = u at hrng ⊢
  have hring (k : Nat) : ringOf u k = ringOf s k := by rw [ringOf, hrng, ringOf]
  have herr (k : Nat) : ringOf (dropLines (· == n) (ringError n 1 (cnt 0x804C 1 u))) k
      = tget Ring.zero (tset Ring.zero u.rng.ents n { tget Ring.zero u.rng.ents n with err := true }) k := rfl
  have hbell (k : Nat) : ringBell (dropLines (· == n) (ringError n 1 (cnt 0x804C 1 u))) k = ringBell u k := ringBell_ringError ..
  have hreg : rget (dropLines (· == n) (ringError n 1 (cnt 0x804C 1 u))) 0x8018 = BitVec.ofNat 32 (n + 2 ^ 16 + 1 * 2 ^ 17) := by
    rw [rget_dropLines, rget_ringError]
  generalize dropLines (· == n) (ringError n 1 (cnt 0x804C 1 u)) = w at herr hbell hreg ⊢
  have hlogged : (unusable islC 0 0x8000 n w).rng = w.rng := logErr_rng ..
  have hkeep (k : Nat) : ringOf (unusable islC 0 0x8000 n w) k = ringOf w k := by rw [ringOf, hlogged, ringOf]
  refine ⟨?_, ?_, fun k hk => ?_, ?_⟩
  · rw [hkeep, herr, tget_tset_self, hrng]
    rfl
  · rw [ringBell, hlogged]
    change ringBell w n = _
    rw [hbell, ringBell, hrng]
    rfl
  · rw [hkeep, herr, tget_tset_ne _ _ hk]
    exact hring k
  · rw [unusable, rget_logErr _ _ _ _ _ (by decide), hreg, Nat.one_mul]

/-! ### TLY_RESDROP -/

theorem freeRec_parts (i : Nat) (s : State) : let t := freeRec i s
    (recOf t i).st = .free ∧ (recOf t i).gen = (recOf s i).gen ∧ (∀ k, k ≠ i → recOf t k = recOf s k)
      ∧ t = { s with tly := { s.tly with recs := t.tly.recs, bounceRec := t.tly.bounceRec } } := by
  have hself : recOf (freeRec i s) i = { recOf s i with st := .free, cmd := TagEntry.free } := tget_tset_self ..
  refine ⟨?_, ?_, fun k hk => tget_tset_ne _ _ hk _, rfl⟩
  · rw [hself]
  · rw [hself]

theorem writeResdrop_frees (hg : (recOf s (fld v 7 0)).gen = fld v 11 8)
    (h : (recOf s (fld v 7 0)).st = .held ∨ ∃ o, (recOf s (fld v 7 0)).st = .cancelled o) : writeResdrop v s = freeRec (fld v 7 0) s := by
  unfold writeResdrop
  dsimp only
  rcases h with h | ⟨o, h⟩ <;> rw [h, hg] <;> exact if_pos (by simp)

theorem writeResdrop_ignored (h : (recOf s (fld v 7 0)).gen ≠ fld v 11 8 ∨ (recOf s (fld v 7 0)).st = .free ∨ (recOf s (fld v 7 0)).st = .claimed) :
    writeResdrop v s = logErr 0x11 islC 0 0x9018 (fld v 11 0) s := by
  unfold writeResdrop
  dsimp only
  rcases h with h | h | h
  · rw [beq_false_of_ne h, Bool.and_false]
    rfl
  · rw [h]
    rfl
  · rw [h]
    rfl

/-! ### Frequencies -/

theorem setFreq_parts {i f : Nat} (hf : f < 256) (s : State) : let t := setFreq i f s
    fset t i = f ∧ (islOf t i).target = some (if heldLow s i = true then envMin s i
        else if (islOf s i).throt = true then min (aimed s i) f else f)
      ∧ (∀ k, k ≠ i → islOf t k = islOf s k) ∧ (∀ k, k ≠ 0xC000 + 4 * i → rget t k = rget s k) ∧ t = { s with regs := t.regs, isl := t.isl } := by
  obtain ⟨hself, hkeep, hframe⟩ := rset_parts (0xC000 + 4 * i) (BitVec.ofNat 32 f) s
  have hisl (k : Nat) : islOf (rset (0xC000 + 4 * i) (BitVec.ofNat 32 f) s) k = islOf s k := rfl
  have hheld : heldLow (rset (0xC000 + 4 * i) (BitVec.ofNat 32 f) s) i = heldLow s i := rfl
  unfold setFreq
  generalize rset (0xC000 + 4 * i) (BitVec.ofNat 32 f) s = u at hself hkeep hframe hisl hheld ⊢
  generalize (if (islOf s i).throt = true then min (aimed s i) f else f) = aim
  have hreg (k : Nat) : rget (startFreq i aim u) k = rget u k := rfl
  have henv : envMin u i = envMin s i := by rw [envMin, hkeep _ (by omega), envMin]
  refine ⟨?_, ?_, fun k hk => (islOf_startFreq_ne hk _ u).trans (hisl k), fun k hk => (hreg k).trans (hkeep k hk), ?_⟩
  · rw [fset, hreg, hself, fld_ofNat _ (by decide) (by decide)]
    simpa using Nat.mod_eq_of_lt hf
  · rw [islOf_startFreq_self, hheld, henv]
  · rw [startFreq, updIsl_frame, hframe]

theorem fld_byte_lt {w : Nat} (v : BitVec w) (hi lo : Nat) (h : hi - lo = 7) : fld v hi lo < 256 := by
  rw [fld, h]
  exact Nat.mod_lt _ (by decide)

/-- An island whose set frequency falls outside new limits moves to the nearer one. -/
def fitFset (i lo hi : Nat) (s : State) : State := if fset s i < lo then setFreq i lo s else if hi < fset s i then setFreq i hi s else s

/-- So does the frequency it runs or is changing to. -/
def fitAim (i lo hi : Nat) (s : State) : State := if aimed s i < lo then startFreq i lo s else if hi < aimed s i then startFreq i hi s else s

theorem fitFset_parts {i lo hi : Nat} (hlo : lo ≤ hi) (hhi : hi < 256) (s : State) : let t := fitFset i lo hi s
    (fset s i < lo → fset t i = lo) ∧ (hi < fset s i → fset t i = hi) ∧ (lo ≤ fset s i → fset s i ≤ hi → fset t i = fset s i)
    ∧ (∀ k, k ≠ 0xC000 + 4 * i → rget t k = rget s k) ∧ t = { s with regs := t.regs, isl := t.isl } := by
  unfold fitFset
  by_cases h1 : fset s i < lo
  · rw [if_pos h1]
    obtain ⟨hset, -, -, hreg, hframe⟩ := setFreq_parts (i := i) (show lo < 256 by omega) s
    exact ⟨fun _ => hset, fun _ => by omega, fun _ => by omega, hreg, hframe⟩
  · rw [if_neg h1]
    by_cases h2 : hi < fset s i
    · rw [if_pos h2]
      obtain ⟨hset, -, -, hreg, hframe⟩ := setFreq_parts (i := i) hhi s
      exact ⟨fun h => absurd h h1, fun _ => hset, fun _ _ => by omega, hreg, hframe⟩
    · rw [if_neg h2]
      exact ⟨fun h => absurd h h1, fun h => absurd h h2, fun _ _ => rfl, fun _ _ => rfl, rfl⟩

theorem aimed_startFreq (i f : Nat) (s : State) : aimed (startFreq i f s) i = if heldLow s i = true then envMin s i else f := by
  rw [aimed, islOf_startFreq_self]
  rfl

theorem fitAim_parts {i lo hi : Nat} (hlo : lo ≤ hi) (henv : envMin s i = lo) : let t := fitAim i lo hi s
    lo ≤ aimed t i ∧ aimed t i ≤ hi ∧ (∀ k, rget t k = rget s k) ∧ t = { s with isl := t.isl } := by
  unfold fitAim
  by_cases h1 : aimed s i < lo
  · rw [if_pos h1]
    refine ⟨?_, ?_, fun _ => rfl, rfl⟩ <;> rw [aimed_startFreq, henv] <;> split <;> omega
  · rw [if_neg h1]
    by_cases h2 : hi < aimed s i
    · rw [if_pos h2]
      refine ⟨?_, ?_, fun _ => rfl, rfl⟩ <;> rw [aimed_startFreq, henv] <;> split <;> omega
    · rw [if_neg h2]
      exact ⟨Nat.le_of_not_lt h1, Nat.le_of_not_lt h2, fun _ => rfl, rfl⟩

theorem writeEnv_fits {i : Nat} (hl : lockedDown s = false) (h1 : (freqRange i).1 ≤ fld v 7 0) (h2 : fld v 7 0 ≤ fld v 15 8)
    (h3 : fld v 15 8 ≤ (freqRange i).2) : writeEnv src i v s
      = fitAim i (fld v 7 0) (fld v 15 8) (fitFset i (fld v 7 0) (fld v 15 8) (rset (0xC080 + 4 * i) (v &&& 0xFFFF) s)) := by
  unfold writeEnv
  dsimp only
  rw [if_neg (by simp [hl]), if_neg (by omega)]
  rfl

theorem writeEnv_parts {i : Nat} (hl : lockedDown s = false) (h1 : (freqRange i).1 ≤ fld v 7 0) (h2 : fld v 7 0 ≤ fld v 15 8)
    (h3 : fld v 15 8 ≤ (freqRange i).2) : let t := writeEnv src i v s
      envMin t i = fld v 7 0 ∧ envMax t i = fld v 15 8
      ∧ (fset s i < fld v 7 0 → fset t i = fld v 7 0) ∧ (fld v 15 8 < fset s i → fset t i = fld v 15 8)
      ∧ (fld v 7 0 ≤ fset s i → fset s i ≤ fld v 15 8 → fset t i = fset s i)
      ∧ fld v 7 0 ≤ aimed t i ∧ aimed t i ≤ fld v 15 8 ∧ t = { s with regs := t.regs, isl := t.isl } := by
  rw [writeEnv_fits hl h1 h2 h3]
  obtain ⟨hself, hkeep, hframe⟩ := rset_parts (0xC080 + 4 * i) (v &&& 0xFFFF) s
  generalize rset (0xC080 + 4 * i) (v &&& 0xFFFF) s = u at hself hkeep hframe ⊢
  obtain ⟨hlow, hhigh, hmid, hreg, huframe⟩ := fitFset_parts (i := i) h2 (fld_byte_lt v 15 8 rfl) u
  generalize fitFset i (fld v 7 0) (fld v 15 8) u = w at hlow hhigh hmid hreg huframe ⊢
  have henv : rget w (0xC080 + 4 * i) = v &&& 0xFFFF := (hreg _ (by omega)).trans hself
  have hwmin : envMin w i = fld v 7 0 := by rw [envMin, henv, fld_and_low v (by decide) (by decide)]
  have hwmax : envMax w i = fld v 15 8 := by rw [envMax, henv, fld_and_low v (by decide) (by decide)]
  obtain ⟨halow, hahigh, hareg, haframe⟩ := fitAim_parts (s := w) h2 hwmin
  generalize fitAim i (fld v 7 0) (fld v 15 8) w = t at halow hahigh hareg haframe ⊢
  have hset : fset t i = fset w i := by rw [fset, hareg, fset]
  have hold : fset u i = fset s i := by rw [fset, hkeep _ (by omega), fset]
  rw [hold] at hlow hhigh hmid
  refine ⟨?_, ?_, fun h => hset.trans (hlow h), fun h => hset.trans (hhigh h), fun h h' => hset.trans (hmid h h'), halow, hahigh, ?_⟩
  · rw [envMin, hareg, ← envMin, hwmin]
  · rw [envMax, hareg, ← envMax, hwmax]
  · rw [haframe, huframe, hframe]

/-! ### Fields of two bits -/

/-- Each field of a register packed of fields of two bits. -/
theorem fld_packed2 {n g : Nat} (hn : n ≤ 16) (hg : g < n) {f : Nat → Nat} (hf : ∀ m, f m ≤ 3) :
    fld (BitVec.ofNat 32 (packed 2 n f)) (2 * g + 1) (2 * g) = f g := by
  have hpack : packed 2 n f = (List.range n).foldl (fun v m => v + f m * 4 ^ m) 0 := by
    unfold packed
    simp only [Nat.pow_mul]
  have hsub : 2 * g + 1 - 2 * g + 1 = 2 := by omega
  rw [hpack, fld_ofNat _ (by omega) (by omega), hsub, Nat.pow_mul]
  exact (foldl_base4 f hf n).2 g hg

theorem fld_two_le (v : Reg) (g : Nat) : fld v (2 * g + 1) (2 * g) ≤ 3 := by
  have hsub : 2 * g + 1 - 2 * g + 1 = 2 := by omega
  rw [fld, hsub]
  exact Nat.le_of_lt_succ (Nat.mod_lt _ (by decide))

/-! ### SHF_GPOL -/

/-- What one group does at a write of SHF_GPOL. -/
def polStep (s : State) (g : Nat) : State := if forbidden s g then wakeGroup g s else s

/-- A group of policy `p` is in a state that it forbids. -/
def forbids (p : Nat) (u : PwrUnit) : Bool :=
  match p with
  | 1 => !u.ready
  | 2 => (u.st == .off && u.entering.isNone) || u.entering == some .off
  | _ => false

theorem forbidden_eq (s : State) (g : Nat) : forbidden s g = forbids (groupPol s g) (groupOf s g) := rfl

theorem groupOf_polStep (g i : Nat) (s : State) : groupOf (polStep s i) g
    = if i = g ∧ forbidden s g = true then (groupOf s g).wakeUp else groupOf s g := by
  unfold polStep
  by_cases hig : i = g
  · subst hig
    by_cases hf : forbidden s i = true
    · rw [if_pos hf, if_pos ⟨rfl, hf⟩]
      exact groupOf_setGroup_self ..
    · rw [if_neg hf, if_neg (show ¬ (i = i ∧ forbidden s i = true) from fun h => hf h.2)]
  · rw [if_neg (show ¬ (i = g ∧ forbidden s g = true) from fun h => hig h.1)]
    split
    · exact groupOf_setGroup_ne (Ne.symm hig) ..
    · rfl

theorem groupPol_polStep (g i : Nat) (s : State) : groupPol (polStep s i) g = groupPol s g := by
  unfold polStep
  split <;> rfl

/-- What the steps at group `g` read and write. -/
def polView (g : Nat) (s : State) : Nat × PwrUnit := (groupPol s g, groupOf s g)

theorem polView_foldl {g : Nat} (hg : g < 8) (s : State) : polView g ((List.range 8).foldl polStep s)
    = (groupPol s g, if forbidden s g = true then (groupOf s g).wakeUp else groupOf s g) := by
  refine foldl_range_at (polView g) (fun x => (x.1, if forbids x.1 x.2 = true then x.2.wakeUp else x.2)) polStep hg (fun u i _ => ?_) s
  rw [polView, groupPol_polStep, groupOf_polStep, polView]
  by_cases hig : i = g <;> simp [hig, forbidden_eq]

theorem polStep_frame (l : List Nat) (s : State) : l.foldl polStep s = { s with shf := { s.shf with groups := (l.foldl polStep s).shf.groups } } := by
  induction l generalizing s with
  | nil => rfl
  | cons g r ih =>
    have hstep : polStep s g = { s with shf := { s.shf with groups := (polStep s g).shf.groups } } := by
      unfold polStep
      split <;> rfl
    rw [List.foldl_cons, ih, hstep]

/-- The policies after a write of SHF_GPOL: a field of 3 is ignored. -/
def polReg (old v : Reg) : Reg := BitVec.ofNat 32 (packed 2 8 fun g =>
  let f := fld v (2 * g + 1) (2 * g)
  if f = 3 then fld old (2 * g + 1) (2 * g) else f)

theorem fld_polReg {g : Nat} (hg : g < 8) (old v : Reg) : fld (polReg old v) (2 * g + 1) (2 * g)
    = if fld v (2 * g + 1) (2 * g) = 3 then fld old (2 * g + 1) (2 * g) else fld v (2 * g + 1) (2 * g) := by
  refine fld_packed2 (by decide) hg fun m => ?_
  dsimp only
  split
  · exact fld_two_le old m
  · exact fld_two_le v m

theorem writeGpol_eq (v : Reg) (s : State) : writeGpol v s = if 3 ≤ s.ctl.unplug then rset 0 (polReg (rget s 0) v) s
    else (List.range 8).foldl polStep (rset 0 (polReg (rget s 0) v) s) := rfl

theorem writeGpol_parts (v : Reg) (hu : s.ctl.unplug < 3) : let t := writeGpol v s
    (∀ g, g < 8 → groupPol t g = if fld v (2 * g + 1) (2 * g) = 3 then groupPol s g else fld v (2 * g + 1) (2 * g))
      ∧ (∀ g, g < 8 → groupPol t g = 1 → (groupOf s g).ready = false → groupOf t g = (groupOf s g).wakeUp)
      ∧ (∀ g, g < 8 → groupPol t g = 2 → (groupOf s g).st = .off → (groupOf s g).entering = none → groupOf t g = (groupOf s g).wakeUp)
      ∧ (∀ g, g < 8 → (groupOf s g).ready = true → groupOf t g = groupOf s g)
      ∧ t = { s with regs := t.regs, shf := { s.shf with groups := t.shf.groups } } := by
  obtain ⟨hself, -, hframe⟩ := rset_parts 0 (polReg (rget s 0) v) s
  have hgroup (g : Nat) : groupOf (rset 0 (polReg (rget s 0) v) s) g = groupOf s g := rfl
  rw [writeGpol_eq, if_neg (by omega)]
  generalize rset 0 (polReg (rget s 0) v) s = u at hself hframe hgroup ⊢
  have hview (g : Nat) (hg : g < 8) := polView_foldl hg u
  have hpframe := polStep_frame (List.range 8) u
  generalize (List.range 8).foldl polStep u = t at hview hpframe ⊢
  have hpol (g : Nat) (hg : g < 8) : groupPol t g = groupPol u g := congrArg Prod.fst (hview g hg)
  have hgrp (g : Nat) (hg : g < 8) : groupOf t g = if forbids (groupPol t g) (groupOf s g) = true then (groupOf s g).wakeUp else groupOf s g := by
    rw [hpol g hg, ← hgroup g]
    exact congrArg Prod.snd (hview g hg)
  refine ⟨fun g hg => ?_, fun g hg hp hr => ?_, fun g hg hp hst he => ?_, fun g hg hr => ?_, ?_⟩
  · rw [hpol g hg, groupPol, hself, fld_polReg hg]
    rfl
  · rw [hgrp g hg, hp, forbids, hr]
    rfl
  · rw [hgrp g hg, hp, forbids, hst, he]
    rfl
  · rw [hgrp g hg, if_neg]
    obtain ⟨hst, he⟩ : (groupOf s g).st = .on ∧ (groupOf s g).entering = none := by simpa [PwrUnit.ready] using hr
    unfold forbids
    split <;> simp [hr, hst, he]
  · rw [hpframe, hframe]

/-! ### HAY_BSET -/

/-- The set states after a write of HAY_BSET: a field of 3, or of a bank that may not be OFF, is ignored. -/
def setReg (refused : Nat → Bool) (old v : Reg) : Reg := BitVec.ofNat 32 (packed 2 16 fun h =>
  let f := fld v (2 * h + 1) (2 * h)
  if f = 3 ∨ (f = 2 ∧ refused h = true) then fld old (2 * h + 1) (2 * h) else f)

theorem fld_setReg {h : Nat} (hh : h < 16) (refused : Nat → Bool) (old v : Reg) : fld (setReg refused old v) (2 * h + 1) (2 * h)
    = if fld v (2 * h + 1) (2 * h) = 3 ∨ (fld v (2 * h + 1) (2 * h) = 2 ∧ refused h = true) then fld old (2 * h + 1) (2 * h)
      else fld v (2 * h + 1) (2 * h) := by
  refine fld_packed2 (by decide) hh fun m => ?_
  dsimp only
  split
  · exact fld_two_le old m
  · exact fld_two_le v m

/-- What a bank's following of HAY_BSET reads and writes: the register, the bank, the accesses that wait for it, whether it is being
zeroised, and the step of the unplug sequence. -/
def setView (h : Nat) (s : State) : Reg × PwrUnit × Nat × Bool × Nat := (rget s 0x7020, hbankOf s h, waitingAt s h, zeroHeld s h, s.ctl.unplug)

/-- The bank after it has followed. -/
def bankSet (was p : PState) (x : Reg × PwrUnit × Nat × Bool × Nat) : PwrUnit :=
  if p = was ∨ x.2.2.2.1 = true ∨ 5 ≤ x.2.2.2.2 then x.2.1
  else if p = .on then x.2.1.wakeUp
  else if was ≠ .on ∧ (x.2.1.ready = true ∨ x.2.1.entering = some .on ∨ x.2.1.after = some .on) then x.2.1
  else if x.2.2.1 = 0 then x.2.1.goTo p else (x.2.1.goTo p).wakeUp

/-- Only its bank's power, and a counter, change as a bank follows. -/
theorem followSet_keeps (old : Reg) (s : State) (i : Nat) : let t := followSet old s i
    (∀ k, k ≠ 0x7038 → rget t k = rget s k) ∧ (∀ h, h ≠ i → hbankOf t h = hbankOf s h)
    ∧ hbankOf t i = bankSet (setStateOf old i) (setState s i) (setView i s)
    ∧ t = { s with regs := t.regs, hay := { s.hay with banks := t.hay.banks } } := by
  have hpark (p : PState) : let t := parkBank i p s
      (∀ k, k ≠ 0x7038 → rget t k = rget s k) ∧ (∀ h, h ≠ i → hbankOf t h = hbankOf s h)
      ∧ hbankOf t i = (if waitingAt s i = 0 then (hbankOf s i).goTo p else ((hbankOf s i).goTo p).wakeUp)
      ∧ t = { s with regs := t.regs, hay := { s.hay with banks := t.hay.banks } } := by
    unfold parkBank
    dsimp only
    generalize (if waitingAt s i = 0 then (hbankOf s i).goTo p else ((hbankOf s i).goTo p).wakeUp) = b
    split
    · obtain ⟨-, hkeep, hframe⟩ := rset_parts 0x7038 (BitVec.ofNat 32 (min 0xFFFFFFFF ((rget s 0x7038).toNat + waitingAt s i))) s
      rw [cnt]
      generalize rset 0x7038 (BitVec.ofNat 32 (min 0xFFFFFFFF ((rget s 0x7038).toNat + waitingAt s i))) s = u at hkeep hframe ⊢
      refine ⟨hkeep, fun h hne => (hbankOf_setHbank_ne hne b u).trans ?_, hbankOf_setHbank_self i b u, ?_⟩
      · rw [hframe]
        rfl
      · unfold setHbank
        rw [hframe]
    · exact ⟨fun _ _ => rfl, fun h hne => hbankOf_setHbank_ne hne b s, hbankOf_setHbank_self i b s, rfl⟩
  unfold followSet bankSet setView
  dsimp only
  split
  · exact ⟨fun _ _ => rfl, fun _ _ => rfl, rfl, rfl⟩
  · split
    · exact ⟨fun _ _ => rfl, fun h hne => hbankOf_setHbank_ne hne _ s, hbankOf_setHbank_self i _ s, rfl⟩
    · split
      · exact ⟨fun _ _ => rfl, fun _ _ => rfl, rfl, rfl⟩
      · exact hpark _

theorem setView_followSet (old : Reg) (h : Nat) (s : State) (i : Nat) : setView h (followSet old s i)
    = if i = h then (rget s 0x7020, bankSet (setStateOf old h) (setStateOf (rget s 0x7020) h) (setView h s), waitingAt s h, zeroHeld s h, s.ctl.unplug)
      else setView h s := by
  obtain ⟨hreg, hne, hself, hframe⟩ := followSet_keeps old s i
  have hsec : secRange (followSet old s i) = secRange s := by rw [secRange, hreg _ (by decide), secRange]
  have hwait : waitingAt (followSet old s i) h = waitingAt s h := by
    rw [hframe]
    rfl
  have hzero : zeroHeld (followSet old s i) h = zeroHeld s h := by
    rw [zeroHeld, hsec, zeroHeld, hframe]
  have hctl : (followSet old s i).ctl = s.ctl := by rw [hframe]
  rw [setView, hreg _ (by decide), hwait, hzero, hctl]
  by_cases hih : i = h
  · subst hih
    rw [if_pos rfl, hself]
    rfl
  · rw [if_neg hih, hne h (Ne.symm hih)]
    rfl

theorem setView_foldl (old : Reg) {h : Nat} (hh : h < 16) (s : State) : setView h ((List.range 16).foldl (followSet old) s)
    = (rget s 0x7020, bankSet (setStateOf old h) (setStateOf (rget s 0x7020) h) (setView h s), waitingAt s h, zeroHeld s h, s.ctl.unplug) :=
  foldl_range_at (setView h) (fun x => (x.1, bankSet (setStateOf old h) (setStateOf x.1 h) x, x.2.2)) (followSet old) hh
    (fun u i _ => setView_followSet old h u i) s

theorem followSet_frame (old : Reg) (l : List Nat) (s : State) : let t := l.foldl (followSet old) s
    t = { s with regs := t.regs, hay := { s.hay with banks := t.hay.banks } } := by
  induction l generalizing s with
  | nil => rfl
  | cons i r ih =>
    obtain ⟨-, -, -, hstep⟩ := followSet_keeps old s i
    have hrest := ih (followSet old s i)
    dsimp only at hrest hstep ⊢
    rw [List.foldl_cons, hrest, hstep]

theorem followSet_rset_frame (old : Reg) (l : List Nat) (k : Nat) (x : Reg) (s : State) : let t := l.foldl (followSet old) (rset k x s)
    t = { s with regs := t.regs, hay := { s.hay with banks := t.hay.banks } } := followSet_frame old l (rset k x s)

theorem writeBset_eq (v : Reg) (s : State) : writeBset v s
    = (List.range 16).foldl (followSet (rget s 0x7020)) (rset 0x7020 (setReg (offRefused s) (rget s 0x7020) v) s) := rfl

theorem rset_hayloft (off : Nat) (r : Reg) (s : State) (h : Nat) : hbankOf (rset off r s) h = hbankOf s h
    ∧ waitingAt (rset off r s) h = waitingAt s h ∧ (rset off r s).hay = s.hay ∧ (rset off r s).ctl = s.ctl := ⟨rfl, rfl, rfl, rfl⟩

theorem writeBset_parts (v : Reg) (hu : s.ctl.unplug < 5) (hz : s.hay.zeroing = false) : let t := writeBset v s
    (∀ h, h < 16 → fld (rget t 0x7020) (2 * h + 1) (2 * h) = if fld v (2 * h + 1) (2 * h) = 3
          ∨ (fld v (2 * h + 1) (2 * h) = 2 ∧ offRefused s h = true) then fld (rget s 0x7020) (2 * h + 1) (2 * h) else fld v (2 * h + 1) (2 * h))
      ∧ (∀ h, h < 16 → setState t h = setState s h → hbankOf t h = hbankOf s h)
      ∧ (∀ h, h < 16 → setState t h = .on → setState s h ≠ .on → hbankOf t h = (hbankOf s h).wakeUp)
      ∧ (∀ h, h < 16 → setState t h ≠ .on → setState s h = .on → waitingAt s h = 0 → hbankOf t h = (hbankOf s h).goTo (setState t h))
      ∧ t = { s with regs := t.regs, hay := { s.hay with banks := t.hay.banks } } := by
  obtain ⟨hself, -, -⟩ := rset_parts 0x7020 (setReg (offRefused s) (rget s 0x7020) v) s
  rw [writeBset_eq]
  have hold (h : Nat) : setStateOf (rget s 0x7020) h = setState s h := rfl
  generalize rget s 0x7020 = old at hold hself ⊢
  have hfframe := followSet_rset_frame old (List.range 16) 0x7020 (setReg (offRefused s) old v) s
  have hkeep := rset_hayloft 0x7020 (setReg (offRefused s) old v) s
  generalize rset 0x7020 (setReg (offRefused s) old v) s = u at hself hfframe hkeep ⊢
  have hview (h : Nat) (hh : h < 16) := setView_foldl old hh u
  generalize (List.range 16).foldl (followSet old) u = t at hview hfframe ⊢
  have hreg : rget t 0x7020 = setReg (offRefused s) old v := (congrArg Prod.fst (hview 0 (by decide)) :).trans hself
  have hset (h : Nat) : setStateOf (rget u 0x7020) h = setState t h := by rw [setState, hreg, hself]
  have hbank (h : Nat) (hh : h < 16) : hbankOf t h = bankSet (setState s h) (setState t h) (setView h u) := by
    rw [← hold, ← hset]
    exact congrArg (fun x => x.2.1) (hview h hh)
  have hzero (h : Nat) : zeroHeld u h = false := by
    rw [zeroHeld, (hkeep h).2.2.1, hz]
    rfl
  have hviewu (h : Nat) : setView h u = (rget u 0x7020, hbankOf s h, waitingAt s h, false, s.ctl.unplug) := by
    obtain ⟨hb, hw, -, hc⟩ := hkeep h
    rw [setView, hb, hw, hzero, hc]
  refine ⟨fun h hh => ?_, fun h hh hsame => ?_, fun h hh hon hwas => ?_, fun h hh hon hwas hw => ?_, ?_⟩
  · rw [hreg, fld_setReg hh]
  · rw [hbank h hh, bankSet, if_pos (.inl hsame), hviewu]
  · rw [hbank h hh, hviewu, bankSet, if_neg, if_pos hon]
    rintro (h1 | h1 | h1)
    · exact hwas (h1.symm.trans hon)
    · exact Bool.false_ne_true h1
    · exact absurd h1 (Nat.not_le.2 hu)
  · rw [hbank h hh, hviewu, bankSet, if_neg, if_neg hon, if_neg (fun h1 => h1.1 hwas), if_pos hw]
    rintro (h1 | h1 | h1)
    · exact hon (h1.trans hwas)
    · exact Bool.false_ne_true h1
    · exact absurd h1 (Nat.not_le.2 hu)
  · exact hfframe

end
end Sys2Proof.Proofs
end

section
/-! SUPPORT. The acting writes of the datapath and control registers (R111, R126, R195, R210, R255, R256, R296, R330, R346, R387). -/

namespace Sys2Proof.Proofs

open Sys2Proof.Machine Sys2Proof.Laws

section
variable {s : State} {src : RegSrc} {v : Reg}

theorem regEffect_fset {off i : Nat} (hi : i < 11) (hoff : off = 0xC000 + 4 * i) : regEffect src off v s = writeFset i v s := by
  have hidx : (off - 0xC000) / 4 = i := by omega
  unfold regEffect
  split
  case h_18 => rw [if_neg (by omega), if_pos (by omega), hidx]
  all_goals omega

theorem regEffect_env {off i : Nat} (hi : i < 11) (hoff : off = 0xC080 + 4 * i) : regEffect src off v s = writeEnv src i v s := by
  have hidx : (off - 0xC080) / 4 = i := by omega
  unfold regEffect
  split
  case h_18 => rw [if_neg (by omega), if_neg (by omega), if_pos (by omega), hidx]
  all_goals omega

/-- The registers of LMP_FSETi and LMP_ENVi are there. -/
theorem regExists_lmp : ∀ i, i < 11 → regExists (0xC000 + 4 * i) = true ∧ regExists (0xC080 + 4 * i) = true := by decide

theorem exec_lmpFsetWrite {i : Nat} (hi : i < 11) : exec (.lmpFsetWrite src i v) s = .next (actWrite src (0xC000 + 4 * i) v s) :=
  if_neg (by omega)

theorem exec_lmpEnvWrite {i : Nat} (hi : i < 11) : exec (.lmpEnvWrite src i v) s = .next (actWrite src (0xC080 + 4 * i) v s) :=
  if_neg (by omega)

theorem writeFset_inside {i : Nat} (h1 : envMin s i ≤ fld v 7 0) (h2 : fld v 7 0 ≤ envMax s i) : writeFset i v s = setFreq i (fld v 7 0) s :=
  if_pos ⟨h1, h2⟩

theorem writeFset_outside {i : Nat} (h : fld v 7 0 < envMin s i ∨ envMax s i < fld v 7 0) : writeFset i v s = s :=
  if_neg (by omega)

end

/-- Settles O58, register by register. -/
theorem actingWritesApply : Obligations.ActingWritesApply := by
  intro s src v
  refine ⟨fun ha h p hp => ?_, fun hs hi => ?_⟩
  · simp only [List.mem_cons, List.not_mem_nil, or_false] at hp
    rcases hp with rfl | rfl | rfl | rfl | rfl | rfl | rfl | rfl <;> exact congrArg _ (actWrite_waits ha h)
  intro quiet ok
  have hexec {i : Instr} (off : Nat) (hx : exec i s = .next (actWrite src off v s)) (hoff : off < 2 ^ 16) (he : regExists off = true)
      (hok : ok off) : exec i s = .next (regEffect src off v quiet) := by rw [hx, actWrite_now hs hi hoff he hok.1 hok.2]
  have hcommit := hexec (i := .crtWhlcommitWrite src v) 0x2060 rfl (by decide) (by decide)
  have hwsel := hexec (i := .asyWselWrite src v) 0x6010 rfl (by decide) (by decide)
  have hwcommit := hexec (i := .asyWcommitWrite src v) 0x6028 rfl (by decide) (by decide)
  have hseed := hexec (i := .milSeedWrite src v) 0x1004 rfl (by decide) (by decide)
  have hdbell := hexec (i := .chnDbellWrite src v) 0x8000 rfl (by decide) (by decide)
  have hresdrop := hexec (i := .tlyResdropWrite src v) 0x9018 rfl (by decide) (by decide)
  have hgpol := hexec (i := .shfGpolWrite src v) 0x0000 rfl (by decide) (by decide)
  have hbset := hexec (i := .hayBsetWrite src v) 0x7020 rfl (by decide) (by decide)
  refine ⟨fun hok => ⟨_, hcommit hok, rset_parts 0x2060 (rget quiet 0x2060 ||| (v &&& 0x3F)) quiet⟩,
    fun hok => ⟨_, hwsel hok, writeWsel_parts v quiet⟩, fun hok hv => ⟨fun h => ?_, fun h => ?_⟩,
    fun hok => ⟨writeSeed v quiet, hseed hok, writeSeed_parts v quiet⟩,
    fun hok => ⟨fun h1 h2 => ⟨_, hdbell hok, ringDoorbell_taken (s := quiet) h1 h2⟩, fun h => ⟨_, hdbell hok, ringDoorbell_bad (s := quiet) h⟩⟩,
    fun hok => ⟨fun hg h => ?_, fun h => ?_⟩, fun i hi' hok => ⟨fun h1 h2 => ?_, fun h => ?_⟩,
    fun i hi' hok => ⟨fun hl => ?_, fun hl h1 h2 h3 => ?_⟩,
    fun hok hu => ⟨_, hgpol hok, writeGpol_parts (s := quiet) v hu⟩, fun hok hu hz => ⟨_, hbset hok, writeBset_parts (s := quiet) v hu hz⟩⟩
  · have heffect : regEffect src 0x6028 v quiet = commitWindow quiet := if_pos hv
    exact ⟨_, (hwcommit hok).trans (congrArg _ heffect), commitWindow_fits (s := quiet) h⟩
  · have heffect : regEffect src 0x6028 v quiet = unusable islH 0 0x6028 (fld (rget s 0x6010) 7 0) quiet :=
      (if_pos hv).trans (commitWindow_refused (s := quiet) h)
    exact ⟨_, (hwcommit hok).trans (congrArg _ heffect), logErr_logged ..⟩
  · have heffect : regEffect src 0x9018 v quiet = freeRec (fld v 7 0) quiet := writeResdrop_frees (s := quiet) hg h
    exact ⟨_, (hresdrop hok).trans (congrArg _ heffect), freeRec_parts _ quiet⟩
  · have heffect : regEffect src 0x9018 v quiet = logErr 0x11 islC 0 0x9018 (fld v 11 0) quiet := writeResdrop_ignored (s := quiet) h
    exact ⟨_, (hresdrop hok).trans (congrArg _ heffect), logErr_logged ..⟩
  · have heffect : regEffect src (0xC000 + 4 * i) v quiet = setFreq i (fld v 7 0) quiet :=
      (regEffect_fset hi' rfl).trans (writeFset_inside (s := quiet) h1 h2)
    exact ⟨_, (hexec _ (exec_lmpFsetWrite hi') (by omega) (regExists_lmp i hi').1 hok).trans (congrArg _ heffect),
      setFreq_parts (fld_byte_lt v 7 0 rfl) quiet⟩
  · have heffect : regEffect src (0xC000 + 4 * i) v quiet = quiet := (regEffect_fset hi' rfl).trans (writeFset_outside (s := quiet) h)
    exact (hexec _ (exec_lmpFsetWrite hi') (by omega) (regExists_lmp i hi').1 hok).trans (congrArg _ heffect)
  · have heffect : regEffect src (0xC080 + 4 * i) v quiet = logLocked src (0xC080 + 4 * i) quiet := (regEffect_env hi' rfl).trans (if_pos hl)
    exact ⟨_, (hexec _ (exec_lmpEnvWrite hi') (by omega) (regExists_lmp i hi').2 hok).trans (congrArg _ heffect), logErr_logged ..⟩
  · have heffect : regEffect src (0xC080 + 4 * i) v quiet = writeEnv src i v quiet := regEffect_env hi' rfl
    exact ⟨_, (hexec _ (exec_lmpEnvWrite hi') (by omega) (regExists_lmp i hi').2 hok).trans (congrArg _ heffect),
      writeEnv_parts (s := quiet) hl h1 h2 h3⟩
end Sys2Proof.Proofs
end

section
/-! SUPPORT. Proofs about the acceptance of packets (R31, R32, R43, R47, R84, R301, R308). -/

namespace Sys2Proof.Proofs

open Sys2Proof.Machine Sys2Proof.Laws

/-! ### Words in a vector -/

theorem ofWords_lt (ws : List Word) : ofWords ws < 2 ^ (64 * ws.length) := by
  induction ws with
  | nil => exact Nat.one_pos
  | cons w r ih =>
    have hw := w.isLt
    have hpow : 2 ^ (64 * (r.length + 1)) = 2 ^ 64 * 2 ^ (64 * r.length) := by rw [← Nat.pow_add, Nat.mul_add, Nat.add_comm]
    rw [ofWords, List.length_cons, hpow]
    calc w.toNat + 2 ^ 64 * ofWords r < 2 ^ 64 + 2 ^ 64 * ofWords r := Nat.add_lt_add_right hw _
      _ = 2 ^ 64 * (ofWords r + 1) := by rw [Nat.mul_add, Nat.mul_one, Nat.add_comm]
      _ ≤ 2 ^ 64 * 2 ^ (64 * r.length) := Nat.mul_le_mul_left _ ih

theorem ofWords_digit (ws : List Word) {i : Nat} (hi : i < ws.length) : ofWords ws / 2 ^ (64 * i) % 2 ^ 64 = ws[i].toNat := by
  induction ws generalizing i with
  | nil => cases hi
  | cons w r ih =>
    cases i with
    | zero =>
      rw [Nat.mul_zero, Nat.pow_zero, Nat.div_one, ofWords, Nat.add_mul_mod_self_left]
      exact Nat.mod_eq_of_lt w.isLt
    | succ i =>
      have hdiv : (w.toNat + 2 ^ 64 * ofWords r) / 2 ^ 64 = ofWords r := by
        rw [Nat.add_mul_div_left _ _ (Nat.two_pow_pos 64), Nat.div_eq_of_lt w.isLt, Nat.zero_add]
      rw [Nat.mul_add, Nat.mul_one, Nat.add_comm (64 * i), Nat.pow_add, ← Nat.div_div_eq_div_mul, ofWords, hdiv]
      exact ih (Nat.lt_of_succ_lt_succ hi)

theorem wordAt_ofWords {n : Nat} {ws : List Word} (hn : 64 * ws.length ≤ n) {i : Nat} (hi : i < ws.length) :
    wordAt (BitVec.ofNat n (ofWords ws)) i = ws[i] := by
  refine BitVec.eq_of_toNat_eq ?_
  rw [toNat_wordAt, BitVec.toNat_ofNat, Nat.mod_eq_of_lt (Nat.lt_of_lt_of_le (ofWords_lt ws) (Nat.pow_le_pow_right (by decide) hn)),
    ofWords_digit ws hi]

theorem ofBits_packetData (p : Packet) : Packet.ofBits (packetData p) = p := by
  have hword {i : Nat} (hi : i < 8) := wordAt_ofWords (n := 1024) (ws := [p.w0, p.w1, p.w2, p.w3, p.w4, p.w5, p.w6, p.w7]) (show 64 * 8 ≤ 1024 by decide) (i := i) hi
  rw [Packet.ofBits, packetData, hword (by decide), hword (by decide), hword (by decide), hword (by decide), hword (by decide), hword (by decide),
    hword (by decide), hword (by decide)]
  rfl

section
variable {s : State} {p : Packet}

/-! ### Conditions -/

theorem canAccept_iff : canAccept s p = true ↔ s.ctl.powered = true ∧ s.ctl.inReset = false ∧ running s islC = true ∧ bit (rget s 0xE004) 1 = true
      ∧ s.ctl.halted = false ∧ (tagOf s (hdrTag p.w0)).st = .free ∧ s.tly.inq.length < 8
      ∧ (if (hdrFmt p.w0 = 1 ∨ hdrFmt p.w0 = 2) ∧ hdrOp p.w0 / 16 = 7 then 1 else 9) ≤ freeTags s := by
  have hneed : (if controlPacket p.w0 then 1 else 9) = if (hdrFmt p.w0 = 1 ∨ hdrFmt p.w0 = 2) ∧ hdrOp p.w0 / 16 = 7 then 1 else 9 :=
    if_congr (by simp [controlPacket]) rfl rfl
  unfold canAccept tagFreeFor
  rw [hneed]
  simp only [awake, booted, TagEntry.alloc, Bool.and_eq_true, Bool.not_eq_true', decide_eq_true_eq, decide_eq_false_iff_not, Decidable.not_not]
  tauto

theorem awake_of_canAccept (h : canAccept s p = true) : awake s = true := by
  obtain ⟨hp, hr, -⟩ := canAccept_iff.1 h
  simp [awake, hp, hr]

/-- What acceptance leaves. -/
theorem accept_accepted (src : Origin) (p : Packet) (s : State) : Accepted s (accept src p s) src p := by
  obtain ⟨hinq, hself, hothers⟩ := accept_tly src p s
  set v : State := { setTag (hdrTag p.w0) (acceptedEntry src p s) s with
    tly := { (setTag (hdrTag p.w0) (acceptedEntry src p s) s).tly with
      accNext := s.tly.accNext + 1
      inq := s.tly.inq ++ [hdrTag p.w0]
      turn := (src.code + 1) % 3 } } with hv
  have haccept : accept src p s = traceEv 0 islC src.code (hdrTag p.w0).toNat (hdrOp p.w0 + 256 * hdrStream p.w0)
      (cnt 0x9040 1 (cnt (0x8040 + 4 * src.code) 1 v)) := rfl
  have hcnt (a b n m : Nat) (x : State) : (cnt a n (cnt b m x)).tly = x.tly ∧ cnt a n (cnt b m x) = { x with regs := (cnt a n (cnt b m x)).regs } :=
    ⟨rfl, rfl⟩
  have hreg (k : Nat) (h1 : k ≠ 0x9040) (h2 : k ≠ 0x8040 + 4 * src.code) : rget (cnt 0x9040 1 (cnt (0x8040 + 4 * src.code) 1 v)) k = rget s k :=
    (rget_cnt_ne h1 ..).trans (rget_cnt_ne h2 ..)
  obtain ⟨htly, hframe⟩ := hcnt 0x9040 (0x8040 + 4 * src.code) 1 1 v
  rw [haccept] at hself hothers ⊢
  generalize cnt 0x9040 1 (cnt (0x8040 + 4 * src.code) 1 v) = w at *
  obtain ⟨htrace, honly⟩ := traceEv_onlyTrace 0 islC src.code (hdrTag p.w0).toNat (hdrOp p.w0 + 256 * hdrStream p.w0) w
  refine ⟨hself, hothers, ?_, fun k h0 h1 h2 => (htrace k h0).trans (hreg k h1 h2), ?_⟩
  · rw [traceEv_tly, htly]
    rfl
  · generalize traceEv 0 islC src.code (hdrTag p.w0).toNat (hdrOp p.w0 + 256 * hdrStream p.w0) w = t at honly ⊢
    rw [honly, hframe]
    rfl

theorem exec_commandPacket_accepted (hq : s.tly.cmdHeld = []) (hc : canAccept s p = true) (ht : hasTurn s 0 = true) :
    exec (.commandPacket p) s = .next (accept .cmd p (ackCmd s)) := by
  change execCommandPacket p s = _
  rw [execCommandPacket, if_neg (by simp [awake_of_canAccept hc]), if_pos ⟨hq, hc, ht⟩]

theorem exec_commandPacket_waits (ha : awake s = true) (h : s.tly.cmdHeld ≠ [] ∨ canAccept s p = false ∨ hasTurn s 0 = false) :
    exec (.commandPacket p) s = .next { s with tly := { s.tly with cmdHeld := s.tly.cmdHeld ++ [.packet p] } } := by
  have hno : ¬ (s.tly.cmdHeld = [] ∧ canAccept s p = true ∧ hasTurn s 0 = true) := by
    rintro ⟨h1, h2, h3⟩
    rcases h with h | h | h
    · exact h h1
    · simp [h] at h2
    · simp [h] at h3
  change execCommandPacket p s = _
  rw [execCommandPacket, if_neg (by simp [ha]), if_neg hno]

theorem exec_heldPacketAccept {r : List CmdXfer} (hq : s.tly.cmdHeld = .packet p :: r) : exec .heldPacketAccept s
    = .next (if canAccept s p && hasTurn s 0 then pumpIn1 (pumpCmd (accept .cmd p (ackCmd { s with tly := { s.tly with cmdHeld := r } }))) else s) := by
  change execHeldPacketAccept s = _
  unfold execHeldPacketAccept
  rw [hq]

theorem pumpCmd_of_empty (h : s.tly.cmdHeld = []) : pumpCmd s = s := by
  rw [pumpCmd, h]
  rfl

/-! ### The network -/

/-- Whether a CMD flit waits. -/
theorem flitWaits_cmd {f : Flit} (hk : hdrKind f.hdr = 0xC) (hp : Packet.ofBits f.data = p) :
    flitWaits (arrived1 f s) f = (s.noc.o1.held == 0 || (s.noc.o1.held != 0 && canAccept s p && !hasTurn s 1)) := by
  have hready : nocReady (arrived1 f s) = (s.noc.o1.held != 0 && canAccept s p) := by
    have hnoc : nocReady (arrived1 f s) = (hdrKind f.hdr == 0xC && s.noc.o1.held != 0 && canAccept s (Packet.ofBits f.data)) := rfl
    rw [hnoc, hk, hp]
    rfl
  have hturn : hasTurn (arrived1 f s) 1 = hasTurn s 1 := by
    have hself (d : Nat) : ∀ b : Bool, (b && decide (d < d)) = false := fun b => by rw [decide_eq_false (Nat.lt_irrefl d), Bool.and_false]
    have h0 : srcReady (arrived1 f s) 0 = srcReady s 0 := rfl
    have h2 : srcReady (arrived1 f s) 2 = srcReady s 2 := rfl
    have hlist : List.range 3 = [0, 1, 2] := rfl
    have htly : (arrived1 f s).tly = s.tly := rfl
    unfold hasTurn
    rw [hlist, htly]
    simp only [List.any_cons, List.any_nil, h0, h2, hself]
  have hH : waitsH (arrived1 f s) f = false := by
    unfold waitsH
    dsimp only
    rw [hk]
    simp
  unfold flitWaits
  dsimp only
  rw [hready, hturn, hH, hk]
  have hheld : (arrived1 f s).noc.o1.held = s.noc.o1.held := rfl
  rw [hheld]
  simp

theorem serveFlit_cmd {f : Flit} (hk : hdrKind f.hdr = 0xC) : serveFlit f s = takeCmd (hdrTxid f.hdr) (Packet.ofBits f.data) s := by
  unfold serveFlit
  rw [hk]
  rfl

/-- A CMD flit that need not wait is answered. -/
theorem arriveFlit_cmd {f : Flit} (hk : hdrKind f.hdr = 0xC) (hp : Packet.ofBits f.data = p) (ha : awake s = true) (hr : running s islC = true)
    (hc : 0 < s.noc.i1Out) (hin : s.noc.in1 = []) (hcr : 0 < s.noc.o1.held) (h : canAccept s p = false ∨ hasTurn s 1 = true) :
    arriveFlit .c1 f s = if canAccept s p then answer (hdrTxid f.hdr) 4 0 0 (accept .noc p (credited1 s))
      else answer (hdrTxid f.hdr) 4 1 0 (credited1 s) := by
  have hwait : flitWaits (arrived1 f s) f = false := by
    rw [flitWaits_cmd hk hp, beq_false_of_ne (Nat.ne_of_gt hcr)]
    rcases h with h | h <;> simp [h]
  have hcan : canAccept (credited1 s) p = canAccept s p := rfl
  rw [arriveFlit_c1 ha hr hc hin hwait, serveFlit_cmd hk, hp, takeCmd, hcan]

/-- One that has to wait stays in the buffer. -/
theorem arriveFlit_cmd_waits {f : Flit} (hk : hdrKind f.hdr = 0xC) (hp : Packet.ofBits f.data = p) (ha : awake s = true)
    (hr : running s islC = true) (hc : 0 < s.noc.i1Out) (hin : s.noc.in1 = [])
    (h : s.noc.o1.held = 0 ∨ (canAccept s p = true ∧ hasTurn s 1 = false)) : arriveFlit .c1 f s = arrived1 f s := by
  refine arriveFlit_c1_waits ha hr hc hin ?_
  rw [flitWaits_cmd hk hp]
  rcases h with h | ⟨h1, h2⟩
  · simp [h]
  · by_cases h0 : s.noc.o1.held = 0 <;> simp [h0, h1, h2]

/-- The flit of a packet that the network sends. -/
theorem exec_nocCmd_flit (txid : Txid) (p : Packet) (s : State) : ∃ f : Flit, exec (.nocCmd txid p) s = .next (arriveFlit .c1 f s)
    ∧ hdrKind f.hdr = 0xC ∧ hdrTxid f.hdr = txid ∧ f.data = packetData p ∧ Packet.ofBits f.data = p :=
  ⟨_, exec_nocCmd txid p, hdrKind_flitHdr txid (by decide), hdrTxid_flitHdr txid (by decide), rfl, ofBits_packetData p⟩

theorem nocCmd_answered (txid : Txid) (ha : awake s = true) (hr : running s islC = true) (hc : 0 < s.noc.i1Out) (hin : s.noc.in1 = [])
    (hans : s.noc.answers = []) (hcr : 0 < s.noc.o1.held) (h : canAccept s p = false ∨ hasTurn s 1 = true) :
    ∃ t, exec (.nocCmd txid p) s = .next t ∧ t.noc.in1 = [] ∧ t.pin.i1crd = true ∧ t.noc.i1Out = s.noc.i1Out
          ∧ t.noc.o1.held + 1 = s.noc.o1.held ∧ t.noc.o1.fly = s.noc.o1.fly + 1 ∧ t.shf = s.shf ∧ t.hay = s.hay
          ∧ (canAccept s p = true → t.pin.o1 = some ⟨flitHdr 0 txid.toNat 4, 0, 0⟩ ∧ (tagOf t (hdrTag p.w0)).st = .waiting
              ∧ (tagOf t (hdrTag p.w0)).pkt = p ∧ (tagOf t (hdrTag p.w0)).src = .noc ∧ t.tly.inq = s.tly.inq ++ [hdrTag p.w0])
          ∧ (canAccept s p = false → t.pin.o1 = some ⟨flitHdr 1 txid.toNat 4, 0, 0⟩ ∧ t.tly = s.tly) := by
  obtain ⟨f, hexec, hk, htxid, -, hp⟩ := exec_nocCmd_flit txid p s
  rw [arriveFlit_cmd hk hp ha hr hc hin hcr h, htxid] at hexec
  cases hcan : canAccept s p with
  | true =>
    rw [hcan, if_pos rfl] at hexec
    obtain ⟨htag, -, hqueue, -, honly⟩ := accept_accepted .noc p (credited1 s)
    generalize accept .noc p (credited1 s) = u at hexec htag hqueue honly
    have hnoc : u.noc = s.noc := by rw [honly]; rfl
    have hpin : u.pin = (credited1 s).pin := by rw [honly]
    have hshf : u.shf = s.shf := by rw [honly]; rfl
    have hhay : u.hay = s.hay := by rw [honly]; rfl
    rw [answer_sent _ _ _ _ (by rw [hnoc, hans]) (by rw [hnoc]; exact hcr)] at hexec
    have htags : tagOf (answered ⟨flitHdr 0 txid.toNat 4, 0, 0⟩ u) (hdrTag p.w0) = tagOf u (hdrTag p.w0) := rfl
    refine ⟨_, hexec, (congrArg Noc.in1 hnoc :).trans hin, (congrArg Pins.i1crd hpin :), (congrArg Noc.i1Out hnoc :), ?_, ?_, hshf, hhay, fun _ => ?_, nofun⟩
    · change u.noc.o1.held - 1 + 1 = _
      rw [hnoc]
      exact Nat.sub_add_cancel hcr
    · change u.noc.o1.fly + 1 = _
      rw [hnoc]
    · rw [htags, htag]
      refine ⟨rfl, rfl, rfl, rfl, ?_⟩
      change u.tly.inq = _
      rw [hqueue]
      rfl
  | false =>
    rw [hcan, if_neg nofun, answer_sent (s := credited1 s) _ _ _ _ hans hcr] at hexec
    exact ⟨_, hexec, hin, rfl, rfl, Nat.sub_add_cancel hcr, rfl, rfl, rfl, nofun, fun _ => ⟨rfl, rfl⟩⟩

theorem nocCmd_waits (txid : Txid) (ha : awake s = true) (hr : running s islC = true) (hc : 0 < s.noc.i1Out) (hin : s.noc.in1 = [])
    (h : s.noc.o1.held = 0 ∨ (canAccept s p = true ∧ hasTurn s 1 = false)) :
    ∃ t f, exec (.nocCmd txid p) s = .next t ∧ t = { s with noc := { s.noc with i1Out := s.noc.i1Out - 1, in1 := [.inl f] } }
      ∧ f.data = packetData p := by
  obtain ⟨f, hexec, hk, -, hdata, hp⟩ := exec_nocCmd_flit txid p s
  exact ⟨_, f, hexec.trans (congrArg _ (arriveFlit_cmd_waits hk hp ha hr hc hin h)), rfl, hdata⟩

end

/-- Settles O34, interface by interface. -/
theorem packetsAccepted : Obligations.PacketsAccepted := by
  intro s p
  refine ⟨canAccept_iff, fun hq hc ht => ⟨_, _, exec_commandPacket_accepted hq hc ht, accept_accepted .cmd p (ackCmd s), rfl⟩,
    fun ha h => exec_commandPacket_waits ha h, fun r hq hc ht => ?_, fun r hq h => ?_,
    fun txid ha hr hc hin hans hcr h => nocCmd_answered txid ha hr hc hin hans hcr h, fun txid ha hr hc hin h => nocCmd_waits txid ha hr hc hin h⟩
  · have hexec := exec_heldPacketAccept hq
    rw [if_pos (by simp [hc, ht])] at hexec
    refine ⟨_, _, hexec, accept_accepted .cmd p _, rfl, fun hr hin => ?_⟩
    obtain ⟨-, -, hqueue, -, honly⟩ := accept_accepted .cmd p (ackCmd { s with tly := { s.tly with cmdHeld := r } })
    have hcmd : (accept .cmd p (ackCmd { s with tly := { s.tly with cmdHeld := r } })).tly.cmdHeld = [] := by
      rw [hqueue]
      exact hr
    have hnoc : (accept .cmd p (ackCmd { s with tly := { s.tly with cmdHeld := r } })).noc.in1 = [] := by
      rw [honly]
      exact hin
    rw [pumpCmd_of_empty hcmd, pumpIn1_of_empty hnoc]
  · have hexec := exec_heldPacketAccept hq
    rwa [if_neg (by rcases h with h | h <;> simp [h])] at hexec
end Sys2Proof.Proofs
end

section
/-! SUPPORT. Proofs about the decode of packets (R55, R65, R276, R309, R395). -/

namespace Sys2Proof.Proofs

open Sys2Proof.Machine Sys2Proof.Laws

/-! ### The reserved bits of a word -/

/-- Taking from a number those of its bits that another has leaves the rest. -/
theorem testBit_sub_and (m x b : Nat) : (m - (x &&& m)).testBit b = (m.testBit b && !x.testBit b) := by
  have hdiv (m x : Nat) : (x &&& m) / 2 = (x / 2) &&& (m / 2) := Nat.and_div_two
  have hmod (m x : Nat) : (x &&& m) % 2 = 1 ↔ x % 2 = 1 ∧ m % 2 = 1 := by
    have h := Nat.testBit_and x m 0
    rwa [Nat.testBit_zero, Nat.testBit_zero, Nat.testBit_zero, ← Bool.decide_and, decide_eq_decide] at h
  have hle (m x : Nat) : (x &&& m) ≤ m := Nat.and_le_right
  induction b generalizing m x with
  | zero =>
    have h1 := hmod m x
    have h2 := hle m x
    rw [Nat.testBit_zero, Nat.testBit_zero, Nat.testBit_zero, ← decide_not, ← Bool.decide_and, decide_eq_decide]
    omega
  | succ b ih =>
    have hhalf : (m - (x &&& m)) / 2 = m / 2 - (x / 2 &&& m / 2) := by
      have h1 := hmod m x
      have h2 := hle m x
      rw [← hdiv]
      omega
    rw [Nat.testBit_succ, hhalf, ih, ← Nat.testBit_succ, ← Nat.testBit_succ]

theorem testBit_span (hi lo b : Nat) : (2 ^ (hi + 1) - 2 ^ lo).testBit b = decide (lo ≤ b ∧ b ≤ hi) := by
  by_cases hlo : lo ≤ hi + 1
  · obtain ⟨n, hn⟩ := Nat.exists_eq_add_of_le hlo
    have hspan : 2 ^ (hi + 1) - 2 ^ lo = 2 ^ lo * (2 ^ n - 1) := by rw [hn, Nat.pow_add, Nat.mul_sub, Nat.mul_one]
    rw [hspan, Nat.testBit_two_pow_mul, Nat.testBit_two_pow_sub_one]
    by_cases hb : lo ≤ b <;> simp [hb]
    omega
  · have hspan : 2 ^ (hi + 1) - 2 ^ lo = 0 := Nat.sub_eq_zero_of_le (Nat.pow_le_pow_right (by decide) (by omega))
    rw [hspan, Nat.zero_testBit]
    exact (decide_eq_false (by omega)).symm

theorem testBit_foldl_fields (fs : List FieldSpec) (m b : Nat) :
    (fs.foldl (fun m f => m - ((2 ^ (f.hi + 1) - 2 ^ f.lo) &&& m)) m).testBit b = (m.testBit b && fs.all fun f => !decide (f.lo ≤ b ∧ b ≤ f.hi)) := by
  induction fs generalizing m with
  | nil => simp
  | cons f r ih => rw [List.foldl_cons, ih, testBit_sub_and, testBit_span, List.all_cons, Bool.and_assoc]

/-- A bit of a word is reserved where no field covers it (R309). -/
theorem testBit_reservedMask (fs : List FieldSpec) (w : Nat) {b : Nat} (hb : b < 64) : (reservedMask fs w).testBit b = true
    ↔ ∀ f ∈ fs, ¬ (f.word = w ∧ f.lo ≤ b ∧ b ≤ f.hi) := by
  rw [reservedMask, testBit_foldl_fields, Nat.testBit_two_pow_sub_one, decide_eq_true hb, Bool.true_and, List.all_eq_true]
  simp only [List.mem_filter, beq_iff_eq, Bool.not_eq_true', decide_eq_false_iff_not]
  exact ⟨fun h f hf hb => h f ⟨hf, hb.1⟩ hb.2, fun h f hf hb => h f hf.1 ⟨hf.2, hb⟩⟩

/-- A bit at which a packet breaks its layout: a reserved bit set, or the lowest of a field with a value that the layout does not list. -/
def Offends (p : Packet) (fs : List FieldSpec) (w b : Nat) : Prop :=
  ((p.word w).toNat.testBit b = true ∧ ∀ f ∈ fs, ¬ (f.word = w ∧ f.lo ≤ b ∧ b ≤ f.hi)) ∨ ∃ f ∈ fs, f.word = w ∧ f.lo = b ∧ f.ok = false

theorem offends_iff (p : Packet) (fs : List FieldSpec) (w : Nat) {b : Nat} (hb : b < 64) :
    (((p.word w).toNat &&& reservedMask fs w).testBit b || fs.any fun f => f.word == w && f.lo == b && !f.ok) = true ↔ Offends p fs w b := by
  rw [Bool.or_eq_true, Nat.testBit_and, Bool.and_eq_true, testBit_reservedMask fs w hb, List.any_eq_true]
  simp only [Offends, Bool.and_eq_true, beq_iff_eq, Bool.not_eq_true', and_assoc]

theorem offence_eq_some {p : Packet} {fs : List FieldSpec} {w b : Nat} (hb : b < 64) (h : Offends p fs w b)
    (hmin : ∀ b', b' < b → ¬ Offends p fs w b') : offence p fs w = some b := by
  unfold offence
  refine List.find?_range_eq_some.2 ⟨(offends_iff p fs w hb).2 h, List.mem_range.2 hb, fun b' hb' => ?_⟩
  rw [Bool.not_eq_true', ← Bool.not_eq_true, offends_iff p fs w (by omega)]
  exact hmin b' hb'

theorem offence_eq_none {p : Packet} {fs : List FieldSpec} {w : Nat} (h : ∀ b, b < 64 → ¬ Offends p fs w b) : offence p fs w = none := by
  unfold offence
  refine List.find?_range_eq_none.2 fun b hb => ?_
  rw [Bool.not_eq_true', ← Bool.not_eq_true, offends_iff p fs w hb]
  exact h b hb

theorem findSome?_range_of_none {α : Type} {g : Nat → Option α} {n : Nat} (h : ∀ v, v < n → g v = none) : (List.range n).findSome? g = none :=
  List.findSome?_eq_none_iff.2 fun v hv => h v (List.mem_range.1 hv)

theorem findSome?_range_first {α : Type} {g : Nat → Option α} {n w : Nat} {y : α} (hw : w < n) (hg : g w = some y)
    (h : ∀ v, v < w → g v = none) : (List.range n).findSome? g = some y := by
  induction n with
  | zero => cases hw
  | succ n ih =>
    rw [List.range_succ, List.findSome?_append]
    rcases Nat.lt_succ_iff_lt_or_eq.1 hw with hlt | rfl
    · rw [ih hlt]
      rfl
    · rw [findSome?_range_of_none h, List.findSome?_singleton, hg]
      rfl

theorem firstOffence_first {p : Packet} {fs : List FieldSpec} {w b : Nat} (hw : w < 8) (hb : b < 64) (h : Offends p fs w b)
    (hmin : ∀ w' b', w' < 8 → b' < 64 → Offends p fs w' b' → w < w' ∨ (w = w' ∧ b ≤ b')) : firstOffence p fs = some (w, b) := by
  have hthis : offence p fs w = some b := offence_eq_some hb h fun b' hlt hoff => by
    have := hmin w b' hw (by omega) hoff
    omega
  have hbefore (v : Nat) (hv : v < w) : offence p fs v = none := offence_eq_none fun b' hb' hoff => by
    have := hmin v b' (by omega) hb' hoff
    omega
  exact findSome?_range_first hw (by rw [hthis]; rfl) fun v hv => by rw [hbefore v hv]; rfl

theorem firstOffence_none {p : Packet} {fs : List FieldSpec} (h : ∀ w b, w < 8 → b < 64 → ¬ Offends p fs w b) : firstOffence p fs = none :=
  findSome?_range_of_none fun w hw => by
    rw [offence_eq_none fun b hb => h w b hw hb]
    rfl

/-! ### The order of the checks -/

section
variable {owner : Option Nat} {p : Packet}

theorem decodePacket_fmt (h1 : hdrFmt p.w0 ≠ 1) (h2 : hdrFmt p.w0 ≠ 2) : decodePacket owner p = .inl (outc .unsupported (0x1000 + hdrFmt p.w0) 0) :=
  if_pos ⟨h1, h2⟩

theorem decodePacket_opcode (hf : hdrFmt p.w0 = 1 ∨ hdrFmt p.w0 = 2)
    (ho : (Opcode.ofCode (hdrOp p.w0)).filter (fun o => !(hdrFmt p.w0 == 1) || o.inBl1) = none) :
    decodePacket owner p = .inl (outc .unsupported 0x2000 0) := by
  unfold decodePacket
  dsimp only
  rw [if_neg (by omega), ho]

/-- A packet of a known opcode: the ring's owner, then the layout. -/
theorem decodePacket_known {op : Opcode} (hf : hdrFmt p.w0 = 2 ∨ (hdrFmt p.w0 = 1 ∧ op.inBl1 = true)) (ho : Opcode.ofCode (hdrOp p.w0) = some op) :
    decodePacket owner p = if owner.isSome && owner != some (hdrCtx p.w0) then .inl (outc .ctxInvalid 0x3000 0)
      else match firstOffence p (hdrFields ++ bodyFields op (hdrFmt p.w0 == 1) p) with
        | some (w, b) => .inl (outc .reservedField (w + 8 * b) 0)
        | none => .inr (bodyCmd op (hdrFmt p.w0 == 1) p) := by
  have hkeep : (Opcode.ofCode (hdrOp p.w0)).filter (fun o => !(hdrFmt p.w0 == 1) || o.inBl1) = some op := by
    rw [ho, Option.filter_some, if_pos]
    rcases hf with hf | ⟨-, hb⟩
    · rw [hf]
      rfl
    · rw [hb, Bool.or_true]
  unfold decodePacket
  dsimp only
  rw [if_neg (by omega), hkeep] <;> rfl

theorem decodePacket_owner {op : Opcode} (hf : hdrFmt p.w0 = 2 ∨ (hdrFmt p.w0 = 1 ∧ op.inBl1 = true)) (ho : Opcode.ofCode (hdrOp p.w0) = some op)
    {o : Nat} (hown : owner = some o) (hne : o ≠ hdrCtx p.w0) : decodePacket owner p = .inl (outc .ctxInvalid 0x3000 0) := by
  rw [decodePacket_known hf ho, if_pos]
  simp [hown, hne]

theorem decodePacket_offends {op : Opcode} (hf : hdrFmt p.w0 = 2 ∨ (hdrFmt p.w0 = 1 ∧ op.inBl1 = true))
    (ho : Opcode.ofCode (hdrOp p.w0) = some op) (hown : ∀ o, owner = some o → o = hdrCtx p.w0) {w b : Nat}
    (h : firstOffence p (hdrFields ++ bodyFields op (hdrFmt p.w0 == 1) p) = some (w, b)) :
    decodePacket owner p = .inl (outc .reservedField (w + 8 * b) 0) := by
  rw [decodePacket_known hf ho, if_neg, h]
  cases owner with
  | none => simp
  | some o => simp [hown o rfl]

theorem decodePacket_passes {op : Opcode} (hf : hdrFmt p.w0 = 2 ∨ (hdrFmt p.w0 = 1 ∧ op.inBl1 = true))
    (ho : Opcode.ofCode (hdrOp p.w0) = some op) (hown : ∀ o, owner = some o → o = hdrCtx p.w0)
    (h : firstOffence p (hdrFields ++ bodyFields op (hdrFmt p.w0 == 1) p) = none) :
    decodePacket owner p = .inr (bodyCmd op (hdrFmt p.w0 == 1) p) := by
  rw [decodePacket_known hf ho, if_neg, h]
  cases owner with
  | none => simp
  | some o => simp [hown o rfl]

end

/-! ### The decoded command -/

section
variable {s : State} {t : Tag} {r : List Tag}

/-- Decoding fixes the command and its touches, and keeps the header and the state of the entry. -/
theorem decodeTouches_keeps (s : State) (e : TagEntry) (c : Command) : (decodeTouches s e c).cmd = some c ∧ (decodeTouches s e c).st = e.st
    ∧ (decodeTouches s e c).hdr = e.hdr := by
  unfold decodeTouches
  dsimp only
  split
  · exact ⟨rfl, rfl, rfl⟩
  · split <;> exact ⟨rfl, rfl, rfl⟩
  · split <;> exact ⟨rfl, rfl, rfl⟩

/-- The owner of the pair of the ring that a packet came from. -/
def originOwner (o : Origin) : Option Nat := match o with | .ring _ n => some n | _ => none

/-- The state once the oldest packet has left the input queue. -/
def unqueued (r : List Tag) (s : State) : State := { s with tly := { s.tly with inq := r } }

theorem exec_packetDecode (hq : s.tly.inq = t :: r) (hp : resumePending s = false) (hr : running s islC = true) : exec .packetDecode s
    = match decodePacket (originOwner (tagOf s t).src) (tagOf s t).pkt with
      | .inl o => .next (finish t o (unqueued r s))
      | .inr c => if 1 ≤ s.ctl.unplug then .next (unplugDecoded t c (unqueued r s))
        else .next (setTag t (decodeTouches (unqueued r s) (tagOf s t) c) (unqueued r s)) := by
  change execPacketDecode s = _
  unfold execPacketDecode
  rw [hq]
  dsimp only
  rw [if_neg (by simp [hp, hr])] <;> rfl

theorem unplugDecoded_other {c : Command} (hc : ∀ b f, c ≠ .bkclose b f) (u : State) :
    unplugDecoded t c u = finish t (outc .abortedPower 0 0) u := by
  unfold unplugDecoded
  split
  · exact absurd rfl (hc _ _)
  · rfl

end

/-- Settles O35: the oldest packet's outcome, then the order of the checks. -/
theorem packetDecodes : Obligations.PacketDecodes := by
  refine ⟨fun s t r hq hp hr => ?_, fun owner p => ?_⟩
  · intro owner u
    have hexec := exec_packetDecode hq hp hr
    have howner : originOwner (tagOf s t).src = owner := rfl
    rw [howner] at hexec
    have hu : unqueued r s = u := rfl
    rw [hu] at hexec
    have htag (x : Tag) : tagOf u x = tagOf s x := rfl
    refine ⟨fun o ho => ?_, fun c hc hun hne => ?_, fun b f hc hun => ?_, fun c hc hun => ?_⟩
    · rw [ho] at hexec
      exact ⟨_, hexec, finish_completed ..⟩
    · rw [hc] at hexec
      dsimp only at hexec
      rw [if_pos hun, unplugDecoded_other hne] at hexec
      exact ⟨_, hexec, finish_completed ..⟩
    · rw [hc] at hexec
      dsimp only at hexec
      rw [if_pos hun] at hexec
      refine ⟨_, hexec, ?_, fun x hx => (tagOf_updTag_ne hx _ u).trans (htag x), rfl⟩
      exact (tagOf_updTag_self t _ u).trans (by rw [htag, stopClose])
    · rw [hc] at hexec
      dsimp only at hexec
      rw [if_neg (by omega)] at hexec
      obtain ⟨hcmd, hst, hhdr⟩ := decodeTouches_keeps u (tagOf s t) c
      have hself := tagOf_setTag_self t (decodeTouches u (tagOf s t) c) u
      exact ⟨_, hexec, hself, (congrArg TagEntry.cmd hself).trans hcmd, (congrArg TagEntry.st hself).trans hst,
        (congrArg TagEntry.hdr hself).trans hhdr, fun x hx => (tagOf_setTag_ne hx _ u).trans (htag x), rfl⟩
  · intro bl1
    refine ⟨decodePacket_fmt, fun hf ho => decodePacket_opcode hf (by rw [ho]; rfl), fun op hf ho hb => ?_, fun op hf ho => ⟨fun o hown hne => ?_, fun hown => ?_⟩⟩
    · refine decodePacket_opcode (.inl hf) ?_
      rw [ho, Option.filter_some, hf, hb]
      rfl
    · exact decodePacket_owner hf ho hown hne
    · intro fs bad
      exact ⟨fun w b hw hb hbad hmin => decodePacket_offends hf ho hown (firstOffence_first hw hb hbad hmin),
        fun h => decodePacket_passes hf ho hown (firstOffence_none h)⟩
end Sys2Proof.Proofs
end

section
/-! SUPPORT. Proofs about the start of commands (R20, R63, R64, R67, R79, R110, R151). -/

namespace Sys2Proof.Proofs

open Sys2Proof.Machine Sys2Proof.Laws

section
variable {s : State} {tag : Tag}

/-! ### Asking for operands -/

/-- What asking for a command's operands changes: how many beats are awaited, in its entry, and what waits at the stations. -/
structure Feeds (tag : Tag) (s t : State) : Prop where
  entry : tagOf t tag = { tagOf s tag with job := { (tagOf s tag).job with rdOut := (tagOf t tag).job.rdOut } }
  others : ∀ u, u ≠ tag → tagOf t u = tagOf s u
  only : t = { s with crt := { s.crt with stns := t.crt.stns }, tly := { s.tly with tags := t.tly.tags } }

theorem Feeds.refl (tag : Tag) (s : State) : Feeds tag s s := ⟨rfl, fun _ _ => rfl, rfl⟩

theorem Feeds.trans {u t : State} (h : Feeds tag s u) (g : Feeds tag u t) : Feeds tag s t where
  entry := by rw [g.entry, h.entry]
  others x hx := (g.others x hx).trans (h.others x hx)
  only := by rw [g.only, h.only]

theorem feeds_askRead (n : Nat) (tag : Tag) (t lo hi : Nat) (last : Bool) (s : State) : Feeds tag s (askRead n tag t lo hi last s) where
  entry := by
    unfold askRead
    dsimp only
    rw [tagOf_updJob_self]
    rfl
  others u hu := by
    unfold askRead
    exact tagOf_updJob_ne hu ..
  only := rfl

theorem feeds_askRows (n : Nat) (tag : Tag) (t first count : Nat) (s : State) : Feeds tag s (askRows n tag t first count s) := by
  unfold askRows
  dsimp only
  split
  · exact (feeds_askRead ..).trans (feeds_askRead ..)
  · exact feeds_askRead ..

/-- A pass joins the sequence at its end, and its operands are asked for (R151). -/
theorem pushPass_parts {p : Pass} (hp : p.tag = tag) (s : State) : ∃ a, Feeds tag { s with arr := a } (pushPass p s)
    ∧ a = { s.arr with passes := s.arr.passes ++ [{ p with uid := s.arr.nextUid }], nextUid := s.arr.nextUid + 1 } := by
  refine ⟨_, ?_, rfl⟩
  subst hp
  change Feeds p.tag (addPass p s) (pushPass p s)
  unfold pushPass
  dsimp only
  have hfront : Feeds p.tag (addPass p s) (if p.drives then
      match p.mask with
      | some (f, c) => askRows 1 p.tag p.wtile f c (addPass p s)
      | none => askRows 1 p.tag p.wtile 0 (jobTile (addPass p s) p.tag p.wtile).rows (addPass p s)
    else addPass p s) := by
    split
    · split
      · exact feeds_askRows ..
      · exact feeds_askRows ..
    · exact Feeds.refl ..
  split
  · exact hfront
  · exact hfront.trans (feeds_askRows ..)

/-! ### The sequence -/

/-- What the operands and the place in the sequence of an array command leave. -/
structure Enters (tag : Tag) (s t : State) : Prop where
  entry : ∃ n, tagOf t tag = { tagOf s tag with job := { (tagOf s tag).job with rdOut := n } }
  others : ∀ u, u ≠ tag → tagOf t u = tagOf s u
  records : t.arr.records = s.arr.records
  resident : t.arr.resident = s.arr.resident
  only : t = { s with crt := { s.crt with stns := t.crt.stns }, tly := { s.tly with tags := t.tly.tags }, arr := t.arr }

theorem Enters.refl (tag : Tag) (s : State) : Enters tag s s := ⟨⟨_, rfl⟩, fun _ _ => rfl, rfl, rfl, rfl⟩

theorem Enters.trans {u t : State} (h : Enters tag s u) (g : Enters tag u t) : Enters tag s t where
  entry := by
    obtain ⟨n, hn⟩ := h.entry
    obtain ⟨m, hm⟩ := g.entry
    exact ⟨m, by rw [hm, hn]⟩
  others x hx := (g.others x hx).trans (h.others x hx)
  records := g.records.trans h.records
  resident := g.resident.trans h.resident
  only := by rw [g.only, h.only]

theorem Enters.jobTile {t : State} (h : Enters tag s t) (x : Nat) : jobTile t tag x = jobTile s tag x := by
  obtain ⟨n, hn⟩ := h.entry
  rw [Machine.jobTile, hn, Machine.jobTile]

theorem enters_pushPass {p : Pass} (hp : p.tag = tag) (s : State) : Enters tag s (pushPass p s)
    ∧ (pushPass p s).arr.passes = s.arr.passes ++ [{ p with uid := s.arr.nextUid }] := by
  obtain ⟨a, hfeed, ha⟩ := pushPass_parts hp s
  have harr : (pushPass p s).arr = a := by rw [hfeed.only]
  refine ⟨⟨⟨_, hfeed.entry⟩, hfeed.others, by rw [harr, ha], by rw [harr, ha], ?_⟩, by rw [harr, ha]⟩
  rw [harr]
  exact hfeed.only

/-- The passes of a TMMAS's entries, in order. -/
theorem enters_mmas (e : TagEntry) (x : Mmas) (us : List (Nat × Seg)) (s : State) :
    let t := us.foldl (fun s p => pushPass (mmasPass s tag e x p) s) s
    Enters tag s t ∧ ∃ ps : List Pass, t.arr.passes = s.arr.passes ++ ps ∧ ps.length = us.length
      ∧ ∀ (i : Nat) (p : Nat × Seg), us[i]? = some p → ∃ n, ps[i]? = some { mmasPass s tag e x p with uid := n } := by
  induction us generalizing s with
  | nil => exact ⟨Enters.refl tag s, [], (List.append_nil _).symm, rfl, fun i p h => by simp at h⟩
  | cons q r ih =>
    have htag : (mmasPass s tag e x q).tag = tag := by
      unfold mmasPass
      dsimp only
      split <;> rfl
    obtain ⟨hfirst, hpass⟩ := enters_pushPass htag s
    obtain ⟨hrest, ps, hps, hlen, hget⟩ := ih (pushPass (mmasPass s tag e x q) s)
    have hsame (p : Nat × Seg) : mmasPass (pushPass (mmasPass s tag e x q) s) tag e x p = mmasPass s tag e x p := by
      rw [mmasPass, hfirst.jobTile, hfirst.jobTile, hfirst.jobTile, mmasPass]
    refine ⟨hfirst.trans hrest, { mmasPass s tag e x q with uid := s.arr.nextUid } :: ps, ?_, by rw [List.length_cons, List.length_cons, hlen],
      fun i p h => ?_⟩
    · rw [List.foldl_cons, hps, hpass, List.append_assoc]
      rfl
    · cases i with
      | zero =>
        obtain rfl : q = p := by simpa using h
        exact ⟨_, rfl⟩
      | succ i =>
        obtain ⟨n, hn⟩ := hget i p (by simpa using h)
        rw [hsame] at hn
        exact ⟨n, hn⟩

/-- An array command begins: it has noted its tiles and woken their groups (R110). -/
theorem beginArray_parts (tag : Tag) (u : ArrayUse) (s : State) : let t := beginArray tag u s
    (∃ m, tagOf t tag = { tagOf s tag with job := { (tagOf s tag).job with snap := m, stage := 1 } }
      ∧ ∀ x ∈ tilesWithScales s (u.stile :: u.fronts.map (·.1) ++ u.accs.map (·.1)), jobTile t tag x = tileOf s x)
    ∧ (∀ x, x ≠ tag → tagOf t x = tagOf s x)
    ∧ t = { s with shf := { s.shf with groups := t.shf.groups }, tly := { s.tly with tags := t.tly.tags } } := by
  have hsnap (f : Nat → Tile) (ts : List Nat) (m : Tbl Tile) (x : Nat) : tget Tile.none (ts.foldl (fun m t => tput t (f t) m) m) x
      = if x ∈ ts then f x else tget Tile.none m x := by
    induction ts generalizing m with
    | nil => simp
    | cons y r ih =>
      rw [List.foldl_cons, ih]
      by_cases hr : x ∈ r
      · simp [hr]
      · by_cases hxy : x = y
        · subst hxy
          simp
        · simp [hr, hxy, tget_tput_ne]
  unfold beginArray
  dsimp only
  generalize hts : tilesWithScales s (u.stile :: u.fronts.map (·.1) ++ u.accs.map (·.1)) = ts
  have hframe := wakeGroups_frame (dedup ((ts.filter fun t => !(tileOf (snapTiles tag ts s) t).spill).map fun t => (tileOf (snapTiles tag ts s) t).group))
    (snapTiles tag ts s)
  have htag := tagOf_wakeGroups (dedup ((ts.filter fun t => !(tileOf (snapTiles tag ts s) t).spill).map fun t => (tileOf (snapTiles tag ts s) t).group))
    (snapTiles tag ts s)
  generalize wakeGroups _ (snapTiles tag ts s) = w at hframe htag ⊢
  have hself : tagOf (snapTiles tag ts s) tag = { tagOf s tag with job := { (tagOf s tag).job with
      snap := ts.foldl (fun m t => tput t (tileOf s t) m) (tagOf s tag).job.snap } } := tagOf_updJob_self ..
  have hentry : tagOf (updJob tag (fun j => { j with stage := 1 }) w) tag = { tagOf s tag with job := { (tagOf s tag).job with
      snap := ts.foldl (fun m t => tput t (tileOf s t) m) (tagOf s tag).job.snap, stage := 1 } } := by
    rw [tagOf_updJob_self, htag, hself]
  refine ⟨⟨_, hentry, fun x hx => ?_⟩, fun x hx => ?_, ?_⟩
  · rw [jobTile, hentry]
    exact (hsnap ..).trans (if_pos hx)
  · rw [tagOf_updJob_ne hx, htag]
    exact tagOf_updJob_ne hx ..
  · change { w with tly := _ } = _
    rw [hframe]
    rfl

/-! ### The start -/

/-- A command's entry as it starts on a station (R63). -/
def startedEntry (stn : Option Nat) (e : TagEntry) : TagEntry := { e with st := .started, job := { e.job with stn := stn } }

/-- What becoming STARTED leaves, before an array command takes its place in the sequence. -/
structure Begun (tag : Tag) (e : TagEntry) (s t : State) : Prop where
  entry : ∃ xs, tagOf t tag = { e with touches := xs }
  others : ∀ u, u ≠ tag → tagOf t u = tagOf s u
  shf : t.shf = s.shf
  hay : t.hay = s.hay
  noc : t.noc = s.noc
  arr : t.arr = s.arr

/-- A command that has become STARTED. -/
def begun (t : Tag) (c : Command) (stn : Option Nat) (f : TagEntry → TagEntry) (s : State) : State :=
  let e := f (tagOf s t)
  let e := { e with st := .started, job := { e.job with stn := stn } }
  let more := (realTouches s e c).filter fun x => !e.touches.any fun y => decide (y.obj = x.obj) && decide (y.cls = x.cls) && !y.orderOnly
  let s := setTag t { e with touches := e.touches ++ more } s
  let s := match c with
    | .tmmas _ => endTouch t (.segs (hdrStream e.hdr)) s
    | .tperm x => if mustBounce x e.job.imgs then { s with tly := { s.tly with bounceHeld := some t } } else s
    | _ => s
  traceEv 1 islC (stn.getD 0) t.toNat 0 (dropLatches (tagOf s t) s)

/-- An array command's own place in the sequence; nothing for another. -/
def entersSequence (t : Tag) (c : Command) (s : State) : State :=
  match c with
  | .twf .. | .tmma _ | .tmmas _ => arrayBegin t s
  | _ => s

theorem beginCmd_eq (t : Tag) (c : Command) (stn : Option Nat) (f : TagEntry → TagEntry) (s : State) :
    beginCmd t c stn f s = entersSequence t c (begun t c stn f s) := by
  unfold beginCmd entersSequence begun
  rfl

theorem begun_parts (t : Tag) (c : Command) (stn : Option Nat) (f : TagEntry → TagEntry) (s : State) :
    Begun t (startedEntry stn (f (tagOf s t))) s (begun t c stn f s) := by
  have hset (e : TagEntry) (xs : List Touch) : Begun t e s (setTag t { e with touches := xs } s) :=
    ⟨⟨xs, tagOf_setTag_self ..⟩, fun u hu => tagOf_setTag_ne hu .., rfl, rfl, rfl, rfl⟩
  have hend (e : TagEntry) (o : Obj) (u : State) (h : Begun t e s u) : Begun t e s (endTouch t o u) := by
    obtain ⟨xs, hxs⟩ := h.entry
    refine ⟨⟨_, (tagOf_updTag_self ..).trans (by rw [hxs])⟩, fun x hx => (tagOf_updTag_ne hx ..).trans (h.others x hx), h.shf, h.hay, h.noc, h.arr⟩
  have hlast (e : TagEntry) (u : State) (h : Begun t e s u) : Begun t e s (traceEv 1 islC (stn.getD 0) t.toNat 0 (dropLatches (tagOf u t) u)) := by
    obtain ⟨xs, hxs⟩ := h.entry
    refine ⟨⟨xs, (tagOf_traceEv ..).trans hxs⟩, fun x hx => (tagOf_traceEv ..).trans (h.others x hx), ?_, ?_, ?_, ?_⟩
    · rw [traceEv_shf]
      exact h.shf
    · rw [traceEv_hay]
      exact h.hay
    · rw [traceEv_noc]
      exact h.noc
    · rw [traceEv_arr]
      exact h.arr
  have hbounce (e : TagEntry) (u : State) (h : Begun t e s u) : Begun t e s { u with tly := { u.tly with bounceHeld := some t } } :=
    ⟨h.entry, h.others, h.shf, h.hay, h.noc, h.arr⟩
  unfold begun
  dsimp only
  refine hlast _ _ ?_
  split
  · exact hend _ _ _ (hset ..)
  · split
    · exact hbounce _ _ (hset ..)
    · exact hset ..
  · exact hset ..

/-- What an array command's place in the sequence leaves of the rest. -/
theorem arrayBegin_keeps (tag : Tag) (s : State) : let t := arrayBegin tag s
    (tagOf t tag).st = (tagOf s tag).st ∧ (tagOf t tag).cmd = (tagOf s tag).cmd ∧ (tagOf t tag).job.stn = (tagOf s tag).job.stn
    ∧ (∀ x, x ≠ tag → tagOf t x = tagOf s x) ∧ t.shf = { s.shf with groups := t.shf.groups } ∧ t.hay = s.hay ∧ t.noc = s.noc := by
  have hgen (a : ArrayUse) (t : State) (h : Enters tag (beginArray tag a s) t) :
      (tagOf t tag).st = (tagOf s tag).st ∧ (tagOf t tag).cmd = (tagOf s tag).cmd ∧ (tagOf t tag).job.stn = (tagOf s tag).job.stn
      ∧ (∀ x, x ≠ tag → tagOf t x = tagOf s x) ∧ t.shf = { s.shf with groups := t.shf.groups } ∧ t.hay = s.hay ∧ t.noc = s.noc := by
    obtain ⟨⟨m, hm, -⟩, hothers, honly⟩ := beginArray_parts tag a s
    obtain ⟨n, hn⟩ := h.entry
    generalize beginArray tag a s = w at h hm hothers honly hn
    have hshf : t.shf = w.shf := by rw [h.only]
    have hhay : t.hay = w.hay := by rw [h.only]
    have hnoc : t.noc = w.noc := by rw [h.only]
    rw [hn, hm, hshf, hhay, hnoc]
    refine ⟨rfl, rfl, rfl, fun x hx => (h.others x hx).trans (hothers x hx), ?_, ?_, ?_⟩ <;> rw [honly]
  have hsame : (tagOf s tag).st = (tagOf s tag).st ∧ (tagOf s tag).cmd = (tagOf s tag).cmd ∧ (tagOf s tag).job.stn = (tagOf s tag).job.stn
      ∧ (∀ x, x ≠ tag → tagOf s x = tagOf s x) ∧ s.shf = { s.shf with groups := s.shf.groups } ∧ s.hay = s.hay ∧ s.noc = s.noc :=
    ⟨rfl, rfl, rfl, fun _ _ => rfl, rfl, rfl, rfl⟩
  unfold arrayBegin
  dsimp only
  split
  · refine hgen _ _ (enters_pushPass ?_ _).1
    rfl
  · split
    · exact hsame
    · refine hgen _ _ (enters_pushPass ?_ _).1
      unfold mmaPass
      dsimp only
      split <;> rfl
  · exact hgen _ _ (enters_mmas ..).1
  · exact hsame

end
end Sys2Proof.Proofs
end

section
/-! SUPPORT. The start of commands (R20, R64, R67, R79) and their place in the array's sequence (R151, R158, R159, R162, R163). -/

namespace Sys2Proof.Proofs

open Sys2Proof.Machine Sys2Proof.Laws

section
variable {s : State} {tag : Tag} {c : Command}

/-! ### COMMAND_START -/

theorem exec_commandStart (hc : (tagOf s tag).cmd = some c) (hw : (tagOf s tag).st = .waiting) (hh : startsHere c = true) (hu : s.ctl.unplug = 0)
    (hr : running s islC = true) : exec (.commandStart tag) s
      = .next (if heldBack s tag = true then s else applyStart tag c (tryStart tag c s)) := by
  change execCommandStart tag s = _
  unfold execCommandStart
  dsimp only
  rw [hc]
  dsimp only
  by_cases hheld : heldBack s tag = true
  · rw [if_pos (.inr (.inr (.inl hheld))), if_pos hheld]
  · rw [if_neg, if_neg hheld]
    rintro (h | h | h | h | h)
    · exact h hw
    · rw [hh] at h
      cases h
    · exact hheld h
    · omega
    · rw [hr] at h
      cases h

/-- What the start of a command leaves. -/
structure StartedOn (tag : Tag) (n : Option Nat) (cmd : Option Command) (s t : State) : Prop where
  st : (tagOf t tag).st = .started
  stn : (tagOf t tag).job.stn = n
  cmd : (tagOf t tag).cmd = cmd
  others : ∀ x, x ≠ tag → tagOf t x = tagOf s x
  shf : t.shf = { s.shf with groups := t.shf.groups }
  hay : t.hay = s.hay
  noc : t.noc = s.noc

theorem beginCmd_started (tag : Tag) (c : Command) (n : Option Nat) (f : TagEntry → TagEntry) (s : State) :
    StartedOn tag n (f (tagOf s tag)).cmd s (beginCmd tag c n f s) := by
  have hbegun := begun_parts tag c n f s
  rw [beginCmd_eq]
  generalize begun tag c n f s = u at hbegun
  obtain ⟨⟨xs, hentry⟩, hothers, hshf, hhay, hnoc, -⟩ := hbegun
  have hplain : StartedOn tag n (f (tagOf s tag)).cmd s u := by
    refine ⟨?_, ?_, ?_, hothers, by rw [hshf], hhay, hnoc⟩ <;> rw [hentry] <;> rfl
  have harray : StartedOn tag n (f (tagOf s tag)).cmd s (arrayBegin tag u) := by
    obtain ⟨hst, hcmd, hstn, hkeep, hgroups, hhay', hnoc'⟩ := arrayBegin_keeps tag u
    exact ⟨hst.trans hplain.st, hstn.trans hplain.stn, hcmd.trans hplain.cmd, fun x hx => (hkeep x hx).trans (hothers x hx),
      hgroups.trans (by rw [hshf]), hhay'.trans hhay, hnoc'.trans hnoc⟩
  unfold entersSequence
  split
  · exact harray
  · exact harray
  · exact harray
  · exact hplain

/-- The crossing to a command's island, taken or not needed. -/
theorem dispatch_begins (h : ∀ k, dispatchCross s c = some k → canCross s k = true) (n : Option Nat) (f : TagEntry → TagEntry) :
    ∃ w, dispatch tag c n f s = beginCmd tag c n f w ∧ w.tly = s.tly ∧ w.shf = s.shf ∧ w.hay = s.hay ∧ w.noc = s.noc ∧ w.arr = s.arr := by
  unfold dispatch
  cases hx : dispatchCross s c with
  | none => exact ⟨s, rfl, rfl, rfl, rfl, rfl, rfl⟩
  | some k =>
    dsimp only
    rw [if_pos (h k hx)]
    refine ⟨crossIn k s, rfl, ?_, ?_, ?_, ?_, ?_⟩ <;> rw [crossIn_frame]

theorem dispatch_waits {k : Nat} (hx : dispatchCross s c = some k) (h : canCross s k = false) (n : Option Nat) (f : TagEntry → TagEntry) :
    dispatch tag c n f s = s := by
  unfold dispatch
  rw [hx]
  dsimp only
  rw [if_neg (by simp [h])]

theorem dispatch_started (h : ∀ k, dispatchCross s c = some k → canCross s k = true) (n : Option Nat) (f : TagEntry → TagEntry) :
    StartedOn tag n (f (tagOf s tag)).cmd s (dispatch tag c n f s) := by
  obtain ⟨w, hw, htly, hshf, hhay, hnoc, -⟩ := dispatch_begins (tag := tag) h n f
  obtain ⟨hst, hstn, hcmd, hothers, hgroups, hhay', hnoc'⟩ := beginCmd_started tag c n f w
  have htag (x : Tag) : tagOf w x = tagOf s x := tagOf_congr (by rw [htly]) x
  rw [hw]
  exact ⟨hst, hstn, by rw [hcmd, htag], fun x hx => (hothers x hx).trans (htag x), hgroups.trans (by rw [hshf]), hhay'.trans hhay, hnoc'.trans hnoc⟩

/-- A command that takes no place in the array's sequence changes nothing of the Sheaf as it starts. -/
theorem dispatch_shf (h : ∀ k, dispatchCross s c = some k → canCross s k = true) (ha : ∀ u, entersSequence tag c u = u) (n : Option Nat)
    (f : TagEntry → TagEntry) : (dispatch tag c n f s).shf = s.shf := by
  obtain ⟨w, hw, -, hshf, -⟩ := dispatch_begins (tag := tag) h n f
  rw [hw, beginCmd_eq, ha, (begun_parts tag c n f w).shf, hshf]

theorem tryStart_diag (h : c.isDiag = true) : tryStart tag c s = (goIf (takesFirst s 15 tag && underWay s 15) 15, s)
    ∧ dispatchCross s c = none ∧ ∀ u, entersSequence tag c u = u := by
  unfold Command.isDiag at h
  split at h
  case h_9 => cases h
  all_goals exact ⟨rfl, rfl, fun _ => rfl⟩

theorem tryStart_bank {op : Opcode} {x : BankOp} {o : Outc} (hx : x.count ≠ 0) (hj : judgeCmd s (tagOf s tag) (.bank op x) = .reply o) :
    tryStart tag (.bank op x) s = (.reply o, s) := by
  change (startBank tag (.bank op x) x s, s) = _
  rw [startBank, if_neg hx, hj]

end

/-- Settles O36, by what the attempt to start comes to. -/
theorem commandStarts : Obligations.CommandStarts := by
  intro s tag c hc hw hh hu hr
  have hexec := exec_commandStart hc hw hh hu hr
  refine ⟨fun hheld => ?_, fun hheld st u htry => ?_, fun hheld hx hplain => ?_, fun hheld hdiag => ⟨fun htf huw => ?_, fun hno => ?_⟩,
    fun op x o hheld hbank hcount hj => ?_⟩
  · rw [if_pos hheld] at hexec
    exact hexec
  · rw [if_neg (by simp [hheld]), htry] at hexec
    cases st with
    | wait => exact hexec
    | reply o => exact ⟨_, hexec, finish_completed ..⟩
    | go n f =>
      refine ⟨fun hx => ?_, fun k hx hno => ?_⟩
      · obtain ⟨hst, hstn, hcmd, hothers, hshf, hhay, hnoc⟩ := dispatch_started (tag := tag) hx n f
        exact ⟨_, hexec, hst, hstn, hcmd, hothers, hshf, hhay, hnoc⟩
      · exact hexec.trans (congrArg _ (dispatch_waits hx hno n f))
  · have hgo : tryStart tag c s = (.go none id, s) ∧ ∀ u, entersSequence tag c u = u := by
      clear hexec hx hh hw hc
      cases c
      case tcfg | trel | tqry | dcre | dfree | bkclose | bkqry | ctxset | ctxget | ctxevict | ringset | ringget | fence | audit | nop =>
        exact ⟨rfl, fun _ => rfl⟩
      case ctxpin x pin =>
        cases pin
        · exact ⟨rfl, fun _ => rfl⟩
        · exact hplain.elim
      all_goals exact hplain.elim
    rw [if_neg (by simp [hheld]), hgo.1] at hexec
    obtain ⟨hst, hstn, hcmd, hothers, -, hhay, -⟩ := dispatch_started (tag := tag) hx none id
    exact ⟨_, hexec, hst, hstn, hcmd.trans hc, hothers, dispatch_shf hx hgo.2 none id, hhay⟩
  · obtain ⟨htry, hcross, hseq⟩ := tryStart_diag (s := s) (tag := tag) hdiag
    have hx (k : Nat) (h : dispatchCross s c = some k) : canCross s k = true := by
      rw [hcross] at h
      cases h
    have hgo : goIf (takesFirst s 15 tag && underWay s 15) 15 = .go (some 15) id := if_pos (by rw [htf, huw]; rfl)
    rw [if_neg (by simp [hheld]), htry, hgo] at hexec
    obtain ⟨hst, hstn, hcmd, hothers, -, hhay, -⟩ := dispatch_started (tag := tag) hx (some 15) id
    exact ⟨_, hexec, hst, hstn, hcmd.trans hc, hothers, dispatch_shf hx hseq (some 15) id, hhay⟩
  · have hgo : goIf (takesFirst s 15 tag && underWay s 15) 15 = .wait := if_neg (by rcases hno with h | h <;> simp [h])
    rw [if_neg (by simp [hheld]), (tryStart_diag (s := s) (tag := tag) hdiag).1, hgo] at hexec
    exact hexec
  · subst hbank
    rw [if_neg (by simp [hheld]), tryStart_bank hcount hj] at hexec
    exact ⟨_, hexec, finish_completed ..⟩
end Sys2Proof.Proofs
end

section
/-! SUPPORT. The place of array commands in the sequence of fronts and passes (R110, R151, R158, R159, R162, R163). -/

namespace Sys2Proof.Proofs

open Sys2Proof.Machine Sys2Proof.Laws

section
variable {s : State} {tag : Tag} {c : Command} {e : TagEntry}

theorem mem_tilesWithScales {x : Nat} {ts : List Nat} (h : x ∈ ts) (s : State) : x ∈ tilesWithScales s ts := by
  rw [tilesWithScales, mem_dedup, List.mem_map]
  refine ⟨(x, .r), ?_, rfl⟩
  rw [withScales, List.mem_flatten]
  refine ⟨_, List.mem_map.2 ⟨(x, .r), List.mem_map.2 ⟨x, h, rfl⟩, rfl⟩, ?_⟩
  dsimp only
  split <;> simp

/-! ### What the attempt to start comes to -/

theorem startFeed_twf {w label : Nat} {flay nw : Bool} (he : tagOf s tag = e) (hk : arrayChecks s e false = none)
    (ht : takesFirst s 1 tag = true) (hf : feedersFree s (.twf w flay label nw) = true) :
    startFeed tag (.twf w flay label nw) s = .go (some 1) id := by
  have hchecks : startChecks s e (.twf w flay label nw) = none := hk
  unfold startFeed
  dsimp only
  rw [he, ht, hf, hchecks]
  rfl

theorem tryStart_twf {w label : Nat} {flay nw : Bool} (he : tagOf s tag = e) (ha : arrayOk s = true)
    (hj : judgeCmd s e (.twf w flay label nw) = .go) (hk : arrayChecks s e false = none) (ht : takesFirst s 1 tag = true)
    (hf : feedersFree s (.twf w flay label nw) = true) : tryStart tag (.twf w flay label nw) s = (.go (some 1) id, s) := by
  have hnothing : ¬ judgesNothing (.twf w flay label nw) = true := nofun
  change startArray tag (.twf w flay label nw) s = _
  unfold startArray
  dsimp only
  rw [if_neg (by simp [ha]), he, hj]
  dsimp only
  rw [if_neg hnothing, startFeed_twf he hk ht hf]

theorem tryStart_tmma {x : Mma} (he : tagOf s tag = e) (ha : arrayOk s = true) (hj : judgeCmd s e (.tmma x) = .go)
    (hk : arrayChecks s e false = none) (ht : takesFirst s 1 tag = true) (hf : feedersFree s (.tmma x) = true) (hx : x.count ≠ 0)
    (hres : x.res = false) : tryStart tag (.tmma x) s = (.go (some 0) id, s) := by
  have hwaits : resWaits s x = false := by rw [resWaits, hres, Bool.false_and]
  change startArray tag (.tmma x) s = _
  unfold startArray
  dsimp only
  rw [if_neg (by simp [ha]), he, hj]
  dsimp only
  rw [if_neg (by simp [judgesNothing, hx]), startFeed]
  rw [he, ht, hf, hres, hwaits, startChecks]
  rw [hres]
  rw [if_neg nofun, hk]
  rfl

theorem resolveCtxs_held {cs : List Nat} (h : ∀ c ∈ cs, c ∈ (tagOf s tag).refs) : resolveCtxs tag cs s = s := by
  unfold resolveCtxs
  induction cs with
  | nil => rfl
  | cons c r ih =>
    have hstep : needCtx tag s c = s := if_pos (by simp [h c List.mem_cons_self])
    rw [List.foldl_cons, hstep]
    exact ih fun d hd => h d (List.mem_cons_of_mem c hd)

theorem tryStart_tmmas {x : Mmas} (he : tagOf s tag = e) (ha : arrayOk s = true) (hj : judgeCmd s e (.tmmas x) = .go)
    (hk : arrayChecks s e false = none) (ht : takesFirst s 1 tag = true) (hf : feedersFree s (.tmmas x) = true)
    (hseg : segsBad s e x.stile = none) (hctx : ∀ p ∈ mmasUse e, p.2.ctx ∈ e.refs ∧ p.2.ctx ∉ e.ctxWait) (hbad : mmasCtxBad s e x = none)
    (hlate : e.hintsLate = false) :
    tryStart tag (.tmmas x) s = (.go (some 0) fun y => { y with hints := e.hints, hintsLate := false }, s) := by
  have hmem (d : Nat) (hd : d ∈ dedup ((mmasUse e).map fun p => p.2.ctx)) : d ∈ e.refs ∧ d ∉ e.ctxWait := by
    rw [mem_dedup, List.mem_map] at hd
    obtain ⟨p, hp, rfl⟩ := hd
    exact hctx p hp
  have hres : resolveCtxs tag (dedup ((mmasUse e).map fun p => p.2.ctx)) s = s := resolveCtxs_held fun d hd => by
    rw [he]
    exact (hmem d hd).1
  have hset : ctxSettled s tag (dedup ((mmasUse e).map fun p => p.2.ctx)) = true := by
    unfold ctxSettled
    dsimp only
    rw [List.all_eq_true]
    intro d hd
    obtain ⟨h1, h2⟩ := hmem d hd
    rw [he]
    simp [h1, h2]
  change startArray tag (.tmmas x) s = _
  unfold startArray
  dsimp only
  rw [if_neg (by simp [ha]), he, hj]
  dsimp only
  rw [startMmas]
  dsimp only
  rw [he, hk]
  dsimp only
  rw [hseg]
  dsimp only
  rw [hres, hset, he, hbad, hlate, ht, hf]
  rfl

/-! ### The start -/

/-- An array command that can be dispatched takes its place in the sequence. -/
theorem dispatch_array (hx : dispatchCross s c = some 62) (hcan : canCross s 62 = true) (hseq : ∀ u, entersSequence tag c u = arrayBegin tag u)
    (n : Option Nat) (f : TagEntry → TagEntry) : ∃ u, dispatch tag c n f s = arrayBegin tag u ∧ u.shf = s.shf ∧ u.arr = s.arr
      ∧ ∃ xs, tagOf u tag = { startedEntry n (f (tagOf s tag)) with touches := xs } := by
  have hcross (k : Nat) (h : dispatchCross s c = some k) : canCross s k = true := by
    obtain rfl : 62 = k := Option.some.inj (hx.symm.trans h)
    exact hcan
  obtain ⟨w, hw, htly, hshf, -, -, harr⟩ := dispatch_begins (tag := tag) hcross n f
  obtain ⟨hentry, -, hshf', -, -, harr'⟩ := begun_parts tag c n f w
  rw [tagOf_congr (s := s) (t := w) (by rw [htly])] at hentry
  exact ⟨begun tag c n f w, by rw [hw, beginCmd_eq, hseq], hshf'.trans hshf, harr'.trans harr, hentry⟩

/-- The pass of a TWF. -/
def twfPass (tag : Tag) (x : Tile) (w : Nat) (flay : Bool) (label : Nat) : Pass := { newPass tag x w flay with isTwf := true, flabel := label }

/-- The pass of a TMMA with RES 0. -/
def tmmaPass (tag : Tag) (w : Tile) (x : Mma) : Pass := { newPass tag w x.wtile x.flay with
  stile := x.stile, first := x.first, count := x.count, atile := x.atile, arow := x.arow, acol := x.acol }

theorem arrayBegin_twf {w label : Nat} {flay nw : Bool} (hc : (tagOf s tag).cmd = some (.twf w flay label nw)) :
    arrayBegin tag s = pushPass (twfPass tag (jobTile (beginArray tag (arrayUse s (tagOf s tag)) s) tag w) w flay label)
      (beginArray tag (arrayUse s (tagOf s tag)) s) := by
  unfold arrayBegin
  dsimp only
  rw [hc]
  rfl

theorem arrayBegin_tmma {x : Mma} (hc : (tagOf s tag).cmd = some (.tmma x)) (hx : x.count ≠ 0) :
    arrayBegin tag s = pushPass (mmaPass (beginArray tag (arrayUse s (tagOf s tag)) s) tag x) (beginArray tag (arrayUse s (tagOf s tag)) s) := by
  unfold arrayBegin
  dsimp only
  rw [hc]
  exact if_neg hx

theorem arrayBegin_tmmas {x : Mmas} (hc : (tagOf s tag).cmd = some (.tmmas x)) : arrayBegin tag s
    = ((mmasUse (tagOf s tag)).drop (tagOf s tag).job.landed).foldl (fun u p => pushPass (mmasPass u tag (tagOf s tag) x p) u)
        (beginArray tag (arrayUse s (tagOf s tag)) s) := by
  unfold arrayBegin
  dsimp only
  rw [hc]

/-- The tiles that an array command names are noted as they are when it begins. -/
theorem jobTile_beginArray {a : ArrayUse} {x : Nat} (h : x ∈ a.stile :: a.fronts.map (·.1) ++ a.accs.map (·.1)) (s : State) :
    jobTile (beginArray tag a s) tag x = tileOf s x := by
  obtain ⟨⟨m, -, hsnap⟩, -⟩ := beginArray_parts tag a s
  exact hsnap x (mem_tilesWithScales h s)

/-- What holds of an array command once it has its place: STARTED, its first step taken, and storage, records and the resident front
as they were. -/
structure InSequence (tag : Tag) (s t : State) : Prop where
  st : (tagOf t tag).st = .started
  stage : (tagOf t tag).job.stage = 1
  records : t.arr.records = s.arr.records
  resident : t.arr.resident = s.arr.resident
  mem : t.shf.mem = s.shf.mem

theorem inSequence_of_enters {u t : State} {a : ArrayUse} {n : Option Nat} {y : TagEntry} (hshf : u.shf = s.shf) (harr : u.arr = s.arr)
    (hentry : ∃ xs, tagOf u tag = { startedEntry n y with touches := xs }) (h : Enters tag (beginArray tag a u) t) : InSequence tag s t := by
  obtain ⟨xs, hxs⟩ := hentry
  obtain ⟨⟨m, hm, -⟩, -, honly⟩ := beginArray_parts tag a u
  obtain ⟨k, hk⟩ := h.entry
  have hbarr : (beginArray tag a u).arr = s.arr := by rw [honly, harr]
  have hbmem : (beginArray tag a u).shf.mem = s.shf.mem := by rw [honly, hshf]
  have hmem : t.shf.mem = (beginArray tag a u).shf.mem := by rw [h.only]
  rw [hm, hxs] at hk
  exact ⟨by rw [hk]; rfl, by rw [hk], h.records.trans (by rw [hbarr]), h.resident.trans (by rw [hbarr]), hmem.trans hbmem⟩

theorem passes_beginArray {u : State} {a : ArrayUse} (harr : u.arr = s.arr) : (beginArray tag a u).arr.passes = s.arr.passes := by
  obtain ⟨-, -, honly⟩ := beginArray_parts tag a u
  rw [honly, harr]

theorem arrayUse_tmmas_mem {y : TagEntry} {x : Mmas} (hc : y.cmd = some (.tmmas x)) (hm : x.masked = true) (s : State) :
    (arrayUse s y).stile = x.otile := by
  unfold arrayUse
  rw [hc]
  dsimp only
  rw [if_pos hm]

/-- A pass with the number that it has in the sequence. -/
def withUid (n : Nat) (p : Pass) : Pass := { p with uid := n }

/-- One pass pushed as a command begins. -/
theorem inSequence_pushPass {u : State} {p : Pass} {n : Option Nat} {y : TagEntry} (hp : p.tag = tag) (a : ArrayUse) (hshf : u.shf = s.shf)
    (harr : u.arr = s.arr) (hentry : ∃ xs, tagOf u tag = { startedEntry n y with touches := xs }) :
    InSequence tag s (pushPass p (beginArray tag a u))
      ∧ ∃ k, (pushPass p (beginArray tag a u)).arr.passes = s.arr.passes ++ [withUid k p] := by
  obtain ⟨henter, hpasses⟩ := enters_pushPass hp (beginArray tag a u)
  rw [passes_beginArray harr] at hpasses
  exact ⟨inSequence_of_enters hshf harr hentry henter, _, hpasses⟩

theorem mmaPass_driven {x : Mma} (hres : x.res = false) : mmaPass s tag x = tmmaPass tag (jobTile s tag x.wtile) x := by
  rw [mmaPass, hres]
  rfl

theorem twf_enters {w label : Nat} {flay nw : Bool} (he : tagOf s tag = e) (hc : e.cmd = some (.twf w flay label nw)) (hcan : canCross s 62 = true) :
    InSequence tag s (dispatch tag (.twf w flay label nw) (some 1) id s)
      ∧ ∃ k, (dispatch tag (.twf w flay label nw) (some 1) id s).arr.passes = s.arr.passes ++ [withUid k (twfPass tag (tileOf s w) w flay label)] := by
  obtain ⟨u, hdisp, hshf, harr, hentry⟩ := dispatch_array (s := s) (tag := tag) (c := .twf w flay label nw) rfl hcan (fun _ => rfl) (some 1) id
  have hcu : (tagOf u tag).cmd = some (.twf w flay label nw) := by
    obtain ⟨xs, hxs⟩ := hentry
    rw [hxs]
    exact (congrArg TagEntry.cmd he).trans hc
  have huse : arrayUse u (tagOf u tag) = ⟨w, [(w, flay)], [], 0⟩ := by rw [arrayUse, hcu]
  have htile : jobTile (beginArray tag (arrayUse u (tagOf u tag)) u) tag w = tileOf s w := by
    rw [jobTile_beginArray (by rw [huse]; simp), tileOf, hshf, tileOf]
  rw [hdisp, arrayBegin_twf hcu, htile]
  have htag : (twfPass tag (tileOf s w) w flay label).tag = tag := rfl
  have hpush := inSequence_pushPass (n := some 1) (y := id (tagOf s tag)) htag (arrayUse u (tagOf u tag)) hshf harr hentry
  exact hpush

theorem tmma_enters {x : Mma} (he : tagOf s tag = e) (hc : e.cmd = some (.tmma x)) (hcan : canCross s 62 = true) (hx : x.count ≠ 0)
    (hres : x.res = false) : InSequence tag s (dispatch tag (.tmma x) (some 0) id s)
      ∧ ∃ k, (dispatch tag (.tmma x) (some 0) id s).arr.passes = s.arr.passes ++ [withUid k (tmmaPass tag (tileOf s x.wtile) x)] := by
  obtain ⟨u, hdisp, hshf, harr, hentry⟩ := dispatch_array (s := s) (tag := tag) (c := .tmma x) rfl hcan (fun _ => rfl) (some 0) id
  have hcu : (tagOf u tag).cmd = some (.tmma x) := by
    obtain ⟨xs, hxs⟩ := hentry
    rw [hxs]
    exact (congrArg TagEntry.cmd he).trans hc
  have huse : arrayUse u (tagOf u tag) = ⟨x.stile, [(x.wtile, x.flay)], [(x.atile, x.arow + x.first + x.count)], x.acol⟩ := by
    rw [arrayUse, hcu]
    dsimp only
    rw [hres]
    rfl
  have htile : jobTile (beginArray tag (arrayUse u (tagOf u tag)) u) tag x.wtile = tileOf s x.wtile := by
    rw [jobTile_beginArray (by rw [huse]; simp), tileOf, hshf, tileOf]
  rw [hdisp, arrayBegin_tmma hcu hx, mmaPass_driven hres, htile]
  have htag : (tmmaPass tag (tileOf s x.wtile) x).tag = tag := rfl
  have hpush := inSequence_pushPass (n := some 0) (y := id (tagOf s tag)) htag (arrayUse u (tagOf u tag)) hshf harr hentry
  exact hpush

/-- The pass of entry `p` of a TMMAS that names a segment or an accumulator. -/
structure EntryPass (s : State) (tag : Tag) (e : TagEntry) (x : Mmas) (k : Nat) (g : Seg) (p : Pass) : Prop where
  own : p.tag = tag ∧ p.isTwf = false ∧ p.arow = x.arow ∧ p.acol = x.acol ∧ p.launched = 0 ∧ p.drives = true ∧ p.beats = 0
  plain : x.masked = false → p.wtile = g.tile ∧ p.flay = x.flay ∧ p.mask = none ∧ p.stile = x.stile ∧ p.first = g.first
    ∧ p.count = g.count ∧ p.atile = x.atile
  masked : x.masked = true → p.wtile = x.stile ∧ p.flay = true ∧ p.mask = some (g.first, g.count) ∧ p.stile = x.otile ∧ p.first = 0
    ∧ p.count = (tileOf s x.otile).rows ∧ p.atile = (mmasAcc e x (k, g)).getD 0

theorem entryPass_mmasPass {u : State} {y : TagEntry} {x : Mmas} {k n : Nat} {g : Seg} (hh : y.hints = e.hints)
    (htile : x.masked = true → jobTile u tag x.otile = tileOf s x.otile) :
    EntryPass s tag e x k g { mmasPass u tag y x (k, g) with uid := n } := by
  have hacc : mmasAcc y x (k, g) = mmasAcc e x (k, g) := by rw [mmasAcc, hh, mmasAcc]
  unfold mmasPass
  dsimp only
  rw [hacc]
  cases hm : x.masked with
  | false =>
    have haccv : mmasAcc e x (k, g) = some x.atile := by rw [mmasAcc, hm]; rfl
    rw [haccv]
    exact ⟨⟨rfl, rfl, rfl, rfl, rfl, rfl, rfl⟩, fun _ => ⟨rfl, rfl, rfl, rfl, rfl, rfl, rfl⟩, fun h => Bool.noConfusion (hm.symm.trans h)⟩
  | true =>
    exact ⟨⟨rfl, rfl, rfl, rfl, rfl, rfl, rfl⟩, fun h => Bool.noConfusion (hm.symm.trans h),
      fun _ => ⟨rfl, rfl, rfl, rfl, rfl, congrArg Tile.rows (htile hm), rfl⟩⟩

theorem tmmas_enters {x : Mmas} (he : tagOf s tag = e) (hc : e.cmd = some (.tmmas x)) (hcan : canCross s 62 = true) :
    let t := dispatch tag (.tmmas x) (some 0) (fun y => { y with hints := e.hints, hintsLate := false }) s
    InSequence tag s t ∧ ∃ ps : List Pass, t.arr.passes = s.arr.passes ++ ps ∧ ps.length = (mmasUse e).length - e.job.landed
      ∧ ∀ (i k : Nat) (g : Seg), (mmasUse e)[e.job.landed + i]? = some (k, g) → ∃ p, ps[i]? = some p ∧ EntryPass s tag e x k g p := by
  obtain ⟨u, hdisp, hshf, harr, hentry⟩ := dispatch_array (s := s) (tag := tag) (c := .tmmas x) rfl hcan (fun _ => rfl) (some 0)
    fun y => { y with hints := e.hints, hintsLate := false }
  have hfields : (tagOf u tag).cmd = some (.tmmas x) ∧ (tagOf u tag).segs = e.segs ∧ (tagOf u tag).hints = e.hints
      ∧ (tagOf u tag).job.landed = e.job.landed := by
    obtain ⟨xs, hxs⟩ := hentry
    rw [hxs, he]
    exact ⟨hc, rfl, rfl, rfl⟩
  obtain ⟨hcu, hsegs, hhints, hlanded⟩ := hfields
  have huses : mmasUse (tagOf u tag) = mmasUse e := by rw [mmasUse, hsegs, mmasUse]
  intro t
  have ht : t = _ := hdisp.trans (arrayBegin_tmmas hcu)
  rw [huses, hlanded] at ht
  obtain ⟨henter, ps, hps, hlen, hget⟩ := enters_mmas (tag := tag) (tagOf u tag) x ((mmasUse e).drop e.job.landed)
    (beginArray tag (arrayUse u (tagOf u tag)) u)
  rw [← ht] at henter hps
  refine ⟨inSequence_of_enters (n := some 0) (y := (fun y : TagEntry => { y with hints := e.hints, hintsLate := false }) (tagOf s tag)) hshf harr hentry henter, ps, hps.trans (by rw [passes_beginArray harr]), by rw [hlen, List.length_drop],
    fun i k g hkg => ?_⟩
  obtain ⟨n, hn⟩ := hget i (k, g) (by rw [List.getElem?_drop]; exact hkg)
  refine ⟨_, hn, entryPass_mmasPass hhints fun hm => ?_⟩
  rw [jobTile_beginArray (by rw [arrayUse_tmmas_mem hcu hm]; simp), tileOf, hshf, tileOf]

end

/-- Settles O24, command by command. -/
theorem arrayCommandsEnterSequence : Obligations.ArrayCommandsEnterSequence := by
  intro s tag e c he hw hc hheld hu hr ha hj hk ht hf hcan
  have hstart (hh : startsHere c = true) (n : Option Nat) (f : TagEntry → TagEntry) (htry : tryStart tag c s = (.go n f, s)) :
      exec (.commandStart tag) s = .next (dispatch tag c n f s) := by
    rw [exec_commandStart (by rw [he, hc]) (by rw [he, hw]) hh hu hr, if_neg (by simp [hheld]), htry]
    rfl
  refine ⟨fun w flay label nw hcmd => ?_, fun x hcmd hx hres => ?_, fun x hcmd hseg hctx hbad hlate => ?_⟩ <;> subst hcmd
  · obtain ⟨⟨hst, hstage, hrec, hresd, hmem⟩, k, hpasses⟩ := twf_enters he hc hcan
    exact ⟨_, _, hstart rfl _ _ (tryStart_twf he ha hj hk ht hf), hst, hstage, hpasses, rfl, rfl, rfl, rfl, rfl, rfl, rfl, rfl, hrec, hresd, hmem⟩
  · obtain ⟨⟨hst, hstage, hrec, hresd, hmem⟩, k, hpasses⟩ := tmma_enters he hc hcan hx hres
    exact ⟨_, _, hstart rfl _ _ (tryStart_tmma he ha hj hk ht hf hx hres), hst, hstage, hpasses, rfl, rfl, rfl, rfl, rfl, rfl, rfl, rfl, rfl, rfl,
      rfl, rfl, rfl, rfl, hrec, hresd, hmem⟩
  · obtain ⟨⟨hst, hstage, hrec, hresd, hmem⟩, ps, hps, hlen, hget⟩ := tmmas_enters he hc hcan
    refine ⟨_, ps, hstart rfl _ _ (tryStart_tmmas he ha hj hk ht hf hseg hctx hbad hlate), hst, hstage, hps, hlen, fun i k g hkg => ?_,
      hrec, hresd, hmem⟩
    obtain ⟨p, hp, ⟨htag, htwf, harow, hacol, hlaunched, hdrives, hbeats⟩, hplain, hmasked⟩ := hget i k g hkg
    exact ⟨p, hp, htag, htwf, harow, hacol, hlaunched, hdrives, hbeats, hplain, hmasked⟩
end Sys2Proof.Proofs
end

section
/-! SUPPORT. Proofs about landing (R96, R158, R159, R161, R168, R169): the tiles a command wrote become VALID, and array commands complete. -/

namespace Sys2Proof.Proofs

open Sys2Proof.Machine Sys2Proof.Laws

/-! ### Landing -/

/-- The step of `markWritten` for one touch. -/
def markTouch (s : State) (x : Touch) : State :=
  match x.obj with
  | .tile t => if x.cls = .w && !x.orderOnly then markValid t s else s
  | _ => s

theorem markWritten_eq (tag : Tag) (s : State) : markWritten tag s = (tagOf s tag).touches.foldl markTouch s := rfl

/-- A touch in class W, other than for ordering only, of tile `n`. -/
def Touch.Writes (x : Touch) (n : Nat) : Prop := x.obj = .tile n ∧ x.cls = .w ∧ x.orderOnly = false

/-- A VALID tile, where it is configured. -/
def validTile (x : Tile) : Tile := if x.st = .unconfigured then x else { x with st := .valid }

theorem validTile_idem (x : Tile) : validTile (validTile x) = validTile x := by
  unfold validTile
  by_cases h : x.st = .unconfigured <;> simp [h]

theorem markTouch_frame (s : State) (x : Touch) : markTouch s x = { s with shf := { s.shf with tiles := (markTouch s x).shf.tiles } } := by
  unfold markTouch
  split
  · split
    · exact markValid_frame _ s
    · rfl
  · rfl

theorem tileOf_markTouch_writes {x : Touch} {n : Nat} (h : Touch.Writes x n) (s : State) :
    tileOf (markTouch s x) n = validTile (tileOf s n) := by
  obtain ⟨hobj, hcls, hord⟩ := h
  simp [markTouch, hobj, hcls, hord, tileOf_markValid, validTile]

theorem tileOf_markTouch_other {x : Touch} {n : Nat} (h : ¬ Touch.Writes x n) (s : State) : tileOf (markTouch s x) n = tileOf s n := by
  unfold markTouch
  split
  · next t ht =>
    split
    · next hw =>
      simp only [Bool.and_eq_true, decide_eq_true_eq, Bool.not_eq_true'] at hw
      rw [tileOf_markValid, if_neg]
      rintro rfl
      exact h ⟨ht, hw⟩
    · rfl
  · rfl

theorem foldl_markTouch_frame (l : List Touch) (s : State) :
    l.foldl markTouch s = { s with shf := { s.shf with tiles := (l.foldl markTouch s).shf.tiles } } := by
  induction l generalizing s with
  | nil => rfl
  | cons x r ih => rw [List.foldl_cons, ih, markTouch_frame]

theorem tileOf_foldl_markTouch_other {n : Nat} {l : List Touch} (s : State) (h : ¬ ∃ x ∈ l, Touch.Writes x n) :
    tileOf (l.foldl markTouch s) n = tileOf s n := by
  induction l generalizing s with
  | nil => rfl
  | cons x r ih =>
    rw [List.foldl_cons, ih _ fun ⟨y, hy, hw⟩ => h ⟨y, List.mem_cons_of_mem x hy, hw⟩]
    exact tileOf_markTouch_other (fun hw => h ⟨x, List.mem_cons_self, hw⟩) s

theorem tileOf_foldl_markTouch_writes {n : Nat} {l : List Touch} (s : State) (h : ∃ x ∈ l, Touch.Writes x n) :
    tileOf (l.foldl markTouch s) n = validTile (tileOf s n) := by
  induction l generalizing s with
  | nil => simp at h
  | cons x r ih =>
    rw [List.foldl_cons]
    have hstep : tileOf (markTouch s x) n = tileOf s n ∨ tileOf (markTouch s x) n = validTile (tileOf s n) := by
      by_cases hx : Touch.Writes x n
      · exact .inr (tileOf_markTouch_writes hx s)
      · exact .inl (tileOf_markTouch_other hx s)
    by_cases hr : ∃ y ∈ r, Touch.Writes y n
    · rw [ih _ hr]
      rcases hstep with hstep | hstep <;> simp [hstep, validTile_idem]
    · rw [tileOf_foldl_markTouch_other _ hr, tileOf_markTouch_writes]
      obtain ⟨y, hy, hw⟩ := h
      rcases List.mem_cons.1 hy with rfl | hy
      · exact hw
      · exact absurd ⟨y, hy, hw⟩ hr

theorem markWritten_frame (tag : Tag) (s : State) :
    markWritten tag s = { s with shf := { s.shf with tiles := (markWritten tag s).shf.tiles } } :=
  foldl_markTouch_frame _ s

/-- A state with tile registers of its own differs in nothing else. -/
theorem only_of_tiles {s u : State} (h : u = { s with shf := { s.shf with tiles := u.shf.tiles } }) :
    u = { s with shf := { s.shf with tiles := u.shf.tiles }, tly := { s.tly with tags := u.tly.tags } } := by
  generalize u.shf.tiles = ts at h
  subst h
  rfl

theorem tagOf_markWritten (tag x : Tag) (s : State) : tagOf (markWritten tag s) x = tagOf s x :=
  tagOf_congr (congrArg (·.tly.tags) (markWritten_frame tag s)) x

/-- What marking the tiles a command wrote leaves (R96). -/
theorem landed_markWritten (s : State) (tag : Tag) : Landed s (markWritten tag s) tag where
  written n hw hc := (tileOf_foldl_markTouch_writes s hw).trans (if_neg hc)
  others n hn := by
    by_cases hw : WritesTile (tagOf s tag) n
    · exact (tileOf_foldl_markTouch_writes s hw).trans (if_pos (not_not.1 fun hc => hn ⟨hw, hc⟩))
    · exact tileOf_foldl_markTouch_other s hw
  mine := by rw [tagOf_markWritten]
  tags x _ := tagOf_markWritten tag x s
  only := only_of_tiles (markWritten_frame tag s)

theorem finishWritten_eq (tag : Tag) (count : Nat) (s : State) :
    finishWritten tag count s = finish tag (formStatus (tagOf (markWritten tag s) tag) count) (markWritten tag s) := rfl

/-- A command that has written all it was to write completes, its tiles VALID (R96, R135). -/
theorem finishWritten_completes (tag : Tag) (count : Nat) (s : State) :
    ∃ u, Landed s u tag ∧ Completed u (finishWritten tag count s) tag (formStatus (tagOf s tag) count) := by
  have h := finish_completed tag (formStatus (tagOf (markWritten tag s) tag) count) (markWritten tag s)
  rw [← finishWritten_eq, tagOf_markWritten] at h
  exact ⟨_, landed_markWritten s tag, h⟩

/-! ### Array commands -/

theorem purgeStation_tly (tag : Tag) (s : State) (n : Nat) : (purgeStation tag s n).tly = s.tly := by
  unfold purgeStation
  dsimp only
  split <;> rfl

theorem purgeReads_tly (tag : Tag) (s : State) : (purgeReads tag s).tly = s.tly := by
  unfold purgeReads
  exact List.foldlRecOn (motive := fun u : State => u.tly = s.tly) _ _ rfl fun u hu n _ => (purgeStation_tly tag u n).trans hu

section
variable {s : State} {tag : Tag} {e : TagEntry}

/-- An array command whose passes have all landed completes. -/
theorem endArray_completes {total : Nat} (ht : tagOf s tag = e) (hl : e.job.landed = total) :
    ∃ u, Landed (purgeReads tag s) u tag ∧ Completed u (endArray tag total s) tag (formStatus e total) := by
  have hend : endArray tag total s = finishWritten tag total (purgeReads tag s) := by
    rw [endArray, ht, hl]
    exact if_neg (Nat.lt_irrefl total)
  have hp : tagOf (purgeReads tag s) tag = e := (tagOf_congr (congrArg Tallyman.tags (purgeReads_tly tag s)) tag).trans ht
  rw [hend, ← hp]
  exact finishWritten_completes tag total (purgeReads tag s)

theorem exec_twf_idle (h : started s tag .twf = some e) (hi : arrayIdle s tag = true) :
    exec (.twf tag) s = .next (endArray tag 1 s) := by
  change execTwf tag s = _
  simp only [execTwf, h, if_pos hi]

theorem exec_tmma_idle {x : Mma} (h : started s tag .tmma = some e) (hc : e.cmd = some (.tmma x)) (hx : x.count ≠ 0)
    (hi : arrayIdle s tag = true) : exec (.tmma tag) s = .next (endArray tag 1 s) := by
  change execTmma tag s = _
  simp only [execTmma, h, hc, if_neg hx, if_pos hi]

theorem exec_tmma_empty {x : Mma} (h : started s tag .tmma = some e) (hc : e.cmd = some (.tmma x)) (hx : x.count = 0) :
    exec (.tmma tag) s = .next (finish tag (outc .ok 0 0) s) := by
  change execTmma tag s = _
  simp only [execTmma, h, hc, if_pos hx]

theorem exec_tmmas_idle (h : started s tag .tmmas = some e) (hi : arrayIdle s tag = true) :
    exec (.tmmas tag) s = .next (endArray tag (mmasUse e).length s) := by
  change execTmmas tag s = _
  simp only [execTmmas, h, if_pos hi]

end

/-- Settles O25, by the command. -/
theorem arrayCommandsComplete : Obligations.ArrayCommandsComplete := by
  intro s tag e
  refine ⟨fun w flay label nw h _ hi hl => ?_, fun x h hc hx hi hl => ?_, fun x h hc hx => ?_, fun x h _ hi hl => ?_⟩
  · obtain ⟨u, hland, hdone⟩ := endArray_completes (started_tagOf h).1 hl
    exact ⟨u, _, exec_twf_idle h hi, hland, hdone⟩
  · obtain ⟨u, hland, hdone⟩ := endArray_completes (started_tagOf h).1 hl
    exact ⟨u, _, exec_tmma_idle h hc hx hi, hland, hdone⟩
  · exact ⟨_, exec_tmma_empty h hc hx, finish_completed ..⟩
  · obtain ⟨u, hland, hdone⟩ := endArray_completes (started_tagOf h).1 hl
    exact ⟨u, _, exec_tmmas_idle h hi, hland, hdone⟩

end Sys2Proof.Proofs
end

section
/-! SUPPORT. Proofs about bank arithmetic (R178, R180, R182): the stages of a command. -/

namespace Sys2Proof.Proofs

open Sys2Proof.Machine Sys2Proof.Laws

section
variable {op : Opcode} {s : State} {tag : Tag} {e : TagEntry} {x : BankOp}

theorem exec_bank (hop : op ∈ bankOpcodes) : exec (bankInstr op tag) s = bankStep op tag s := by
  simp only [bankOpcodes, List.mem_cons, List.not_mem_nil, or_false] at hop
  rcases hop with rfl | rfl | rfl | rfl | rfl | rfl | rfl <;> rfl

section
variable (h : started s tag op = some e) (hc : e.cmd = some (.bank op x))
include h hc

theorem bankStep_empty (hx : x.count = 0) : bankStep op tag s = .next (finishWritten tag 0 s) := by
  simp only [bankStep, h, hc, if_pos hx]

theorem bankStep_refused {o : Outc} (hx : x.count ≠ 0) (hst : e.job.stage = 0) (hck : bankChecks s op x = some o) :
    bankStep op tag s = .next (finish tag o s) := by
  simp only [bankStep, h, hc, if_neg hx, if_pos hst, hck]

theorem bankStep_later (hx : x.count ≠ 0) (hst : e.job.stage ≠ 0) : bankStep op tag s = .next (bankEnd op tag x s) := by
  simp only [bankStep, h, hc, if_neg hx, if_neg hst]

end

/-- A command that begins: its stage noted and its group woken. -/
def bankBegun (tag : Tag) (g : Nat) (s : State) : State := wakeGroup g (updJob tag (fun j => { j with stage := 1 }) s)

theorem bankReqs_congr {s u : State} (h : tileOf u = tileOf s) (op : Opcode) (tag : Tag) (x : BankOp) : bankReqs u op tag x = bankReqs s op tag x := by
  simp only [bankReqs, zipReqs, rowReqs, rowReqs2, elemReqs, rangeReqs, h]

theorem bankStep_asks (h : started s tag op = some e) (hc : e.cmd = some (.bank op x)) (hx : x.count ≠ 0) (hst : e.job.stage = 0)
    (hck : bankChecks s op x = none) :
    bankStep op tag s = .next (askMil (bankReqs s op tag x) (bankBegun tag (tileOf s x.dtile).group s)) := by
  have hreqs : bankReqs (bankBegun tag (tileOf s x.dtile).group s) op tag x = bankReqs s op tag x := bankReqs_congr (funext fun _ => rfl) op tag x
  rw [← hreqs]
  simp only [bankStep, h, hc, if_neg hx, if_pos hst, hck]
  rfl

theorem bankEnd_busy (hb : milBusy s tag = true) : bankEnd op tag x s = s := if_pos hb

theorem bankEnd_wakes (hb : milBusy s tag = false) (hg : (groupOf s (tileOf s x.dtile).group).ready = false) :
    bankEnd op tag x s = wakeGroup (tileOf s x.dtile).group s := by
  simp [bankEnd, hb, hg]

theorem bankEnd_runs (hb : milBusy s tag = false) (hg : (groupOf s (tileOf s x.dtile).group).ready = true)
    (hr : running s (1 + (tileOf s x.dtile).group) = true) : bankEnd op tag x s = finishWritten tag x.count (runBank op tag x s) := by
  simp [bankEnd, hb, hg, hr]

end

/-- Settles O26, by the stage of the command. -/
theorem bankCommandsComplete : Obligations.BankCommandsComplete := by
  intro op s tag e x hop h hc g
  obtain ⟨htag, -⟩ := started_tagOf h
  rw [exec_bank hop]
  refine ⟨fun hx => ?_, fun o hx hst hck => ?_, fun hx hst hck => ?_, fun hx hst hb => ?_, fun hx hst hb hg => ?_, fun hx hst hb hg hr => ?_⟩
  · obtain ⟨u, hland, hdone⟩ := finishWritten_completes tag 0 s
    exact ⟨u, _, bankStep_empty h hc hx, hland, htag ▸ hdone⟩
  · exact ⟨_, bankStep_refused h hc hx hst hck, finish_completed ..⟩
  · refine ⟨_, bankStep_asks h hc hx hst hck, groupOf_setGroup_self .., fun k hk => groupOf_setGroup_ne hk .., rfl, ?_,
      fun u hu => ?_, rfl⟩
    · have hself : tagOf (updJob tag (fun j => { j with stage := 1 }) s) tag = _ := tagOf_updJob_self ..
      rw [← htag]
      exact hself
    · exact (tagOf_updJob_ne hu (fun j => { j with stage := 1 }) s :)
  · rw [bankStep_later h hc hx hst, bankEnd_busy hb]
  · rw [bankStep_later h hc hx hst, bankEnd_wakes hb hg]
    exact ⟨_, rfl, groupOf_setGroup_self .., fun k hk => groupOf_setGroup_ne hk .., rfl⟩
  · rw [bankStep_later h hc hx hst, bankEnd_runs hb hg hr]
    obtain ⟨u, hland, hdone⟩ := finishWritten_completes tag x.count (runBank op tag x s)
    exact ⟨u, _, rfl, hland, hdone⟩

end Sys2Proof.Proofs
end

section
/-! SUPPORT. Proofs about DCRE (R212): the stages of a command. -/

namespace Sys2Proof.Proofs

open Sys2Proof.Machine Sys2Proof.Laws

/-- Make a handle live with the CRC of an image, and count it. -/
def madeLive (h : Nat) (c : BitVec 32) (s : State) : State := cnt 0x6040 1 (cancelHandle h (setLive h (some c) s))

theorem liveCrc_madeLive_self (h : Nat) (c : BitVec 32) (s : State) : liveCrc (madeLive h c s) h = some c :=
  liveCrc_setLive_self h (some c) s

theorem liveCrc_madeLive_ne {h k : Nat} (hk : k ≠ h) (c : BitVec 32) (s : State) : liveCrc (madeLive h c s) k = liveCrc s k :=
  liveCrc_setLive_ne hk (some c) s

theorem madeLive_frame (h : Nat) (c : BitVec 32) (s : State) : madeLive h c s = { s with
    regs := (madeLive h c s).regs
    asy := { s.asy with live := (madeLive h c s).asy.live }
    tly := { s.tly with recs := (madeLive h c s).tly.recs, bounceRec := (madeLive h c s).tly.bounceRec } } := rfl

/-- The registers that tell of a rejected image. -/
def notedReject (h : Nat) (st : Status) (reason : Nat) (s : State) : State :=
  cnt 0x6044 1 (rset 0x6030 (BitVec.ofNat 32 (st.code * 65536 + reason * 4096 + h)) s)

theorem rejectDcre_eq (tag : Tag) (h : Nat) (st : Status) (reason : Nat) (s : State) :
    rejectDcre tag h st reason s = finish tag (outc st (4096 * reason + h) 0) (notedReject h st reason s) := rfl

theorem notedReject_frame (h : Nat) (st : Status) (reason : Nat) (s : State) :
    notedReject h st reason s = { s with regs := (notedReject h st reason s).regs } := rfl

section
variable {s : State} {tag : Tag} {e : TagEntry} {h addr : Nat} {hay : Bool}

theorem exec_dcre (hs : started s tag .dcre = some e) (hc : e.cmd = some (.dcre h hay addr)) : exec (.dcre tag) s
    = .next (if e.job.stage = 0 then (if (liveCrc s h).isSome then rejectDcre tag h .descInvalid 7 s else askImage tag hay addr s)
      else if e.job.stage = 1 then s else if e.job.stage = 2 then checkImage tag h e s
      else if e.job.wrOut = 0 then endDcre tag h e s else s) := by
  change execDcre tag s = _
  simp only [execDcre, hs, hc]

theorem checkImage_good {img : BitVec 512} (himgs : e.job.imgs = [img]) (hlim : e.job.lim = none) (hbad : e.job.bad = none)
    (himg : imgCheck img = none) (hwin : windowCheck s (Desc.ofImage img) = none) : checkImage tag h e s
      = askHay (hayWr 9 (slotAddr s h) (-1) img (.store tag)) (updJob tag (fun j => { j with stage := 3, wrOut := j.wrOut + 1 }) s) := by
  simp [checkImage, himgs, hlim, hbad, himg, hwin]

theorem endDcre_eq {img : BitVec 512} (himgs : e.job.imgs = [img]) (hbits : e.bits = 0) :
    endDcre tag h e s = finish tag (outc .ok h 1) (madeLive h (crc32 (bytes 64 img)) s) := by
  rw [endDcre, himgs, hbits]
  rfl

end

/-- Settles O19, by the stage of the command. -/
theorem dcreMakesLive : Obligations.DcreMakesLive := by
  intro s tag e h addr hay hs hc
  have hexec := exec_dcre hs hc
  obtain ⟨htag, -⟩ := started_tagOf hs
  refine ⟨fun hst hlive => ?_, fun img hst himgs hlim hbad himg hwin => ?_, fun img hst himgs hout hbits => ?_⟩
  · rw [if_pos hst, if_pos hlive, rejectDcre_eq] at hexec
    exact ⟨_, _, hexec, finish_completed .., rfl, rfl, rfl, rfl⟩
  · rw [hst, if_neg (by decide), if_neg (by decide), if_pos rfl, checkImage_good himgs hlim hbad himg hwin] at hexec
    refine ⟨_, hexec, ?_, ?_, fun k => ?_, ?_, ?_, ?_, fun x hx => ?_⟩
    · rw [askHay_frame]
      rfl
    · rw [tagOf_askHay, tagOf_updJob_self, htag]
    · rw [liveCrc, askHay_frame]
      rfl
    · rw [askHay_frame]
      rfl
    · rw [askHay_frame]
      rfl
    · rw [askHay_frame]
      rfl
    · rw [tagOf_askHay, tagOf_updJob_ne hx]
  · rw [hst, if_neg (by decide), if_neg (by decide), if_neg (by decide), if_pos hout, endDcre_eq himgs hbits] at hexec
    exact ⟨_, _, hexec, finish_completed .., liveCrc_madeLive_self .., fun k hk => liveCrc_madeLive_ne hk .., rget_cnt_self ..,
      fun k hk => rget_cnt_ne hk .., madeLive_frame ..⟩

end Sys2Proof.Proofs
end

section
/-! SUPPORT. Proofs about transfers (R96, R204, R220, R226, R232-R234, R238): how loads, stores and transpositions complete. -/

namespace Sys2Proof.Proofs

open Sys2Proof.Machine Sys2Proof.Laws

section
variable {s : State} {tag : Tag} {e : TagEntry}

/-! ### Completion -/

/-- From `s` to `v` only the progress of the command of `tag` differs, and nothing of it that a reply's status rests on. -/
structure Progressed (s v : State) (tag : Tag) : Prop where
  mine : tagOf v tag = { tagOf s tag with job := (tagOf v tag).job }
  wBad : (tagOf v tag).job.wBad = (tagOf s tag).job.wBad
  dn : (tagOf v tag).job.dn = (tagOf s tag).job.dn
  tags : ∀ x, x ≠ tag → tagOf v x = tagOf s x
  only : v = { s with tly := { s.tly with tags := v.tly.tags } }

theorem progressed_updJob (f : Job → Job) (s : State) (tag : Tag) (hbad : ∀ j, (f j).wBad = j.wBad) (hdn : ∀ j, (f j).dn = j.dn) :
    Progressed s (updJob tag f s) tag where
  mine := by rw [tagOf_updJob_self]
  wBad := by rw [tagOf_updJob_self]; exact hbad _
  dn := by rw [tagOf_updJob_self]; exact hdn _
  tags x hx := tagOf_updJob_ne hx ..
  only := rfl

theorem Progressed.trans {s v w : State} (h : Progressed s v tag) (g : Progressed v w tag) : Progressed s w tag where
  mine := by
    have hg := g.mine
    rw [h.mine] at hg
    exact hg
  wBad := g.wBad.trans h.wBad
  dn := g.dn.trans h.dn
  tags x hx := (g.tags x hx).trans (h.tags x hx)
  only := by
    have hg := g.only
    rw [h.only] at hg
    exact hg

theorem Progressed.landed {v u : State} (h : Progressed s v tag) (hl : Landed v u tag) : Landed s u tag := by
  have htile : tileOf v = tileOf s := by rw [h.only]; rfl
  have hwrites : ∀ n, WritesTile (tagOf v tag) n ↔ WritesTile (tagOf s tag) n := fun n => by rw [h.mine]; rfl
  obtain ⟨hwritten, hothers, hmine, htags, honly⟩ := hl
  simp only [htile, hwrites] at hwritten hothers
  refine ⟨hwritten, hothers, ?_, fun x hx => (htags x hx).trans (h.tags x hx), ?_⟩
  · rw [h.mine] at hmine
    exact hmine
  · rw [h.only] at honly
    exact honly

theorem Progressed.formStatus_eq {v : State} (h : Progressed s v tag) (ht : tagOf s tag = e) (count : Nat) :
    formStatus (tagOf v tag) count = formStatus e count := by
  have hbits : (tagOf v tag).bits = e.bits := by rw [h.mine, ht]
  have hecc : (tagOf v tag).ecc = e.ecc := by rw [h.mine, ht]
  simp only [formStatus, hbits, hecc, h.wBad, h.dn, ht]

/-- A command completes with its tiles VALID, though its progress is noted last. -/
theorem Progressed.completes {v : State} (h : Progressed s v tag) (ht : tagOf s tag = e) (count : Nat) :
    ∃ u, Landed s u tag ∧ Completed u (finishWritten tag count v) tag (formStatus e count) := by
  obtain ⟨u, hland, hdone⟩ := finishWritten_completes tag count v
  rw [h.formStatus_eq ht] at hdone
  exact ⟨u, h.landed hland, hdone⟩

/-! ### Loads -/

theorem sendBeat_sent {second : Bool} {t at_ lo hi : Nat} {fin : Bool} {words : List Word}
    (h : beatsSent (if second then (tagOf s tag).job.wIdx2 else (tagOf s tag).job.wIdx) lo hi = true) :
    sendBeat tag second t at_ lo hi fin words s = s := by
  unfold sendBeat
  dsimp only
  rw [if_neg]
  rintro ⟨hk, hlo, -⟩
  simp only [beatsSent, Bool.or_eq_true, decide_eq_true_eq] at h
  omega

theorem loadLanded_parts {v : Load} (h : loadLanded s tag v = true) :
    beatsSent (tagOf s tag).job.wIdx ((tagOf s tag).job.landed * (jobTile s tag v.tile).rowBytes)
        ((tagOf s tag).job.row * (jobTile s tag v.tile).rowBytes) = true
      ∧ ∀ p, v.pair = some p → beatsSent (tagOf s tag).job.wIdx2 ((tagOf s tag).job.landed * (jobTile s tag p).rowBytes)
        ((tagOf s tag).job.row * (jobTile s tag p).rowBytes) = true := by
  unfold loadLanded at h
  simp only [Bool.and_eq_true, beq_iff_eq] at h
  obtain ⟨⟨hmain, hpair⟩, -⟩ := h
  refine ⟨hmain, fun p hp => ?_⟩
  rw [hp] at hpair
  exact hpair

theorem sendLoad_landed {v : Load} {fin : Bool} (h : loadLanded s tag v = true) : sendLoad tag v fin s = s := by
  obtain ⟨hmain, hpair⟩ := loadLanded_parts h
  unfold sendLoad
  dsimp only
  rw [sendBeat_sent (second := false) hmain]
  split
  · next p hp => exact sendBeat_sent (second := true) (hpair p hp)
  · rfl

/-- A load's last request is known to be made. -/
def noteIssued (tag : Tag) (v : Load) (s : State) : State := updJob tag (fun j => { j with issued := j.issued || decide (v.rows ≤ j.reqRow) }) s

theorem job_noteIssued (v : Load) : (tagOf (noteIssued tag v s) tag).job
    = { (tagOf s tag).job with issued := (tagOf s tag).job.issued || decide (v.rows ≤ (tagOf s tag).job.reqRow) } := by
  rw [noteIssued, tagOf_updJob_self]

theorem progressed_noteIssued (v : Load) : Progressed s (noteIssued tag v s) tag :=
  progressed_updJob _ s tag (fun _ => rfl) (fun _ => rfl)

theorem jobTile_noteIssued (v : Load) (t : Nat) : jobTile (noteIssued tag v s) tag t = jobTile s tag t := by
  rw [jobTile, job_noteIssued, jobTile]

theorem loadLanded_noteIssued (v : Load) : loadLanded (noteIssued tag v s) tag v = loadLanded s tag v := by
  simp only [loadLanded, jobTile_noteIssued, job_noteIssued]

/-- What a load does once its last request is known to be made: form a row, send a beat, complete. -/
def loadMoves (tag : Tag) (v : Load) (src : Nat → RowSrc) (s : State) : State :=
  let j := (tagOf s tag).job
  let s := if v.rows ≤ j.row then (if j.row < v.total then formRow tag v (RowSrc.zero j.row) s else s)
    else if unitsReady j j.row then formRow tag v (src j.row) s else s
  let fin := decide (v.total ≤ (tagOf s tag).job.row)
  let s := sendLoad tag v fin s
  if fin && loadLanded s tag v && !outstanding s tag then finishWritten tag v.total s else s

/-- A load whose rows are all asked for asks for nothing. -/
theorem loadStep_asked {v : Load} {src : Nat → RowSrc} (hstop : (tagOf s tag).job.row < v.total → stopWhy (tagOf s tag) = none)
    (hreq : v.rows ≤ (tagOf s tag).job.reqRow) : loadStep tag v src s = loadMoves tag v src (noteIssued tag v s) := by
  have hnone : (if (tagOf s tag).job.row < v.total then stopWhy (tagOf s tag) else none) = none := by
    split
    · next h => exact hstop h
    · rfl
  have hask : (decide ((tagOf s tag).job.reqRow < v.rows) && (tagOf s tag).job.lim.isNone) = false := by
    rw [decide_eq_false (Nat.not_lt.2 hreq)]
    rfl
  unfold loadStep
  simp only [hnone, hask]
  rfl

/-- A load that has finished completes (R238). -/
theorem loadStep_finished {v : Load} {src : Nat → RowSrc} (h : LoadFinished s tag v) :
    loadStep tag v src s = finishWritten tag v.total (noteIssued tag v s) := by
  obtain ⟨-, htot, hreq, hrow, hland, hout⟩ := h
  rw [loadStep_asked (fun hlt => absurd hlt (by omega)) hreq]
  have hland' : loadLanded (noteIssued tag v s) tag v = true := (loadLanded_noteIssued v).trans hland
  have hout' : outstanding (noteIssued tag v s) tag = false := hout
  have hrow' : (tagOf (noteIssued tag v s) tag).job.row = v.total := by rw [job_noteIssued]; exact hrow
  generalize noteIssued tag v s = u at hland' hout' hrow'
  unfold loadMoves
  simp [hrow', htot, sendLoad_landed hland', hland', hout']

theorem loadStep_completes {c : Instr} {v : Load} {src : Nat → RowSrc} (hx : exec c s = .next (loadStep tag v src s)) (ht : tagOf s tag = e)
    (h : LoadFinished s tag v) : ∃ u t, exec c s = .next t ∧ Landed s u tag ∧ Completed u t tag (formStatus e v.total) := by
  obtain ⟨u, hland, hdone⟩ := (progressed_noteIssued v).completes ht v.total
  rw [← loadStep_finished (src := src) h] at hdone
  exact ⟨u, _, hx, hland, hdone⟩

theorem exec_tld_inline {x : Inline} (hs : started s tag .tld = some e) (hc : e.cmd = some (.inline false x)) (hn : x.nr ≠ 0)
    (hst : e.job.stage ≠ 0) : exec (.tld tag) s
      = .next (loadStep tag (inlineLoad x) (inlineSrc e.job.base x.stride (jobTile s tag x.tile).rowBytes) s) := by
  change execTld tag s = _
  simp [execTld, hs, hc, noRows, hn, hst]

theorem exec_tld_desc {x : DescXfer} (hs : started s tag .tld = some e) (hc : e.cmd = some (.desc false x))
    (hn : noRows (.desc false x) = false) (hst : e.job.stage ≠ 0) : exec (.tld tag) s
      = .next (loadStep tag (descLoad s x (e.job.imgs.headD 0) (jobPair s tag x.tile))
          (fun n => (Desc.ofImage (e.job.imgs.headD 0)).srcRow n x.elems (x.coords n)) s) := by
  change execTld tag s = _
  simp only [execTld, hs, hc, hn, if_neg hst]
  rfl

theorem exec_tld_empty {c : Command} (hs : started s tag .tld = some e) (hc : e.cmd = some c) (hn : noRows c = true) :
    exec (.tld tag) s = .next (finishWritten tag 0 s) := by
  change execTld tag s = _
  simp only [execTld, hs, hc, if_pos hn]

theorem exec_tgat_rows {x : Gather} {v : Load} (hs : started s tag .tgat = some e) (hc : e.cmd = some (.gather .tgat x)) (hn : x.nidx ≠ 0)
    (he : x.e0 ≠ 0) (hst : e.job.stage ≠ 0) (hrow : x.nidx ≤ e.job.row)
    (hv : v = ⟨sideOf (e.job.imgs.headD 0) false, x.nidx, if x.zpad then (tileOf s x.tile).rows else x.nidx, x.tile, jobPair s tag x.tile⟩) :
    exec (.tgat tag) s = .next (loadStep tag v (gatherSrc x (Desc.ofImage (e.job.imgs.headD 0)) e.job) s) := by
  have hnone : ¬ (x.nidx = 0 ∨ x.e0 = 0) := by tauto
  have hidx : ¬ (e.job.stage = 1 ∧ e.job.row < x.nidx) := by omega
  subst hv
  change execTgat tag s = _
  simp only [execTgat, hs, hc, if_neg hnone, if_neg hst, if_neg hidx]

theorem exec_tgat_empty {x : Gather} (hs : started s tag .tgat = some e) (hc : e.cmd = some (.gather .tgat x)) (hn : x.nidx = 0 ∨ x.e0 = 0) :
    exec (.tgat tag) s = .next (finishWritten tag 0 s) := by
  change execTgat tag s = _
  simp only [execTgat, hs, hc, if_pos hn]

/-! ### Stores -/

/-- The progress of a store whose units are all sent. -/
def noteStored (tag : Tag) (s : State) : State :=
  updJob tag (fun j => { j with issued := true }) (updJob tag (fun j => { j with pend := j.pend.filter fun p => ([] : List Nat).contains p.addr }) s)

theorem progressed_noteStored (tag : Tag) (s : State) : Progressed s (noteStored tag s) tag := by
  have hsent := progressed_updJob (fun j => { j with pend := j.pend.filter fun p => ([] : List Nat).contains p.addr }) s tag
    (fun _ => rfl) (fun _ => rfl)
  exact hsent.trans (progressed_updJob (fun j => { j with issued := true }) _ tag (fun _ => rfl) (fun _ => rfl))

/-- A store that has finished completes (R238). -/
theorem storeDone_finished {d : Side} {total : Nat} (count : Nat) (h : StoreFinished s tag total) :
    storeDone tag d total count s = finishWritten tag count (noteStored tag s) := by
  obtain ⟨hrow, hpend, hout, -, hask⟩ := h
  have hflush : flushUnits tag d false [] s = updJob tag (fun j => { j with pend := j.pend.filter fun p => ([] : List Nat).contains p.addr }) s := by
    rw [flushUnits, hpend]
    rfl
  have hwr : (tagOf (noteStored tag s) tag).job.wrOut = 0 := by
    rw [noteStored, tagOf_updJob_self, tagOf_updJob_self]
    exact hout
  have hask' : outstanding (noteStored tag s) tag = false := hask
  unfold storeDone
  dsimp only
  rw [if_neg (Nat.not_lt.2 hrow), hflush]
  exact if_pos ⟨hwr, hask'⟩

theorem storeDone_completes {c : Instr} {d : Side} {total count : Nat} (hx : exec c s = .next (storeDone tag d total count s))
    (ht : tagOf s tag = e) (h : StoreFinished s tag total) :
    ∃ u t, exec c s = .next t ∧ Landed s u tag ∧ Completed u t tag (formStatus e count) := by
  obtain ⟨u, hland, hdone⟩ := (progressed_noteStored tag s).completes ht count
  rw [← storeDone_finished (d := d) count h] at hdone
  exact ⟨u, _, hx, hland, hdone⟩

theorem storeWhy_finished {total : Nat} (h : StoreFinished s tag total) : storeWhy (tagOf s tag) total = none := by
  obtain ⟨hrow, -, -, herr, -⟩ := h
  simp only [storeWhy, herr, if_neg (Nat.not_lt.2 hrow)]

theorem storeStep_finished {d : Side} {total count : Nat} {mk : Nat → State → Option (StepOut × State)} (h : StoreFinished s tag total) :
    storeStep tag d total count mk s = storeDone tag d total count s := by
  unfold storeStep
  simp only [storeWhy_finished h, if_neg (Nat.not_lt.2 h.1)]

theorem scatAddStep_finished {x : Gather} (h : StoreFinished s tag (scatWindows x)) :
    scatAddStep tag x s = storeDone tag (sideOf ((tagOf s tag).job.imgs.headD 0) false) (scatWindows x) x.nidx s := by
  unfold scatAddStep
  simp only [storeWhy_finished h, if_pos h.1]

theorem exec_tst_inline {x : Inline} (hs : started s tag .tst = some e) (hc : e.cmd = some (.inline true x)) (hn : x.nr ≠ 0)
    (hst : e.job.stage ≠ 0) (hf : StoreFinished s tag x.nr) :
    exec (.tst tag) s = .next (storeDone tag (Side.of x.hay false false) x.nr x.nr s) := by
  change execTst tag s = _
  simp [execTst, hs, hc, noRows, hn, hst, storeStep_finished hf]

theorem exec_tst_desc {x : DescXfer} (hs : started s tag .tst = some e) (hc : e.cmd = some (.desc true x))
    (hn : noRows (.desc true x) = false) (hst : e.job.stage ≠ 0) (hf : StoreFinished s tag x.rows) :
    exec (.tst tag) s = .next (storeDone tag (sideOf (e.job.imgs.headD 0) x.trans) x.rows x.rows s) := by
  change execTst tag s = _
  simp only [execTst, hs, hc, hn, if_neg hst, storeStep_finished hf]
  rfl

theorem exec_tst_empty {c : Command} (hs : started s tag .tst = some e) (hc : e.cmd = some c) (hn : noRows c = true) :
    exec (.tst tag) s = .next (finish tag (outc .ok 0 0) s) := by
  change execTst tag s = _
  simp only [execTst, hs, hc, if_pos hn]

theorem exec_tsct_rows {x : Gather} (hs : started s tag .tsct = some e) (hc : e.cmd = some (.gather .tsct x)) (hn : x.nidx ≠ 0)
    (he : x.e0 ≠ 0) (hst : e.job.stage = 2) (hf : StoreFinished s tag (scatWindows x)) :
    exec (.tsct tag) s = .next (storeDone tag (sideOf (e.job.imgs.headD 0) false) (scatWindows x) x.nidx s) := by
  change execTsct tag s = _
  simp [execTsct, hs, hc, hn, he, hst, storeStep_finished hf]

theorem exec_tsct_empty {x : Gather} (hs : started s tag .tsct = some e) (hc : e.cmd = some (.gather .tsct x)) (hn : x.nidx = 0 ∨ x.e0 = 0) :
    exec (.tsct tag) s = .next (finish tag (outc .ok 0 0) s) := by
  change execTsct tag s = _
  simp only [execTsct, hs, hc, if_pos hn]

theorem exec_tscta_rows {x : Gather} (hs : started s tag .tscta = some e) (hc : e.cmd = some (.gather .tscta x)) (hn : x.nidx ≠ 0)
    (he : x.e0 ≠ 0) (hst : e.job.stage = 2) (hf : StoreFinished s tag (scatWindows x)) :
    exec (.tscta tag) s = .next (storeDone tag (sideOf ((tagOf s tag).job.imgs.headD 0) false) (scatWindows x) x.nidx s) := by
  change execTscta tag s = _
  simp [execTscta, hs, hc, hn, he, hst, scatAddStep_finished hf]

theorem exec_tscta_empty {x : Gather} (hs : started s tag .tscta = some e) (hc : e.cmd = some (.gather .tscta x)) (hn : x.nidx = 0 ∨ x.e0 = 0) :
    exec (.tscta tag) s = .next (finish tag (outc .ok 0 0) s) := by
  change execTscta tag s = _
  simp only [execTscta, hs, hc, if_pos hn]

/-! ### Transpositions -/

theorem exec_tperm_tile {x : Perm} (hs : started s tag .tperm = some e) (hc : e.cmd = some (.tperm x)) (hx : x.tensor = false)
    (hst : e.job.stage ≠ 0) : exec (.tperm tag) s = .next (transStep tag x s) := by
  change execTperm tag s = _
  simp [execTperm, hs, hc, hx, hst]

/-- A transposition whose last row is in its banks completes. -/
theorem transStep_finished {x : Perm} (hst : (tagOf s tag).job.stage = 2) (hrow : (jobTile s tag x.dtile).rows ≤ (tagOf s tag).job.row)
    (hsent : beatsSent (tagOf s tag).job.wIdx ((tagOf s tag).job.landed * (jobTile s tag x.dtile).rowBytes)
      ((tagOf s tag).job.row * (jobTile s tag x.dtile).rowBytes) = true) (hout : (tagOf s tag).job.wrOut = 0) :
    transStep tag x s = finishWritten tag (jobTile s tag x.dtile).rows s := by
  have hbeat : ∀ (fin : Bool) (words : List Word), sendBeat tag false x.dtile 0 ((tagOf s tag).job.landed * (jobTile s tag x.dtile).rowBytes)
      ((tagOf s tag).job.row * (jobTile s tag x.dtile).rowBytes) fin words s = s := fun fin words => sendBeat_sent (second := false) hsent
  unfold transStep
  simp [Nat.not_lt.2 hrow, hst, hbeat, hsent, hout, hrow]

theorem exec_tperm_tensor {x : Perm} (hs : started s tag .tperm = some e) (hc : e.cmd = some (.tperm x)) (hx : x.tensor = true)
    (hst : e.job.stage ≠ 0) : exec (.tperm tag) s = .next (permStep tag x s) := by
  change execTperm tag s = _
  simp [execTperm, hs, hc, hx, hst]

/-- A permuting copy whose every row is formed and sent completes. -/
theorem permStep_finished {x : Perm} (hst : (tagOf s tag).job.stage ≠ 2)
    (hreq : permRows (Desc.ofImage ((tagOf s tag).job.imgs.getD 1 0)) ≤ (tagOf s tag).job.reqRow)
    (h : StoreFinished s tag (permRows (Desc.ofImage ((tagOf s tag).job.imgs.getD 1 0)))) :
    permStep tag x s = storeDone tag (permPlan s x (tagOf s tag).job).2.1 (permRows (Desc.ofImage ((tagOf s tag).job.imgs.getD 1 0)))
      (permRows (Desc.ofImage ((tagOf s tag).job.imgs.getD 1 0))) s := by
  have hask : permAsk tag x s = s := by
    unfold permAsk
    simp only [decide_eq_false (Nat.not_lt.2 hreq)]
    rfl
  unfold permStep
  simp only [if_neg hst, storeWhy_finished h, hask, storeStep_finished h]

end

/-- Settles O21, by the command. -/
theorem loadsComplete : Obligations.LoadsComplete := by
  intro s tag e
  refine ⟨fun x hs hc hn hf => ?_, ?_, ?_, fun c hs hc hn => ?_, fun x hs hc hn => ?_⟩
  · obtain ⟨htag, -⟩ := started_tagOf hs
    exact loadStep_completes (exec_tld_inline hs hc hn (htag ▸ hf.1)) htag hf
  · intro x v hs hc hn hf
    obtain ⟨htag, -⟩ := started_tagOf hs
    exact loadStep_completes (exec_tld_desc hs hc hn (htag ▸ hf.1)) htag hf
  · intro x n hs hc hn he hf
    obtain ⟨htag, -⟩ := started_tagOf hs
    obtain ⟨hst, htot, -, hrow, -⟩ := id hf
    rw [htag] at hst hrow
    exact loadStep_completes (exec_tgat_rows hs hc hn he hst (htot.trans hrow.ge) rfl) htag hf
  · obtain ⟨u, hland, hdone⟩ := finishWritten_completes tag 0 s
    exact ⟨u, _, exec_tld_empty hs hc hn, hland, (started_tagOf hs).1 ▸ hdone⟩
  · obtain ⟨u, hland, hdone⟩ := finishWritten_completes tag 0 s
    exact ⟨u, _, exec_tgat_empty hs hc hn, hland, (started_tagOf hs).1 ▸ hdone⟩

/-- Settles O22, by the command. -/
theorem storesAndTpermComplete : Obligations.StoresAndTpermComplete := by
  refine ⟨fun s tag e => ⟨fun x hs hc hn hst hf => ?_, fun x hs hc hn hst hf => ?_, fun x hs hc hn he hst hf => ?_,
    fun x hs hc hn he hst hf => ?_, fun c hs hc hn => ?_, fun x hn => ⟨fun hs hc => ?_, fun hs hc => ?_⟩⟩,
    fun s tag e x hs hc => ⟨fun hx hst => ?_, fun hx hst => ?_⟩⟩
  · exact storeDone_completes (exec_tst_inline hs hc hn hst hf) (started_tagOf hs).1 hf
  · exact storeDone_completes (exec_tst_desc hs hc hn hst hf) (started_tagOf hs).1 hf
  · exact storeDone_completes (exec_tsct_rows hs hc hn he hst hf) (started_tagOf hs).1 hf
  · exact storeDone_completes (exec_tscta_rows hs hc hn he hst hf) (started_tagOf hs).1 hf
  · exact ⟨_, exec_tst_empty hs hc hn, finish_completed ..⟩
  · exact ⟨_, exec_tsct_empty hs hc hn, finish_completed ..⟩
  · exact ⟨_, exec_tscta_empty hs hc hn, finish_completed ..⟩
  · intro d hrow hsent hout
    obtain ⟨htag, -⟩ := started_tagOf hs
    subst htag
    obtain ⟨u, hland, hdone⟩ := finishWritten_completes tag d.rows s
    rw [← transStep_finished hst hrow hsent hout] at hdone
    exact ⟨u, _, exec_tperm_tile hs hc hx (by omega), hland, hdone⟩
  · intro n hreq hf
    obtain ⟨htag, -⟩ := started_tagOf hs
    subst htag
    have hexec := exec_tperm_tensor hs hc hx (by omega)
    rw [permStep_finished (by omega) hreq hf] at hexec
    exact storeDone_completes hexec rfl hf

end Sys2Proof.Proofs
end

section
/-! SUPPORT. Proofs about the rows of an inline load (R204). -/

namespace Sys2Proof.Proofs

open Sys2Proof.Machine Sys2Proof.Laws

section
variable {s : State} {tag : Tag} {e : TagEntry}

/-! ### Rows of good bytes -/

theorem packElems_toNat (l : List Byte) : packElems 8 (l.map BitVec.toNat) = ofBytes l := by
  induction l with
  | nil => rfl
  | cons b r ih =>
    rw [List.map_cons, packElems, ih, ofBytes, Nat.mod_eq_of_lt b.isLt]
    rfl

theorem findPos_none {α : Type} {p : α → Bool} {l : List α} (h : ∀ a ∈ l, p a = false) : findPos p l = none := by
  induction l with
  | nil => rfl
  | cons a r ih => simp [findPos, h a, ih fun b hb => h b (List.mem_cons_of_mem a hb)]

theorem noteBad_good {t row rb w : Nat} {bads : List Bool} (h : ∀ b ∈ bads, b = false) : noteBad tag t row rb w bads s = s := by
  simp only [noteBad, findPos_none (p := id) h]

/-- The value of a cell that is one byte. -/
theorem cellVal_byte (j : Job) (d : Side) {r : RowSrc} (hw : r.w = 8) (a : Nat) :
    cellVal j d r (some (0, [a])) = ((byteIn j d r.step a).1.toNat, (byteIn j d r.step a).2) := by
  have hlt : (byteIn j d r.step a).1.toNat % 256 = (byteIn j d r.step a).1.toNat := Nat.mod_eq_of_lt (BitVec.isLt _)
  simp [cellVal, hw, ofBytes, hlt]

/-- The bytes of row `n` of an inline load, with whether each lies in an uncorrectable word. -/
def inlineBytes (j : Job) (d : Side) (stride rb n : Nat) : List (Byte × Bool) :=
  (List.range rb).map fun b => byteIn j d n (j.base + n * stride + b)

theorem inlineSrc_cells (j : Job) (d : Side) (stride rb n : Nat) :
    (inlineSrc j.base stride rb n).cells.map (cellVal j d (inlineSrc j.base stride rb n))
      = (inlineBytes j d stride rb n).map fun p => (p.1.toNat, p.2) := by
  simp only [inlineSrc, inlineBytes, List.map_map]
  exact List.map_congr_left fun b _ => cellVal_byte j d rfl _

/-- A row that has been formed, none of its elements filled (R220). -/
def rowFormed (tag : Tag) (words : List Word) (moved clamps : Nat) (s : State) : State :=
  updJob tag (fun j => { j with row := j.row + 1, staged := j.staged ++ words, staged2 := j.staged2 ++ [] })
    (cnt 0x50C0 clamps (cnt (0x5040 + 0x10 * (tagOf s tag).job.engine) moved s))

/-- The next row of a load without a scale tile, of good words. -/
theorem formRow_good {v : Load} {r : RowSrc} (hpair : v.pair = none) (hfills : r.fills = 0) (hstep : r.step = (tagOf s tag).job.row)
    (hgood : ∀ b ∈ (r.cells.map (cellVal (tagOf s tag).job v.side r)).map (·.2), b = false) :
    formRow tag v r s = rowFormed tag (rowWords (jobTile s tag v.tile).rowBytes (packElems r.w
      ((r.cells.map (cellVal (tagOf s tag).job v.side r)).map (·.1)))) (r.cells.length * r.w / 8 + r.scales.length) r.clamps s := by
  unfold formRow
  dsimp only
  rw [noteBad_good hgood, hpair]
  dsimp only
  rw [if_pos hfills, if_pos hstep]
  rfl

/-- The row that an inline load forms next, of good words. -/
theorem formRow_inline {x : Inline}
    (hgood : ∀ p ∈ inlineBytes (tagOf s tag).job (Side.of x.hay false false) x.stride (jobTile s tag x.tile).rowBytes (tagOf s tag).job.row,
      p.2 = false) :
    ∃ moved, formRow tag (inlineLoad x) (inlineSrc (tagOf s tag).job.base x.stride (jobTile s tag x.tile).rowBytes (tagOf s tag).job.row) s
      = rowFormed tag (rowWords (jobTile s tag x.tile).rowBytes (ofBytes
          ((inlineBytes (tagOf s tag).job (Side.of x.hay false false) x.stride (jobTile s tag x.tile).rowBytes (tagOf s tag).job.row).map
            (·.1)))) moved 0 s := by
  have hcells := inlineSrc_cells (tagOf s tag).job (Side.of x.hay false false) x.stride (jobTile s tag x.tile).rowBytes (tagOf s tag).job.row
  generalize hr : inlineSrc (tagOf s tag).job.base x.stride (jobTile s tag x.tile).rowBytes (tagOf s tag).job.row = r at hcells ⊢
  generalize inlineBytes (tagOf s tag).job (Side.of x.hay false false) x.stride (jobTile s tag x.tile).rowBytes (tagOf s tag).job.row = bs
    at hcells hgood ⊢
  have hvals : (bs.map fun p => (p.1.toNat, p.2)).map (·.1) = (bs.map (·.1)).map BitVec.toNat := by simp only [List.map_map]; rfl
  have hbads : ∀ b ∈ (bs.map fun p => (p.1.toNat, p.2)).map (·.2), b = false := by
    simp only [List.map_map, List.mem_map, forall_exists_index, and_imp]
    rintro b p hp rfl
    exact hgood p hp
  have hform := formRow_good (v := inlineLoad x) (r := r) (s := s) (tag := tag) rfl (by rw [← hr]; rfl) (by rw [← hr]; rfl) (hcells ▸ hbads)
  have hw : r.w = 8 := by rw [← hr]; rfl
  have hclamps : r.clamps = 0 := by rw [← hr]; rfl
  rw [hw, hclamps, show r.cells.map (cellVal _ (inlineLoad x).side r) = _ from hcells, hvals, packElems_toNat] at hform
  exact ⟨_, hform⟩

theorem tagOf_rowFormed_self (words : List Word) (moved clamps : Nat) : tagOf (rowFormed tag words moved clamps s) tag = { tagOf s tag with
    job := { (tagOf s tag).job with row := (tagOf s tag).job.row + 1, staged := (tagOf s tag).job.staged ++ words } } := by
  rw [rowFormed, tagOf_updJob_self]
  simp only [List.append_nil]
  rfl

theorem rowFormed_frame (words : List Word) (moved clamps : Nat) : let u := rowFormed tag words moved clamps s
    (∀ x, x ≠ tag → tagOf u x = tagOf s x) ∧ u = { s with regs := u.regs, tly := { s.tly with tags := u.tly.tags } } :=
  ⟨fun _ hx => tagOf_updJob_ne hx .., rfl⟩

/-- A load without write credits sends nothing. -/
theorem sendLoad_noCredit {v : Load} {fin : Bool} (hpair : v.pair = none) (hcr : (stnOf s ((tagOf s tag).job.stn.getD 6)).wHeld = 0) :
    sendLoad tag v fin s = s := by
  unfold sendLoad
  dsimp only
  rw [hpair]
  exact if_neg fun h => by simp [hcr] at h

/-- The row that an inline load without write credits forms of the units that have arrived. -/
theorem loadMoves_inline {x : Inline} (hrow : (tagOf s tag).job.row < x.nr) (hready : unitsReady (tagOf s tag).job (tagOf s tag).job.row = true)
    (hcr : (stnOf s ((tagOf s tag).job.stn.getD 6)).wHeld = 0)
    (hsent : beatsSent (tagOf s tag).job.wIdx ((tagOf s tag).job.landed * (jobTile s tag x.tile).rowBytes)
      (((tagOf s tag).job.row + 1) * (jobTile s tag x.tile).rowBytes) = false)
    (hgood : ∀ p ∈ inlineBytes (tagOf s tag).job (Side.of x.hay false false) x.stride (jobTile s tag x.tile).rowBytes (tagOf s tag).job.row,
      p.2 = false) :
    ∃ moved, loadMoves tag (inlineLoad x) (inlineSrc (tagOf s tag).job.base x.stride (jobTile s tag x.tile).rowBytes) s
      = rowFormed tag (rowWords (jobTile s tag x.tile).rowBytes (ofBytes
          ((inlineBytes (tagOf s tag).job (Side.of x.hay false false) x.stride (jobTile s tag x.tile).rowBytes (tagOf s tag).job.row).map
            (·.1)))) moved 0 s := by
  obtain ⟨moved, hform⟩ := formRow_inline hgood
  refine ⟨moved, ?_⟩
  unfold loadMoves
  dsimp only
  have hmore : ¬ (inlineLoad x).rows ≤ (tagOf s tag).job.row := Nat.not_le.2 hrow
  rw [if_neg hmore, if_pos hready, hform]
  generalize hu : rowFormed tag _ moved 0 s = u
  have hjob : ∃ ws, (tagOf u tag).job = { (tagOf s tag).job with row := (tagOf s tag).job.row + 1, staged := (tagOf s tag).job.staged ++ ws } :=
    ⟨_, by rw [← hu, tagOf_rowFormed_self]⟩
  obtain ⟨ws, hjob⟩ := hjob
  have hstn : ∀ n, stnOf u n = stnOf s n := fun n => by rw [← hu]; rfl
  have htile : jobTile u tag x.tile = jobTile s tag x.tile := by rw [jobTile, hjob, jobTile]
  have hland : loadLanded u tag (inlineLoad x) = false := by
    have hmain : beatsSent (tagOf u tag).job.wIdx ((tagOf u tag).job.landed * (jobTile u tag x.tile).rowBytes)
        ((tagOf u tag).job.row * (jobTile u tag x.tile).rowBytes) = false := by
      rw [htile, hjob]
      exact hsent
    simp only [loadLanded, inlineLoad, hmain, Bool.false_and]
  rw [sendLoad_noCredit rfl (by rw [hstn, hjob]; exact hcr), hland, Bool.and_false, Bool.false_and]
  rfl

end

/-- Settles O23: the row is formed of good bytes, and is neither sent nor landed. -/
theorem inlineLoadFormsRow : Obligations.InlineLoadFormsRow := by
  intro s tag e x hs hc hst hrow hreq hstop hlim hready hcr d rb hsent hgood
  obtain ⟨htag, -⟩ := started_tagOf hs
  subst htag
  have hexec := exec_tld_inline hs hc (by omega) hst
  rw [loadStep_asked (fun _ => by simp only [stopWhy, hstop, hlim]) (show x.nr ≤ _ from hreq.ge)] at hexec
  have hjob := job_noteIssued (s := s) (tag := tag) (inlineLoad x)
  have htile : jobTile (noteIssued tag (inlineLoad x) s) tag x.tile = jobTile s tag x.tile := jobTile_noteIssued ..
  obtain ⟨moved, hmoves⟩ := loadMoves_inline (s := noteIssued tag (inlineLoad x) s) (tag := tag) (x := x) (by rw [hjob]; exact hrow)
    (by rw [hjob]; exact hready) (by rw [hjob]; exact hcr) (by rw [hjob, htile]; exact hsent) (by
      rw [hjob, htile]
      simp only [inlineBytes, List.mem_map, List.mem_range, forall_exists_index, and_imp]
      rintro p b hb rfl
      exact hgood b hb)
  rw [hjob, htile] at hmoves
  rw [show loadMoves tag (inlineLoad x) _ _ = _ from hmoves] at hexec
  obtain ⟨htags, hframe⟩ := rowFormed_frame (s := noteIssued tag (inlineLoad x) s) (tag := tag) (rowWords rb (ofBytes
    ((inlineBytes (tagOf s tag).job d x.stride rb (tagOf s tag).job.row).map (·.1)))) moved 0
  have hissued : ((tagOf s tag).job.issued || decide ((inlineLoad x).rows ≤ (tagOf s tag).job.reqRow)) = true := by
    rw [decide_eq_true (show (inlineLoad x).rows ≤ _ from hreq.ge), Bool.or_true]
  have hbytes : (inlineBytes (tagOf s tag).job d x.stride rb (tagOf s tag).job.row).map (·.1)
      = (List.range rb).map fun b => (byteIn (tagOf s tag).job d (tagOf s tag).job.row ((tagOf s tag).job.base + (tagOf s tag).job.row * x.stride + b)).1 := by
    simp only [inlineBytes, List.map_map]
    rfl
  refine ⟨_, hexec, ?_, fun u hu => (htags u hu).trans (tagOf_updJob_ne hu ..), ?_⟩
  · rw [tagOf_rowFormed_self, ← hbytes, noteIssued, tagOf_updJob_self, hissued]
    rfl
  · exact hframe

end Sys2Proof.Proofs
end

section
/-! SUPPORT. A state that refutes the statement about Hayloft accesses (R254). -/

namespace Sys2Proof.Proofs

open Sys2Proof.Machine Sys2Proof.Laws Sys2Proof.Tests

/-- A store's write of word 0, by a master of port A. -/
def storeOfWord : HayAcc := hayWr 0 0 (-1) 0 (.store 5)

/-- A read of word 0 by a master of port B whose use names an INGWR. -/
def readForIngwr : HayAcc := hayRd 10 0 (-1) (.ingress 0)

/-- The two accesses wait, and no INGWR is under way. -/
def sameWordState : State := { up with hay := { up.hay with waiting := [storeOfWord, readForIngwr] } }

set_option maxRecDepth 4000 in
/-- The read receives busy, and as no INGWR is under way it is not issued again. -/
theorem exec_hayloftAccessGrant_sameWordState :
    ∃ t, exec (.hayloftAccessGrant 0 false) sameWordState = .next t ∧ t.hay.waiting.map HayAcc.retry = [false] := ⟨_, rfl, by decide⟩

/-- Refutes O48: of a store's write and a read of one word, the clause that issues the read again holds back nothing of the read's use, and a
read whose use is that of an INGWR which is not under way stays as it is: `busyIngress` answers for INGWRs and issues again only what belongs
to one. No read of the model has that use, so the clause wants it excluded. -/
theorem not_hayloftAccessesServed : ¬ Obligations.HayloftAccessesServed := by
  intro h
  obtain ⟨-, -, -, hpair⟩ := h sameWordState (by decide)
  obtain ⟨hread, -⟩ := hpair 0 0 storeOfWord readForIngwr (by decide) (by decide) rfl (by decide) (by decide) (by decide) (by decide)
    (by decide) (by decide) (by decide) (by decide) (by decide) (by decide)
  obtain ⟨t, ht, hwaiting, -⟩ := hread 5 rfl rfl rfl
  obtain ⟨u, hu, hsame⟩ := exec_hayloftAccessGrant_sameWordState
  obtain rfl : u = t := Host.Outcome.next.inj (hu.symm.trans ht)
  exact absurd (hsame.symm.trans (congrArg (List.map HayAcc.retry) hwaiting)) (by decide)

end Sys2Proof.Proofs
end

section
/-! SUPPORT. Proofs about the array's lanes (R146, R147, R149, R151, R153, R159, R168, R170): rows and front beats launched and driven. -/

namespace Sys2Proof.Proofs

open Sys2Proof.Machine Sys2Proof.Laws

/-! ### Delay lines -/

theorem bit_put_one {n : Nat} (k : Nat) {q : Nat} (hq : q < n) : bit (put 1 k : BitVec n) q = (k == q) := by
  rw [bit, put, BitVec.getLsbD_ofNat, decide_eq_true hq, Bool.true_and, Nat.testBit_shiftLeft]
  by_cases h : k = q
  · subst h
    simp
  · rw [beq_false_of_ne h]
    by_cases hle : k ≤ q
    · obtain ⟨d, hd⟩ := Nat.exists_eq_add_of_lt (Nat.lt_of_le_of_ne hle h)
      rw [show q - k = d + 1 by omega]
      simp [Nat.testBit_add_one]
    · simp [hle]

/-- The valid bits of the slices that are due: one for the lane of each. -/
theorem bit_foldl_put {α : Type} {n : Nat} (f : α → Nat) (l : List α) (m : BitVec n) {q : Nat} (hq : q < n) :
    bit (l.foldl (fun m x => m ||| put 1 (f x)) m) q = (bit m q || l.any fun x => f x == q) := by
  induction l generalizing m with
  | nil => simp
  | cons a r ih =>
    have hor : bit (m ||| put 1 (f a)) q = (bit m q || f a == q) := by
      rw [← bit_put_one (f a) hq]
      exact BitVec.getLsbD_or
    rw [List.foldl_cons, ih, hor, List.any_cons, Bool.or_assoc]

/-- What an a-cycle leaves of a delay line: what was not due, one a-cycle nearer. -/
def nearer {α : Type} (l : List (Nat × α)) : List (Nat × α) := (l.filter fun x => decide (x.1 ≠ 0)).map fun x => (x.1 - 1, x.2)

theorem driveAf_parts (s : State) : let t := driveAf s
    t.arr.afPipe = nearer s.arr.afPipe ∧ (∀ q, q < 34 → (bit t.pin.afv q = true ↔ ∃ x ∈ s.arr.afPipe, x.1 = 0 ∧ x.2.1 = q))
      ∧ t = { s with arr := { s.arr with afPipe := t.arr.afPipe }, pin := { s.pin with afv := t.pin.afv, afd := t.pin.afd } } := by
  refine ⟨?_, fun q hq => ?_, rfl⟩
  · simp only [driveAf, List.partition_eq_filter_filter]
    unfold nearer
    congr 2
    funext x
    simp
  · simp only [driveAf, List.partition_eq_filter_filter, bit_foldl_put _ _ _ hq]
    simp [bit]

theorem driveWf_parts (s : State) : let t := driveWf s
    t.arr.wfPipe = nearer s.arr.wfPipe ∧ (∀ q, q < 33 → (bit t.pin.wfv q = true ↔ ∃ x ∈ s.arr.wfPipe, x.1 = 0 ∧ x.2.1 = q))
      ∧ t = { s with arr := { s.arr with wfPipe := t.arr.wfPipe }, pin := { s.pin with wfv := t.pin.wfv, wfd := t.pin.wfd, wfpt := t.pin.wfpt } } := by
  refine ⟨?_, fun q hq => ?_, rfl⟩
  · simp only [driveWf, List.partition_eq_filter_filter]
    unfold nearer
    congr 2
    funext x
    simp
  · simp only [driveWf, List.partition_eq_filter_filter, bit_foldl_put _ _ _ hq]
    simp [bit]

/-! ### The row feed -/

/-- An a-cycle of the row feed after its choice: the lanes are driven, the hold runs down. -/
def feedDriven (s : State) : State := updArr (fun a => { a with hold := a.hold - 1 }) (driveAf s)

theorem exec_rowLaunch {s : State} (h : running s islA = true) : exec .rowLaunch s = .next (feedDriven (feedRow s)) := by
  change execRowLaunch s = _
  simp only [execRowLaunch, h]
  rfl

theorem feedDriven_parts (s : State) : let t := feedDriven s
    t.arr.afPipe = nearer s.arr.afPipe ∧ (∀ q, q < 34 → (bit t.pin.afv q = true ↔ ∃ x ∈ s.arr.afPipe, x.1 = 0 ∧ x.2.1 = q))
      ∧ t = { s with arr := { s.arr with afPipe := t.arr.afPipe, hold := s.arr.hold - 1 }
                     pin := { s.pin with afv := t.pin.afv, afd := t.pin.afd } } := by
  obtain ⟨hpipe, hbits, hframe⟩ := driveAf_parts s
  exact ⟨hpipe, hbits, congrArg (updArr fun a => { a with hold := a.hold - 1 }) hframe⟩

section
variable {s : State} {p : Pass} {rest : List Pass} (hp : s.arr.passes = p :: rest) (htwf : p.isTwf = false) (hlf : p.lf ≤ p.beats)
  (hhold : s.arr.hold = 0)
include hp htwf hlf hhold

theorem feedRow_launches {d sc : Nat} (hrow : passRow s p = some (d, sc)) (hq : s.arr.q < 40)
    (hrec : p.launched ≠ 0 ∨ s.arr.records.length < 16) : feedRow s = launchRow p d sc s := by
  have hplace : ¬ (p.launched = 0 ∧ 16 ≤ s.arr.records.length) := by omega
  unfold feedRow
  simp [hp, htwf, Nat.not_lt.2 hlf, hhold, hrow, Nat.not_le.2 hq, hplace]

theorem feedRow_waits (hrow : passRow s p = none) : feedRow s = cnt 0x3040 1 s := by
  unfold feedRow
  simp [hp, htwf, Nat.not_lt.2 hlf, hhold, hrow]

end

/-- What a launch changes but for the lanes. -/
theorem launchRow_parts {s : State} {p : Pass} {rest : List Pass} (hp : s.arr.passes = p :: rest) (d sc : Nat) : let t := launchRow p d sc s
    t.arr.q = s.arr.q + 1 ∧ t.arr.passes = (if p.launched + 1 = p.count then rest else { p with launched := p.launched + 1 } :: rest)
      ∧ (p.launched = 0 → t.arr.records = s.arr.records ++ [recordOf p])
      ∧ (p.launched ≠ 0 → t.arr.records = s.arr.records.map fun r => if r.uid = p.uid then { r with launched := r.launched + 1 } else r)
      ∧ t.arr.afPipe = s.arr.afPipe ++ rowSlices s (passLane s p) d sc
      ∧ rget t 0x3050 = BitVec.ofNat 32 (min 0xFFFFFFFF ((rget s 0x3050).toNat + 1)) ∧ (∀ k, k ≠ 0x3050 → rget t k = rget s k)
      ∧ t = { s with arr := { s.arr with q := t.arr.q, passes := t.arr.passes, records := t.arr.records, afPipe := t.arr.afPipe }, regs := t.regs } := by
  refine ⟨rfl, ?_, fun h => if_pos h, fun h => if_neg h, rfl, rget_cnt_self .., fun k hk => rget_cnt_ne hk .., rfl⟩
  change (if p.launched + 1 = p.count then s.arr.passes.tail else { p with launched := p.launched + 1 } :: s.arr.passes.tail) = _
  rw [hp, List.tail_cons]

/-! ### The weight front -/

section
variable {s : State} {p : Pass} {rest : List Pass} {tg : BitVec 4}

theorem exec_frontBeat (hr : running s islA = true) (hp : s.arr.passes = p :: rest) (hd : p.drives = true) (hb : p.beats < p.lf)
    (ht : p.ptag = some tg) : exec .frontBeat s = .next (driveWf (driveBeat 0 p tg s)) := by
  have hpos : findPos (fun p => p.drives && decide (p.beats < p.lf)) s.arr.passes = some 0 := by simp [hp, findPos, hd, hb]
  have hat : s.arr.passes[0]? = some p := by rw [hp]; rfl
  change execFrontBeat s = _
  simp only [execFrontBeat, hr, hpos, hat, ht]
  rfl

/-- The lanes of a beat of a front whose data are there. -/
def beatSlices (s : State) (tg : BitVec 4) (lanes : List Nat) : List (Nat × Nat × BitVec 32 × BitVec 4) :=
  lanes.zipIdx.map fun x => (wfTrim s (physCol s x.2), physCol s x.2, BitVec.ofNat 32 x.1, tg)

/-- The front at the head of the sequence, its next beat on its lanes. -/
def beatPut (p : Pass) (rest : List Pass) (tg : BitVec 4) (lanes : List Nat) (s : State) : State :=
  updArr (fun a => { a with passes := { p with beats := p.beats + 1 } :: rest, wfPipe := a.wfPipe ++ beatSlices s tg lanes }) s

theorem driveBeat_puts {lanes : List Nat} (hp : s.arr.passes = p :: rest) (ht : p.ptag = some tg) (hl : frontLanes s p p.beats = some lanes) :
    driveBeat 0 p tg s = if p.beats + 1 = p.lf then frontDone p tg (beatPut p rest tg lanes s) else beatPut p rest tg lanes s := by
  have hset : updArr (fun a => { a with passes := a.passes.set 0 p }) s = s := by
    have hsame : s.arr.passes.set 0 p = s.arr.passes := by rw [hp]; rfl
    rw [updArr, hsame]
  have hputs : updArr (fun a => { a with passes := a.passes.set 0 { p with beats := p.beats + 1 } }) s
      = updArr (fun a => { a with passes := { p with beats := p.beats + 1 } :: rest }) s := by
    rw [updArr, hp]
    rfl
  have hfirst : ¬ (p.beats + 1 = p.lf ∧ (0 : Nat) ≠ 0) := fun h => h.2 rfl
  cases p
  cases ht
  unfold driveBeat
  dsimp only at hset hputs hfirst hl ⊢
  rw [hset, hl]
  dsimp only
  rw [if_neg hfirst, hputs]
  rfl

/-- What the last beat of a front leaves (R151, R159). -/
theorem frontDone_parts (p : Pass) (tg : BitVec 4) (s : State) : let t := frontDone p tg s
    t.arr.frontTag = some tg ∧ t.arr.wfPipe = s.arr.wfPipe ∧ t.arr.records = s.arr.records ∧ t.arr.q = s.arr.q ∧ t.shf = s.shf ∧ t.hay = s.hay
      ∧ (p.isTwf = false → t.arr.resident = none ∧ t.arr.passes = s.arr.passes)
      ∧ (p.isTwf = true → t.arr.passes = s.arr.passes.tail ∧ (tagOf t p.tag).job.landed = (tagOf s p.tag).job.landed + 1
          ∧ t.arr.resident = some ⟨p.flabel, tg, (jobTile s p.tag p.wtile).ty, p.ncols⟩) := by
  intro t
  cases htwf : p.isTwf
  · have ht : t = cnt 0x3054 1 (updArr (fun a => { a with frontTag := some tg, resident := none }) s) := by
      simp [t, frontDone, htwf]
    rw [ht]
    exact ⟨rfl, rfl, rfl, rfl, rfl, rfl, fun _ => ⟨rfl, rfl⟩, nofun⟩
  · have ht : t = updJob p.tag (fun j => { j with landed := j.landed + 1 }) (updArr (fun a => { a with passes := a.passes.tail })
        (cnt 0x3054 1 (updArr (fun a => { a with
          frontTag := some tg, resident := some ⟨p.flabel, tg, (jobTile s p.tag p.wtile).ty, p.ncols⟩ }) s))) := by
      simp [t, frontDone, htwf]
    rw [ht]
    refine ⟨rfl, rfl, rfl, rfl, rfl, rfl, nofun, fun _ => ⟨rfl, ?_, rfl⟩⟩
    rw [tagOf_updJob_self]
    rfl

end

/-- Settles O44: the row feed by whether a row's operands have arrived, the weight front by whether its beat is the last. -/
theorem arrayLanesDriven : Obligations.ArrayLanesDriven := by
  refine ⟨fun s p rest hr hp htwf hlf hhold => ⟨fun d sc hrow hq hrec => ?_, fun hrow => ?_⟩,
    fun s p rest tg lanes hr hp hd hb ht hl => ?_⟩
  · intro new
    obtain ⟨hq', hpasses, hnew, hbump, hpipe, hcnt, hregs, hframe⟩ := launchRow_parts hp d sc
    obtain ⟨hnear, hbits, hdriven⟩ := feedDriven_parts (launchRow p d sc s)
    rw [exec_rowLaunch hr, feedRow_launches hp htwf hlf hhold hrow hq hrec]
    generalize launchRow p d sc s = u at *
    rw [hpipe] at hnear hbits
    generalize feedDriven u = t at *
    refine ⟨t, rfl, ?_, ?_, fun h => ?_, fun h => ?_, hnear, hbits, ?_, fun k hk => ?_, ?_⟩
    · rw [hdriven]
      exact hq'
    · rw [hdriven]
      exact hpasses
    · rw [hdriven]
      exact hnew h
    · rw [hdriven]
      exact hbump h
    · rw [hdriven]
      exact hcnt
    · rw [hdriven]
      exact hregs k hk
    · have hz : s.arr.hold - 1 = s.arr.hold := by rw [hhold]
      rw [hdriven, hframe]
      dsimp only
      rw [hz]
  · obtain ⟨hnear, hbits, hdriven⟩ := feedDriven_parts (cnt 0x3040 1 s)
    rw [exec_rowLaunch hr, feedRow_waits hp htwf hlf hhold hrow]
    have hcnt : rget (cnt 0x3040 1 s) 0x3040 = _ := rget_cnt_self ..
    have hregs : ∀ k, k ≠ 0x3040 → rget (cnt 0x3040 1 s) k = rget s k := fun k hk => rget_cnt_ne hk ..
    have harr : (cnt 0x3040 1 s).arr = s.arr := rfl
    generalize cnt 0x3040 1 s = u at *
    rw [harr] at hnear hbits
    generalize feedDriven u = t at *
    refine ⟨t, rfl, ?_, ?_, ?_, hnear, hbits, ?_, fun k hk => ?_⟩
    · rw [hdriven, ← harr]
    · rw [hdriven, ← harr]
    · rw [hdriven, ← harr]
    · rw [hdriven]
      exact hcnt
    · rw [hdriven]
      exact hregs k hk
  · intro new
    obtain ⟨hpipe, hbits, hdriven⟩ := driveWf_parts (driveBeat 0 p tg s)
    rw [exec_frontBeat hr hp hd hb ht]
    have hbeat := driveBeat_puts hp ht hl
    obtain ⟨htag, hwf, hrecs, hq, hshf, hhay, hplain, htwf⟩ := frontDone_parts p tg (beatPut p rest tg lanes s)
    have hboth : (driveBeat 0 p tg s).arr.wfPipe = s.arr.wfPipe ++ new ∧ (driveBeat 0 p tg s).arr.records = s.arr.records
        ∧ (driveBeat 0 p tg s).arr.q = s.arr.q ∧ (driveBeat 0 p tg s).shf = s.shf ∧ (driveBeat 0 p tg s).hay = s.hay := by
      rw [hbeat]
      split
      · exact ⟨hwf, hrecs, hq, hshf, hhay⟩
      · exact ⟨rfl, rfl, rfl, rfl, rfl⟩
    obtain ⟨hall, hrecs', hq', hshf', hhay'⟩ := hboth
    rw [hall] at hpipe hbits
    refine ⟨_, rfl, hpipe, hbits, fun hmore => ?_, fun hlast => ?_, hrecs', hq', hshf', hhay'⟩
    · rw [if_neg (Nat.ne_of_lt hmore)] at hbeat
      rw [hbeat]
      exact ⟨rfl, rfl, rfl, rfl, rfl⟩
    · rw [if_pos hlast] at hbeat
      rw [hbeat]
      refine ⟨htag, fun h => ⟨(hplain h).1, ?_⟩, htwf⟩
      have hbeats : ({ p with beats := p.beats + 1 } : Pass) = { p with beats := p.lf } := by rw [hlast]
      exact (hplain h).2.trans (congrArg (· :: rest) hbeats)

end Sys2Proof.Proofs
end

section
/-! SUPPORT. Proofs about draining (R20, R154, R155, R165, R166): values collected, drain faults, and rows released. -/

namespace Sys2Proof.Proofs

open Sys2Proof.Machine Sys2Proof.Laws

/-! ### Ends of many commands -/

theorem st_finish (t u : Tag) (o : Outc) (s : State) : (tagOf (finish t o s) u).st = if u = t then .replying else (tagOf s u).st := by
  by_cases h : u = t
  · subst h
    rw [if_pos rfl, (finish_completed u o s).replying]
  · obtain ⟨j, hj⟩ := finish_other t o h s
    rw [if_neg h, hj]

/-- A tag that is not FREE is among the allocated ones. -/
theorem mem_allocTags {s : State} {t : Tag} (h : (tagOf s t).st ≠ .free) : ∃ p ∈ allocTags s, p.1 = t := by
  by_contra hno
  refine h ?_
  have hnone : ∀ p ∈ s.tly.tags, p.1 ≠ t.toNat := by
    intro p hp hk
    refine hno ⟨(BitVec.ofNat 9 p.1, p.2), List.mem_map.2 ⟨p, hp, rfl⟩, ?_⟩
    simp [hk]
  rw [tagOf, tget_of_notMem _ hnone]
  rfl

/-! ### Drain faults -/

theorem purgeStation_frame (tag : Tag) (s : State) (n : Nat) : purgeStation tag s n = { s with crt := (purgeStation tag s n).crt } := by
  unfold purgeStation
  dsimp only
  split <;> rfl

theorem purgeReads_frame (tag : Tag) (s : State) :
    purgeReads tag s = { s with crt := (purgeReads tag s).crt, hay := { s.hay with waiting := (purgeReads tag s).hay.waiting } } := by
  have hfold : ∀ (l : List Nat) (s : State), l.foldl (purgeStation tag) s = { s with crt := (l.foldl (purgeStation tag) s).crt } := by
    intro l
    induction l with
    | nil => exact fun _ => rfl
    | cons n r ih =>
      intro s
      rw [List.foldl_cons, ih, purgeStation_frame]
  unfold purgeReads
  dsimp only
  rw [hfold]

/-- A command of a drain fault ends. -/
def endFaulted (s : State) (t : Tag) : State := finish t (outc .aborted 0x2000 (tagOf s t).job.landed) (purgeReads t s)

/-- What ending the commands of a drain fault leaves. -/
structure Faulted (s t : State) (tags : List Tag) : Prop where
  ended : ∀ u ∈ tags, (tagOf t u).st = .replying
  others : ∀ u, u ∉ tags → (tagOf t u).st = (tagOf s u).st
  arr : t.arr = s.arr
  log : t.tnk.log = s.tnk.log
  shf : t.shf = s.shf
  mem : t.hay.mem = s.hay.mem

theorem faulted_endFaulted (s : State) (t : Tag) : Faulted s (endFaulted s t) [t] := by
  have hst : ∀ u, (tagOf (endFaulted s t) u).st = if u = t then .replying else (tagOf s u).st := fun u => by
    rw [endFaulted, st_finish, tagOf_congr (congrArg Tallyman.tags (purgeReads_tly t s))]
  have honly : OnlyTags (purgeReads t s) (endFaulted s t) := finish_only ..
  have hpurge := purgeReads_frame t s
  refine ⟨fun u hu => ?_, fun u hu => ?_, ?_, ?_, ?_, ?_⟩
  · rw [hst, if_pos (List.mem_singleton.1 hu)]
  · rw [hst, if_neg (fun h => hu (List.mem_singleton.2 h))]
  · rw [honly.arr, hpurge]
  · have htnk := congrArg Tinker.log honly.tnk
    rw [hpurge] at htnk
    exact htnk
  · rw [honly.shf, hpurge]
  · rw [honly.hay, hpurge]

theorem Faulted.trans {s t u : State} {l r : List Tag} (h : Faulted s t l) (g : Faulted t u r) : Faulted s u (l ++ r) where
  ended x hx := by
    by_cases hr : x ∈ r
    · exact g.ended x hr
    · rw [g.others x hr]
      exact h.ended x ((List.mem_append.1 hx).resolve_right hr)
  others x hx := by
    rw [List.mem_append, not_or] at hx
    exact (g.others x hx.2).trans (h.others x hx.1)
  arr := g.arr.trans h.arr
  log := g.log.trans h.log
  shf := g.shf.trans h.shf
  mem := g.mem.trans h.mem

theorem faulted_foldl (l : List Tag) (s : State) : Faulted s (l.foldl endFaulted s) l := by
  induction l generalizing s with
  | nil => exact ⟨nofun, fun _ _ => rfl, rfl, rfl, rfl, rfl⟩
  | cons t r ih => exact (faulted_endFaulted s t).trans (ih _)

/-- The array commands that had a record, in acceptance order. -/
def faultTags (s : State) : List Tag :=
  (((allocTags s).filter fun p => s.arr.records.any fun r => r.test.isNone && r.tag == p.1).foldr insertAcc []).map fun p => p.1

theorem mem_faultTags {s : State} {r : RouteRec} (hr : r ∈ s.arr.records) (ht : r.test = none) (hfree : (tagOf s r.tag).st ≠ .free) :
    r.tag ∈ faultTags s := by
  obtain ⟨p, hp, htag⟩ := mem_allocTags hfree
  refine List.mem_map.2 ⟨p, (mem_foldr_insertAcc ..).2 (List.mem_filter.2 ⟨hp, ?_⟩), htag⟩
  exact List.any_eq_true.2 ⟨r, hr, by simp [ht, htag]⟩

/-- The array's part of a drain fault, logged. -/
def faultLogged (info : Nat) (s : State) : State :=
  let u := if s.arr.records.any fun r => r.test.isSome then skewFault s else s
  updArr (fun a => { a with
    fifos := [], q := 0, records := [], resident := none, hold := fld (rget u 0x400C) 15 0, drainQ := []
    passes := a.passes.filter fun p => p.test.isNone && !(faultTags s).contains p.tag }) (cnt 0x4018 1 (logErr 0x09 islA 2 0 info u))

theorem drainFault_eq (info : Nat) (s : State) : drainFault info s = (faultTags s).foldl endFaulted (faultLogged info s) := rfl

/-- What a drain fault leaves of the array, its entry in the log among it. -/
theorem faultLogged_parts (info : Nat) (s : State) : let t := faultLogged info s
    t.arr.fifos = [] ∧ t.arr.q = 0 ∧ t.arr.records = [] ∧ t.arr.resident = none ∧ t.arr.hold = fld (rget s 0x400C) 15 0
      ∧ (s.tnk.log.length < 64 → t.tnk.log = s.tnk.log ++ [⟨stamp s islA, islA, 9, 2, 0, info⟩]) ∧ t.shf = s.shf ∧ t.hay = s.hay := by
  unfold faultLogged
  dsimp only
  generalize hu : (if s.arr.records.any fun r => r.test.isSome then skewFault s else s) = u
  have hsame : u.regs = s.regs ∧ u.isl = s.isl ∧ u.shf = s.shf ∧ u.hay = s.hay ∧ u.tnk.log = s.tnk.log := by
    rw [← hu]
    split <;> exact ⟨rfl, rfl, rfl, rfl, rfl⟩
  obtain ⟨hregs, hisl, hshf, hhay, hlog⟩ := hsame
  have hlogged := logErr_logged 0x09 islA 2 0 info u
  have hstamp : stamp u islA = stamp s islA := by rw [stamp, islOf, hisl]; rfl
  refine ⟨rfl, rfl, rfl, rfl, ?_, fun h => ?_, ?_, ?_⟩
  · change fld (rget u 0x400C) 15 0 = _
    rw [rget, hregs]
    rfl
  · have hentry := hlogged.entry
    rw [hlog, if_pos h, hstamp] at hentry
    exact hentry.1
  · change (logErr 0x09 islA 2 0 info u).shf = _
    rw [hlogged.only, hshf]
  · change (logErr 0x09 islA 2 0 info u).hay = _
    rw [hlogged.only, hhay]

/-- A drain fault, as O45 states it. -/
theorem drainFault_faults (info : Nat) (s : State) : let t := drainFault info s
    t.arr.fifos = [] ∧ t.arr.q = 0 ∧ t.arr.records = [] ∧ t.arr.resident = none ∧ t.arr.hold = fld (rget s 0x400C) 15 0
      ∧ (∀ r ∈ s.arr.records, r.test = none → (tagOf s r.tag).st ≠ .free → (tagOf t r.tag).st = .replying)
      ∧ (s.tnk.log.length < 64 → t.tnk.log = s.tnk.log ++ [⟨stamp s islA, islA, 9, 2, 0, info⟩]) ∧ t.shf = s.shf ∧ t.hay.mem = s.hay.mem := by
  intro t
  obtain ⟨hfifos, hq, hrecs, hres, hhold, hlog, hshf, hhay⟩ := faultLogged_parts info s
  obtain ⟨hended, -, harr, htlog, htshf, hmem⟩ := faulted_foldl (faultTags s) (faultLogged info s)
  rw [← drainFault_eq] at hended harr htlog htshf hmem
  refine ⟨?_, ?_, ?_, ?_, ?_, fun r hr ht hf => hended _ (mem_faultTags hr ht hf), fun h => htlog.trans (hlog h), htshf.trans hshf, ?_⟩
  · rw [harr, hfifos]
  · rw [harr, hq]
  · rw [harr, hrecs]
  · rw [harr, hres]
  · rw [harr, hhold]
  · rw [hmem, hhay]

/-! ### Drain values -/

section
variable {s : State} {adv : BitVec 33} {add : BitVec 1056} {adpt : BitVec 132}

/-- A drain value is in its place: a row has launched whose record carries its tag. -/
def InPlace (s : State) (adv : BitVec 33) (adpt : BitVec 132) (j : Nat) : Prop :=
  bit adv (physCol s j) = true → ∃ r, recordAt s.arr.records (tget [] s.arr.fifos j).length = some r
    ∧ r.ptag = adpt.extractLsb' (4 * physCol s j) 4

/-- The FIFO of a lane after its value is taken. -/
def lanePushed (s : State) (adv : BitVec 33) (add : BitVec 1056) (j : Nat) : List (BitVec 32) :=
  if bit adv (physCol s j) = true then tget [] s.arr.fifos j ++ [add.extractLsb' (32 * physCol s j) 32] else tget [] s.arr.fifos j

/-- The values of the lanes below `n` are in their FIFOs, those of the others still to take. -/
structure Taken (s t : State) (adv : BitVec 33) (add : BitVec 1056) (n : Nat) : Prop where
  below : ∀ j, j < n → tget [] t.arr.fifos j = lanePushed s adv add j
  above : ∀ j, n ≤ j → tget [] t.arr.fifos j = tget [] s.arr.fifos j
  only : t = { s with arr := { s.arr with fifos := t.arr.fifos } }

theorem drainLane_takes {t : State} {n : Nat} (h : Taken s t adv add n) (hin : InPlace s adv adpt n) :
    ∃ u, drainLane adv add adpt (true, t) n = (true, u) ∧ Taken s u adv add (n + 1) := by
  obtain ⟨hbelow, habove, honly⟩ := h
  have hcol : physCol t n = physCol s n := by rw [honly]; rfl
  have hrecs : t.arr.records = s.arr.records := by rw [honly]
  by_cases hb : bit adv (physCol s n) = true
  · obtain ⟨r, hr, htag⟩ := hin hb
    refine ⟨updArr (fun a => { a with fifos := tset [] a.fifos n (tget [] s.arr.fifos n ++ [add.extractLsb' (32 * physCol s n) 32]) }) t, ?_, ?_⟩
    · simp only [drainLane, hcol, hb, habove n le_rfl, hrecs, hr, htag]
      simp
    · refine ⟨fun j hj => ?_, fun j hj => ?_, congrArg (updArr _) honly⟩
      · by_cases hjn : j = n
        · subst hjn
          rw [lanePushed, if_pos hb]
          exact tget_tset_self ..
        · exact (tget_tset_ne _ _ hjn _).trans (hbelow j (by omega))
      · exact (tget_tset_ne _ _ (by omega) _).trans (habove j (by omega))
  · refine ⟨t, ?_, fun j hj => ?_, fun j hj => habove j (by omega), honly⟩
    · simp [drainLane, hcol, hb]
    · by_cases hjn : j = n
      · subst hjn
        rw [lanePushed, if_neg hb]
        exact habove j le_rfl
      · exact hbelow j (by omega)

theorem foldl_drainLane_takes (n : Nat) (hin : ∀ j, j < n → InPlace s adv adpt j) :
    ∃ t, (List.range n).foldl (drainLane adv add adpt) (true, s) = (true, t) ∧ Taken s t adv add n := by
  induction n with
  | zero => exact ⟨s, rfl, nofun, fun _ _ => rfl, rfl⟩
  | succ n ih =>
    obtain ⟨t, ht, htaken⟩ := ih fun j hj => hin j (by omega)
    obtain ⟨u, hu, hutaken⟩ := drainLane_takes htaken (hin n (by omega))
    exact ⟨u, by rw [List.range_succ, List.foldl_append, ht, List.foldl_cons, hu, List.foldl_nil], hutaken⟩

theorem foldl_drainLane_failed (l : List Nat) (t : State) : l.foldl (drainLane adv add adpt) (false, t) = (false, t) := by
  induction l with
  | nil => rfl
  | cons a r ih =>
    rw [List.foldl_cons]
    exact ih

theorem exec_drainBeat (hr : running s islA = true) (hh : s.arr.hold = 0) : exec (.drainBeat adv add adpt) s
    = .next (let x := (List.range 32).foldl (drainLane adv add adpt) (true, s); if x.1 then x.2 else drainFault 0 s) := by
  change execDrainBeat adv add adpt s = _
  simp only [execDrainBeat, hr, hh]
  rfl

theorem drainLane_first_fails (hb : bit adv (physCol s 0) = true) (hrec : recordAt s.arr.records (tget [] s.arr.fifos 0).length = none) :
    (List.range 32).foldl (drainLane adv add adpt) (true, s) = (false, s) := by
  rw [List.range_succ_eq_map, List.foldl_cons]
  have hfirst : drainLane adv add adpt (true, s) 0 = (false, s) := by simp [drainLane, hb, hrec]
  rw [hfirst, foldl_drainLane_failed]

theorem exec_drainWatchdog (hr : running s islA = true) (hq : 0 < s.arr.q) (hw : fld (rget s 0x400C) 15 0 ≠ 0) :
    exec .drainWatchdogExpire s = .next (drainFault 1 s) := by
  change execDrainWatchdogExpire s = _
  rw [execDrainWatchdogExpire, if_pos (And.intro hq (And.intro hw hr))]

end

/-! ### Released rows -/

theorem exec_drainRowRelease {s : State} {r : RouteRec} (hr : running s islA = true)
    (hf : s.arr.records.find? (fun r => decide (r.released < r.launched)) = some r) (ht : r.test = none)
    (hfull : ∀ j, j < 32 → tget [] s.arr.fifos j ≠ []) (hg : (groupOf s (tileOf s r.tile).group).ready = true)
    (hroom : (s.arr.drainQ.filter fun d => d.lbank / 8 == (tileOf s r.tile).group).length < 8) :
    exec .drainRowRelease s = .next (releaseRow r s) := by
  have hany : ((List.range 32).any fun j => (tget [] s.arr.fifos j).isEmpty) = false := by
    simpa [List.any_eq_false] using hfull
  change execDrainRowRelease s = _
  simp only [execDrainRowRelease, hf, hr, hany, ht, hg, if_neg (Nat.not_le.2 hroom)]
  rfl

theorem packElems_digit (w : Nat) (l : List Nat) (i : Nat) : packElems w l / 2 ^ (w * i) % 2 ^ w = l.getD i 0 % 2 ^ w := by
  induction l generalizing i with
  | nil => simp [packElems]
  | cons e r ih =>
    have hlt : e % 2 ^ w < 2 ^ w := Nat.mod_lt _ (Nat.two_pow_pos w)
    cases i with
    | zero => simp [packElems, Nat.add_mul_mod_self_left]
    | succ i =>
      have hdiv : packElems w (e :: r) / 2 ^ w = packElems w r := by
        rw [packElems, Nat.add_mul_div_left _ _ (Nat.two_pow_pos w), Nat.div_eq_of_lt hlt, Nat.zero_add]
      rw [Nat.mul_add, Nat.mul_one, Nat.add_comm (w * i), Nat.pow_add, ← Nat.div_div_eq_div_mul, hdiv, ih, List.getD_cons_succ]

/-- Element `j` of the values of a row. -/
theorem extract_packElems {n w : Nat} (l : List (BitVec w)) {j : Nat} (hn : w * j + w ≤ n) :
    (BitVec.ofNat n (packElems w (l.map (·.toNat)))).extractLsb' (w * j) w = l.getD j 0 := by
  have hdigit := packElems_digit w (l.map (·.toNat)) j
  have hget : (l.map (·.toNat)).getD j 0 = (l.getD j 0).toNat := by
    simp only [List.getD_eq_getElem?_getD, List.getElem?_map]
    cases l[j]? <;> simp
  rw [hget, Nat.mod_eq_of_lt (BitVec.isLt _)] at hdigit
  refine BitVec.eq_of_getLsbD_eq fun i hi => ?_
  rw [BitVec.getLsbD_extractLsb', BitVec.getLsbD_ofNat, ← BitVec.testBit_toNat, ← hdigit, Nat.testBit_mod_two_pow, Nat.testBit_div_two_pow]
  simp [hi, Nat.add_comm, show i + w * j < n by omega]

theorem tget_foldl_tset {α : Type} [DecidableEq α] (d : α) (f : Nat → α) (n : Nat) (m : Tbl α) (k : Nat) :
    tget d ((List.range n).foldl (fun m j => tset d m j (f j)) m) k = if k < n then f k else tget d m k := by
  induction n with
  | zero => simp
  | succ n ih =>
    rw [List.range_succ, List.foldl_append, List.foldl_cons, List.foldl_nil]
    by_cases hk : k = n
    · subst hk
      rw [tget_tset_self, if_pos (Nat.lt_succ_self k)]
    · rw [tget_tset_ne _ _ hk, ih]
      exact if_congr (by omega) rfl rfl

/-- The row that a release puts on the drain bus. -/
def releasedRow (r : RouteRec) (s : State) : DrainRow :=
  let t := tileOf s r.tile
  let seg := ((r.arow + r.first + r.released) * t.rowBytes + 128 * r.acol) / 128
  { uid := r.uid, tag := r.tag, lbank := segBank r.tile t seg, entry := segEntry t seg, tile := r.tile, seg := seg, ncols := r.ncols
    vals := BitVec.ofNat 1024 (packElems 32 ((drainVals s).map (·.toNat))) }

theorem releasedRow_vals (r : RouteRec) (s : State) {j : Nat} (hj : j < 32) :
    (releasedRow r s).vals.extractLsb' (32 * j) 32 = (tget [] s.arr.fifos j).headD 0 := by
  have hval : (drainVals s).getD j 0 = (tget [] s.arr.fifos j).headD 0 := by
    simp [drainVals, List.getD_eq_getElem?_getD, hj]
  rw [← hval]
  exact extract_packElems _ (by omega)

theorem releaseRow_parts (r : RouteRec) (s : State) : let t := releaseRow r s
    t.arr.drainQ = s.arr.drainQ ++ [releasedRow r s] ∧ (∀ j, j < 32 → tget [] t.arr.fifos j = (tget [] s.arr.fifos j).tail)
      ∧ t.arr.q = s.arr.q - 1
      ∧ t.arr.records = s.arr.records.map (fun x => if x.uid = r.uid then { x with released := x.released + 1 } else x)
      ∧ rget t 0x4010 = BitVec.ofNat 32 (min 0xFFFFFFFF ((rget s 0x4010).toNat + 1)) ∧ t.shf = s.shf ∧ t.tly = s.tly := by
  refine ⟨rfl, fun j hj => ?_, rfl, rfl, rget_cnt_self .., rfl, rfl⟩
  exact (tget_foldl_tset [] (fun j => (tget [] s.arr.fifos j).tail) 32 s.arr.fifos j).trans (if_pos hj)

/-- Settles O45, by the input. -/
theorem drainLanesCollect : Obligations.DrainLanesCollect := by
  intro s hr faulted
  refine ⟨fun adv add adpt hh hin => ?_, fun adv add adpt hh hb hrec => ?_, fun hq hw => ?_, fun r hf ht hfull hg hroom => ?_⟩
  · obtain ⟨t, hfold, hbelow, -, honly⟩ := foldl_drainLane_takes (s := s) (adv := adv) (add := add) (adpt := adpt) 32 hin
    rw [exec_drainBeat hr hh, hfold]
    exact ⟨t, rfl, honly, hbelow⟩
  · rw [exec_drainBeat hr hh, drainLane_first_fails hb hrec]
    exact ⟨_, rfl, drainFault_faults 0 s⟩
  · exact ⟨_, exec_drainWatchdog hr hq hw, drainFault_faults 1 s⟩
  · intro seg
    obtain ⟨hq, hfifos, hcount, hrecs, hcnt, hshf, htly⟩ := releaseRow_parts r s
    exact ⟨_, releasedRow r s, exec_drainRowRelease hr hf ht hfull hg hroom, hq, rfl, rfl, rfl, rfl, rfl, rfl, rfl,
      fun j hj => ⟨releasedRow_vals r s hj, hfifos j hj⟩, hcount, hrecs, hcnt, hshf, htly⟩

end Sys2Proof.Proofs
end

section
/-! SUPPORT. What the test of words, read beats and their delivery leave as it was (R118, R133, R139, R362). -/

namespace Sys2Proof.Proofs

open Sys2Proof.Machine Sys2Proof.Laws

/-! ### Tests of words -/

/-- From `s` to `t` only registers and the Tinker's notes have changed, not the repair map nor a copy that runs. -/
structure Noted (s t : State) : Prop where
  only : t = { s with regs := t.regs, tnk := t.tnk }
  map : t.tnk.map = s.tnk.map
  copying : t.tnk.copying = s.tnk.copying

theorem Noted.refl (s : State) : Noted s s := ⟨rfl, rfl, rfl⟩

theorem Noted.trans {s t u : State} (h : Noted s t) (g : Noted t u) : Noted s u where
  only := by
    have hg := g.only
    rw [h.only] at hg
    exact hg
  map := g.map.trans h.map
  copying := g.copying.trans h.copying

theorem noted_cnt (off n : Nat) (s : State) : Noted s (cnt off n s) := ⟨rfl, rfl, rfl⟩

theorem noted_logErr (kind isl unit loc info : Nat) (s : State) : Noted s (logErr kind isl unit loc info s) := by
  have h := (logErr_logged kind isl unit loc info s).only
  generalize logErr kind isl unit loc info s = t at h
  exact ⟨by rw [h], by rw [h], by rw [h]⟩

theorem noted_trigger (b : Nat) (s : State) : Noted s (trigger b none s) := by
  unfold trigger dropTrigger
  split
  · exact ⟨rfl, rfl, rfl⟩
  · dsimp only
    split
    · exact Noted.refl s
    · exact (show Noted s { s with tnk := { s.tnk with noSpare := b :: s.tnk.noSpare } } from ⟨rfl, rfl, rfl⟩).trans (noted_logErr ..)

theorem noted_noteCorrected (b : Nat) (s : State) : Noted s (noteCorrected b s) := by
  unfold noteCorrected
  dsimp only
  generalize hu : ({ s with tnk := { s.tnk with ceWin := _, ceTot := _ } } : State) = u
  have h : Noted s u := by rw [← hu]; exact ⟨rfl, rfl, rfl⟩
  split
  · exact h.trans (noted_trigger b u)
  · exact h

theorem noted_shfTest (bank entry : Nat) (d : Word) (c : Byte) (s : State) : Noted s (shfTest bank entry d c s).2.2 := by
  unfold shfTest
  split
  · exact Noted.refl s
  · exact (noted_logErr ..).trans (noted_noteCorrected ..)
  · exact noted_logErr ..

theorem shfTest_result (bank entry : Nat) (d : Word) (c : Byte) (s : State) :
    ((shfTest bank entry d c s).1, (shfTest bank entry d c s).2.1) = eccTest d c := by
  unfold shfTest
  split <;> next h => rw [h]

/-! ### Beats -/

/-- What testing and delivering read beats leaves as it was: storage, tile registers, group power, the array, the network, islands, the
Millers, the repair map, and of the Carters the slot, the requests and the crossings of the groups. -/
structure Core where
  shf : Sheaf
  hay : Hayloft
  arr : ArrayUnit
  noc : Noc
  isl : Tbl Island
  mil : Millers
  map : Tbl Nat
  copying : Option Retire
  slot : Nat
  age : Nat
  reqs : List PortReq
  cross : Nat → Nat

/-- The core of a state. -/
def core (s : State) : Core where
  shf := s.shf
  hay := s.hay
  arr := s.arr
  noc := s.noc
  isl := s.isl
  mil := s.mil
  map := s.tnk.map
  copying := s.tnk.copying
  slot := s.crt.slot
  age := s.crt.age
  reqs := s.crt.reqs
  cross c := if c < 56 then tget 0 s.crt.cross c else 0

theorem Noted.core_eq {s t : State} (h : Noted s t) : core t = core s := by
  unfold core
  rw [h.map, h.copying, h.only]

theorem core_crossIn {c : Nat} (hc : 56 ≤ c) (s : State) : core (crossIn c s) = core s := by
  unfold crossIn
  split
  · rfl
  · have hcross : (fun k => if k < 56 then tget 0 (tset 0 s.crt.cross c (tget 0 s.crt.cross c + 1)) k else 0)
        = fun k => if k < 56 then tget 0 s.crt.cross k else 0 := by
      funext k
      by_cases hk : k < 56
      · rw [if_pos hk, if_pos hk, tget_tset_ne _ _ (by omega)]
      · rw [if_neg hk, if_neg hk]
    unfold core
    dsimp only
    rw [hcross]

theorem core_tinkHalf (d : RdDemand) (data : Beat) (chk : BeatChk) (h : Nat) (s : State) : core (tinkHalf d data chk h s) = core s :=
  foldl_proj core _ (fun _ _ => (noted_shfTest ..).core_eq) _ s

theorem core_tinkBeat (d : RdDemand) (data : Beat) (chk : BeatChk) (s : State) : core (tinkBeat d data chk s) = core s := by
  unfold tinkBeat
  dsimp only
  split
  · rfl
  · split <;> rw [core_tinkHalf, core_tinkHalf]

theorem core_noteWord (n : Nat) (d : RdDemand) (data : Beat) (chk : BeatChk) (s : State) (w : Nat) : core (noteWord n d data chk s w) = core s := by
  unfold noteWord
  dsimp only
  split
  · rfl
  · split <;> rfl
  · split <;> rfl

theorem core_testBeat (n : Nat) (d : RdDemand) (data : Beat) (chk : BeatChk) (s : State) : core (testBeat n d data chk s) = core s :=
  (foldl_proj core _ (core_noteWord n d data chk) _ _).trans (core_tinkBeat d data chk s)

theorem core_endRead (tag : Tag) (t : Nat) (s : State) : core (endRead tag t s) = core s := by
  unfold endRead
  split <;> rfl

theorem core_giveBeat (n : Nat) (d : RdDemand) (data : Beat) (chk : BeatChk) (s : State) : core (giveBeat n d data chk s) = core s := by
  unfold giveBeat
  dsimp only
  split <;> rfl

theorem le_beatCross (n : Nat) : 56 ≤ beatCross n := by
  unfold beatCross
  split <;> decide

theorem core_deliver (s : State) (n : Nat) : core (deliver s n) = core s := by
  unfold deliver
  dsimp only
  split
  · split
    · rw [core_giveBeat]
      split
      · rfl
      · rw [core_crossIn (le_beatCross n)]
        rfl
    · rfl
  · rfl

theorem core_loadLatch (n : Nat) (b : FlyBeat) (s : State) : core (loadLatch n b s) = core s := by
  unfold loadLatch
  split <;> rfl

theorem core_quarterRead (n : Nat) (d : RdDemand) (q : BitVec 4) (data : Beat) (chk : BeatChk) (s : State) :
    core (quarterRead n d q data chk s) = core s := by
  unfold quarterRead
  split
  · rfl
  · dsimp only
    rw [core_deliver]
    split
    · rw [core_endRead, core_testBeat, core_loadLatch]
      rfl
    · rfl

end Sys2Proof.Proofs
end

section
/-! SUPPORT. Proofs about ports (R116, R118, R121, R123, R126): wheels committed and beats granted. -/

namespace Sys2Proof.Proofs

open Sys2Proof.Machine Sys2Proof.Laws

/-! ### Wheels -/

/-- The shadow of one wheel copied. -/
def copyWheel (s : State) (i : Nat) : State :=
  (List.range 4).foldl (fun s q =>
    { s with crt := { s.crt with wheels := tput (4 * i + q) (rget s (0x2000 + 0x10 * i + 4 * q)) s.crt.wheels } }) s

theorem commitWheels_eq {s : State} (h : s.crt.slot = 0) :
    commitWheels s = rset 0x2060 0 (((List.range 6).filter fun i => bit (rget s 0x2060) i).foldl copyWheel s) := by
  unfold commitWheels
  rw [if_neg (not_not.2 h)]
  rfl

theorem copyWheel_frame (s : State) (i : Nat) : copyWheel s i = { s with crt := { s.crt with wheels := (copyWheel s i).crt.wheels } } := rfl

theorem foldl_copyWheel_frame (l : List Nat) (s : State) :
    l.foldl copyWheel s = { s with crt := { s.crt with wheels := (l.foldl copyWheel s).crt.wheels } } := by
  induction l generalizing s with
  | nil => rfl
  | cons i r ih => rw [List.foldl_cons, ih, copyWheel_frame]

theorem wheels_copyWheel (s : State) (i j : Nat) {q : Nat} (hq : q < 4) : tget 0 (copyWheel s i).crt.wheels (4 * j + q)
    = if i = j then rget s (0x2000 + 0x10 * j + 4 * q) else tget 0 s.crt.wheels (4 * j + q) := by
  have hw : (copyWheel s i).crt.wheels = tput (4 * i + 3) (rget s (0x2000 + 0x10 * i + 4 * 3)) (tput (4 * i + 2) (rget s (0x2000 + 0x10 * i + 4 * 2))
    (tput (4 * i + 1) (rget s (0x2000 + 0x10 * i + 4 * 1)) (tput (4 * i + 0) (rget s (0x2000 + 0x10 * i + 4 * 0)) s.crt.wheels))) := rfl
  rw [hw]
  by_cases h : i = j
  · subst h
    rw [if_pos rfl]
    obtain rfl | rfl | rfl | rfl : q = 0 ∨ q = 1 ∨ q = 2 ∨ q = 3 := by omega
    · rw [tget_tput_ne _ _ (by omega), tget_tput_ne _ _ (by omega), tget_tput_ne _ _ (by omega), tget_tput_self]
    · rw [tget_tput_ne _ _ (by omega), tget_tput_ne _ _ (by omega), tget_tput_self]
    · rw [tget_tput_ne _ _ (by omega), tget_tput_self]
    · rw [tget_tput_self]
  · rw [if_neg h, tget_tput_ne _ _ (by omega), tget_tput_ne _ _ (by omega), tget_tput_ne _ _ (by omega), tget_tput_ne _ _ (by omega)]

theorem wheels_foldl_copyWheel (l : List Nat) (s : State) (j : Nat) {q : Nat} (hq : q < 4) : tget 0 (l.foldl copyWheel s).crt.wheels (4 * j + q)
    = if j ∈ l then rget s (0x2000 + 0x10 * j + 4 * q) else tget 0 s.crt.wheels (4 * j + q) := by
  induction l generalizing s with
  | nil => rfl
  | cons i r ih =>
    have hregs : rget (copyWheel s i) (0x2000 + 0x10 * j + 4 * q) = rget s (0x2000 + 0x10 * j + 4 * q) := rfl
    rw [List.foldl_cons, ih, hregs, wheels_copyWheel s i j hq]
    rcases eq_or_ne i j with rfl | hi
    · simp
    · simp [hi, Ne.symm hi]

theorem exec_wheelCommit {s : State} (hr : running s islA = true) : exec .wheelCommit s = .next (commitWheels s) := by
  change execWheelCommit s = _
  rw [execWheelCommit, if_pos hr]

theorem commitWheels_waits {s : State} (h : s.crt.slot ≠ 0) : commitWheels s = s := by
  unfold commitWheels
  exact if_pos h

theorem commitWheels_parts {s : State} (h : s.crt.slot = 0) : let t := commitWheels s
    (∀ i q, i < 6 → q < 4 → tget 0 t.crt.wheels (4 * i + q)
        = if bit (rget s 0x2060) i = true then rget s (0x2000 + 0x10 * i + 4 * q) else tget 0 s.crt.wheels (4 * i + q))
      ∧ rget t 0x2060 = 0 ∧ (∀ k, k ≠ 0x2060 → rget t k = rget s k)
      ∧ t = { s with crt := { s.crt with wheels := t.crt.wheels }, regs := t.regs } := by
  rw [commitWheels_eq h]
  generalize hl : (List.range 6).filter (fun i => bit (rget s 0x2060) i) = l
  have hmem : ∀ i, i < 6 → (i ∈ l ↔ bit (rget s 0x2060) i = true) := fun i hi => by
    rw [← hl, List.mem_filter, List.mem_range]
    exact and_iff_right hi
  have hframe := foldl_copyWheel_frame l s
  have hwheels := fun i q (hq : q < 4) => wheels_foldl_copyWheel l s i hq
  generalize l.foldl copyWheel s = u at hframe hwheels
  refine ⟨fun i q hi hq => ?_, rget_rset_self .., fun k hk => ?_, ?_⟩
  · exact (hwheels i q hq).trans (if_congr (hmem i hi) rfl rfl)
  · rw [rget_rset_ne hk, hframe]
    rfl
  · rw [hframe]
    rfl

/-! ### An a-cycle of the ports -/

/-- What an a-cycle of the ports leaves of storage, tiles, the array and the network. -/
def steady (s : State) : Nat × Nat × Memory × Memory × Tbl Tile × Hayloft × ArrayUnit × Noc :=
  (s.crt.slot, s.crt.age, s.shf.mem, s.shf.chk, s.shf.tiles, s.hay, s.arr, s.noc)

theorem steady_of_core {s t : State} (h : core t = core s) : steady t = steady s := by
  have hshf := congrArg Core.shf h
  have hhay := congrArg Core.hay h
  have harr := congrArg Core.arr h
  have hnoc := congrArg Core.noc h
  have hslot := congrArg Core.slot h
  have hage := congrArg Core.age h
  simp only [core] at hshf hhay harr hnoc hslot hage
  simp only [steady, hshf, hhay, harr, hnoc, hslot, hage]

theorem steady_commitWheels (s : State) : steady (commitWheels s) = steady s := by
  by_cases h : s.crt.slot = 0
  · obtain ⟨-, -, -, hframe⟩ := commitWheels_parts h
    rw [hframe]
    rfl
  · rw [commitWheels_waits h]

theorem steady_wakeWaiting (s : State) : steady (wakeWaiting s) = steady s := by
  unfold wakeWaiting
  split
  · rfl
  · refine foldl_proj steady _ (fun s g => ?_) _ s
    split <;> rfl

/-- A fold over a pair whose steps keep a projection of the state keeps it. -/
theorem foldl_snd {α β γ : Type} (g : State → γ) (f : α × State → β → α × State) (h : ∀ a b, g (f a b).2 = g a.2) (l : List β) (a : α × State) :
    g (l.foldl f a).2 = g a.2 := by
  induction l generalizing a with
  | nil => rfl
  | cons b r ih => rw [List.foldl_cons, ih, h]

theorem steady_latchServe (acc : List Nat × State) (n : Nat) : steady (latchServe acc n).2 = steady acc.2 := by
  unfold latchServe
  dsimp only
  split
  · split
    · split
      · rfl
      · exact steady_of_core ((core_deliver ..).trans ((core_endRead ..).trans (core_testBeat ..)))
    · rfl
  · rfl

theorem steady_crossIn (c : Nat) (s : State) : steady (crossIn c s) = steady s := by
  unfold crossIn
  split <;> rfl

theorem steady_grantBeat (wr : Bool) (port n : Nat) (reserved : Bool) (s : State) : steady (grantBeat wr port n reserved s) = steady s := by
  unfold grantBeat
  dsimp only
  split
  · split
    · split
      · exact (steady_crossIn ..).trans (steady_crossIn ..)
      · exact (steady_crossIn ..).trans (steady_crossIn ..)
    · rfl
  · split
    · exact steady_crossIn ..
    · rfl

/-- A station may be granted its beat on a wheel (R118, R125). -/
def mayTake (taken : List Nat) (wheel : Nat) (s : State) (n : Nat) : Bool :=
  !taken.contains n && match nextBeat s (decide (4 ≤ wheel)) n with
    | some g => decide (portOut s wheel g < 4)
    | none => false

theorem fresh_of_mayTake {taken : List Nat} {wheel n : Nat} {s : State} (h : mayTake taken wheel s n = true) : n ∉ taken := by
  simp only [mayTake, Bool.and_eq_true, Bool.not_eq_true', List.contains_eq_mem, decide_eq_false_iff_not] at h
  exact h.1

/-- A station waits on a wheel for the four-request limit alone. -/
def slotHeld (taken : List Nat) (wheel : Nat) (s : State) : Bool :=
  (List.range 16).any fun n => (!taken.contains n && (nextBeat s (decide (4 ≤ wheel)) n).isSome) && !mayTake taken wheel s n

/-- The grant of a port's slot, from the state `u` in which the wait is counted (R123-R125). -/
def slotGrant (taken : List Nat) (wheel : Nat) (s u : State) : List Nat × State :=
  let b := slotByte s wheel s.crt.slot
  let mode := b / 64
  let owner := b % 16
  if (mode == 1 || mode == 2) && mayTake taken wheel s owner then
    (owner :: taken, cnt (0x2080 + 0x10 * wheel) 1 (grantBeat (decide (4 ≤ wheel)) wheel owner (mode == 2) u))
  else if !(mode == 2 && arrayActive u) then
    match rotFind 16 (tget 0 u.crt.rot wheel) (mayTake taken wheel s) with
    | some n =>
      let v := grantBeat (decide (4 ≤ wheel)) wheel n (mode == 2) u
      let v := cnt (0x2080 + 0x10 * wheel) 1 { v with crt := { v.crt with rot := tset 0 v.crt.rot wheel ((n + 1) % 16) } }
      (n :: taken, if mode == 1 || mode == 2 then cnt (0x2084 + 0x10 * wheel) 1 v else v)
    | none => (taken, u)
  else (taken, u)

theorem portSlot_eq (taken : List Nat) (wheel : Nat) (s : State) : portSlot (taken, s) wheel
    = slotGrant taken wheel s (if slotHeld taken wheel s then cnt (0x2088 + 0x10 * wheel) 1 s else s) := by
  unfold portSlot slotGrant slotHeld mayTake
  rfl

/-- What a port's slot can do: count, and grant a beat of a station that has taken no part yet. -/
theorem portSlot_induct {M : State → Prop} {taken : List Nat} {wheel : Nat} {s : State} (hcnt : ∀ off k u, M u → M (cnt off k u))
    (hrot : ∀ r u, M u → M { u with crt := { u.crt with rot := r } })
    (hgrant : ∀ n reserved u, n ∉ taken → M u → M (grantBeat (decide (4 ≤ wheel)) wheel n reserved u)) (hs : M s) :
    M (portSlot (taken, s) wheel).2 ∧ ∀ n ∈ taken, n ∈ (portSlot (taken, s) wheel).1 := by
  rw [portSlot_eq]
  have hmu : M (if slotHeld taken wheel s then cnt (0x2088 + 0x10 * wheel) 1 s else s) := by
    split
    · exact hcnt _ _ _ hs
    · exact hs
  generalize (if slotHeld taken wheel s then cnt (0x2088 + 0x10 * wheel) 1 s else s) = u at hmu
  unfold slotGrant
  dsimp only
  split
  · next hown =>
    exact ⟨hcnt _ _ _ (hgrant _ _ _ (fresh_of_mayTake (Bool.and_eq_true_iff.1 hown).2) hmu), fun n hn => List.mem_cons_of_mem _ hn⟩
  · split
    · split
      · next n hn =>
        have hfresh := fresh_of_mayTake (rotFind_some (by decide) hn).2
        refine ⟨?_, fun n hn => List.mem_cons_of_mem _ hn⟩
        dsimp only
        split
        · exact hcnt _ _ _ (hcnt _ _ _ (hrot _ _ (hgrant n _ _ hfresh hmu)))
        · exact hcnt _ _ _ (hrot _ _ (hgrant n _ _ hfresh hmu))
      · exact ⟨hmu, fun _ h => h⟩
    · exact ⟨hmu, fun _ h => h⟩

theorem steady_portSlot (acc : List Nat × State) (wheel : Nat) : steady (portSlot acc wheel).2 = steady acc.2 :=
  (portSlot_induct (M := fun u => steady u = steady acc.2) (fun _ _ _ h => h) (fun _ _ h => h)
    (fun _ _ _ _ h => (steady_grantBeat ..).trans h) rfl).1

/-- A station that has a beat ready and takes no part counts its wait. -/
def countWait (rd wr : List Nat) (s : State) (n : Nat) : State := if rd.contains n || wr.contains n then s else cnt (0x2100 + 4 * n) 1 s

theorem crt_countWait (rd wr : List Nat) (s : State) (n : Nat) : (countWait rd wr s n).crt = s.crt := by
  unfold countWait
  split <;> rfl

theorem steady_countWait (rd wr : List Nat) (s : State) (n : Nat) : steady (countWait rd wr s n) = steady s := by
  unfold countWait
  split <;> rfl

/-- The state after the folds of an a-cycle of the ports, its slot not yet moved on. -/
def portsServed (s : State) : State :=
  let s := wakeWaiting (commitWheels ((List.range 16).foldl deliver s))
  let ready := (List.range 16).filter fun n => beatReady s n && !s.crt.spilled.contains n
  let hit := (List.range 16).foldl latchServe ([], s)
  let rd := (List.range 4).foldl portSlot hit
  let wr := [4, 5].foldl portSlot ([], rd.2)
  ready.foldl (countWait rd.1 wr.1) wr.2

theorem exec_portSlotGrant {s : State} (hr : running s islA = true) : exec .portSlotGrant s
    = .next { portsServed s with crt := { (portsServed s).crt with
        slot := ((portsServed s).crt.slot + 1) % 16, age := (portsServed s).crt.age + 1, spilled := [] } } := by
  change execPortSlotGrant s = _
  unfold execPortSlotGrant portsServed
  rw [hr]
  dsimp only
  generalize wakeWaiting (commitWheels ((List.range 16).foldl deliver s)) = w
  generalize (List.range 16).foldl latchServe ([], w) = hit
  obtain ⟨hs, u⟩ := hit
  dsimp only
  generalize (List.range 4).foldl portSlot (hs, u) = rd
  obtain ⟨rs, v⟩ := rd
  dsimp only
  generalize [4, 5].foldl portSlot ([], v) = wr
  obtain ⟨ws, x⟩ := wr
  rfl

theorem steady_portsServed (s : State) : steady (portsServed s) = steady s := by
  unfold portsServed
  dsimp only
  generalize hd : (List.range 16).foldl deliver s = u
  have hu : steady u = steady s := by
    rw [← hd]
    exact steady_of_core (foldl_proj core _ core_deliver _ s)
  rw [foldl_proj steady _ (steady_countWait _ _), foldl_snd steady _ steady_portSlot, foldl_snd steady _ steady_portSlot,
    foldl_snd steady _ steady_latchServe, steady_wakeWaiting, steady_commitWheels, hu]

/-! ### A slot's owner -/

theorem foldl_fixed_mem {α β : Type} {f : α → β → α} {a : α} {l : List β} (h : ∀ b ∈ l, f a b = a) : l.foldl f a = a := by
  induction l with
  | nil => rfl
  | cons b r ih => rw [List.foldl_cons, h b List.mem_cons_self, ih fun c hc => h c (List.mem_cons_of_mem b hc)]

theorem deliver_idle {s : State} {n : Nat} (h : (stnOf s n).fly = []) : deliver s n = s := by
  unfold deliver
  dsimp only
  rw [h]

theorem latchServe_idle {acc : List Nat × State} (h : acc.2.crt.latches = []) (n : Nat) : latchServe acc n = acc := by
  have hmiss : ∀ d, latchHit acc.2 n d = none := fun d => by
    unfold latchHit
    rw [h]
    rfl
  unfold latchServe
  dsimp only
  split
  · rw [hmiss]
  · rfl

theorem commitWheels_idle {s : State} (h : rget s 0x2060 = 0) : commitWheels s = { s with regs := (commitWheels s).regs } := by
  by_cases hs : s.crt.slot = 0
  · rw [commitWheels_eq hs, h]
    rfl
  · rw [commitWheels_waits hs]

theorem wakeWaiting_parts (s : State) : let t := wakeWaiting s
    (∀ g, (groupOf s g).ready = true → groupOf t g = groupOf s g) ∧ t = { s with shf := { s.shf with groups := t.shf.groups } } := by
  unfold wakeWaiting
  split
  · exact ⟨fun _ _ => rfl, rfl⟩
  · next hno =>
    clear hno
    generalize dedup _ = l
    induction l generalizing s with
    | nil => exact ⟨fun _ _ => rfl, rfl⟩
    | cons a r ih =>
      rw [List.foldl_cons]
      split
      · exact ih s
      · next ha =>
        obtain ⟨hready, hframe⟩ := ih (setGroup a (groupOf s a).wakeUp s)
        refine ⟨fun g hg => ?_, hframe⟩
        have hne : g ≠ a := fun h => ha (h ▸ hg)
        have hsame : groupOf (setGroup a (groupOf s a).wakeUp s) g = groupOf s g := groupOf_setGroup_ne hne ..
        rw [hready g (hsame ▸ hg), hsame]

theorem canCross_congr {s t : State} (hisl : t.isl = s.isl) (hcross : t.crt.cross = s.crt.cross) (c : Nat) : canCross t c = canCross s c := by
  rw [canCross, crossOcc, running, islOf, hisl, hcross]
  rfl

/-- A read beat that may be granted: what it asks of its station, its group and its crossing. -/
theorem nextBeat_read_iff {s : State} {n g : Nat} {d : RdDemand} {r : List RdDemand} (h : (stnOf s n).rdQ = d :: r) :
    nextBeat s false n = some g ↔ 0 < (stnOf s n).rHeld ∧ (tileOf s d.tile).spill = false ∧ (groupOf s (tileOf s d.tile).group).ready = true
      ∧ canCross s (7 * (tileOf s d.tile).group) = true ∧ (tileOf s d.tile).group = g := by
  simp [nextBeat, h, and_assoc]

/-- The beat of a demand as it leaves for its station. -/
def firstFly (s : State) (d : RdDemand) : FlyBeat := ⟨d, latchOn s d.tag, 0xF, 0, 0⟩

/-- The request for half of a read beat. -/
def halfReq (s : State) (port n : Nat) (reserved : Bool) (d : RdDemand) (h : Bool) : PortReq :=
  ⟨port, reserved, s.crt.age, segBank d.tile (tileOf s d.tile) (2 * d.j + b2n h), segEntry (tileOf s d.tile) (2 * d.j + b2n h), .read n d h⟩

theorem crossIn_stns (c : Nat) (s : State) : (crossIn c s).crt.stns = s.crt.stns ∧ (crossIn c s).crt.reqs = s.crt.reqs := by
  unfold crossIn
  split <;> exact ⟨rfl, rfl⟩

theorem stnOf_congr {s t : State} (h : t.crt.stns = s.crt.stns) (n : Nat) : stnOf t n = stnOf s n := by
  rw [stnOf, h, stnOf]

theorem grantBeat_read {s : State} {n : Nat} {d : RdDemand} {r : List RdDemand} (h : (stnOf s n).rdQ = d :: r) (port : Nat) (reserved : Bool) :
    let t := grantBeat false port n reserved s
    stnOf t n = { stnOf s n with
        rdQ := r, fly := (stnOf s n).fly ++ [firstFly s d], rHeld := (stnOf s n).rHeld - 1, rFly := (stnOf s n).rFly + 1 }
      ∧ t.crt.reqs = s.crt.reqs ++ [halfReq s port n reserved d false, halfReq s port n reserved d true] := by
  unfold grantBeat
  simp only [Bool.false_eq_true, if_false, h]
  generalize hu : setStn n _ s = u
  obtain ⟨hstns, hreqs⟩ := crossIn_stns (7 * (tileOf s d.tile).group) u
  constructor
  · refine (stnOf_congr (s := u) hstns n).trans ?_
    rw [← hu, stnOf_setStn_self]
    rfl
  · refine (congrArg (· ++ _) (hreqs.trans ?_))
    rw [← hu]
    rfl

/-- Station `n` keeps its read beats, and what is at the banks stays there. -/
structure Granted (n : Nat) (r : List RdDemand) (held : Nat) (fly : List FlyBeat) (reqs : List PortReq) (t : State) : Prop where
  rdQ : (stnOf t n).rdQ = r
  rHeld : (stnOf t n).rHeld = held
  fly : (stnOf t n).fly = fly
  reqs : ∀ q ∈ reqs, q ∈ t.crt.reqs

theorem Granted.congr {n held : Nat} {r : List RdDemand} {fly : List FlyBeat} {reqs : List PortReq} {s t : State}
    (h : Granted n r held fly reqs s) (hstn : t.crt.stns = s.crt.stns) (hreqs : ∀ q ∈ s.crt.reqs, q ∈ t.crt.reqs) :
    Granted n r held fly reqs t where
  rdQ := (congrArg Station.rdQ (stnOf_congr hstn n)).trans h.rdQ
  rHeld := (congrArg Station.rHeld (stnOf_congr hstn n)).trans h.rHeld
  fly := (congrArg Station.fly (stnOf_congr hstn n)).trans h.fly
  reqs q hq := hreqs q (h.reqs q hq)

section
variable {n held : Nat} {r : List RdDemand} {fly : List FlyBeat} {reqs : List PortReq} {s : State}

theorem Granted.setStn {k : Nat} {y : Station} (h : Granted n r held fly reqs s)
    (hy : k = n → y.rdQ = (stnOf s n).rdQ ∧ y.rHeld = (stnOf s n).rHeld ∧ y.fly = (stnOf s n).fly) :
    Granted n r held fly reqs (setStn k y s) := by
  by_cases hk : k = n
  · obtain ⟨hrd, hh, hf⟩ := hy hk
    subst hk
    have hself : stnOf (Machine.setStn k y s) k = y := stnOf_setStn_self ..
    exact ⟨by rw [hself, hrd, h.rdQ], by rw [hself, hh, h.rHeld], by rw [hself, hf, h.fly], h.reqs⟩
  · have hne : stnOf (Machine.setStn k y s) n = stnOf s n := stnOf_setStn_ne (Ne.symm hk) ..
    exact ⟨by rw [hne, h.rdQ], by rw [hne, h.rHeld], by rw [hne, h.fly], h.reqs⟩

theorem Granted.crossIn {c : Nat} (h : Granted n r held fly reqs s) : Granted n r held fly reqs (crossIn c s) :=
  h.congr (crossIn_stns c s).1 fun _ hq => (crossIn_stns c s).2 ▸ hq

/-- A grant to another station, or of a write beat, leaves a station's read beats. -/
theorem Granted.grantBeat {k port : Nat} {wr reserved : Bool} (h : Granted n r held fly reqs s) (hk : wr = false → k ≠ n) :
    Granted n r held fly reqs (grantBeat wr port k reserved s) := by
  unfold Machine.grantBeat
  dsimp only
  split
  · split
    · next w rest hw =>
      have hstn : Granted n r held fly reqs (Machine.setStn k { stnOf s k with wrQ := rest, wHeld := (stnOf s k).wHeld + 1 } s) :=
        h.setStn fun hkn => by rw [hkn]; exact ⟨rfl, rfl, rfl⟩
      have hsent := (hstn.crossIn (c := 7 * (tileOf s w.tile).group)).crossIn (c := 7 * (tileOf s w.tile).group + 2)
      split
      · exact hsent.congr rfl fun q hq => List.mem_append_left _ hq
      · exact hsent.congr rfl fun q hq => List.mem_append_left _ hq
    · exact h
  · next hwr =>
    have hkn := hk (Bool.eq_false_of_not_eq_true hwr)
    split
    · refine Granted.congr (Granted.crossIn (Granted.setStn h fun hkn' => absurd hkn' hkn)) rfl fun q hq => List.mem_append_left _ hq
    · exact h

theorem Granted.portSlot {taken : List Nat} {wheel : Nat} (h : Granted n r held fly reqs s) (hw : 4 ≤ wheel ∨ n ∈ taken) :
    Granted n r held fly reqs (portSlot (taken, s) wheel).2 ∧ ∀ k ∈ taken, k ∈ (portSlot (taken, s) wheel).1 := by
  refine portSlot_induct (fun _ _ _ hu => hu.congr rfl fun _ hq => hq) (fun _ _ hu => hu.congr rfl fun _ hq => hq)
    (fun k reserved u hk hu => hu.grantBeat fun hwr hkn => ?_) h
  rcases hw with hw | hw
  · exact absurd hwr (by simp [hw])
  · exact hk (hkn ▸ hw)

theorem Granted.foldl_portSlot {l : List Nat} {taken : List Nat} (h : Granted n r held fly reqs s) (hw : (∀ w ∈ l, 4 ≤ w) ∨ n ∈ taken) :
    Granted n r held fly reqs (l.foldl Machine.portSlot (taken, s)).2 := by
  induction l generalizing taken s with
  | nil => exact h
  | cons w l ih =>
    obtain ⟨hstep, hkeep⟩ := h.portSlot (wheel := w) (taken := taken) (hw.imp_left fun hl => hl w List.mem_cons_self)
    exact ih hstep (hw.imp (fun hl v hv => hl v (List.mem_cons_of_mem w hv)) (hkeep n))

end

/-- The owner of an OWNED slot of read port 0 is granted its read beat. -/
theorem portSlot_owner {s : State} {n g : Nat} {d : RdDemand} {r : List RdDemand} (hb : slotByte s 0 s.crt.slot = 64 + n) (hn : n < 16)
    (hq : (stnOf s n).rdQ = d :: r) (hnext : nextBeat s false n = some g) (hout : portOut s 0 g < 4) :
    ∃ u, portSlot ([], s) 0 = ([n], u) ∧ Granted n r ((stnOf s n).rHeld - 1) ((stnOf s n).fly ++ [firstFly s d])
      [halfReq s 0 n false d false, halfReq s 0 n false d true] u := by
  have hmode : (64 + n) / 64 = 1 := by omega
  have howner : (64 + n) % 16 = n := by omega
  have hmay : mayTake [] 0 s n = true := by simp [mayTake, hnext, hout]
  rw [portSlot_eq]
  generalize hu : (if slotHeld [] 0 s then cnt (0x2088 + 0x10 * 0) 1 s else s) = u
  have hsame : u.crt = s.crt ∧ u.shf = s.shf ∧ u.tly = s.tly := by
    rw [← hu]
    split <;> exact ⟨rfl, rfl, rfl⟩
  obtain ⟨hcrt, hshf, htly⟩ := hsame
  have hstn : stnOf u n = stnOf s n := stnOf_congr (by rw [hcrt]) n
  obtain ⟨hgrant, hreqs⟩ := grantBeat_read (s := u) (n := n) (d := d) (r := r) (hstn ▸ hq) 0 false
  have hreq : ∀ h, halfReq u 0 n false d h = halfReq s 0 n false d h := fun h => by simp only [halfReq, tileOf, hcrt, hshf]
  have hfly : firstFly u d = firstFly s d := by simp only [firstFly, latchOn, tagOf, htly]
  rw [hstn, hfly] at hgrant
  rw [hreq, hreq] at hreqs
  refine ⟨cnt (0x2080 + 0x10 * 0) 1 (grantBeat false 0 n false u), ?_, ?_⟩
  · unfold slotGrant
    rw [hb]
    dsimp only
    rw [hmode, howner, hmay]
    rfl
  · have hbeat : Granted n r ((stnOf s n).rHeld - 1) ((stnOf s n).fly ++ [firstFly s d])
        [halfReq s 0 n false d false, halfReq s 0 n false d true] (grantBeat false 0 n false u) :=
      ⟨by rw [hgrant], by rw [hgrant], by rw [hgrant], fun q hq => by rw [hreqs]; exact List.mem_append_right _ hq⟩
    exact hbeat.congr rfl fun _ hq => hq

/-- An a-cycle of the ports that grants the owner of slot 0's wheel its read beat. -/
theorem portsServed_owner {s : State} {n g : Nat} {d : RdDemand} {r : List RdDemand} (hpend : rget s 0x2060 = 0) (hlat : s.crt.latches = [])
    (hfly : ∀ k, k < 16 → (stnOf s k).fly = []) (hb : slotByte s 0 s.crt.slot = 64 + n) (hn : n < 16) (hq : (stnOf s n).rdQ = d :: r)
    (hnext : nextBeat s false n = some g) (hout : portOut s 0 g < 4) :
    Granted n r ((stnOf s n).rHeld - 1) [firstFly s d] [halfReq s 0 n false d false, halfReq s 0 n false d true] (portsServed s) := by
  have hdeliver : (List.range 16).foldl deliver s = s := foldl_fixed_mem fun k hk => deliver_idle (hfly k (List.mem_range.1 hk))
  obtain ⟨hready, hwake⟩ := wakeWaiting_parts (commitWheels s)
  have hcommit := commitWheels_idle hpend
  unfold portsServed
  dsimp only
  rw [hdeliver]
  generalize commitWheels s = v at hready hwake hcommit ⊢
  generalize wakeWaiting v = w at hready hwake ⊢
  have hsame : w.crt = s.crt ∧ w.shf.tiles = s.shf.tiles ∧ w.tly = s.tly ∧ w.isl = s.isl := by
    rw [hwake, hcommit]
    exact ⟨rfl, rfl, rfl, rfl⟩
  obtain ⟨hcrt, htiles, htly, hisl⟩ := hsame
  have hstn : ∀ k, stnOf w k = stnOf s k := stnOf_congr (by rw [hcrt])
  have htile : ∀ k, tileOf w k = tileOf s k := fun k => by rw [tileOf, htiles, tileOf]
  have hcross : ∀ c, canCross w c = canCross s c := canCross_congr hisl (by rw [hcrt])
  have hgroup : ∀ k, (groupOf s k).ready = true → groupOf w k = groupOf s k := fun k hk => by
    have hv : groupOf v k = groupOf s k := by rw [hcommit]; rfl
    rw [hready k (hv ▸ hk), hv]
  have hnextw : nextBeat w false n = some g := by
    obtain ⟨hh, hsp, hg, hc, rfl⟩ := (nextBeat_read_iff hq).1 hnext
    refine (nextBeat_read_iff (d := d) (r := r) (hstn n ▸ hq)).2 ?_
    rw [hstn, htile, hcross, hgroup _ hg]
    exact ⟨hh, hsp, hg, hc, rfl⟩
  have hbw : slotByte w 0 w.crt.slot = 64 + n := by rw [slotByte, hcrt]; exact hb
  have houtw : portOut w 0 g < 4 := by rw [portOut, hcrt]; exact hout
  obtain ⟨u, hu, hgranted⟩ := portSlot_owner hbw hn (hstn n ▸ hq) hnextw houtw
  have hreq : ∀ h, halfReq w 0 n false d h = halfReq s 0 n false d h := fun h => by simp only [halfReq, htile, hcrt]
  have hbeat : firstFly w d = firstFly s d := by simp only [firstFly, latchOn, tagOf, htly]
  rw [hstn, hfly n hn, List.nil_append, hbeat, hreq, hreq] at hgranted
  rw [foldl_fixed_mem fun k _ => latchServe_idle (acc := ([], w)) (by rw [hcrt, hlat]) k]
  have hreads := hgranted.foldl_portSlot (l := [1, 2, 3]) (taken := [n]) (.inr List.mem_cons_self)
  have hfour : (List.range 4).foldl portSlot ([], w) = [1, 2, 3].foldl portSlot ([n], u) := by
    rw [← hu]
    rfl
  rw [hfour]
  generalize [1, 2, 3].foldl portSlot ([n], u) = rd at hreads ⊢
  have hwrites := hreads.foldl_portSlot (l := [4, 5]) (taken := []) (.inl (by simp))
  generalize [4, 5].foldl portSlot ([], rd.2) = wr at hwrites ⊢
  have hcount := foldl_proj State.crt (countWait rd.1 wr.1) (crt_countWait rd.1 wr.1)
  exact hwrites.congr (congrArg Carters.stns (hcount _ _)) fun q hq => by rwa [hcount]

/-- Settles O46. -/
theorem portsGrant : Obligations.PortsGrant := by
  intro s hr
  refine ⟨fun hs => ?_, fun hs => ?_, ?_, fun n g d r hpend hlat hfly hb hn hq hnext hout => ?_⟩
  · rw [exec_wheelCommit hr, commitWheels_waits hs]
  · exact ⟨_, exec_wheelCommit hr, commitWheels_parts hs⟩
  · have h := steady_portsServed s
    have hexec := exec_portSlotGrant hr
    generalize portsServed s = u at h hexec
    simp only [steady, Prod.mk.injEq] at h
    obtain ⟨hslot, hage, hmem, hchk, htiles, hhay, harr, hnoc⟩ := h
    rw [hslot, hage] at hexec
    exact ⟨_, hexec, rfl, rfl, hmem, hchk, htiles, hhay, harr, hnoc⟩
  · have hheld := ((nextBeat_read_iff hq).1 hnext).1
    have hserved := portsServed_owner hpend hlat hfly hb hn hq hnext hout
    have hexec := exec_portSlotGrant hr
    generalize portsServed s = u at hserved hexec
    obtain ⟨hrd, hh, hf, hreqs⟩ := hserved
    exact ⟨_, hexec, hrd, (congrArg (· + 1) hh).trans (Nat.sub_add_cancel hheld), hf, fun h => hreqs _ (by cases h <;> simp [halfReq])⟩

end Sys2Proof.Proofs
end

section
/-! SUPPORT. Words of an entry of a Sheaf bank (R86, R94): what a store of one word, and of each word of an entry in turn, leaves. -/

namespace Sys2Proof.Proofs

open Sys2Proof.Machine Sys2Proof.Laws

/-! ### Bytes and words -/

theorem read_writeList (m : Memory) (a : Nat) (l : List Byte) (c : Nat) :
    (m.writeList a l).read c = if a ≤ c ∧ c < a + l.length then l.getD (c - a) 0 else m.read c := by
  induction l generalizing m a with
  | nil => simp [Memory.writeList]
  | cons b r ih =>
    rw [Memory.writeList, ih, List.length_cons]
    rcases Nat.lt_trichotomy c a with hc | rfl | hc
    · rw [read_write_ne m b (by omega), if_neg (by omega), if_neg (by omega)]
    · rw [read_write_self, if_neg (by omega), if_pos (by omega), Nat.sub_self, List.getD_cons_zero]
    · obtain ⟨d, rfl⟩ := Nat.exists_eq_add_of_lt hc
      rw [read_write_ne m b (by omega), show a + d + 1 - (a + 1) = d by omega, show a + d + 1 - a = d + 1 by omega, List.getD_cons_succ]
      exact if_congr (by omega) rfl rfl

theorem length_bytes {n : Nat} (k : Nat) (x : BitVec n) : (bytes k x).length = k := by simp [bytes]

theorem getD_bytes {n : Nat} {k i : Nat} (x : BitVec n) (hi : i < k) : (bytes k x).getD i 0 = byteAt x i := by
  simp [bytes, List.getD_eq_getElem?_getD, hi]

theorem read_write64 (m : Memory) (a : Nat) (w : Word) (c : Nat) :
    (m.write64 a w).read c = if a ≤ c ∧ c < a + 8 then byteAt w (c - a) else m.read c := by
  rw [Memory.write64, read_writeList, length_bytes]
  split
  · next h => exact getD_bytes w (by omega)
  · rfl

theorem read_write64_out (m : Memory) {a c : Nat} (w : Word) (h : ¬ (a ≤ c ∧ c < a + 8)) : (m.write64 a w).read c = m.read c := by
  rw [read_write64, if_neg h]

theorem ofBytes_bytes (w : Word) : BitVec.ofNat 64 (ofBytes ((List.range 8).map (byteAt w))) = w := by
  have hlt := w.isLt
  have hrange : List.range 8 = [0, 1, 2, 3, 4, 5, 6, 7] := rfl
  refine BitVec.eq_of_toNat_eq ?_
  simp only [hrange, List.map_cons, List.map_nil, ofBytes, toNat_byteAt, BitVec.toNat_ofNat]
  omega

theorem read64_congr {m m' : Memory} {a : Nat} (h : ∀ i, i < 8 → m'.read (a + i) = m.read (a + i)) : m'.read64 a = m.read64 a := by
  rw [Memory.read64, Memory.read64, List.map_congr_left fun i hi => h i (List.mem_range.1 hi)]

theorem read64_write64_self (m : Memory) (a : Nat) (w : Word) : (m.write64 a w).read64 a = w := by
  have hbytes : (List.range 8).map (fun i => (m.write64 a w).read (a + i)) = (List.range 8).map (byteAt w) :=
    List.map_congr_left fun i hi => by
      have := List.mem_range.1 hi
      rw [read_write64, if_pos (by omega), Nat.add_sub_cancel_left]
  rw [Memory.read64, hbytes, ofBytes_bytes]

theorem read64_write64_ne (m : Memory) {a c : Nat} (w : Word) (h : c + 8 ≤ a ∨ a + 8 ≤ c) : (m.write64 a w).read64 c = m.read64 c :=
  read64_congr fun _ _ => read_write64_out m w (by omega)

/-! ### One word -/

/-- From `u` to `v` word `w` of an entry of a bank holds `p`, and no other byte of the bank's words has changed. -/
structure WordPut (u v : State) (b e w : Nat) (p : Word × Byte) : Prop where
  word : shfRaw v b e w = p
  others : ∀ k, k < 16 → k ≠ w → shfRaw v b e k = shfRaw u b e k
  outside : ∀ a, a < shfAddr b e 0 ∨ shfAddr b e 128 ≤ a → Memory.read v.shf.mem a = Memory.read u.shf.mem a

theorem wordPut_shfPut1 (b e : Nat) {w : Nat} (hw : w < 16) (d : Word) (c : Byte) (s : State) :
    WordPut s (shfPut1 b e w d c s) b e w (d, c) where
  word := Prod.ext (read64_write64_self ..) (read_write_self ..)
  others k hk hkw := by
    refine Prod.ext (read64_write64_ne _ _ ?_) (read_write_ne _ _ (by omega))
    simp only [shfAddr]
    omega
  outside a ha := by
    refine read_write64_out _ _ ?_
    simp only [shfAddr] at ha ⊢
    omega

theorem wordPut_shfPut {s : State} (hc : s.tnk.copying = none) (b e : Nat) {w : Nat} (hw : w < 16) (d : Word) (c : Byte) :
    WordPut s (shfPut b e w d c s) b e w (d, c) := by
  rw [shfPut_of_not_copying hc]
  exact wordPut_shfPut1 b e hw d c s

/-- A word that is left as it is. -/
theorem wordPut_same {u v : State} (h : v.shf = u.shf) (b e w : Nat) : WordPut u v b e w (shfRaw u b e w) :=
  ⟨by rw [shfRaw, h, shfRaw], fun _ _ _ => by rw [shfRaw, h, shfRaw], fun _ _ => by rw [h]⟩

theorem WordPut.of_shf_eq {u v x : State} {b e w : Nat} {p : Word × Byte} (h : WordPut v x b e w p) (hv : v.shf = u.shf) : WordPut u x b e w p where
  word := h.word
  others k hk hkw := (h.others k hk hkw).trans (by rw [shfRaw, hv, shfRaw])
  outside a ha := (h.outside a ha).trans (by rw [hv])

/-! ### Every word of an entry in turn -/

section
variable {σ γ : Type} {b e : Nat} {st : σ → State} {f : σ → Nat → σ} {rest : State → γ} {g : Nat → Word × Byte → Word × Byte}

/-- What one step of a walk over the words of an entry does: it changes the word it stands at, and keeps the rest. -/
def Walks (b e : Nat) (st : σ → State) (f : σ → Nat → σ) (rest : State → γ) (g : Nat → Word × Byte → Word × Byte) : Prop :=
  ∀ x w, w < 16 → (st x).tnk.copying = none → WordPut (st x) (st (f x w)) b e w (g w (shfRaw (st x) b e w))
    ∧ rest (st (f x w)) = rest (st x) ∧ (st (f x w)).tnk.copying = none

/-- What a walk over the first `n` words of an entry leaves. -/
structure Walked (s t : State) (b e n : Nat) (rest : State → γ) (g : Nat → Word × Byte → Word × Byte) : Prop where
  done : ∀ w, w < n → shfRaw t b e w = g w (shfRaw s b e w)
  ahead : ∀ w, n ≤ w → w < 16 → shfRaw t b e w = shfRaw s b e w
  outside : ∀ a, a < shfAddr b e 0 ∨ shfAddr b e 128 ≤ a → Memory.read t.shf.mem a = Memory.read s.shf.mem a
  rest : rest t = rest s
  copying : t.tnk.copying = none

theorem Walks.walked (h : Walks b e st f rest g) {n : Nat} (hn : n ≤ 16) {x : σ} (hc : (st x).tnk.copying = none) :
    Walked (st x) (st ((List.range n).foldl f x)) b e n rest g := by
  induction n with
  | zero => exact ⟨nofun, fun _ _ _ => rfl, fun _ _ => rfl, rfl, hc⟩
  | succ n ih =>
    obtain ⟨hdone, hahead, hout, hrest, hcopy⟩ := ih (by omega)
    rw [List.range_succ, List.foldl_append, List.foldl_cons, List.foldl_nil]
    obtain ⟨⟨hword, hothers, hout'⟩, hrest', hcopy'⟩ := h ((List.range n).foldl f x) n (by omega) hcopy
    refine ⟨fun w hw => ?_, fun w hw hw' => ?_, fun a ha => (hout' a ha).trans (hout a ha), hrest'.trans hrest, hcopy'⟩
    · by_cases hwn : w = n
      · subst hwn
        rw [hword, hahead w le_rfl (by omega)]
      · rw [hothers w (by omega) hwn, hdone w (by omega)]
    · rw [hothers w hw' (by omega), hahead w (by omega) hw']

/-- A count that a walk keeps: of the words that satisfy `p` as they stood. -/
theorem Walks.count (h : Walks b e st f rest g) (num : σ → Nat) (p : Nat → Word × Byte → Bool)
    (hnum : ∀ x w, num (f x w) = num x + b2n (p w (shfRaw (st x) b e w))) {n : Nat} (hn : n ≤ 16) {x : σ} (hc : (st x).tnk.copying = none) :
    num ((List.range n).foldl f x) = num x + (List.range n).countP fun w => p w (shfRaw (st x) b e w) := by
  induction n with
  | zero => rfl
  | succ n ih =>
    have hword := (h.walked (n := n) (by omega) hc).ahead n le_rfl (by omega)
    rw [List.range_succ, List.foldl_append, List.foldl_cons, List.foldl_nil, hnum, hword, ih (by omega), List.countP_append]
    cases hp : p n (shfRaw (st x) b e n) <;> simp [hp, b2n, Nat.add_assoc]

end

end Sys2Proof.Proofs
end

section
/-! SUPPORT. Proofs about the bank cycle (R24, R88, R117, R128, R153, R176, R184, R362, R375, R376): what a b-cycle serves. -/

namespace Sys2Proof.Proofs

open Sys2Proof.Machine Sys2Proof.Laws

/-! ### What waits -/

/-- From `s` to `t` only counters and notes of the b-cycle have changed. -/
structure Held (s t : State) : Prop where
  shf : t.shf = s.shf
  hay : t.hay = s.hay
  tly : t.tly = s.tly
  arr : t.arr = s.arr
  mil : t.mil = s.mil
  isl : t.isl = s.isl
  tnk : t.tnk = s.tnk
  reqs : t.crt.reqs = s.crt.reqs
  cross : t.crt.cross = s.crt.cross

theorem Held.refl (s : State) : Held s s := ⟨rfl, rfl, rfl, rfl, rfl, rfl, rfl, rfl, rfl⟩

theorem Held.trans {s t u : State} (h : Held s t) (g : Held t u) : Held s u :=
  ⟨g.shf.trans h.shf, g.hay.trans h.hay, g.tly.trans h.tly, g.arr.trans h.arr, g.mil.trans h.mil, g.isl.trans h.isl, g.tnk.trans h.tnk,
    g.reqs.trans h.reqs, g.cross.trans h.cross⟩

theorem held_portsWait (b : Nat) (wr : Bool) (s : State) : Held s (portsWait b wr s) := by
  unfold portsWait countConf
  refine List.foldlRecOn (motive := fun u => Held s u) _ _ (Held.refl s) fun u hu r _ => ?_
  dsimp only
  split
  · exact hu
  · exact hu.trans ⟨rfl, rfl, rfl, rfl, rfl, rfl, rfl, rfl, rfl⟩

theorem held_millerWaits (b : Nat) (m : Option MilReq) (s : State) : Held s (millerWaits b m s) := by
  unfold millerWaits
  split
  · exact Held.refl s
  · dsimp only
    split
    · split
      · exact Held.refl s
      · exact ⟨rfl, rfl, rfl, rfl, rfl, rfl, rfl, rfl, rfl⟩
    · exact Held.refl s

/-- A b-cycle of a bank begun. -/
def cycleBegun (b : Nat) (s : State) : State := tinkerAge b (beginBank b s)

theorem held_cycleBegun {b : Nat} {s : State} (h : s.mil.tinker = []) : Held s (cycleBegun b s) where
  shf := rfl
  hay := rfl
  tly := rfl
  arr := rfl
  mil := by
    have hmil : (cycleBegun b s).mil = { s.mil with tinker := s.mil.tinker.map fun q => if q.bank = b then { q with wait := q.wait + 1 } else q } := rfl
    rw [hmil, h, List.map_nil, ← h]
  isl := rfl
  tnk := rfl
  reqs := rfl
  cross := rfl

theorem exec_bankCycle {s : State} {b : Nat} (mr mw : Bool) (hb : b < 72) (hg : (groupOf s (b / 9)).ready = true)
    (hr : running s (1 + b / 9) = true) : exec (.bankCycleGrant b mr mw) s
      = .next (bankWrite b (bankRead b mr (cycleBegun b s)).1 mw (bankRead b mr (cycleBegun b s)).2) := by
  change execBankCycleGrant b mr mw s = _
  rw [execBankCycleGrant, if_neg (Nat.not_le.2 hb), hg, hr]
  rfl

/-! ### Nothing that waits -/

section
variable {s u : State} {b : Nat}

theorem physOf_bank_congr (h : u.tnk.map = s.tnk.map) (l : Nat) : physOf u 0 l = physOf s 0 l := by simp [physOf, h]

theorem portAt_congr (hmap : u.tnk.map = s.tnk.map) (hcross : ∀ k, (k = 1 ∨ k = 3) → canCross u (7 * (b / 9) + k) = canCross s (7 * (b / 9) + k))
    (wr : Bool) (r : PortReq) : portAt u b wr r = portAt s b wr r := by
  simp only [portAt, physOf_bank_congr hmap, hcross 1 (.inl rfl), hcross 3 (.inr rfl)]

theorem Held.portAt (h : Held s u) (wr : Bool) : portAt u b wr = portAt s b wr :=
  funext fun r => portAt_congr (by rw [h.tnk]) (fun _ _ => canCross_congr h.isl h.cross _) wr r

theorem pickReq_none {g : Nat} {p : PortReq → Bool} (h : ∀ r ∈ s.crt.reqs, p r = false) : pickReq s g p = none := by
  have hnil : s.crt.reqs.filter p = [] := List.filter_eq_nil_iff.2 fun r hr => by simp [h r hr]
  rw [pickReq, hnil]
  rfl

theorem milFind_none {p : MilReq → Bool} {l : List MilReq} (rd : List Tag) (h : ∀ r ∈ l, p r = false) : milFind p rd l = none := by
  induction l generalizing rd with
  | nil => rfl
  | cons r l ih => simp [milFind, h r, ih _ fun q hq => h q (List.mem_cons_of_mem r hq)]

/-- No request of a command waits at a bank. -/
def NoMil (s : State) (b : Nat) : Prop := ∀ q ∈ s.mil.reqs, physOf s 0 q.lbank ≠ b

theorem milAt_none (h : NoMil s b) (p : MilReq → Bool) : milAt s b p = none :=
  milFind_none _ fun q hq => by simp [h q hq]

/-- No port waits at a bank in one direction. -/
def NoPort (s : State) (b : Nat) (wr : Bool) : Prop := ∀ r ∈ s.crt.reqs, Machine.portAt s b wr r = false

theorem noPort_of_filter {wr : Bool} (h : s.crt.reqs.filter (Machine.portAt s b wr) = []) : NoPort s b wr := fun r hr => by
  simpa using List.filter_eq_nil_iff.1 h r hr

theorem NoPort.pick {wr : Bool} (h : NoPort s b wr) (g : Nat) (p : PortReq → Bool) : pickReq s g (fun r => Machine.portAt s b wr r && p r) = none :=
  pickReq_none fun r hr => by rw [h r hr, Bool.false_and]

theorem Held.noPort (h : Held s u) {wr : Bool} (hp : NoPort s b wr) : NoPort u b wr := by
  intro r hr
  rw [h.portAt]
  exact hp r (h.reqs ▸ hr)

theorem Held.noMil (h : Held s u) (hm : NoMil s b) : NoMil u b := by
  intro q hq
  rw [physOf_bank_congr (s := s) (u := u) (by rw [h.tnk])]
  exact hm q (h.mil ▸ hq)

theorem Held.drainAt (h : Held s u) : drainAt u b = drainAt s b := by
  simp only [Machine.drainAt, physOf_bank_congr (show u.tnk.map = s.tnk.map by rw [h.tnk]), h.arr]

theorem portsWait_none {wr : Bool} (h : NoPort s b wr) : portsWait b wr s = s := by
  have hnil : s.crt.reqs.filter (Machine.portAt s b wr) = [] := List.filter_eq_nil_iff.2 fun r hr => by simp [h r hr]
  rw [portsWait, countConf, hnil]
  rfl

theorem tinkerAt_none (h : s.mil.tinker = []) (wr : Bool) : tinkerAt s b wr = none := by
  rw [tinkerAt, h]
  rfl

theorem tinkerDue_none {wr : Bool} (h : tinkerAt s b wr = none) : tinkerDue s b wr = none := by
  rw [tinkerDue, h]
  rfl

/-! ### The read and the write of a b-cycle -/

theorem bankReadLow_idle (want : Bool) (hp : NoPort s b false) (hm : milAt s b (fun r => !r.write) = none) (ht : tinkerAt s b false = none) :
    bankReadLow b want s = s := by
  unfold bankReadLow
  rw [pickReq_none hp, hm, ht]

theorem bankRead_low (want : Bool) (hp : pickReq s (b / 9) (fun r => Machine.portAt s b false r && r.reserved) = none)
    (hd : Machine.drainAt s b = none) (ht : tinkerDue s b false = none) : bankRead b want s = (false, bankReadLow b want s) := by
  unfold bankRead
  rw [ht, hp, hd, ite_self]

theorem bankRead_idle (want : Bool) (hp : NoPort s b false) (hm : milAt s b (fun r => !r.write) = none) (hd : Machine.drainAt s b = none)
    (ht : tinkerAt s b false = none) : bankRead b want s = (false, s) := by
  rw [bankRead_low want (hp.pick _ _) hd (tinkerDue_none ht), bankReadLow_idle want hp hm ht]

theorem bankWrite_low (want : Bool) (hm : milAt s b (fun r => r.write && r.upd) = none) (ht : tinkerDue s b true = none) :
    bankWrite b false want s = bankWriteLow b want s := by
  unfold bankWrite
  rw [ht, hm]
  rfl

theorem bankWrite_idle (want : Bool) (hp : NoPort s b true) (hm : NoMil s b) (ht : tinkerAt s b true = none) :
    bankWrite b false want s = s := by
  rw [bankWrite_low want (milAt_none hm _) (tinkerDue_none ht)]
  unfold bankWriteLow
  rw [pickReq_none hp, milAt_none hm, ht]

/-! ### A port's write -/

theorem bankWrite_port (want : Bool) {r : PortReq} (hm : NoMil s b) (ht : tinkerAt s b true = none)
    (hp : pickReq s (b / 9) (Machine.portAt s b true) = some r) :
    bankWrite b false want s = serveWrite b r (portsWait b true (dropReq r s)) := by
  rw [bankWrite_low want (milAt_none hm _) (tinkerDue_none ht)]
  unfold bankWriteLow
  rw [hp, milAt_none hm]

end

theorem shfPut_rest (b e w : Nat) (d : Word) (c : Byte) (s : State) : let t := shfPut b e w d c s
    t.hay = s.hay ∧ t.shf.tiles = s.shf.tiles ∧ t.crt = s.crt ∧ t.tly = s.tly ∧ t.arr = s.arr ∧ t.mil = s.mil ∧ t.isl = s.isl
      ∧ t.tnk.map = s.tnk.map := by
  intro t
  rcases shfPut_cases b e w d c s with h | ⟨r, -, h | h⟩
  all_goals rw [show t = _ from h]; exact ⟨rfl, rfl, rfl, rfl, rfl, rfl, rfl, rfl⟩

/-- The words of half a write beat stored, those of its mask (R88). -/
def storeHalf (b e : Nat) (w : WrItem) (half : Bool) (s : State) (i : Nat) : State :=
  if bit w.mask (16 * b2n half + i) then shfPut b e i (wordAt w.data (16 * b2n half + i)) (byteAt w.chk (16 * b2n half + i)) s else s

/-- What word `i` holds after half a write beat. -/
def halfWord (w : WrItem) (half : Bool) (i : Nat) (p : Word × Byte) : Word × Byte :=
  if bit w.mask (16 * b2n half + i) = true then (wordAt w.data (16 * b2n half + i), byteAt w.chk (16 * b2n half + i)) else p

theorem walks_storeHalf (b e : Nat) (w : WrItem) (half : Bool) :
    Walks b e id (storeHalf b e w half) (fun s => (s.hay, s.shf.tiles, s.crt)) (halfWord w half) := by
  intro s i hi hc
  dsimp only [id] at hc ⊢
  unfold storeHalf halfWord
  split
  · obtain ⟨hhay, htiles, hcrt, -⟩ := shfPut_rest b e i (wordAt w.data (16 * b2n half + i)) (byteAt w.chk (16 * b2n half + i)) s
    refine ⟨wordPut_shfPut hc b e hi _ _, by rw [hhay, htiles, hcrt], ?_⟩
    rw [shfPut_of_not_copying hc]
    exact hc
  · exact ⟨wordPut_same rfl .., rfl, hc⟩

/-- A write beat that is in its banks changes its command, and the state of its tile. -/
theorem beatWritten_parts (tag : Tag) (k : Nat) (s : State) : let t := beatWritten tag k s
    t.shf.mem = s.shf.mem ∧ t.shf.chk = s.shf.chk ∧ t.hay = s.hay ∧ t.crt = s.crt ∧ ∀ j, j ≠ k → tileOf t j = tileOf s j := by
  unfold beatWritten
  dsimp only
  generalize hu : updJob tag _ s = u
  have hsame : u.shf = s.shf ∧ u.hay = s.hay ∧ u.crt = s.crt := by rw [← hu]; exact ⟨rfl, rfl, rfl⟩
  obtain ⟨hshf, hhay, hcrt⟩ := hsame
  have hu' : u.shf.mem = s.shf.mem ∧ u.shf.chk = s.shf.chk ∧ u.hay = s.hay ∧ u.crt = s.crt ∧ ∀ j, j ≠ k → tileOf u j = tileOf s j :=
    ⟨by rw [hshf], by rw [hshf], hhay, hcrt, fun j _ => by rw [tileOf, hshf, tileOf]⟩
  split
  · exact hu'
  · split
    · have hframe := markValid_frame k u
      have htile := fun j (hj : j ≠ k) => (tileOf_markValid k j u).trans (if_neg (Ne.symm hj))
      generalize markValid k u = v at hframe htile
      refine ⟨?_, ?_, ?_, ?_, fun j hj => (htile j hj).trans (by rw [tileOf, hshf, tileOf])⟩
      · change v.shf.mem = _
        rw [hframe, hshf]
      · change v.shf.chk = _
        rw [hframe, hshf]
      · change v.hay = _
        rw [hframe, hhay]
      · change v.crt = _
        rw [hframe, hcrt]
    · exact hu'
  · exact hu'

/-- What serving a port's write leaves (R88, R117). -/
theorem serveWrite_parts {s : State} {b : Nat} {r : PortReq} {w : WrItem} {half : Bool} (hc : s.tnk.copying = none) (hact : r.act = .write w half) :
    let t := serveWrite b r s
    r ∉ t.crt.reqs ∧ (∀ i, i < 16 → shfRaw t b r.entry i = halfWord w half i (shfRaw s b r.entry i))
      ∧ (∀ a, a < shfAddr b r.entry 0 ∨ shfAddr b r.entry 128 ≤ a → Memory.read t.shf.mem a = Memory.read s.shf.mem a)
      ∧ t.hay = s.hay ∧ ∀ k, k ≠ w.tile → tileOf t k = tileOf s k := by
  obtain ⟨hdone, -, hout, hrest, -⟩ := (walks_storeHalf b r.entry w half).walked le_rfl (x := dropReq r s) hc
  dsimp only [id] at hdone hout hrest
  have hfold : serveWrite b r s = (let v := crossIn (7 * (b / 9) + 3) ((List.range 16).foldl (storeHalf b r.entry w half) (dropReq r s))
      if v.crt.reqs.any fun q => q.age == r.age && q.port == r.port then v else beatWritten w.tag w.tile v) := by
    unfold serveWrite
    rw [hact]
    rfl
  rw [hfold]
  generalize (List.range 16).foldl (storeHalf b r.entry w half) (dropReq r s) = u at *
  simp only [Prod.mk.injEq] at hrest
  obtain ⟨hhay, htiles, hcrt⟩ := hrest
  have hcross : (crossIn (7 * (b / 9) + 3) u).shf = u.shf ∧ (crossIn (7 * (b / 9) + 3) u).hay = u.hay
      ∧ (crossIn (7 * (b / 9) + 3) u).crt.reqs = u.crt.reqs := by
    unfold crossIn
    split <;> exact ⟨rfl, rfl, rfl⟩
  dsimp only
  generalize crossIn (7 * (b / 9) + 3) u = v at *
  obtain ⟨hshf, hhay', hreqs⟩ := hcross
  have hgone : r ∉ v.crt.reqs := by
    rw [hreqs, hcrt]
    simp [dropReq]
  have hv : r ∉ v.crt.reqs ∧ (∀ i, i < 16 → shfRaw v b r.entry i = halfWord w half i (shfRaw s b r.entry i))
      ∧ (∀ a, a < shfAddr b r.entry 0 ∨ shfAddr b r.entry 128 ≤ a → Memory.read v.shf.mem a = Memory.read s.shf.mem a)
      ∧ v.hay = s.hay ∧ ∀ k, k ≠ w.tile → tileOf v k = tileOf s k := by
    refine ⟨hgone, fun i hi => ?_, fun a ha => ?_, hhay'.trans hhay, fun k _ => ?_⟩
    · rw [shfRaw, hshf]
      exact hdone i hi
    · rw [hshf]
      exact hout a ha
    · rw [tileOf, hshf, htiles]
      rfl
  split
  · exact hv
  · obtain ⟨hgone, hwords, hout, hhay, htile⟩ := hv
    obtain ⟨hmem, hchk, hhay'', hcrt', htile'⟩ := beatWritten_parts w.tag w.tile v
    generalize beatWritten w.tag w.tile v = x at *
    refine ⟨by rw [hcrt']; exact hgone, fun i hi => ?_, fun a ha => ?_, hhay''.trans hhay, fun k hk => (htile' k hk).trans (htile k hk)⟩
    · rw [shfRaw, hmem, hchk]
      exact hwords i hi
    · rw [hmem]
      exact hout a ha

end Sys2Proof.Proofs
end

section
/-! SUPPORT. Proofs about the bank cycle (R88, R117, R176): a port's write, a command's request, and a cycle that stores nothing. -/

namespace Sys2Proof.Proofs

open Sys2Proof.Machine Sys2Proof.Laws

section
variable {s u : State} {b : Nat}

theorem shfRaw_congr (h : u.shf = s.shf) (b e w : Nat) : shfRaw u b e w = shfRaw s b e w := by rw [shfRaw, h, shfRaw]

theorem held_dropReq_portsWait (r : PortReq) (u : State) : Held (dropReq r u) (portsWait b true (dropReq r u)) := held_portsWait ..

/-- A bank's write cycle when a port's write is what it serves (R88, R117). -/
theorem bankCycle_portWrite {r : PortReq} {w : WrItem} {half : Bool} (mr mw : Bool) (hc : s.tnk.copying = none) (ht : s.mil.tinker = [])
    (hm : NoMil s b) (hd : drainAt s b = none) (hpr : NoPort s b false) (hpick : pickReq (beginBank b s) (b / 9) (Machine.portAt s b true) = some r)
    (hact : r.act = .write w half) :
    let t := bankWrite b (bankRead b mr (cycleBegun b s)).1 mw (bankRead b mr (cycleBegun b s)).2
    r ∉ t.crt.reqs ∧ (∀ i, i < 16 → shfRaw t b r.entry i = halfWord w half i (shfRaw s b r.entry i))
      ∧ (∀ a, a < shfAddr b r.entry 0 ∨ shfAddr b r.entry 128 ≤ a → Memory.read t.shf.mem a = Memory.read s.shf.mem a)
      ∧ t.hay = s.hay ∧ ∀ k, k ≠ w.tile → tileOf t k = tileOf s k := by
  have hu := held_cycleBegun (b := b) ht
  have hpick' : pickReq (cycleBegun b s) (b / 9) (Machine.portAt (cycleBegun b s) b true) = some r := by rw [hu.portAt]; exact hpick
  generalize cycleBegun b s = u at hu hpick'
  have hut : u.mil.tinker = [] := by rw [hu.mil, ht]
  rw [bankRead_idle mr (hu.noPort hpr) (milAt_none (hu.noMil hm) _) (hu.drainAt.trans hd) (tinkerAt_none hut _)]
  dsimp only
  rw [bankWrite_port mw (hu.noMil hm) (tinkerAt_none hut _) hpick']
  have hv := held_dropReq_portsWait (b := b) r u
  generalize portsWait b true (dropReq r u) = v at hv
  have hshf : v.shf = s.shf := hv.shf.trans hu.shf
  obtain ⟨hgone, hwords, hout, hhay, htile⟩ := serveWrite_parts (b := b) (s := v) (by rw [hv.tnk]; exact (congrArg Tinker.copying hu.tnk).trans hc) hact
  refine ⟨hgone, fun i hi => ?_, fun a ha => ?_, hhay.trans (hv.hay.trans hu.hay), fun k hk => ?_⟩
  · rw [hwords i hi, shfRaw_congr hshf]
  · rw [hout a ha, hshf]
  · rw [htile k hk, tileOf, hshf, tileOf]

/-! ### A command's request -/

theorem milAt_alone {q : MilReq} (hq : s.mil.reqs = [q]) (hp : physOf s 0 q.lbank = b) (p : MilReq → Bool) :
    milAt s b p = if p q then some q else none := by
  simp [milAt, hq, milFind, hp]

/-- What is left when the one request of a command is served. -/
structure Served (s t : State) : Prop where
  reqs : t.mil.reqs = []
  shf : t.shf = s.shf
  hay : t.hay = s.hay
  tly : t.tly = s.tly

theorem Held.served {q : MilReq} (hu : Held s u) (hq : s.mil.reqs = [q]) : Served s (serveMil q u) where
  reqs := by
    have hreqs : (serveMil q u).mil.reqs = u.mil.reqs.erase q := rfl
    rw [hreqs, hu.mil, hq, List.erase_cons_head]
  shf := hu.shf
  hay := hu.hay
  tly := hu.tly

theorem bankRead_request {q : MilReq} (want : Bool) (hr : q.write = false) (hq : s.mil.reqs = [q]) (hp : physOf s 0 q.lbank = b)
    (ht : s.mil.tinker = []) (hd : drainAt s b = none) (hpr : NoPort s b false) : bankRead b want s = (false, serveMil q s) := by
  rw [bankRead_low want (hpr.pick _ _) hd (tinkerDue_none (tinkerAt_none ht _))]
  unfold bankReadLow
  rw [pickReq_none hpr, milAt_alone hq hp, hr]
  rfl

theorem bankWrite_request {q : MilReq} (want : Bool) (hw : q.write = true) (hq : s.mil.reqs = [q]) (hp : physOf s 0 q.lbank = b)
    (ht : s.mil.tinker = []) (hpw : NoPort s b true) : Served s (bankWrite b false want s) := by
  have hupd := milAt_alone hq hp fun r => r.write && r.upd
  rw [hw, Bool.true_and] at hupd
  cases hu : q.upd with
  | true =>
    rw [hu, if_pos rfl] at hupd
    have hserve : bankWrite b false want s = serveMil q (portsWait b true s) := by
      unfold bankWrite
      rw [tinkerDue_none (tinkerAt_none ht _), hupd]
      rfl
    rw [hserve]
    exact (held_portsWait ..).served hq
  | false =>
    rw [hu] at hupd
    have hserve : bankWrite b false want s = serveMil q s := by
      rw [bankWrite_low want hupd (tinkerDue_none (tinkerAt_none ht _))]
      unfold bankWriteLow
      rw [pickReq_none hpw, milAt_alone hq hp, hw]
      rfl
    rw [hserve]
    exact (Held.refl s).served hq

theorem bankCycle_request {q : MilReq} (mr mw : Bool) (ht : s.mil.tinker = []) (hq : s.mil.reqs = [q]) (hp : physOf s 0 q.lbank = b)
    (hd : drainAt s b = none) (hpr : NoPort s b false) (hpw : NoPort s b true) :
    Served s (bankWrite b (bankRead b mr (cycleBegun b s)).1 mw (bankRead b mr (cycleBegun b s)).2) := by
  have hu := held_cycleBegun (b := b) ht
  generalize cycleBegun b s = u at hu
  have hut : u.mil.tinker = [] := by rw [hu.mil, ht]
  have huq : u.mil.reqs = [q] := by rw [hu.mil, hq]
  have hup : physOf u 0 q.lbank = b := (physOf_bank_congr (by rw [hu.tnk]) _).trans hp
  have hupw := hu.noPort hpw
  cases hw : q.write with
  | false =>
    rw [bankRead_request mr hw huq hup hut (hu.drainAt.trans hd) (hu.noPort hpr)]
    have hserved := hu.served hq
    dsimp only
    rw [bankWrite_idle (s := serveMil q u) mw hupw (fun r hr => absurd (hserved.reqs ▸ hr) List.not_mem_nil) (tinkerAt_none hut _)]
    exact hserved
  | true =>
    have hread : milAt u b (fun r => !r.write) = none := by rw [milAt_alone huq hup, hw]; rfl
    rw [bankRead_idle mr (hu.noPort hpr) hread (hu.drainAt.trans hd) (tinkerAt_none hut _)]
    obtain ⟨hreqs, hshf, hhay, htly⟩ := bankWrite_request mw hw huq hup hut hupw
    exact ⟨hreqs, hshf.trans hu.shf, hhay.trans hu.hay, htly.trans hu.tly⟩

/-! ### A cycle that stores nothing -/

/-- What the read of a b-cycle leaves for its write, when no Tinker request waits: storage, what waits of the ports at most, and whether a
port's write may complete. -/
structure ReadOnly (b : Nat) (s t : State) : Prop where
  shf : t.shf = s.shf
  hay : t.hay = s.hay
  map : t.tnk.map = s.tnk.map
  tinker : t.mil.tinker = s.mil.tinker
  isl : t.isl = s.isl
  cross : tget 0 t.crt.cross (7 * (b / 9) + 3) = tget 0 s.crt.cross (7 * (b / 9) + 3)
  reqs : ∀ r ∈ t.crt.reqs, r ∈ s.crt.reqs

theorem ReadOnly.trans {t : State} (h : ReadOnly b s u) (g : ReadOnly b u t) : ReadOnly b s t :=
  ⟨g.shf.trans h.shf, g.hay.trans h.hay, g.map.trans h.map, g.tinker.trans h.tinker, g.isl.trans h.isl, g.cross.trans h.cross,
    fun r hr => h.reqs r (g.reqs r hr)⟩

theorem Held.readOnly (h : Held s u) : ReadOnly b s u :=
  ⟨h.shf, h.hay, by rw [h.tnk], by rw [h.mil], h.isl, by rw [h.cross], fun r hr => h.reqs ▸ hr⟩

theorem readOnly_of_core (hb : b < 72) (h : core u = core s) : ReadOnly b s u where
  shf := congrArg Core.shf h
  hay := congrArg Core.hay h
  map := congrArg Core.map h
  tinker := congrArg (·.mil.tinker) h
  isl := congrArg Core.isl h
  cross := by
    have hcross := congrFun (congrArg Core.cross h) (7 * (b / 9) + 3)
    dsimp only [core] at hcross
    rwa [if_pos (by omega), if_pos (by omega)] at hcross
  reqs r hr := by
    have hreqs : u.crt.reqs = s.crt.reqs := congrArg Core.reqs h
    exact hreqs ▸ hr

theorem readOnly_dropReq (r : PortReq) (s : State) : ReadOnly b s (dropReq r s) :=
  ⟨rfl, rfl, rfl, rfl, rfl, rfl, fun _ hq => (List.mem_filter.1 hq).1⟩

theorem readOnly_serveMil (q : MilReq) (s : State) : ReadOnly b s (serveMil q s) := ⟨rfl, rfl, rfl, rfl, rfl, rfl, fun _ hr => hr⟩

theorem readOnly_share (wr want : Bool) (s : State) : ReadOnly b s (share b wr want s).2 := ⟨rfl, rfl, rfl, rfl, rfl, rfl, fun _ hr => hr⟩

theorem readOnly_crossIn (s : State) : ReadOnly b s (crossIn (7 * (b / 9) + 1) s) := by
  unfold crossIn
  split
  · exact (Held.refl s).readOnly
  · have hcross := tget_tset_ne (c := 0) 0 (tget 0 s.crt.cross (7 * (b / 9) + 1) + 1) (show 7 * (b / 9) + 3 ≠ 7 * (b / 9) + 1 by omega) s.crt.cross
    exact ⟨rfl, rfl, rfl, rfl, rfl, hcross, fun _ hr => hr⟩

theorem readOnly_serveRead (hb : b < 72) (r : PortReq) (s : State) : ReadOnly b s (serveRead b r s) := by
  unfold serveRead
  dsimp only
  split
  · exact ((readOnly_dropReq r s).trans (readOnly_crossIn _)).trans (readOnly_of_core hb (core_quarterRead ..))
  · exact readOnly_dropReq r s

theorem readOnly_portsWait (wr : Bool) (s : State) : ReadOnly b s (portsWait b wr s) := (held_portsWait b wr s).readOnly

theorem readOnly_millerWaits (m : Option MilReq) (s : State) : ReadOnly b s (millerWaits b m s) := (held_millerWaits b m s).readOnly

theorem readOnly_bankReadLow (want : Bool) (hb : b < 72) (ht : s.mil.tinker = []) : ReadOnly b s (bankReadLow b want s) := by
  unfold bankReadLow
  dsimp only
  split
  · split
    · exact ((readOnly_share ..).trans (readOnly_portsWait ..)).trans (readOnly_serveMil ..)
    · exact ((((readOnly_share ..).trans (readOnly_dropReq ..)).trans (readOnly_portsWait ..)).trans (readOnly_serveRead hb ..)).trans
        (readOnly_millerWaits ..)
  · exact ((readOnly_dropReq ..).trans (readOnly_portsWait ..)).trans (readOnly_serveRead hb ..)
  · exact readOnly_serveMil ..
  · rw [tinkerAt_none ht]
    exact (Held.refl s).readOnly

theorem readOnly_bankRead (want : Bool) (hb : b < 72) (ht : s.mil.tinker = []) (hd : drainAt s b = none) :
    (bankRead b want s).1 = false ∧ ReadOnly b s (bankRead b want s).2 := by
  unfold bankRead
  rw [tinkerDue_none (tinkerAt_none ht _), hd, ite_self]
  dsimp only
  split
  · exact ⟨rfl, (((readOnly_dropReq ..).trans (readOnly_portsWait ..)).trans (readOnly_serveRead hb ..)).trans (readOnly_millerWaits ..)⟩
  · exact ⟨rfl, readOnly_bankReadLow want hb ht⟩

/-- A port that could not be served before the read of a b-cycle cannot be served after it. -/
theorem ReadOnly.noPort (h : ReadOnly b s u) (hp : NoPort s b true) : NoPort u b true := by
  intro r hr
  have hcross : canCross u (7 * (b / 9) + 3) = canCross s (7 * (b / 9) + 3) := by
    unfold canCross crossOcc
    rw [running_congr h.isl, h.cross]
  have hat := hp r (h.reqs r hr)
  cases hact : r.act with
  | read => simp [Machine.portAt, hact]
  | write =>
    simp only [Machine.portAt, hact, physOf_bank_congr h.map, hcross] at hat ⊢
    exact hat

theorem readOnly_bankWrite (want : Bool) (hp : NoPort s b true) (ht : s.mil.tinker = []) : ReadOnly b s (bankWrite b false want s) := by
  cases hupd : milAt s b fun r => r.write && r.upd with
  | some q =>
    have hserve : bankWrite b false want s = serveMil q (portsWait b true s) := by
      unfold bankWrite
      rw [tinkerDue_none (tinkerAt_none ht _), hupd]
      rfl
    rw [hserve]
    exact (readOnly_portsWait ..).trans (readOnly_serveMil ..)
  | none =>
    rw [bankWrite_low want hupd (tinkerDue_none (tinkerAt_none ht _))]
    unfold bankWriteLow
    rw [pickReq_none hp, tinkerAt_none ht]
    dsimp only
    split
    · next h _ => exact nomatch h
    · next h _ => exact nomatch h
    · exact readOnly_serveMil ..
    · exact (Held.refl s).readOnly

theorem bankCycle_storesNothing (mr mw : Bool) (hb : b < 72) (ht : s.mil.tinker = []) (hd : drainAt s b = none) (hpw : NoPort s b true) :
    ReadOnly b s (bankWrite b (bankRead b mr (cycleBegun b s)).1 mw (bankRead b mr (cycleBegun b s)).2) := by
  have hu := held_cycleBegun (b := b) ht
  generalize cycleBegun b s = u at hu
  have hut : u.mil.tinker = [] := by rw [hu.mil, ht]
  obtain ⟨hfalse, hread⟩ := readOnly_bankRead mr hb hut (hu.drainAt.trans hd)
  have hread' := (hu.readOnly (b := b)).trans hread
  rw [hfalse]
  exact hread'.trans (readOnly_bankWrite mw (hread'.noPort hpw) (hread'.tinker.trans ht))

end

end Sys2Proof.Proofs
end

section
/-! SUPPORT. Proofs about the bank cycle (R153, R176, R184): a drained row is added into its segment. -/

namespace Sys2Proof.Proofs

open Sys2Proof.Machine Sys2Proof.Laws

section
variable {s u : State} {b : Nat}

/-- What a row's part in a word of its segment is (R184): the two sums. -/
def sumWord (row : DrainRow) (w : Nat) (x : Word) : Word :=
  BitVec.ofNat 64 ((accElem row x w 0).1.toNat + 2 ^ 32 * (accElem row x w 1).1.toNat)

/-- What a word of a segment holds after a drained row has been added (R148, R184). -/
def drainWord (row : DrainRow) (w : Nat) (p : Word × Byte) : Word × Byte :=
  if 2 * w < row.ncols then (sumWord row w (eccTest p.1 p.2).1, checkByte (sumWord row w (eccTest p.1 p.2).1)) else p

theorem noteRes_parts (tag : Tag) (k seg : Nat) (r : EccRes) (s : State) : let t := noteRes tag k seg r s
    t.shf = s.shf ∧ t.hay = s.hay ∧ t.arr = s.arr ∧ t.tnk = s.tnk := by
  cases r <;> exact ⟨rfl, rfl, rfl, rfl⟩

/-- A word that a row's step has read and noted: storage is as it was, and what it read is the word as tested. -/
theorem accRead_parts (row : DrainRow) (w : Nat) (s : State) : let x := shfRead b row.entry w s
    let t := noteRes row.tag row.tile row.seg x.2.1 x.2.2
    x.1 = (eccTest (shfRaw s b row.entry w).1 (shfRaw s b row.entry w).2).1
      ∧ t.shf = s.shf ∧ t.hay = s.hay ∧ t.arr = s.arr ∧ t.tnk.copying = s.tnk.copying := by
  intro x t
  have hnoted : Noted s x.2.2 := noted_shfTest ..
  have hval : x.1 = (eccTest (shfRaw s b row.entry w).1 (shfRaw s b row.entry w).2).1 := congrArg Prod.fst (shfTest_result b row.entry (shfRaw s b row.entry w).1 (shfRaw s b row.entry w).2 s)
  obtain ⟨hshf, hhay, harr, htnk⟩ := noteRes_parts row.tag row.tile row.seg x.2.1 x.2.2
  have honly := hnoted.only
  refine ⟨hval, hshf.trans (by rw [honly]), hhay.trans (by rw [honly]), harr.trans (by rw [honly]), ?_⟩
  exact (congrArg Tinker.copying htnk).trans hnoted.copying

theorem accWord_state (row : DrainRow) (acc : Nat × Bool × State) (w : Nat) : (accWord b row acc w).2.2
    = (let x := shfRead b row.entry w acc.2.2
       let t := noteRes row.tag row.tile row.seg x.2.1 x.2.2
       if 2 * w < row.ncols then shfPut b row.entry w (sumWord row w x.1) (checkByte (sumWord row w x.1)) t else t) := rfl

theorem walks_accWord (b : Nat) (row : DrainRow) :
    Walks b row.entry (fun x : Nat × Bool × State => x.2.2) (accWord b row) (fun s => (s.hay, s.arr)) (drainWord row) := by
  intro acc w hw hc
  dsimp only at hc ⊢
  rw [accWord_state]
  obtain ⟨hval, hshf, hhay, harr, hcopy⟩ := accRead_parts (b := b) row w acc.2.2
  dsimp only at hval hshf hhay harr hcopy hc ⊢
  generalize noteRes row.tag row.tile row.seg _ _ = t at *
  rw [hval]
  have hct : t.tnk.copying = none := hcopy.trans hc
  unfold drainWord
  split
  · obtain ⟨hhay', -, -, -, harr', -⟩ := shfPut_rest b row.entry w (sumWord row w (eccTest (shfRaw acc.2.2 b row.entry w).1 (shfRaw acc.2.2 b row.entry w).2).1)
      (checkByte (sumWord row w (eccTest (shfRaw acc.2.2 b row.entry w).1 (shfRaw acc.2.2 b row.entry w).2).1)) t
    refine ⟨(wordPut_shfPut hct b row.entry hw _ _).of_shf_eq hshf, by rw [hhay', harr', hhay, harr], ?_⟩
    rw [shfPut_of_not_copying hct]
    exact hct
  · exact ⟨wordPut_same hshf .., by rw [hhay, harr], hct⟩

/-- Rows that an accumulation leaves: those of the drain queue. -/
theorem accumulate_walked (row : DrainRow) (hc : s.tnk.copying = none) :
    Walked s (accumulate b row s) b row.entry 16 (fun s => (s.hay, s.arr)) (drainWord row) := by
  have hwalk := (walks_accWord b row).walked le_rfl (x := (0, false, s)) hc
  unfold accumulate
  dsimp only at hwalk ⊢
  generalize (List.range 16).foldl (accWord b row) (0, false, s) = x at *
  obtain ⟨hdone, hahead, hout, hrest, hcopy⟩ := hwalk
  split <;> exact ⟨hdone, hahead, hout, hrest, hcopy⟩

theorem rowWritten_parts (row : DrainRow) (s : State) : let t := rowWritten row s
    t.shf = s.shf ∧ t.hay = s.hay ∧ t.arr.drainQ = s.arr.drainQ := by
  unfold rowWritten
  dsimp only
  split
  · exact ⟨rfl, rfl, rfl⟩
  · split <;> exact ⟨rfl, rfl, rfl⟩

/-- A bank cycle in which a drained row is served (R176, R184). -/
theorem bankCycle_drain {i : Nat} {row : DrainRow} (mr mw : Bool) (hc : s.tnk.copying = none) (ht : s.mil.tinker = []) (hd : drainAt s b = some i)
    (hrow : s.arr.drainQ[i]? = some row) (hres : ∀ r ∈ s.crt.reqs, Machine.portAt s b false r = true → r.reserved = false) :
    let t := bankWrite b (bankRead b mr (cycleBegun b s)).1 mw (bankRead b mr (cycleBegun b s)).2
    t.arr.drainQ = dropAt i s.arr.drainQ ∧ (∀ w, w < 16 → shfRaw t b row.entry w = drainWord row w (shfRaw s b row.entry w))
      ∧ (∀ a, a < shfAddr b row.entry 0 ∨ shfAddr b row.entry 128 ≤ a → Memory.read t.shf.mem a = Memory.read s.shf.mem a) ∧ t.hay = s.hay := by
  have hu := held_cycleBegun (b := b) ht
  generalize cycleBegun b s = u at hu
  have hut : u.mil.tinker = [] := by rw [hu.mil, ht]
  have hpick : pickReq u (b / 9) (fun r => Machine.portAt u b false r && r.reserved) = none := by
    refine pickReq_none fun r hr => ?_
    rw [hu.portAt]
    cases hat : Machine.portAt s b false r with
    | false => rfl
    | true => rw [hres r (hu.reqs ▸ hr) hat]; rfl
  have hv := hu.trans ((held_portsWait b false u).trans (held_millerWaits b (milAt u b fun r => !r.write) _))
  have hread : bankRead b mr u = serveDrain b i (millerWaits b (milAt u b fun r => !r.write) (portsWait b false u)) := by
    unfold bankRead
    rw [tinkerDue_none (tinkerAt_none hut _), hpick, tinkerDue_none (tinkerAt_none hut _), hu.drainAt, hd]
    rfl
  rw [hread]
  generalize millerWaits b _ _ = v at hv
  have hserve : serveDrain b i v = (true, rowWritten row (accumulate b row { v with arr := { v.arr with drainQ := dropAt i v.arr.drainQ } })) := by
    unfold serveDrain
    rw [hv.arr, hrow]
  rw [hserve]
  have hcopy : v.tnk.copying = none := (congrArg Tinker.copying hv.tnk).trans hc
  have hwalk := accumulate_walked (b := b) (s := { v with arr := { v.arr with drainQ := dropAt i v.arr.drainQ } }) row hcopy
  generalize accumulate b row _ = x at hwalk
  obtain ⟨hdone, -, hout, hrest, -⟩ := hwalk
  simp only [Prod.mk.injEq] at hrest
  obtain ⟨hhay, harr⟩ := hrest
  obtain ⟨hshf', hhay', hq'⟩ := rowWritten_parts row x
  generalize rowWritten row x = y at *
  have hwrite : bankWrite b true mw y = millerWaits b (milAt y b fun r => r.write) (portsWait b true y) := rfl
  dsimp only
  rw [hwrite]
  have hz := (held_portsWait b true y).trans (held_millerWaits b (milAt y b fun r => r.write) _)
  generalize millerWaits b _ _ = z at hz
  refine ⟨?_, fun w hw => ?_, fun a ha => ?_, ?_⟩
  · rw [hz.arr, hq', harr]
    exact congrArg (dropAt i) (congrArg ArrayUnit.drainQ hv.arr)
  · rw [shfRaw_congr (hz.shf.trans hshf'), hdone w hw]
    exact congrArg (drainWord row w) (shfRaw_congr (u := { v with arr := _ }) hv.shf ..)
  · rw [hz.shf, hshf', hout a ha]
    exact congrArg (fun m => Memory.read (Sheaf.mem m) a) hv.shf
  · rw [hz.hay, hhay', hhay]
    exact hv.hay

end

end Sys2Proof.Proofs
end

section
/-! SUPPORT. Proofs about the bank cycle (R176, R362, R375, R376): the Tinker's raw writes, raw reads and scrubs. -/

namespace Sys2Proof.Proofs

open Sys2Proof.Machine Sys2Proof.Laws

section
variable {s u : State} {b : Nat} {q : TinkReq}

theorem Held.tagOf (h : Held s u) (x : Tag) : Machine.tagOf u x = Machine.tagOf s x := tagOf_congr (by rw [h.tly]) x

/-! ### The Tinker's request at a bank -/

/-- The Tinker waits with one request. -/
def tinkering (q : TinkReq) (s : State) : State := { s with mil := { s.mil with tinker := [q] } }

/-- A request that one more b-cycle has been waiting. -/
def aged (q : TinkReq) : TinkReq := { q with wait := q.wait + 1 }

theorem held_cycleBegun_tinkering (h : s.mil.tinker = [q]) (hb : q.bank = b) : Held (tinkering (aged q) s) (cycleBegun b s) where
  shf := rfl
  hay := rfl
  tly := rfl
  arr := rfl
  mil := by
    have hmil : (cycleBegun b s).mil = { s.mil with tinker := s.mil.tinker.map fun q => if q.bank = b then { q with wait := q.wait + 1 } else q } := rfl
    rw [hmil, h, List.map_singleton, if_pos hb]
    rfl
  isl := rfl
  tnk := rfl
  reqs := rfl
  cross := rfl

theorem tinkerAt_alone (h : s.mil.tinker = [q]) (hb : q.bank = b) : tinkerAt s b q.write = some q := by
  rw [tinkerAt, h, List.find?_singleton, hb, beq_self_eq_true, beq_self_eq_true]
  rfl

theorem tinkerAt_other (h : s.mil.tinker = [q]) {wr : Bool} (hw : q.write ≠ wr) : tinkerAt s b wr = none := by
  simp [tinkerAt, h, hw]

theorem tinkerDue_some_or_none (h : tinkerAt s b q.write = some q) : tinkerDue s b q.write = some q ∨ tinkerDue s b q.write = none := by
  rw [tinkerDue, h, Option.filter_some]
  split
  · exact .inl rfl
  · exact .inr rfl

theorem bankRead_tinker (want : Bool) (h : s.mil.tinker = [q]) (hb : q.bank = b) (hw : q.write = false) (hm : NoMil s b)
    (hd : drainAt s b = none) (hpr : NoPort s b false) : ∃ v, bankRead b want s = (false, v) ∧ Held (tinkerRead q s) v := by
  have hat := tinkerAt_alone h hb
  have hdue := tinkerDue_some_or_none hat
  rw [hw] at hat hdue
  rcases hdue with hdue | hdue
  · refine ⟨_, ?_, (held_portsWait b false _).trans (held_millerWaits b (milAt s b fun r => !r.write) _)⟩
    unfold bankRead
    rw [hdue]
  · refine ⟨_, bankRead_low want (hpr.pick _ _) hd hdue, ?_⟩
    unfold bankReadLow
    rw [pickReq_none hpr, milAt_none hm, hat]
    exact Held.refl _

theorem bankWrite_tinker (want : Bool) (h : s.mil.tinker = [q]) (hb : q.bank = b) (hw : q.write = true) (hm : NoMil s b)
    (hpw : NoPort s b true) : Held (tinkerWrite q s) (bankWrite b false want s) := by
  have hat := tinkerAt_alone h hb
  have hdue := tinkerDue_some_or_none hat
  rw [hw] at hat hdue
  rcases hdue with hdue | hdue
  · have hserve : bankWrite b false want s = millerWaits b (milAt s b fun r => r.write) (portsWait b true (tinkerWrite q s)) := by
      unfold bankWrite
      rw [hdue]
      rfl
    rw [hserve]
    exact (held_portsWait ..).trans (held_millerWaits ..)
  · rw [bankWrite_low want (milAt_none hm _) hdue]
    unfold bankWriteLow
    rw [pickReq_none hpw, milAt_none hm, hat]
    exact Held.refl _

/-- The Tinker's request is taken from its queue as it is served. -/
def tinkTaken (q : TinkReq) (s : State) : State := { s with mil := { s.mil with tinker := s.mil.tinker.erase q } }

theorem tinker_tinkTaken (h : s.mil.tinker = [q]) : (tinkTaken q s).mil.tinker = [] := by
  have htink : (tinkTaken q s).mil.tinker = s.mil.tinker.erase q := rfl
  rw [htink, h, List.erase_cons_head]

/-! ### Raw writes and raw reads -/

theorem walks_putEntry (b e : Nat) (bs : List Byte) : Walks b e id (fun s w => shfPut b e w (imageWord 16 w bs).1 (imageWord 16 w bs).2 s)
    (fun s => (s.hay, s.mil, s.tly, s.tnk)) (fun w _ => imageWord 16 w bs) := by
  intro s w hw hc
  dsimp only [id] at hc ⊢
  refine ⟨wordPut_shfPut hc b e hw _ _, ?_, ?_⟩ <;> rw [shfPut_of_not_copying hc]
  · rfl
  · exact hc

/-- A b-cycle in which the Tinker writes an entry with its check bits as supplied (R376). -/
theorem bankCycle_rawWrite {tag : Tag} (mr mw : Bool) (hc : s.tnk.copying = none) (h : s.mil.tinker = [q]) (hb : q.bank = b) (hw : q.write = true)
    (huse : q.use = .raw tag) (hm : NoMil s b) (hd : drainAt s b = none) (hpr : NoPort s b false) (hpw : NoPort s b true) :
    let t := bankWrite b (bankRead b mr (cycleBegun b s)).1 mw (bankRead b mr (cycleBegun b s)).2
    t.mil.tinker = [] ∧ (∀ w, w < 16 → shfRaw t b q.entry w = imageWord 16 w (tagOf s tag).job.raw)
      ∧ (∀ a, a < shfAddr b q.entry 0 ∨ shfAddr b q.entry 128 ≤ a → Memory.read t.shf.mem a = Memory.read s.shf.mem a)
      ∧ (tagOf t tag).job.wrOut = (tagOf s tag).job.wrOut - 1 ∧ t.hay = s.hay ∧ t.tnk = s.tnk := by
  have hu := held_cycleBegun_tinkering h hb
  generalize cycleBegun b s = u at hu
  have hut : u.mil.tinker = [aged q] := by rw [hu.mil]; rfl
  have hpr' : NoPort u b false := hu.noPort hpr
  have hpw' : NoPort u b true := hu.noPort hpw
  have hm' : NoMil u b := hu.noMil hm
  have hw' : (aged q).write = true := hw
  rw [bankRead_idle mr hpr' (milAt_none hm' _) (hu.drainAt.trans hd) (tinkerAt_other hut (by rw [hw']; decide))]
  dsimp only
  have ht := bankWrite_tinker mw hut hb hw' hm' hpw'
  generalize bankWrite b false mw u = t at ht
  have hserve : tinkerWrite (aged q) u
      = updJob tag (fun j => { j with wrOut := j.wrOut - 1 }) (putEntry b q.entry (tagOf u tag).job.raw (tinkTaken (aged q) u)) := by
    unfold tinkerWrite
    have huse' : (aged q).use = .raw tag := huse
    rw [huse', ← hb]
    rfl
  have hraw : (tagOf u tag).job.raw = (tagOf s tag).job.raw := by rw [tagOf, hu.tly]; rfl
  rw [hserve, hraw] at ht
  have hwalk := (walks_putEntry b q.entry (tagOf s tag).job.raw).walked le_rfl (x := tinkTaken (aged q) u)
    ((congrArg Tinker.copying hu.tnk).trans hc)
  change Walked _ (putEntry b q.entry (tagOf s tag).job.raw (tinkTaken (aged q) u)) _ _ _ _ _ at hwalk
  generalize putEntry b q.entry (tagOf s tag).job.raw (tinkTaken (aged q) u) = x at *
  obtain ⟨hdone, -, hout, hrest, -⟩ := hwalk
  simp only [id, Prod.mk.injEq] at hrest
  obtain ⟨hhay, hmil, htly, htnk⟩ := hrest
  have hjob : tagOf x tag = tagOf s tag := (tagOf_congr (by rw [htly]; rfl) tag).trans (hu.tagOf tag)
  refine ⟨?_, fun w hw => ?_, fun a ha => ?_, ?_, ht.hay.trans (hhay.trans hu.hay), ht.tnk.trans (htnk.trans hu.tnk)⟩
  · rw [ht.mil]
    exact (congrArg Millers.tinker hmil).trans (tinker_tinkTaken hut)
  · rw [shfRaw_congr ht.shf]
    exact hdone w hw
  · rw [ht.shf]
    exact (hout a ha).trans (congrArg (fun m => Memory.read (Sheaf.mem m) a) hu.shf)
  · rw [ht.tagOf, tagOf_updJob_self, hjob]

/-- A b-cycle in which the Tinker reads an entry as it is stored (R375). -/
theorem bankCycle_rawRead {tag : Tag} (mr mw : Bool) (h : s.mil.tinker = [q]) (hb : q.bank = b) (hw : q.write = false)
    (huse : q.use = .raw tag) (hm : NoMil s b) (hd : drainAt s b = none) (hpr : NoPort s b false) (hpw : NoPort s b true) :
    let t := bankWrite b (bankRead b mr (cycleBegun b s)).1 mw (bankRead b mr (cycleBegun b s)).2
    t.mil.tinker = [] ∧ (tagOf t tag).job.raw = rawBytes (entryWords s b q.entry) ∧ (tagOf t tag).job.wrOut = (tagOf s tag).job.wrOut - 1
      ∧ t.shf = s.shf ∧ t.hay = s.hay ∧ t.tnk = s.tnk := by
  have hu := held_cycleBegun_tinkering h hb
  generalize cycleBegun b s = u at hu
  have hut : u.mil.tinker = [aged q] := by rw [hu.mil]; rfl
  obtain ⟨v, hread, hv⟩ := bankRead_tinker mr hut hb hw (hu.noMil hm) (hu.drainAt.trans hd) (hu.noPort hpr)
  have hserve : tinkerRead (aged q) u
      = updJob tag (fun j => { j with wrOut := j.wrOut - 1, raw := rawBytes (entryWords s b q.entry) }) (tinkTaken (aged q) u) := by
    have hwords : entryWords (tinkTaken (aged q) u) q.bank q.entry = entryWords s b q.entry := by
      rw [hb]
      exact List.map_congr_left fun w _ => shfRaw_congr (u := tinkTaken (aged q) u) hu.shf ..
    unfold tinkerRead
    have huse' : (aged q).use = .raw tag := huse
    rw [huse', ← hwords]
    rfl
  rw [hserve] at hv
  have hjob : tagOf (tinkTaken (aged q) u) tag = tagOf s tag := hu.tagOf tag
  have hvt : v.mil.tinker = [] := by rw [hv.mil]; exact tinker_tinkTaken hut
  have hpv : NoPort v b true := hv.noPort (hu.noPort hpw : NoPort u b true)
  have hmv : NoMil v b := hv.noMil (hu.noMil hm : NoMil u b)
  rw [hread]
  dsimp only
  rw [bankWrite_idle mw hpv hmv (tinkerAt_none hvt _), hv.tagOf, tagOf_updJob_self, hjob]
  exact ⟨hvt, rfl, rfl, hv.shf.trans hu.shf, hv.hay.trans hu.hay, hv.tnk.trans hu.tnk⟩

end

end Sys2Proof.Proofs
end

section
/-! SUPPORT. Proofs about the bank cycle (R175, R362): the Tinker scrubs an entry. -/

namespace Sys2Proof.Proofs

open Sys2Proof.Machine Sys2Proof.Laws

section
variable {s u : State} {b : Nat} {q : TinkReq}

/-! ### The scrub's read -/

theorem tinkerWord_parts (b e : Nat) (acc : List (Word × Byte) × Nat × State) (w : Nat) : Noted acc.2.2 (tinkerWord b e acc w).2.2
    ∧ (tinkerWord b e acc w).2.1 = acc.2.1 + b2n (shfFixable acc.2.2 b e w) := by
  have hnoted : Noted acc.2.2 (shfRead b e w acc.2.2).2.2 := noted_shfTest ..
  have hres : (shfRead b e w acc.2.2).2.1 = (eccTest (shfRaw acc.2.2 b e w).1 (shfRaw acc.2.2 b e w).2).2 :=
    congrArg Prod.snd (shfTest_result b e (shfRaw acc.2.2 b e w).1 (shfRaw acc.2.2 b e w).2 acc.2.2)
  unfold tinkerWord shfFixable
  rw [← hres]
  generalize shfRead b e w acc.2.2 = x at hnoted
  obtain ⟨d, r, t⟩ := x
  cases r with
  | good => exact ⟨hnoted, rfl⟩
  | corrected => exact ⟨hnoted.trans (noted_cnt ..), rfl⟩
  | uncorr => exact ⟨hnoted, rfl⟩

theorem foldl_tinkerWord (b e : Nat) (l : List Nat) (acc : List (Word × Byte) × Nat × State) :
    Noted acc.2.2 (l.foldl (tinkerWord b e) acc).2.2
      ∧ (l.foldl (tinkerWord b e) acc).2.1 = acc.2.1 + l.countP fun w => shfFixable acc.2.2 b e w := by
  induction l generalizing acc with
  | nil => exact ⟨Noted.refl _, rfl⟩
  | cons w l ih =>
    obtain ⟨hnoted, hcount⟩ := tinkerWord_parts b e acc w
    obtain ⟨hnoted', hcount'⟩ := ih (tinkerWord b e acc w)
    have hshf : (tinkerWord b e acc w).2.2.shf = acc.2.2.shf := by rw [hnoted.only]
    have hfix : (fun w' => shfFixable (tinkerWord b e acc w).2.2 b e w') = fun w' => shfFixable acc.2.2 b e w' :=
      funext fun w' => by simp only [shfFixable, shfRaw_congr hshf]
    rw [List.foldl_cons]
    refine ⟨hnoted.trans hnoted', ?_⟩
    rw [hcount', hcount, hfix, List.countP_cons, Nat.add_assoc, Nat.add_comm (b2n _)]
    rfl

/-! ### The scrub's write -/

theorem scrubBack_eq (b e : Nat) (acc : Nat × State) (w : Nat) : scrubBack b e acc w
    = if shfFixable acc.2 b e w then (acc.1 + 1, shfPut b e w (scrubbed (shfRaw acc.2 b e w)).1 (scrubbed (shfRaw acc.2 b e w)).2 acc.2) else acc := by
  unfold scrubBack shfFixable scrubbed
  dsimp only
  split
  · next h => simp [h]
  · next h =>
    rw [if_neg]
    simp only [decide_eq_true_eq]
    exact fun hr => h _ (Prod.ext rfl hr)

theorem walks_scrubBack (b e : Nat) :
    Walks b e (fun x : Nat × State => x.2) (scrubBack b e) (fun s => (s.hay, s.mil, s.tly, s.tnk)) fun _ => scrubbed := by
  intro acc w hw hc
  dsimp only at hc ⊢
  rw [scrubBack_eq]
  split
  · refine ⟨wordPut_shfPut hc b e hw _ _, ?_, ?_⟩ <;> dsimp only <;> rw [shfPut_of_not_copying hc]
    · rfl
    · exact hc
  · next h =>
    have hsame : scrubbed (shfRaw acc.2 b e w) = shfRaw acc.2 b e w := by
      rw [scrubbed, if_neg]
      simpa [shfFixable] using h
    rw [hsame]
    exact ⟨wordPut_same rfl .., rfl, hc⟩

/-! ### The scrub of an entry -/

/-- What a scrub that command `tag` asked for has done to an entry (R362). -/
structure Scrubbed (s t : State) (b e : Nat) (tag : Tag) : Prop where
  tinker : t.mil.tinker = []
  words : ∀ w, w < 16 → shfRaw t b e w = scrubbed (shfRaw s b e w)
  outside : ∀ a, a < shfAddr b e 0 ∨ shfAddr b e 128 ≤ a → Memory.read t.shf.mem a = Memory.read s.shf.mem a
  wrOut : (tagOf t tag).job.wrOut = (tagOf s tag).job.wrOut - 1
  landed : (tagOf t tag).job.landed = (tagOf s tag).job.landed + (List.range 16).countP fun w => shfFixable s b e w
  hay : t.hay = s.hay

theorem Scrubbed.held {t v : State} {e : Nat} {tag : Tag} (h : Scrubbed s t b e tag) (g : Held t v) : Scrubbed s v b e tag where
  tinker := by rw [g.mil, h.tinker]
  words w hw := (shfRaw_congr g.shf ..).trans (h.words w hw)
  outside a ha := by rw [g.shf, h.outside a ha]
  wrOut := by rw [g.tagOf, h.wrOut]
  landed := by rw [g.tagOf, h.landed]
  hay := g.hay.trans h.hay

theorem wrOut_scrubDone (tag : Tag) (n : Nat) (u : State) : (tagOf (scrubDone (some tag) n u) tag).job.wrOut = (tagOf u tag).job.wrOut - 1 := by
  rw [scrubDone, tagOf_updJob_self]

theorem landed_scrubDone (tag : Tag) (n : Nat) (u : State) : (tagOf (scrubDone (some tag) n u) tag).job.landed = (tagOf u tag).job.landed + n := by
  rw [scrubDone, tagOf_updJob_self]

theorem tagOf_of_tly (h : u.tly = s.tly) (x : Tag) : tagOf u x = tagOf s x := tagOf_congr (congrArg Tallyman.tags h) x

/-- A scrub that finds nothing to correct changes no byte. -/
theorem scrubbed_clean {e n : Nat} {tag : Tag} (hzero : (List.range 16).countP (fun w => shfFixable s b e w) = 0) (hn : n = 0)
    (ht : u.mil.tinker = []) (hshf : u.shf = s.shf) (hhay : u.hay = s.hay) (htly : u.tly = s.tly) :
    Scrubbed s (scrubDone (some tag) n u) b e tag where
  tinker := ht
  words w hw := by
    have hnot := List.countP_eq_zero.1 hzero w (List.mem_range.2 hw)
    rw [scrubbed, if_neg (by simpa [shfFixable] using hnot)]
    exact shfRaw_congr (u := scrubDone (some tag) n u) hshf ..
  outside a _ := congrArg (fun m => Memory.read (Sheaf.mem m) a) hshf
  wrOut := by rw [wrOut_scrubDone, tagOf_of_tly htly]
  landed := by rw [landed_scrubDone, tagOf_of_tly htly, hzero, hn]
  hay := hhay

/-- The write-back of a scrub corrects what tests as correctable (R175, R362). -/
theorem scrubbed_back {e : Nat} {tag : Tag} (hc : s.tnk.copying = none) (ht : s.mil.tinker = []) :
    let x := (List.range 16).foldl (scrubBack b e) (0, s)
    Scrubbed s (scrubDone (some tag) x.1 x.2) b e tag := by
  have hwalk := (walks_scrubBack b e).walked le_rfl (x := (0, s)) hc
  have hcount := (walks_scrubBack b e).count Prod.fst (fun _ p => decide ((eccTest p.1 p.2).2 = .corrected)) (fun x w => by
    rw [scrubBack_eq]
    change _ = _ + b2n (shfFixable x.2 b e w)
    split
    · next h => rw [h]; rfl
    · next h => rw [Bool.eq_false_of_not_eq_true h]; rfl) le_rfl (x := (0, s)) hc
  dsimp only at hwalk hcount ⊢
  generalize (List.range 16).foldl (scrubBack b e) (0, s) = x at *
  obtain ⟨hdone, -, hout, hrest, -⟩ := hwalk
  simp only [Prod.mk.injEq] at hrest
  obtain ⟨hhay, hmil, htly, -⟩ := hrest
  rw [Nat.zero_add] at hcount
  refine ⟨(congrArg Millers.tinker hmil).trans ht, hdone, hout, ?_, ?_, hhay⟩
  · rw [wrOut_scrubDone, tagOf_of_tly htly]
  · rw [landed_scrubDone, tagOf_of_tly htly, hcount]
    rfl

/-- A scrub's outcome, from a state with the same storage and commands. -/
theorem Scrubbed.of_congr {t : State} {e : Nat} {tag : Tag} (h : Scrubbed u t b e tag) (hshf : u.shf = s.shf) (hhay : u.hay = s.hay)
    (htly : u.tly = s.tly) : Scrubbed s t b e tag where
  tinker := h.tinker
  words w hw := by rw [h.words w hw, shfRaw_congr hshf]
  outside a ha := by rw [h.outside a ha, hshf]
  wrOut := by rw [h.wrOut, tagOf_of_tly htly]
  landed := by
    have hfix : (fun w => shfFixable u b e w) = fun w => shfFixable s b e w := funext fun w => by simp only [shfFixable, shfRaw_congr hshf]
    rw [h.landed, tagOf_of_tly htly, hfix]
  hay := h.hay.trans hhay

theorem tinkerRead_scrub {by_ : Option Tag} (huse : q.use = .scrub by_) (s : State) : tinkerRead q s
    = (let x := (List.range 16).foldl (tinkerWord q.bank q.entry) ([], 0, tinkTaken q s)
       if x.2.1 = 0 then scrubDone by_ 0 x.2.2 else askTink ⟨q.bank, q.entry, true, .scrub by_, 0⟩ x.2.2) := by
  unfold tinkerRead
  rw [huse]
  rfl

theorem tinkerWrite_scrub {by_ : Option Tag} (huse : q.use = .scrub by_) (s : State) : tinkerWrite q s
    = (let x := (List.range 16).foldl (scrubBack q.bank q.entry) (0, tinkTaken q s); scrubDone by_ x.1 x.2) := by
  unfold tinkerWrite
  rw [huse]
  rfl

/-- A b-cycle in which the Tinker scrubs an entry (R362). -/
theorem bankCycle_scrub {tag : Tag} (mr mw : Bool) (hlt : b < 72) (hc : s.tnk.copying = none) (h : s.mil.tinker = [q]) (hb : q.bank = b) (hw : q.write = false)
    (huse : q.use = .scrub (some tag)) (hm : NoMil s b) (hd : drainAt s b = none) (hpr : NoPort s b false) (hpw : NoPort s b true) :
    Scrubbed s (bankWrite b (bankRead b mr (cycleBegun b s)).1 mw (bankRead b mr (cycleBegun b s)).2) b q.entry tag := by
  have hu := held_cycleBegun_tinkering h hb
  generalize cycleBegun b s = u at hu
  have hut : u.mil.tinker = [aged q] := by rw [hu.mil]; rfl
  obtain ⟨v, hread, hv⟩ := bankRead_tinker mr hut hb hw (hu.noMil hm) (hu.drainAt.trans hd) (hu.noPort hpr)
  have hpu : NoPort u b true := hu.noPort hpw
  have hmu : NoMil u b := hu.noMil hm
  obtain ⟨hnoted, hcount⟩ := foldl_tinkerWord b q.entry (List.range 16) ([], 0, tinkTaken (aged q) u)
  have hscrub := tinkerRead_scrub (q := aged q) huse u
  have hplace : (aged q).bank = b ∧ (aged q).entry = q.entry := ⟨hb, rfl⟩
  rw [hplace.1, hplace.2] at hscrub
  rw [hscrub] at hv
  have hfix : (fun w => shfFixable (tinkTaken (aged q) u) b q.entry w) = fun w => shfFixable s b q.entry w :=
    funext fun w => by simp only [shfFixable, shfRaw_congr (u := tinkTaken (aged q) u) (s := s) hu.shf]
  dsimp only at hnoted hcount hv
  rw [hfix, Nat.zero_add] at hcount
  generalize (List.range 16).foldl (tinkerWord b q.entry) ([], 0, tinkTaken (aged q) u) = x at *
  have hshf : x.2.2.shf = s.shf := by rw [hnoted.only]; exact hu.shf
  have hhay : x.2.2.hay = s.hay := by rw [hnoted.only]; exact hu.hay
  have htly : x.2.2.tly = s.tly := by rw [hnoted.only]; exact hu.tly
  have hmil : x.2.2.mil.tinker = [] := by rw [hnoted.only]; exact tinker_tinkTaken hut
  have hcopy : x.2.2.tnk.copying = none := hnoted.copying.trans ((congrArg Tinker.copying hu.tnk).trans hc)
  have hpx : NoPort x.2.2 b true := (readOnly_of_core hlt hnoted.core_eq).noPort (s := tinkTaken (aged q) u) hpu
  have hmx : NoMil x.2.2 b := by
    intro r hr
    rw [hnoted.only] at hr
    exact (physOf_bank_congr hnoted.map _).trans_ne (hmu r hr)
  rw [hread]
  dsimp only
  split at hv
  · next hzero =>
    have hclean := (scrubbed_clean (tag := tag) (hcount.symm.trans hzero) rfl hmil hshf hhay htly).held hv
    have hpv : NoPort v b true := hv.noPort hpx
    have hmv : NoMil v b := hv.noMil hmx
    rw [bankWrite_idle mw hpv hmv (tinkerAt_none hclean.tinker _)]
    exact hclean
  · have hvt : v.mil.tinker = [⟨b, q.entry, true, .scrub (some tag), 0⟩] := by
      rw [hv.mil]
      exact congrArg (· ++ _) hmil
    have ht := bankWrite_tinker mw hvt rfl rfl (hv.noMil (s := askTink _ x.2.2) hmx) (hv.noPort (s := askTink _ x.2.2) hpx)
    generalize bankWrite b false mw v = t at ht
    rw [tinkerWrite_scrub rfl] at ht
    have hback := scrubbed_back (b := b) (s := tinkTaken ⟨b, q.entry, true, .scrub (some tag), 0⟩ v) (e := q.entry) (tag := tag)
      ((congrArg Tinker.copying hv.tnk).trans hcopy) (tinker_tinkTaken hvt)
    exact (hback.of_congr (hv.shf.trans hshf) (hv.hay.trans hhay) (hv.tly.trans htly)).held ht

end

end Sys2Proof.Proofs
end

section
/-! SUPPORT. Proofs about the bank cycle: what a b-cycle serves (R24, R88, R117, R128, R153, R176, R184, R362, R375, R376). -/

namespace Sys2Proof.Proofs

open Sys2Proof.Machine Sys2Proof.Laws

/-- Settles O47, by the request that the b-cycle serves. -/
theorem bankCycleServes : Obligations.BankCycleServes := by
  unfold Obligations.BankCycleServes
  intro s b mr mw hb hg hr hc noPort noMil
  have hexec := exec_bankCycle mr mw hb hg hr
  refine ⟨fun r w half ht hm hd hpr hpick hact => ⟨_, hexec, ?_⟩, fun i row ht hd hrow hres => ⟨_, hexec, ?_⟩,
    fun q ht hq hp hd hpr hpw => ⟨_, hexec, ?_⟩, fun q hq hqb hm hd hpr hpw => ⟨fun tag huse hw => ⟨_, hexec, ?_⟩,
      fun tag huse hw => ⟨_, hexec, ?_⟩, fun tag huse hw => ⟨_, hexec, ?_⟩⟩, fun ht hd hpw => ⟨_, hexec, ?_⟩⟩
  · exact bankCycle_portWrite mr mw hc ht hm hd (noPort_of_filter hpr) hpick hact
  · exact bankCycle_drain mr mw hc ht hd hrow hres
  · obtain ⟨hreqs, hshf, hhay, htly⟩ := bankCycle_request mr mw ht hq hp hd (noPort_of_filter hpr) (noPort_of_filter hpw)
    exact ⟨hreqs, hshf, hhay, htly⟩
  · exact bankCycle_rawWrite mr mw hc hq hqb hw huse hm hd (noPort_of_filter hpr) (noPort_of_filter hpw)
  · exact bankCycle_rawRead mr mw hq hqb hw huse hm hd (noPort_of_filter hpr) (noPort_of_filter hpw)
  · obtain ⟨htink, hwords, hout, hwr, hlanded, hhay⟩ :=
      bankCycle_scrub mr mw hb hc hq hqb hw huse hm hd (noPort_of_filter hpr) (noPort_of_filter hpw)
    exact ⟨htink, hwords, hout, hwr, hlanded, hhay⟩
  · obtain ⟨hshf, hhay, -⟩ := bankCycle_storesNothing mr mw hb ht hd (noPort_of_filter hpw)
    exact ⟨fun a => by rw [hshf]; exact ⟨rfl, rfl⟩, hhay, by rw [hshf]⟩

end Sys2Proof.Proofs
end

section
/-! SUPPORT. Proofs about TCFG (R99-R104, R112, R113): what the application of the entries leaves. -/

namespace Sys2Proof.Proofs

open Sys2Proof.Machine Sys2Proof.Laws

/-! ### The configuration that the entries give -/

/-- What one entry makes of tile `n`. -/
def cfgStep (s : State) (n : Nat) (v : Tile) : CfgEnt → Tile
  | .tile e => if e.tile = n then entTile s e else v
  | _ => v

/-- What one entry makes of entry `k` of the segment tables. -/
def segStep (stream k : Nat) (v : Seg) : CfgEnt → Seg
  | .seg i y => if k = 64 * stream + i then y else v
  | _ => v

theorem tileEnts_concat_tile (es : List CfgEnt) (e : TileEnt) : tileEnts (es ++ [.tile e]) = tileEnts es ++ [(es.length, e)] := by
  simp [tileEnts, List.zipIdx_append]

theorem tileEnts_concat_unused (es : List CfgEnt) : tileEnts (es ++ [.unused]) = tileEnts es := by
  simp [tileEnts, List.zipIdx_append]

theorem tileEnts_concat_seg (es : List CfgEnt) (i : Nat) (y : Seg) : tileEnts (es ++ [.seg i y]) = tileEnts es := by
  simp [tileEnts, List.zipIdx_append]

theorem cfgAfter_congr {es es' : List CfgEnt} (h : tileEnts es = tileEnts es') (s : State) (n : Nat) : cfgAfter s es n = cfgAfter s es' n := by
  unfold cfgAfter
  rw [h]

theorem cfgAfter_concat (s : State) (es : List CfgEnt) (c : CfgEnt) (n : Nat) : cfgAfter s (es ++ [c]) n = cfgStep s n (cfgAfter s es n) c := by
  cases c with
  | unused => exact cfgAfter_congr (tileEnts_concat_unused es) s n
  | seg i y => exact cfgAfter_congr (tileEnts_concat_seg es i y) s n
  | tile e =>
    unfold cfgAfter
    rw [tileEnts_concat_tile, List.filter_append, List.filter_singleton]
    by_cases h : e.tile = n
    · simp [h, cfgStep]
    · rw [beq_eq_false_iff_ne.2 h, cond_false, List.append_nil, cfgStep, if_neg h]

/-! ### Tables -/

theorem tget_map {α β : Type} (d : α) (d' : β) (f : α → β) (hd : f d = d') (t : Tbl α) (k : Nat) :
    tget d' (t.map fun p => (p.1, f p.2)) k = f (tget d t k) := by
  induction t with
  | nil => exact hd.symm
  | cons p r ih =>
    obtain ⟨a, v⟩ := p
    rw [List.map_cons]
    unfold tget
    split
    · rfl
    · exact ih

theorem segFor_frame (stream place i : Nat) (v : Seg) (e : TagEntry) : segFor stream place i v e = { e with segs := (segFor stream place i v e).segs } := by
  unfold segFor
  split
  · split <;> rfl
  · rfl

theorem tagOf_applySeg (stream place i : Nat) (v : Seg) (s : State) (x : Tag) :
    tagOf (applySeg stream place i v s) x = segFor stream place i v (tagOf s x) :=
  tget_map TagEntry.free TagEntry.free _ rfl s.tly.tags x.toNat

theorem entTile_congr {s u : State} (h : u.regs = s.regs) (e : TileEnt) : entTile u e = entTile s e := by
  simp only [entTile, spillRange, rget, h]

/-! ### The entries applied -/

/-- What the entries of a TCFG make of a state when they are applied (R102, R112). -/
structure Applied (s t : State) (stream : Nat) (es : List CfgEnt) : Prop where
  tiles : ∀ n, tileOf t n = cfgAfter s es n
  segs : ∀ k, tget Seg.unused t.shf.segs k = es.foldl (segStep stream k) (tget Seg.unused s.shf.segs k)
  tags : ∀ x, tagOf t x = { tagOf s x with segs := (tagOf t x).segs }
  only : t = { s with
    shf := { s.shf with tiles := t.shf.tiles, segs := t.shf.segs }
    tly := { s.tly with tags := t.tly.tags, recs := t.tly.recs, bounceRec := t.tly.bounceRec } }

theorem applied_nil (s : State) (stream : Nat) : Applied s s stream [] := ⟨fun _ => rfl, fun _ => rfl, fun _ => rfl, rfl⟩

theorem Applied.unused {s t : State} {stream : Nat} {es : List CfgEnt} (h : Applied s t stream es) : Applied s t stream (es ++ [.unused]) where
  tiles n := (h.tiles n).trans (cfgAfter_concat s es .unused n).symm
  segs k := by rw [List.foldl_concat]; exact h.segs k
  tags := h.tags
  only := h.only

theorem Applied.tile {s t : State} {stream : Nat} {es : List CfgEnt} (h : Applied s t stream es) (e : TileEnt) :
    Applied s (cancelTile e.tile (setTile e.tile (entTile t e) t)) stream (es ++ [.tile e]) where
  tiles n := by
    have hregs : t.regs = s.regs := by rw [h.only]
    rw [cfgAfter_concat, tileOf_cancelTile, entTile_congr hregs, cfgStep, ← h.tiles n]
    split
    · next he => rw [← he]; exact tileOf_setTile_self ..
    · next he => exact tileOf_setTile_ne (Ne.symm he) ..
  segs k := by rw [List.foldl_concat]; exact h.segs k
  tags := h.tags
  only := by
    have honly := h.only
    generalize entTile t e = v
    rw [honly]
    rfl

theorem Applied.seg {s t : State} {stream : Nat} {es : List CfgEnt} (h : Applied s t stream es) (place i : Nat) (y : Seg) :
    Applied s (applySeg stream place i y t) stream (es ++ [.seg i y]) where
  tiles n := (h.tiles n).trans (cfgAfter_concat s es (.seg i y) n).symm
  segs k := by
    have hseg : (applySeg stream place i y t).shf.segs = tset Seg.unused t.shf.segs (64 * stream + i) y := rfl
    rw [hseg, List.foldl_concat, ← h.segs k, segStep]
    split
    · next hk => rw [hk, tget_tset_self]
    · next hk => exact tget_tset_ne _ _ hk _
  tags x := by
    rw [tagOf_applySeg, segFor_frame, h.tags x]
  only := by
    have honly := h.only
    rw [honly]
    rfl

theorem applied (stream place : Nat) (s : State) (es : List CfgEnt) : Applied s (es.foldl (applyEnt stream place) s) stream es := by
  induction es using List.reverseRecOn with
  | nil => exact applied_nil s stream
  | append_singleton es c ih =>
    rw [List.foldl_concat]
    cases c with
    | unused => exact ih.unused
    | tile e => exact ih.tile e
    | seg i y => exact ih.seg place i y

end Sys2Proof.Proofs
end

section
/-! SUPPORT. Proofs about TCFG (R100-R104, R110, R112, R113): the writes of zeros that an application asks for. -/

namespace Sys2Proof.Proofs

open Sys2Proof.Machine Sys2Proof.Laws

/-! ### Zeros in the spill window -/

/-- An access of a list writes zero at one byte of the Hayloft for a command (R112). -/
def ZeroAsked (tag : Tag) (as : List HayAcc) (a : Nat) : Prop :=
  ∃ w ∈ as, w.write = true ∧ w.use = .store tag ∧ w.master = 12 ∧ w.addr = 64 * (a / 64) ∧ bit w.be (a % 64) = true ∧ byteAt w.data (a % 64) = 0

theorem ZeroAsked.mono {tag : Tag} {as bs : List HayAcc} {a : Nat} (h : ZeroAsked tag as a) (hsub : ∀ w ∈ as, w ∈ bs) : ZeroAsked tag bs a := by
  obtain ⟨w, hw, hzero⟩ := h
  exact ⟨w, hsub w hw, hzero⟩

theorem zeroAsked_writeAccs (tag : Tag) (a n : Nat) {i : Nat} (hi : i < n) :
    ZeroAsked tag (writeAccs 12 a (List.replicate n 0) (.store tag)) (a + i) := by
  have hspans := spans_haySplit a (List.replicate n (0 : Byte)).length
  obtain ⟨p, hp, hbase, hlo, hhi⟩ := hspans.cover i (by rwa [List.length_replicate])
  refine ⟨_, List.mem_map_of_mem hp, rfl, rfl, rfl, hbase, (bit_beRange (Nat.mod_lt _ (by decide))).2 ⟨hlo, hhi⟩, ?_⟩
  refine (byteAt_span (hspans.each p hp) (by decide) hbase hlo hhi).trans ?_
  rw [List.getD_eq_getElem?_getD, List.getElem?_replicate]
  split <;> rfl

/-- What asking for the zeros of the spill tiles of a list leaves. -/
structure SpillAsked (s t : State) (tag : Tag) (xs : List Tile) : Prop where
  zeros : ∀ x ∈ xs, x.spill = true → ∀ i, i < 1024 * x.stripes → ZeroAsked tag t.hay.waiting (x.hayAddr + i)
  kept : ∀ w ∈ s.hay.waiting, w ∈ t.hay.waiting
  own : ∃ n, tagOf t tag = { tagOf s tag with job := { (tagOf s tag).job with wrOut := n } }
  others : ∀ x, x ≠ tag → tagOf t x = tagOf s x
  none : (∀ x ∈ xs, x.spill = false) → t = s
  only : t = { s with
    hay := { s.hay with waiting := t.hay.waiting, banks := t.hay.banks }, regs := t.regs, tly := { s.tly with tags := t.tly.tags } }

theorem zeroSpill_asked (tag : Tag) (s : State) (x : Tile) : SpillAsked s (zeroSpill tag s x) tag [x] := by
  unfold zeroSpill
  split
  · next hx =>
    rw [askWriteBytes_eq]
    refine ⟨fun y hy _ i hi => ?_, fun w hw => ?_, ?_, fun y hy => ?_, fun h => ?_, ?_⟩
    · obtain rfl := List.mem_singleton.1 hy
      rw [askHays_waiting]
      exact (zeroAsked_writeAccs tag _ _ hi).mono fun w hw => List.mem_append_right _ hw
    · rw [askHays_waiting]
      exact List.mem_append_left _ hw
    · rw [tagOf_askHays]
      exact ⟨_, tagOf_updJob_self ..⟩
    · rw [tagOf_askHays]
      exact tagOf_updJob_ne hy ..
    · exact absurd (h x List.mem_cons_self) (by simp [hx])
    · rw [askHays_frame]
      rfl
  · next hx =>
    refine ⟨fun y hy hs => ?_, fun _ hw => hw, ⟨_, rfl⟩, fun _ _ => rfl, fun _ => rfl, rfl⟩
    obtain rfl := List.mem_singleton.1 hy
    exact absurd hs hx

theorem SpillAsked.cons {s t u : State} {tag : Tag} {x : Tile} {xs : List Tile} (h : SpillAsked s t tag [x]) (g : SpillAsked t u tag xs) :
    SpillAsked s u tag (x :: xs) where
  zeros y hy hs i hi := by
    rcases List.mem_cons.1 hy with rfl | hy
    · exact (h.zeros y List.mem_cons_self hs i hi).mono g.kept
    · exact g.zeros y hy hs i hi
  kept w hw := g.kept w (h.kept w hw)
  own := by
    obtain ⟨m, hm⟩ := h.own
    obtain ⟨n, hn⟩ := g.own
    exact ⟨n, by rw [hn, hm]⟩
  others y hy := (g.others y hy).trans (h.others y hy)
  none hall := (g.none fun y hy => hall y (List.mem_cons_of_mem x hy)).trans (h.none fun y hy => hall y (List.mem_singleton.1 hy ▸ List.mem_cons_self))
  only := by
    have hg := g.only
    rw [h.only] at hg
    exact hg

theorem foldl_zeroSpill (tag : Tag) (xs : List Tile) (s : State) : SpillAsked s (xs.foldl (zeroSpill tag) s) tag xs := by
  induction xs generalizing s with
  | nil => exact ⟨nofun, fun _ hw => hw, ⟨_, rfl⟩, fun _ _ => rfl, fun _ => rfl, rfl⟩
  | cons x xs ih => exact (zeroSpill_asked tag s x).cons (ih _)

/-! ### The application as a whole -/

theorem tcfgTiles_congr {s t : State} (h : t.shf.tiles = s.shf.tiles) (es : List CfgEnt) : tcfgTiles t es = tcfgTiles s es := by
  simp only [tcfgTiles, tileOf, h]

theorem tcfgGroups_congr {s t : State} (h : t.shf.tiles = s.shf.tiles) (es : List CfgEnt) : tcfgGroups t es = tcfgGroups s es := by
  simp only [tcfgGroups, tcfgTiles_congr h]

/-- The state in which an applied TCFG asks for the writes of its spill tiles: its groups woken, its bank writes asked for. -/
def banksAsked (tag : Tag) (es : List CfgEnt) (s : State) : State :=
  askMil ((tcfgTiles s es).flatMap (zeroReqs tag)) (wakeGroups (tcfgGroups s es) (updJob tag (fun j => { j with stage := 1 }) s))

theorem tcfgApply_eq (tag : Tag) (e : TagEntry) (es : List CfgEnt) (s : State) : tcfgApply tag e es s
    = (let a := es.foldl (applyEnt (hdrStream e.hdr) e.place) s
       (tcfgTiles a es).foldl (zeroSpill tag) (banksAsked tag es a)) := by
  have htiles : ∀ a : State, (banksAsked tag es a).shf.tiles = a.shf.tiles := fun a => by
    unfold banksAsked
    rw [wakeGroups_frame]
    rfl
  unfold tcfgApply
  dsimp only
  generalize es.foldl (applyEnt (hdrStream e.hdr) e.place) s = a
  have hb : askMil ((tcfgTiles (updJob tag (fun j => { j with stage := 1 }) a) es).flatMap (zeroReqs tag))
      (wakeGroups (tcfgGroups (updJob tag (fun j => { j with stage := 1 }) a) es) (updJob tag (fun j => { j with stage := 1 }) a))
      = banksAsked tag es a := rfl
  rw [hb, tcfgTiles_congr (htiles a)]

theorem banksAsked_frame (tag : Tag) (es : List CfgEnt) (s : State) : let t := banksAsked tag es s
    t = { s with
      shf := { s.shf with groups := t.shf.groups }, mil := { s.mil with reqs := t.mil.reqs }, tly := { s.tly with tags := t.tly.tags } } := by
  unfold banksAsked
  rw [wakeGroups_frame]
  rfl

theorem tagOf_banksAsked_self (tag : Tag) (es : List CfgEnt) (s : State) :
    tagOf (banksAsked tag es s) tag = { tagOf s tag with job := { (tagOf s tag).job with stage := 1 } } :=
  (tagOf_wakeGroups _ _ tag).trans (tagOf_updJob_self ..)

theorem tagOf_banksAsked_ne {tag x : Tag} (hx : x ≠ tag) (es : List CfgEnt) (s : State) : tagOf (banksAsked tag es s) x = tagOf s x :=
  (tagOf_wakeGroups _ _ x).trans (tagOf_updJob_ne hx ..)

theorem groupOf_banksAsked (tag : Tag) (es : List CfgEnt) (s : State) (g : Nat) : groupOf (banksAsked tag es s) g
    = if g ∈ tcfgGroups s es ∧ (groupOf s g).ready = false then (groupOf s g).wakeUp else groupOf s g :=
  groupOf_wakeGroups _ (updJob tag (fun j => { j with stage := 1 }) s) g

theorem milReqs_banksAsked (tag : Tag) (es : List CfgEnt) (s : State) :
    (banksAsked tag es s).mil.reqs = s.mil.reqs ++ (tcfgTiles s es).flatMap (zeroReqs tag) := by
  unfold banksAsked
  rw [wakeGroups_frame]
  rfl

/-- What an applied TCFG leaves (R100-R104). -/
theorem tcfgApply_parts (tag : Tag) (e : TagEntry) (es : List CfgEnt) (s : State) (hst : (tagOf s tag).st = .started) :
    let t := tcfgApply tag e es s
    (∀ n, tileOf t n = cfgAfter s es n)
    ∧ (∀ k, tget Seg.unused t.shf.segs k = es.foldl (segStep (hdrStream e.hdr) k) (tget Seg.unused s.shf.segs k))
    ∧ (tagOf t tag).st = .started ∧ (tagOf t tag).job.stage = 1
    ∧ (∀ x, x ≠ tag → tagOf t x = { tagOf s x with segs := (tagOf t x).segs })
    ∧ t.mil.reqs = s.mil.reqs ++ (tcfgTiles t es).flatMap (zeroReqs tag)
    ∧ (∀ g, groupOf t g = if g ∈ tcfgGroups t es ∧ (groupOf s g).ready = false then (groupOf s g).wakeUp else groupOf s g)
    ∧ (∀ x ∈ tcfgTiles t es, x.spill = true → ∀ i, i < 1024 * x.stripes → ZeroAsked tag t.hay.waiting (x.hayAddr + i))
    ∧ ((∀ x ∈ tcfgTiles t es, x.spill = false) → t.hay = s.hay ∧ t.regs = s.regs)
    ∧ t = { s with
        shf := { s.shf with tiles := t.shf.tiles, segs := t.shf.segs, groups := t.shf.groups }
        mil := { s.mil with reqs := t.mil.reqs }
        hay := { s.hay with waiting := t.hay.waiting, banks := t.hay.banks }
        regs := t.regs
        tly := { s.tly with tags := t.tly.tags, recs := t.tly.recs, bounceRec := t.tly.bounceRec } } := by
  rw [tcfgApply_eq]
  obtain ⟨htiles, hsegs, htags, honly⟩ := applied (hdrStream e.hdr) e.place s es
  dsimp only
  generalize es.foldl (applyEnt (hdrStream e.hdr) e.place) s = a at *
  have hbframe := banksAsked_frame tag es a
  have hbself := tagOf_banksAsked_self tag es a
  have hbne := fun x (hx : x ≠ tag) => tagOf_banksAsked_ne hx es a
  have hbgroups := groupOf_banksAsked tag es a
  have hbreqs := milReqs_banksAsked tag es a
  generalize banksAsked tag es a = b at *
  obtain ⟨hzeros, -, ⟨n, hown⟩, hothers, hnone, hframe⟩ := foldl_zeroSpill tag (tcfgTiles a es) b
  generalize (tcfgTiles a es).foldl (zeroSpill tag) b = t at *
  have hgroupOf : ∀ g, groupOf a g = groupOf s g := fun g => by rw [groupOf, honly]; rfl
  have hbshf : t.shf = b.shf := by rw [hframe]
  have hbt : b.shf.tiles = a.shf.tiles := by rw [hbframe]
  have htt : t.shf.tiles = a.shf.tiles := by rw [hbshf, hbt]
  have htsegs : t.shf.segs = a.shf.segs := by rw [hbshf, hbframe]
  have hmil : t.mil = b.mil := by rw [hframe]
  have hamil : a.mil = s.mil := by rw [honly]
  refine ⟨fun n => ?_, fun k => ?_, ?_, ?_, fun x hx => ?_, ?_, fun g => ?_, fun x hx => ?_, fun hall => ?_, ?_⟩
  · rw [← htiles n, tileOf, htt, tileOf]
  · rw [htsegs]
    exact hsegs k
  · rw [hown, hbself, htags tag]
    exact hst
  · rw [hown, hbself]
  · rw [hothers x hx, hbne x hx]
    exact htags x
  · rw [hmil, hbreqs, hamil, tcfgTiles_congr htt]
  · have hgroup : groupOf t g = groupOf b g := by rw [groupOf, hbshf, groupOf]
    rw [hgroup, hbgroups g, tcfgGroups_congr htt, hgroupOf]
  · rw [tcfgTiles_congr htt] at hx
    exact hzeros x hx
  · rw [tcfgTiles_congr htt] at hall
    rw [hnone hall, hbframe, honly]
    exact ⟨rfl, rfl⟩
  · rw [hframe, hbframe, honly]

end Sys2Proof.Proofs
end

section
/-! SUPPORT. Proofs about TCFG (R100-R104): its stripes are zeroed, and it completes or replies. -/

namespace Sys2Proof.Proofs

open Sys2Proof.Machine Sys2Proof.Laws

/-! ### Zeros in the Sheaf -/

/-- From `s` to `t` only zeros have been stored in the Sheaf, where a copy runs for it as well. -/
structure Zeroing (s t : State) : Prop where
  zero : ∀ a, Memory.read s.shf.mem a = 0 → Memory.read t.shf.mem a = 0
  map : t.tnk.map = s.tnk.map
  only : t = { s with shf := { s.shf with mem := t.shf.mem, chk := t.shf.chk }, tnk := { s.tnk with copying := t.tnk.copying } }

theorem Zeroing.refl (s : State) : Zeroing s s := ⟨fun _ h => h, rfl, rfl⟩

theorem Zeroing.trans {s t u : State} (h : Zeroing s t) (g : Zeroing t u) : Zeroing s u where
  zero a ha := g.zero a (h.zero a ha)
  map := g.map.trans h.map
  only := by
    have hg := g.only
    rw [h.only] at hg
    exact hg

theorem read_write64_of_zero {m : Memory} {a c : Nat} (h : m.read c = 0 ∨ a ≤ c ∧ c < a + 8) : (m.write64 a 0).read c = 0 := by
  rw [read_write64]
  split
  · simp [byteAt]
  · next hout => exact h.resolve_right hout

theorem zeroing_shfPut1 (b e w : Nat) (s : State) : Zeroing s (shfPut1 b e w 0 0 s) :=
  ⟨fun _ ha => read_write64_of_zero (.inl ha), rfl, rfl⟩

theorem zeroing_shfPut (b e w : Nat) (s : State) : Zeroing s (shfPut b e w 0 0 s) := by
  have h := zeroing_shfPut1 b e w s
  rcases shfPut_cases b e w 0 0 s with heq | ⟨r, -, heq | heq⟩ <;> rw [heq]
  · exact h
  · exact ⟨h.zero, rfl, rfl⟩
  · exact h.trans (zeroing_shfPut1 ..)

/-- A word stored zero reads zero, byte by byte. -/
theorem read_shfPut_zero (b e w : Nat) (s : State) {i : Nat} (hi : 8 * w ≤ i) (hi' : i < 8 * w + 8) :
    Memory.read (shfPut b e w 0 0 s).shf.mem (shfAddr b e i) = 0 := by
  have h : Memory.read (shfPut1 b e w 0 0 s).shf.mem (shfAddr b e i) = 0 :=
    read_write64_of_zero (.inr (by simp only [shfAddr]; omega))
  rcases shfPut_cases b e w 0 0 s with heq | ⟨r, -, heq | heq⟩ <;> rw [heq]
  · exact h
  · exact h
  · exact (zeroing_shfPut1 ..).zero _ h

section
variable {β : Type} {f : State → β → State}

theorem zeroing_foldl (hf : ∀ s x, Zeroing s (f s x)) (l : List β) (s : State) : Zeroing s (l.foldl f s) := by
  induction l generalizing s with
  | nil => exact Zeroing.refl s
  | cons x l ih => exact (hf s x).trans (ih _)

/-- A byte that one step of a walk of zeros makes zero stays zero. -/
theorem zero_of_mem_foldl (hf : ∀ s x, Zeroing s (f s x)) {l : List β} {x : β} (hx : x ∈ l) {s : State} {a : Nat}
    (hzero : ∀ u, Zeroing s u → Memory.read (f u x).shf.mem a = 0) : Memory.read (l.foldl f s).shf.mem a = 0 := by
  obtain ⟨l₁, l₂, rfl⟩ := List.append_of_mem hx
  rw [List.foldl_append, List.foldl_cons]
  exact (zeroing_foldl hf l₂ _).zero a (hzero _ (zeroing_foldl hf l₁ s))

end

/-- Zero every word of an entry of the bank that serves position `l`. -/
def zeroEntry (l entry : Nat) (s : State) : State := (List.range 16).foldl (fun s w => shfPut (physOf s 0 l) entry w 0 0 s) s

theorem zeroing_zeroEntry (l entry : Nat) (s : State) : Zeroing s (zeroEntry l entry s) :=
  zeroing_foldl (fun s w => zeroing_shfPut (physOf s 0 l) entry w s) _ s

theorem read_zeroEntry (l entry : Nat) (s : State) {i : Nat} (hi : i < 128) :
    Memory.read (zeroEntry l entry s).shf.mem (shfAddr (physOf s 0 l) entry i) = 0 := by
  refine zero_of_mem_foldl (fun s w => zeroing_shfPut (physOf s 0 l) entry w s) (x := i / 8) (List.mem_range.2 (by omega)) fun u hu => ?_
  rw [← physOf_bank_congr hu.map]
  exact read_shfPut_zero _ entry (i / 8) u (by omega) (by omega)

theorem zeroStripe_eq (g entry : Nat) (s : State) :
    zeroStripe g entry s = (List.range 8).foldl (fun s j => zeroEntry (8 * g + j) entry s) s := rfl

theorem zeroing_zeroStripe (g entry : Nat) (s : State) : Zeroing s (zeroStripe g entry s) := by
  rw [zeroStripe_eq]
  exact zeroing_foldl (fun s j => zeroing_zeroEntry (8 * g + j) entry s) _ s

theorem read_zeroStripe (g entry : Nat) (s : State) {j i : Nat} (hj : j < 8) (hi : i < 128) :
    Memory.read (zeroStripe g entry s).shf.mem (shfAddr (physOf s 0 (8 * g + j)) entry i) = 0 := by
  rw [zeroStripe_eq]
  refine zero_of_mem_foldl (fun s j => zeroing_zeroEntry (8 * g + j) entry s) (List.mem_range.2 hj) fun u hu => ?_
  rw [← physOf_bank_congr hu.map]
  exact read_zeroEntry _ entry u hi

theorem zeroing_zeroTile (s : State) (x : Tile) : Zeroing s (zeroTile s x) := by
  unfold zeroTile
  split
  · exact Zeroing.refl s
  · exact zeroing_foldl (fun s i => zeroing_zeroStripe x.group (x.base + i) s) _ s

theorem read_zeroTile {x : Tile} (hx : x.spill = false) (s : State) {k j i : Nat} (hk : k < x.stripes) (hj : j < 8) (hi : i < 128) :
    Memory.read (zeroTile s x).shf.mem (shfAddr (physOf s 0 (8 * x.group + j)) (x.base + k) i) = 0 := by
  unfold zeroTile
  rw [if_neg (by simp [hx])]
  refine zero_of_mem_foldl (fun s i => zeroing_zeroStripe x.group (x.base + i) s) (List.mem_range.2 hk) fun u hu => ?_
  rw [← physOf_bank_congr hu.map]
  exact read_zeroStripe x.group _ u hj hi

/-- Every stripe of every Sheaf tile of a list is zeroed (R102). -/
theorem foldl_zeroTile (xs : List Tile) (s : State) : Zeroing s (xs.foldl zeroTile s)
    ∧ ∀ x ∈ xs, x.spill = false → ∀ k j i, k < x.stripes → j < 8 → i < 128 →
        Memory.read (xs.foldl zeroTile s).shf.mem (shfAddr (physOf s 0 (8 * x.group + j)) (x.base + k) i) = 0 := by
  refine ⟨zeroing_foldl zeroing_zeroTile xs s, fun x hx hs k j i hk hj hi => ?_⟩
  refine zero_of_mem_foldl zeroing_zeroTile hx fun u hu => ?_
  rw [← physOf_bank_congr hu.map]
  exact read_zeroTile hs u hk hj hi

/-! ### The command -/

section
variable {s : State} {tag : Tag} {e : TagEntry} {es : List CfgEnt}

theorem exec_tcfg_apply (h : started s tag .tcfg = some e) (hc : e.cmd = some (.tcfg es)) (h0 : e.job.stage = 0) (hf : tcfgFail s es = none) :
    exec (.tcfg tag) s = .next (tcfgApply tag e es s) := by
  change execTcfg tag s = _
  rw [execTcfg, h]
  dsimp only
  rw [hc]
  dsimp only
  rw [if_pos h0, hf]

theorem exec_tcfg_fail (h : started s tag .tcfg = some e) (hc : e.cmd = some (.tcfg es)) (h0 : e.job.stage = 0) {i r : Nat}
    (hf : tcfgFail s es = some (i, r)) :
    exec (.tcfg tag) s = .next (finish tag (outc (if r = 9 then .capacity else .cfgInconsistent) (256 * r + i) 0) s) := by
  change execTcfg tag s = _
  rw [execTcfg, h]
  dsimp only
  rw [hc]
  dsimp only
  rw [if_pos h0, hf]

theorem exec_tcfg_end (h : started s tag .tcfg = some e) (hc : e.cmd = some (.tcfg es)) (h0 : e.job.stage ≠ 0) :
    exec (.tcfg tag) s = .next (tcfgEnd tag e es s) := by
  change execTcfg tag s = _
  rw [execTcfg, h]
  dsimp only
  rw [hc]
  dsimp only
  rw [if_neg h0]

theorem tcfgEnd_done (hm : milBusy s tag = false) (hw : e.job.wrOut = 0) (hg : ∀ g ∈ tcfgGroups s es, (groupOf s g).ready = true) :
    tcfgEnd tag e es s = finish tag (outc .ok 0 (es.countP fun x => decide (x ≠ .unused))) ((tcfgTiles s es).foldl zeroTile s) := by
  unfold tcfgEnd
  rw [hm, hw, if_neg (by decide), if_pos (List.all_eq_true.2 hg), List.countP_eq_length_filter]

end

/-- Settles O11, by the stage of the command and whether an entry fails. -/
theorem tcfgAppliesWhole : Obligations.TcfgAppliesWhole := by
  intro s tag e es h hc
  obtain ⟨htag, hst⟩ := started_tagOf h
  refine ⟨fun h0 hf => ⟨_, exec_tcfg_apply h hc h0 hf, ?_⟩, fun h0 hm hw hg => ?_,
    fun i r h0 hf => ⟨_, exec_tcfg_fail h hc h0 hf, finish_completed ..⟩⟩
  · exact tcfgApply_parts tag e es s (by rw [htag]; exact hst)
  · obtain ⟨hzeroing, hzero⟩ := foldl_zeroTile (tcfgTiles s es) s
    exact ⟨_, _, (exec_tcfg_end h hc h0).trans (congrArg _ (tcfgEnd_done hm hw hg)), finish_completed .., hzero, hzeroing.only⟩

end Sys2Proof.Proofs
end
